-- ==== Sys2Proof/Word.lean ====
section
/-! DEFINITION. The words of the part: bytes, byte strings, and little-endian numbers (R14). -/

namespace Sys2Proof

/-- One byte. -/
abbrev Byte := BitVec 8

/-- A byte string, byte 0 first (R14: byte 0 lies at the lowest address or is sent first). -/
abbrev Bytes := List Byte

end Sys2Proof
end

