-- ==== Sys2Proof/Syntax.lean ====
section
/-! DEFINITION. The commands of the block: one constructor of `Instr` for each row of spec/opcode_table.json,
with the operands that the row's event carries. The table gives no bits to its rows, so a command is this data
itself. Index operands are `Fin`, so an event of an object that does not exist cannot be written. -/

namespace Sys2Proof

/-- The three register masters, in the order of R525. -/
inductive Master where
  | inband | mgmt | awl
deriving DecidableEq, Repr

/-- Where the PCIe type of a packet puts it (R79). -/
inductive PktKind where
  | posted | nonPosted | completion
deriving DecidableEq, Repr

/-- The transactions the chapters tell apart. -/
inductive PktOp where
  | memRead | memWrite | atomic | cfg | io | msg | cpl | notice
deriving DecidableEq, Repr

/-- How a completion ends (base specification statuses named in the rules, and the timeout of R198). -/
inductive CplStatus where
  | ok | ur | ca | poison | timeout
deriving DecidableEq, Repr

/-- Lanes of a port whose transmitter reached its current limit in receiver detection, and those whose receive pair is shorted, by bit; bit 16
is the spare (Table 8-4). -/
structure Shorts where
  tx : BitVec 17
  rx : BitVec 17
deriving DecidableEq, Repr

/-- What a PCIe port's training found on its receive lanes: those with inverted polarity, by bit, and those whose pair is open, or shorted
(true) (R225, R226). -/
structure RxLanes where
  inv : BitVec 17
  bad : List (Fin 17 × Bool)
deriving DecidableEq, Repr

/-- A PCIe port and the lanes whose receive pair its training found open, or shorted (true) (R225). -/
structure RxFail where
  port : Fin 64
  bad : List (Fin 17 × Bool)
deriving DecidableEq, Repr

/-- What a lane's receiver has found in EQ: whether it is adapted, and the transmit preset that it asks the partner for (R279). -/
structure EqReport where
  adapted : Bool
  preset : BitVec 3
deriving DecidableEq, Repr

/-- What a vendor-defined message carries: vendor ID, the double word that the vendor defines, traffic class, requester and data (R255). -/
structure VdmBody where
  vendor : BitVec 16
  word : BitVec 32
  tc : Fin 8
  rid : BitVec 16
  data : Bytes
deriving DecidableEq, Repr

/-- The fabric header of Table 12-1. -/
structure FabHdr where
  dstDev : BitVec 6
  dstPort : BitVec 6
  part : BitVec 4
  tc : BitVec 3
  hash : BitVec 8
  gseq : BitVec 14
  srcDev : BitVec 6
  ttl : BitVec 4
  gseqV : Bool
  placed : Bool
  notice : Bool
deriving DecidableEq, Repr

/-- A fabric notice, Table 12-3. -/
structure Notice where
  kind : BitVec 8
  origin : BitVec 6
  nseq : BitVec 16
  source : BitVec 12
  part : BitVec 4
  sev : BitVec 3
  time : BitVec 64
deriving DecidableEq, Repr

/-- What the header of a message carries beside its address field: the routing of the base specification (0 to the root, 1 by address,
2 by ID, 3 from the root, 4 local, 5 gathered), its code (0x7E and 0x7F Vendor_Defined Types 0 and 1, 0x10 LTR, 0x52 and 0x53 PTM request
and response), and of a vendor-defined message the vendor ID and the vendor's own word. The address field holds the address, the target
ID, or the time of a PTM response. -/
structure MsgHdr where
  routing : BitVec 3
  code : BitVec 8
  vendor : BitVec 16 := 0
  word : BitVec 32 := 0
deriving DecidableEq, Repr

/-- A packet as the ingress pipeline sees it: the transaction, its address, requester, attributes and data.
`fbe`/`lbe` are the first and last DW byte enables; `fab` is the fabric header of a packet from a T-link, `msg` the message header. -/
structure Packet where
  kind : PktKind
  op : PktOp
  addr : BitVec 64
  len : Nat
  data : Bytes
  fbe : BitVec 4
  lbe : BitVec 4
  tc : Fin 8
  rid : BitVec 16
  tag : BitVec 14
  pasid : Option (BitVec 20)
  status : CplStatus
  lastPiece : Bool
  ro : Bool
  ido : Bool
  ns : Bool
  tph : Option (BitVec 2 × BitVec 16)
  selIde : Bool
  translated : Bool
  fab : Option FabHdr
  notice : Option Notice
  msg : Option MsgHdr := none
deriving DecidableEq, Repr

/-- The tick record of Table 3-3. -/
structure TickRec where
  tickNum : BitVec 48
  src : BitVec 4
  hops : BitVec 3
  early : Bool
  masterId : BitVec 6
  latePrior : Bool
  resync : Bool
  masterTime : BitVec 64
  pathDelay : BitVec 32
  position : BitVec 32
  interval : BitVec 32
deriving DecidableEq, Repr

/-- A queue pair, named by its slice and its local number (R175). -/
structure QPRef where
  pt : Fin 16
  sl : Fin 1024
  q : Fin 256
deriving DecidableEq, Repr

/-- What a readback from overflow memory finds (R410, R411). -/
inductive Readback where
  | clean | corrected | uncorrectable (linkLost : Bool)
deriving DecidableEq, Repr

/-- How long a reset pin was low when it rises (R460). -/
inductive PulseLen where
  | qualified | between | short
deriving DecidableEq, Repr

/-- What the strap converter reads (R220). -/
inductive StrapRes where
  | code (c : Fin 16) | opened | shorted
deriving DecidableEq, Repr

/-- A bridge in whose Bridge Control Secondary Bus Reset is written (R243, R359). -/
inductive BridgeRef where
  | upstream (pt : Fin 16) | downstream (p : Fin 64) | shared (pt : Fin 16) (p : Fin 64)
deriving DecidableEq, Repr

/-- A timed reset whose pulse ends (Table 18-1). -/
inductive ResetRef where
  | cold | warm | part (pt : Fin 16) | port (p : Fin 64)
deriving DecidableEq, Repr

/-- The function whose MSI-X state an event touches: the manager function or a partition's Clicking function. -/
inductive FnRef where
  | manager | clicking (pt : Fin 16)
deriving DecidableEq, Repr

/-- The four self-tests of Table 20-1. -/
inductive Bist where
  | lbist | mbist | ovf | serdes
deriving DecidableEq, Repr

/-- What a self-test found: the failing domains of LBIST, repairs and unrepairable arrays of MBIST, retired cells
of each overflow group, and failing lanes (Table 20-5). -/
structure BistFound where
  domains : BitVec 3
  repairs : BitVec 16
  unrepairable : BitVec 16
  retired : List Nat
  lanes : List (Fin 192)
deriving DecidableEq, Repr

/-- SPDM requests that the chapter tells apart (R512 to R515). -/
inductive SpdmReq where
  | getVersion | getCapabilities | negotiate | getDigests | getCertificate | challenge
  | getMeasurements (index : Fin 256) | keyExchange | endSession | other
deriving DecidableEq, Repr

/-- The carrier of an SPDM request: a DOE mailbox or the MCTP endpoint (R512). -/
inductive SpdmVia where
  | doeUpstream (pt : Fin 16) | doeDownstream (p : Fin 64) | doeClicking (pt : Fin 16) | mctp
deriving DecidableEq, Repr

/-- The JTAG instructions of R516; `awl` carries one register write, which its access instruction makes. -/
inductive JtagIr where
  | idcode | bypass | samplePreload | extest | ieee1149_6 | scan
  | awl (off : BitVec 28) (v : BitVec 32) | other
deriving DecidableEq, Repr

/-- How a vendor-defined message is routed (R255). -/
inductive VdmRoute where
  | localRx | byId (rid : BitVec 16) | byAddr (a : BitVec 64)
deriving DecidableEq, Repr

/-- What an IDE_KM message does to the keys of one direction (R252): the first set programmed, a refresh programmed beside it, the refreshed
set takes over, or the keys stop. -/
inductive IdeKm where
  | first | refresh | takeOver | stop
deriving DecidableEq, Repr

/-- The owner of an IDE link or stream whose keys are programmed (R252). -/
inductive IdeOwner where
  | upstream (pt : Fin 16) | downstream (p : Fin 64) | clicking (pt : Fin 16) (stream : Fin 8)
deriving DecidableEq, Repr

/-- One write of one master: a byte offset in manager BAR0, and the bytes with their enables (R520). -/
structure RegWr where
  m : Master
  off : BitVec 28
  data : List (Byte × Bool)
deriving DecidableEq, Repr

/-- The commands. Each constructor is one row of spec/opcode_table.json, in the table's order; its docstring names
the operands that the row's summary leaves open. -/
inductive Instr where
  /-- MODE_REQUEST_GO (R35): master `m` writes TARGET and GO. -/
  | modeRequestGo (m : Master) (target : BitVec 4)
  /-- MODE_TRANSITION_DONE (R44). -/
  | modeTransitionDone
  /-- MODE_TRANSITION_TIMEOUT (R49). -/
  | modeTransitionTimeout
  /-- FEED_WARNING (R22). -/
  | feedWarning
  /-- FEED_RECOVERED (R38). -/
  | feedRecovered
  /-- TEST_EN_LOW_IN_FACTORY (R36). -/
  | testEnLowInFactory
  /-- TEST_EN_HIGH_OUTSIDE_FACTORY (R511). -/
  | testEnHighOutsideFactory
  /-- ENCODER_COUNT (R55): encoder `n`, the filtered levels of A and B after the edge. -/
  | encoderCount (n : Fin 4) (a b : Bool)
  /-- ENCODER_PAIR_CLASS_CHANGE (R54): pair 0 A, 1 B, 2 Z; class 0 OK, 1 OPEN, 2 SHORT, 3 CM_OUT. -/
  | encoderPairClassChange (n : Fin 4) (pair : Fin 3) (cls : Fin 4)
  /-- ENC_LOCK_CHANGE (R50): the lock condition has held for 1 ms (`held`), or is looked at because it fails. -/
  | encLockChange (n : Fin 4) (held : Bool)
  /-- Z_EDGE (R57). -/
  | zEdge (n : Fin 4)
  /-- ENC_POS_WRITE (R58). -/
  | encPosWrite (m : Master) (n : Fin 4) (v : BitVec 32)
  /-- LACE_TIN_EDGE (R50). -/
  | laceTinEdge
  /-- TIMER_SOURCE_EXPIRY (R50). -/
  | timerSourceExpiry
  /-- TICK_START (R60). -/
  | tickStart
  /-- TICK_LATE (R61). -/
  | tickLate
  /-- TIME_OFFSET_WRITE (R59). -/
  | timeOffsetWrite (m : Master) (v : BitVec 64)
  /-- TICK_PRESET_WRITE (R60). -/
  | tickPresetWrite (m : Master) (v : BitVec 48)
  /-- TICK_SOURCE_WRITE (R51): the value written to LCE_CTL. -/
  | tickSourceWrite (m : Master) (v : BitVec 32)
  /-- TICK_RECORD_RECEIVE (R65). -/
  | tickRecordReceive (p : Fin 64) (r : TickRec)
  /-- ALIGNMENT_LOST (R69): 0 no refresh for 3 ms, 1 error above 10 ns, 2 no port delivers records. -/
  | alignmentLost (cause : Fin 3)
  /-- TRIGGER_FIRE (R72). -/
  | triggerFire (m : Fin 16)
  /-- TRIGGER_FIRE_WRITE (R72). -/
  | triggerFireWrite (by' : Master) (m : Fin 16)
  /-- TRIGGER_PULSE_END (R72). -/
  | triggerPulseEnd (m : Fin 16)
  /-- PACKET_INGRESS (R25): the packet as it arrives whole on port `p`. -/
  | packetIngress (p : Fin 64) (pk : Packet)
  /-- POLICER_RELEASE (R128): the oldest packet held at port `p` of type `k`. -/
  | policerRelease (p : Fin 64) (k : PktKind)
  /-- SPILL_WRITE_DONE (R101): of the VOQ (input, output, class). -/
  | spillWriteDone (i o : Fin 72) (c : Fin 8)
  /-- READBACK_COMPLETE (R103). -/
  | readbackComplete (i o : Fin 72) (c : Fin 8) (r : Readback)
  /-- PACKET_MATCH (R86): the matching of one cell slot. -/
  | packetMatch
  /-- EGRESS_TRANSMIT (R85): output `p`, with the link partner's credit for each PCIe type. -/
  | egressTransmit (p : Fin 64) (crP crNP crC : Bool)
  /-- CT_CHECK_FAIL (R95): of the cut-through in progress at output `o`. -/
  | ctCheckFail (o : Fin 64)
  /-- CT_UNDERRUN (R98). -/
  | ctUnderrun (o : Fin 64)
  /-- CT_HOLD_MAX_EXPIRY (R99). -/
  | ctHoldMaxExpiry (o : Fin 64)
  /-- DATA_END_BAD_RECEIVE (R96): on T-link port `p`; `o` is the output if the packet has been started there. -/
  | dataEndBadReceive (p : Fin 64) (pk : Packet) (o : Option (Fin 64))
  /-- RETURN_WINDOW_EXPIRY (R106). -/
  | returnWindowExpiry (p : Fin 64)
  /-- INPUT_HELD_TIMEOUT (R100). -/
  | inputHeldTimeout (a : Fin 72)
  /-- VOQ_SELECT_WRITE (R112). -/
  | voqSelectWrite (m : Master) (v : BitVec 32)
  /-- GATE_BOUNDARY (R116). -/
  | gateBoundary (p : Fin 64)
  /-- GATE_COMMIT_GO (R123). -/
  | gateCommitGo (m : Master)
  /-- GATE_COMMIT_DONE (R124). -/
  | gateCommitDone
  /-- GATE_COMMIT_CANCEL (R125). -/
  | gateCommitCancel (m : Master)
  /-- TICK_MIN_WRITE (R126). -/
  | tickMinWrite (m : Master) (v : BitVec 32)
  /-- SHAPER_RATE_WRITE (R127): `pol` selects the policer of the ingress port instead of the shaper. -/
  | shaperRateWrite (m : Master) (pol : Bool) (p : Fin 64) (c : Fin 8) (v : BitVec 20)
  /-- SHAPER_BURST_WRITE (R127). -/
  | shaperBurstWrite (m : Master) (pol : Bool) (p : Fin 64) (c : Fin 8) (v : BitVec 24)
  /-- WINDOW_ENABLE (R137). -/
  | windowEnable (m : Master) (w : Fin 256)
  /-- WINDOW_DISABLE (R140). -/
  | windowDisable (m : Master) (w : Fin 256)
  /-- MEMBER_APPLY (R143). -/
  | memberApply (m : Master)
  /-- MEMBER_LOAD (R143). -/
  | memberLoad (m : Master)
  /-- PU_DECISION_DONE (R144): of PU table entry `u`. -/
  | puDecisionDone (u : Fin 65536)
  /-- MISS_HOLD_EXPIRY (R150). -/
  | missHoldExpiry (u : Fin 65536)
  /-- SEAL_WRITE (R158): a posted write at byte offset `off` of window `w`'s seal page. -/
  | sealWrite (p : Fin 64) (w : Fin 256) (off : BitVec 12) (data : Bytes)
  /-- GRACE_EXPIRY (R156). -/
  | graceExpiry (u : Fin 65536)
  /-- FLUSH_READ_ISSUE (R26). -/
  | flushReadIssue (u : Fin 65536)
  /-- FLUSH_COMPLETE (R28). -/
  | flushComplete (u : Fin 65536) (st : CplStatus)
  /-- RECORD_POST (R163): the oldest record waiting for global queue pair `g`. -/
  | recordPost (g : Fin 16384)
  /-- REMOTE_PATH_TIMEOUT (R165). -/
  | remotePathTimeout (pool : Fin 1024) (mb : Fin 64)
  /-- BUFFER_RING_READ_DONE (R141). -/
  | bufferRingReadDone (pool : Fin 1024) (mb : Fin 64) (st : CplStatus) (entries : List (BitVec 64))
  /-- DOORBELL (R180): a memory write at offset `off` of the doorbell page of slice (pt, sl). -/
  | doorbell (pt : Fin 16) (sl : Fin 1024) (off : BitVec 12) (data : List (Byte × Bool))
  /-- FETCH_COMPLETE (R190). -/
  | fetchComplete (q : QPRef) (st : CplStatus) (descs : List Bytes)
  /-- JOB_START (R187). -/
  | jobStart (q : QPRef)
  /-- NOP (R186). -/
  | nop (q : QPRef)
  /-- COPY (R186). -/
  | copy (q : QPRef)
  /-- PLACE_COPY (R170). -/
  | placeCopy (q : QPRef)
  /-- FILL (R186). -/
  | fill (q : QPRef)
  /-- SEAL (R186). -/
  | seal (q : QPRef)
  /-- WAIT_TICK (R186). -/
  | waitTick (q : QPRef)
  /-- WAIT_TICK_TIMEOUT (R186). -/
  | waitTickTimeout (q : QPRef)
  /-- FENCE (R186). -/
  | fence (q : QPRef)
  /-- RECORD_ONLY (R186). -/
  | recordOnly (q : QPRef)
  /-- RESIZE (R364). -/
  | resize (q : QPRef)
  /-- RESIZE_TIMEOUT (R365). -/
  | resizeTimeout (q : QPRef)
  /-- DMA_READ_COMPLETION (R193): to the Clicking function of `pt`, with `tag`. -/
  | dmaReadCompletion (pt : Fin 16) (tag : BitVec 14) (st : CplStatus) (data : Bytes)
  /-- COMPLETION_TIMEOUT (R198). -/
  | completionTimeout (pt : Fin 16) (tag : BitVec 14)
  /-- TAG_QUARANTINE_EXPIRY (R200). -/
  | tagQuarantineExpiry (pt : Fin 16) (tag : BitVec 14)
  /-- COMPLETION_ENTRY_WRITE (R204). -/
  | completionEntryWrite (q : QPRef)
  /-- MSIX_MOD_TIMER (R209). -/
  | msixModTimer (q : QPRef)
  /-- MSIX_UNMASK (R210): the vector's Mask bit clears, or with `fnMask` the Function Mask. -/
  | msixUnmask (f : FnRef) (vec : Fin 2048) (fnMask : Bool)
  /-- QP_ENABLE (R211). -/
  | qpEnable (q : QPRef)
  /-- QP_DISABLE (R211). -/
  | qpDisable (q : QPRef)
  /-- QP_RESUME (R205). -/
  | qpResume (q : QPRef)
  /-- QP_STOPPED (R211). -/
  | qpStopped (q : QPRef)
  /-- PORT_ENABLE (R218). -/
  | portEnable (m : Master) (p : Fin 64)
  /-- PORT_DISABLE (R219). -/
  | portDisable (m : Master) (p : Fin 64)
  /-- PORT_RETRAIN (R232). -/
  | portRetrain (m : Master) (p : Fin 64)
  /-- PORT_STOPPED (R219). -/
  | portStopped (p : Fin 64)
  /-- DETECT_DONE (R224): bit l of `found` is a receiver on data lane l, bit 16 on the spare; `shorted` names the
  lanes that are shorted (Table 8-4). -/
  | detectDone (p : Fin 64) (found : BitVec 17) (shorted : Shorts)
  /-- DETECT_RETRY (R224). -/
  | detectRetry (p : Fin 64)
  /-- LINK_UP (R233): the width code that both ends offer, Flit Mode negotiated, lane order reversed, and what the training found on
  the receive lanes (R225). -/
  | linkUp (p : Fin 64) (width : Fin 5) (flit reversed : Bool) (rx : RxLanes)
  /-- STEP_UP_START (R229): with the highest rate the partner advertises. -/
  | stepUpStart (p : Fin 64) (partnerMax : BitVec 3)
  /-- STEP_DONE (R230): the rate code at which the port settled and the width code it then has. -/
  | stepDone (p : Fin 64) (rate : BitVec 3) (width : Fin 5)
  /-- PORT_LINK_DOWN (R233): `receivers` says whether receivers are still detected. -/
  | portLinkDown (p : Fin 64) (receivers : Bool)
  /-- REFCLK_LOST (R223): `tl` selects TLINK_REFCLKq. -/
  | refclkLost (q : Fin 4) (tl : Bool)
  /-- REFCLK_GOOD (R223). -/
  | refclkGood (q : Fin 4) (tl : Bool)
  /-- STRAP_READ (R220): the resistance from CFG_STRAP to ground. -/
  | strapRead (ohms : Nat)
  /-- CONFIG_REQUEST (R240): a configuration request on upstream port `p`; `w` is the data of a write. -/
  | configRequest (p : Fin 64) (type1 : Bool) (bus : BitVec 8) (dev : BitVec 5) (fn : BitVec 3) (reg : BitVec 10)
      (w : Option (BitVec 32)) (rid : BitVec 16) (tag : BitVec 14)
  /-- DPC_TRIGGER (R245). -/
  | dpcTrigger (p : Fin 64)
  /-- DPC_STATUS_CLEAR (R245). -/
  | dpcStatusClear (p : Fin 64)
  /-- SLOT_POWER_CONTROL_WRITE (R249): by the host's configuration write or a master's PWD_SLOT_CTL write. -/
  | slotPowerControlWrite (host : Bool) (n : Fin 16) (on : Bool)
  /-- SLOT_PG_RISE (R250). -/
  | slotPgRise (n : Fin 16)
  /-- SLOT_PG_FALL (R250). -/
  | slotPgFall (n : Fin 16)
  /-- SECONDARY_BUS_RESET (R243): the value written to the bit. -/
  | secondaryBusReset (b : BridgeRef) (on : Bool)
  /-- HOT_RESET_RECEIVED (R243). -/
  | hotResetReceived (p : Fin 64)
  /-- PERST_ASSERT (R460). -/
  | perstAssert (pt : Fin 16)
  /-- PERST_RELEASE (R460): how long the pin was low. -/
  | perstRelease (pt : Fin 16) (w : PulseLen)
  /-- PART_RESET_RELEASE (R351). -/
  | partResetRelease (pt : Fin 16)
  /-- PTM_REQUEST_TIMER (R254). -/
  | ptmRequestTimer (p : Fin 64)
  /-- PTM_EXCHANGE (R254): the host's PTM master time, ns. -/
  | ptmExchange (p : Fin 64) (host : BitVec 64)
  /-- VDM_RECEIVE (R255). -/
  | vdmReceive (p : Fin 64) (type0 : Bool) (m : VdmBody) (route : VdmRoute)
  /-- IDE_KEY_PROG (R252): an IDE_KM message about the key sets of direction `tx` of the owner's stream. -/
  | ideKeyProg (o : IdeOwner) (tx : Bool) (km : IdeKm)
  /-- FLR (R462). -/
  | flr (pt : Fin 16)
  /-- DATA_STITCH_RECEIVE (R286): the levels of one stitch slot on each lane of the port, by lane number, stuff symbols among them (R259,
  R264); `after`: of the levels that follow on each lane, as many as show how long the run is in which the slot ends (R265); `overflow`:
  the retiming buffer has no room (R275). -/
  | dataStitchReceive (p : Fin 64) (levels after : List (List (Fin 4))) (overflow : Bool)
  /-- FILLER_RECEIVE (R275): whether the retiming buffer stands above half full, or would overflow. -/
  | fillerReceive (p : Fin 64) (aboveHalf overflow : Bool)
  /-- FILLER_DUE (R274). -/
  | fillerDue (p : Fin 64)
  /-- TRAINING_STITCH_RECEIVE (R278): the levels of one training stitch on lane `l` of the port, as they come in (R259, R264, R269),
  and in EQ what the lane's receiver has found. -/
  | trainingStitchReceive (p : Fin 64) (l : Fin 5) (levels : List (Fin 4)) (eq : EqReport)
  /-- TRAINING_LOCK_TIMEOUT (R277). -/
  | trainingLockTimeout (p : Fin 64)
  /-- TRAINING_CONFIG_TIMEOUT (R277). -/
  | trainingConfigTimeout (p : Fin 64)
  /-- RATE_REQ_RECEIVE (R279). -/
  | rateReqReceive (p : Fin 64) (code : BitVec 4)
  /-- RATE_ACK_RECEIVE (R279). -/
  | rateAckReceive (p : Fin 64) (code : BitVec 4)
  /-- RATE_PAUSE_END (R279). -/
  | ratePauseEnd (p : Fin 64)
  /-- EQ_TIMEOUT (R279). -/
  | eqTimeout (p : Fin 64)
  /-- SOAK_PASS (R279). -/
  | soakPass (p : Fin 64)
  /-- LANE_LOCK_LOSS (R281): logical lane `l`. -/
  | laneLockLoss (p : Fin 64) (l : Fin 5)
  /-- LANE_LOCK_REGAIN (R281). -/
  | laneLockRegain (p : Fin 64) (l : Fin 5)
  /-- ACK_TIMER (R287). -/
  | ackTimer (p : Fin 64)
  /-- ACK_RECEIVE (R288). -/
  | ackReceive (p : Fin 64) (seq : BitVec 16)
  /-- NAK_RECEIVE (R288). -/
  | nakReceive (p : Fin 64) (seq : BitVec 16) (reason : BitVec 2)
  /-- NAK_TIMER_EXPIRY (R286). -/
  | nakTimerExpiry (p : Fin 64)
  /-- REPLAY_TIMER_EXPIRY (R289). -/
  | replayTimerExpiry (p : Fin 64)
  /-- CREDIT_TIMER (R293). -/
  | creditTimer (p : Fin 64)
  /-- CREDIT_RECEIVE (R294): one count for each of VL0 to VL7. -/
  | creditReceive (p : Fin 64) (counts : List (BitVec 16))
  /-- AUDIT_TIMER (R296). -/
  | auditTimer (p : Fin 64)
  /-- AUDIT_RECEIVE (R296). -/
  | auditReceive (p : Fin 64) (cum : List (BitVec 32)) (mate : BitVec 6) (paired : Bool)
  /-- CREDIT_RETRAIN_START (R297). -/
  | creditRetrainStart (p : Fin 64)
  /-- DELAY_MEASURE_TIMER (R298). -/
  | delayMeasureTimer (p : Fin 64)
  /-- DELAY_REQ_RECEIVE (R298). -/
  | delayReqReceive (p : Fin 64) (id : BitVec 8) (t1 : BitVec 64)
  /-- DELAY_RESP_RECEIVE (R298). -/
  | delayRespReceive (p : Fin 64) (id : BitVec 8) (t2 t3 : BitVec 64)
  /-- DELAY_RESP_TIMEOUT (R298). -/
  | delayRespTimeout (p : Fin 64)
  /-- CONTROL_REQUEST_REPEAT (R299). -/
  | controlRequestRepeat (p : Fin 64)
  /-- RETRAIN_REQ_RECEIVE (R300). -/
  | retrainReqReceive (p : Fin 64) (full : Bool)
  /-- RETRAIN_ACK_RECEIVE (R299). -/
  | retrainAckReceive (p : Fin 64) (full : Bool)
  /-- SPARE_REQ_RECEIVE (R303). -/
  | spareReqReceive (p : Fin 64) (l : BitVec 3)
  /-- SPARE_ACK_RECEIVE (R303). -/
  | spareAckReceive (p : Fin 64) (l : BitVec 3)
  /-- SPARE_GO_RECEIVE (R303). -/
  | spareGoReceive (p : Fin 64) (l : BitVec 3)
  /-- WIDTH_REQ_RECEIVE (R307). -/
  | widthReqReceive (p : Fin 64) (l : BitVec 3) (w : BitVec 2)
  /-- WIDTH_ACK_RECEIVE (R307). -/
  | widthAckReceive (p : Fin 64) (l : BitVec 3) (w : BitVec 2)
  /-- WIDTH_GO_RECEIVE (R307). -/
  | widthGoReceive (p : Fin 64) (l : BitVec 3) (w : BitVec 2)
  /-- CORR_WINDOW_EXPIRY (R301). -/
  | corrWindowExpiry (p : Fin 64)
  /-- T_LL_EXPIRY (R309). -/
  | tLlExpiry (p : Fin 64)
  /-- DEAD_TIMEOUT (R309). -/
  | deadTimeout (p : Fin 64)
  /-- RESUME_RECEIVE (R311). -/
  | resumeReceive (p : Fin 64) (noReplay seen kept : Bool) (nextExp : BitVec 16) (free : List (BitVec 16))
  /-- RESUME_REPEAT_TIMER (R311). -/
  | resumeRepeatTimer (p : Fin 64)
  /-- RESUME_TIMEOUT (R311). -/
  | resumeTimeout (p : Fin 64)
  /-- PAIR_ENABLE (R321). -/
  | pairEnable (m : Master) (k : Fin 32)
  /-- PAIR_DISABLE (R313). -/
  | pairDisable (m : Master) (k : Fin 32)
  /-- PAIR_FLOW_RETURN (R318). -/
  | pairFlowReturn (k : Fin 32) (c : Fin 8)
  /-- PROXY_COMPLETION (R331): the completion arriving on port `p` for a proxy tag. -/
  | proxyCompletion (p : Fin 64) (pk : Packet)
  /-- RETURN_ENTRY_STALE (R331). -/
  | returnEntryStale (p : Fin 64) (tag : BitVec 14)
  /-- NOTICE_RECEIVE (R343). -/
  | noticeReceive (p : Fin 64) (n : Notice) (ttl : BitVec 4)
  /-- FAB_DEV_WRITE (R335). -/
  | fabDevWrite (m : Master) (d : Fin 64) (v : BitVec 32)
  /-- APERTURE_ENABLE (R328). -/
  | apertureEnable (m : Master) (n : Fin 16) (j : Fin 4)
  /-- PARTITION_ENABLE (R349). -/
  | partitionEnable (m : Master) (n : Fin 16)
  /-- PARTITION_DISABLE (R351). -/
  | partitionDisable (m : Master) (n : Fin 16)
  /-- REMAP_VALID_WRITE (R357). -/
  | remapValidWrite (m : Master) (i : Fin 4096) (v : BitVec 64)
  /-- SLICE_CREATE (R363). -/
  | sliceCreate (m : Master)
  /-- SLICE_DELETE (R363). -/
  | sliceDelete (m : Master)
  /-- SLICE_RECREATE (R366). -/
  | sliceRecreate (m : Master)
  /-- SLICE_RESET (R363). -/
  | sliceReset (m : Master)
  /-- SLICE_LOAD (R363). -/
  | sliceLoad (m : Master)
  /-- XW_COMMIT (R368). -/
  | xwCommit (m : Master) (win : Fin 512) (all : Bool)
  /-- XW_DRAINED (R369). -/
  | xwDrained
  /-- VF_FLR_TIMEOUT (R351). -/
  | vfFlrTimeout (i : Fin 4096)
  /-- AWT_ENTRY_COMMIT (R374). -/
  | awtEntryCommit (m : Master) (i : Fin 8192) (w0 : BitVec 64)
  /-- AWT_OVERLAP_CHECK_DONE (R385). -/
  | awtOverlapCheckDone
  /-- AWT_FENCE (R388). -/
  | awtFence (m : Master)
  /-- AWT_FENCE_DONE (R388). -/
  | awtFenceDone
  /-- AWT_FENCE_TIMEOUT (R389). -/
  | awtFenceTimeout
  /-- AWT_BANK_SWAP (R390). -/
  | awtBankSwap (m : Master) (n : Fin 16)
  /-- AWT_BANK_DRAINED (R390). -/
  | awtBankDrained (n : Fin 16)
  /-- AWL_ACCESS (R391). -/
  | awlAccess (m : Master)
  /-- AWL_READ_COMPLETE (R391). -/
  | awlReadComplete (st : CplStatus) (data : BitVec 64)
  /-- AWL_READ_TIMEOUT (R391). -/
  | awlReadTimeout
  /-- STAGING_WRITE (R399). -/
  | stagingWrite (m : Master) (off : BitVec 21) (data : Bytes)
  /-- IMAGE_VERIFY (R399). -/
  | imageVerify (m : Master)
  /-- IMAGE_VERIFY_DONE (R399). -/
  | imageVerifyDone
  /-- IMAGE_INSTALL (R400). -/
  | imageInstall (m : Master) (mask : BitVec 8)
  /-- IMAGE_INSTALL_DONE (R400). -/
  | imageInstallDone
  /-- CLUSTER_SWAP (R402). -/
  | clusterSwap (m : Master) (k : Fin 8)
  /-- CLUSTER_DRAIN_END (R402): its started work is done, or DRAIN_TO has passed. -/
  | clusterDrainEnd (k : Fin 8) (timedOut : Bool)
  /-- CLUSTER_LOAD_DONE (R403). -/
  | clusterLoadDone (k : Fin 8)
  /-- CLUSTER_RESTORE (R401). -/
  | clusterRestore (m : Master) (k : Fin 8)
  /-- CLUSTER_RECLAIM (R403). -/
  | clusterReclaim (m : Master) (k : Fin 8)
  /-- WORK_HANDOFF_DONE (R401). -/
  | workHandoffDone (k : Fin 8)
  /-- ENGINE_WATCHDOG (R405). -/
  | engineWatchdog (e : Fin 96)
  /-- ENGINE_RESTORE (R405): whether the self-check passes. -/
  | engineRestore (m : Master) (e : Fin 96) (pass : Bool)
  /-- MAILBOX_REQUEST (R407). -/
  | mailboxRequest (m : Master) (k : Fin 8)
  /-- MAILBOX_RESPONSE (R407): the sixteen response words of the firmware. -/
  | mailboxResponse (k : Fin 8) (words : List (BitVec 32))
  /-- MAILBOX_ACK_CLEAR (R407). -/
  | mailboxAckClear (m : Master) (k : Fin 8)
  /-- OFM_RESTORE (R412). -/
  | ofmRestore (m : Master) (mask : BitVec 4)
  /-- OFM_RESTORE_DONE (R412). -/
  | ofmRestoreDone (q : Fin 4)
  /-- OFM_QUOTA_WRITE (R414). -/
  | ofmQuotaWrite (m : Master) (n : Fin 16) (c : Fin 8) (v : BitVec 16)
  /-- DUR_TC_WRITE (R415). -/
  | durTcWrite (m : Master) (v : BitVec 8)
  /-- HEEL_ENABLE (R421). -/
  | heelEnable (m : Master)
  /-- HEEL_MEASURE (R421). -/
  | heelMeasure (m : Master)
  /-- HEEL_TEST_TIMER (R421): the bank voltage V0 in mV, and whether the bank is still charging. -/
  | heelTestTimer (v0 : BitVec 16) (charging : Bool)
  /-- HEEL_V1_SAMPLE (R418): V1 in 10 µV units. -/
  | heelV1Sample (v1 : BitVec 32)
  /-- HEEL_TEST_DONE (R419): V2 in 10 µV units. -/
  | heelTestDone (v2 : BitVec 32)
  /-- HEEL_PARAM_WRITE (R419): 0 ETA, 1 VMIN, 2 PDRAIN, 3 TFIXED, 4 RATE, 5 MIN. -/
  | heelParamWrite (m : Master) (which : Fin 6) (v : BitVec 32)
  /-- HEEL_RESULT_EXPIRY (R417). -/
  | heelResultExpiry
  /-- FAULT_ASSERT (R436): source, the instance its detector reports, and the partition owning the resource. -/
  | faultAssert (src : BitVec 12) (inst : BitVec 32) (pt : Option (Fin 16))
  /-- FAULT_DEASSERT (R433). -/
  | faultDeassert (src : BitVec 12)
  /-- RAIL_BROKEN (R430). -/
  | railBroken (j : Fin 1335)
  /-- RAIL_RESTORED (R430): the level the restored pair reads. -/
  | railRestored (j : Fin 1335) (level : Bool)
  /-- BLOCK_RESET_RELEASE (R439). -/
  | blockResetRelease (b : Fin 18)
  /-- SHADOW_END (R441). -/
  | shadowEnd (b : Fin 18)
  /-- ESCALATION_WINDOW_END (R442). -/
  | escalationWindowEnd (b : Fin 18)
  /-- FAULT_STICKY_CLEAR (R433). -/
  | faultStickyClear (m : Master) (src : BitVec 12)
  /-- FAULT_CLEAR_ALL (R433). -/
  | faultClearAll (m : Master)
  /-- FAULT_RESTORE (R438). -/
  | faultRestore (m : Master) (src : BitVec 12)
  /-- COLLECTOR_SELF_CHECK (R549). -/
  | collectorSelfCheck (pass : Bool)
  /-- PAIR_READBACK_MISMATCH (R450). -/
  | pairReadbackMismatch
  /-- FAULT_INJECT (R457). -/
  | faultInject (m : Master)
  /-- FAULT_INJECT_END (R457). -/
  | faultInjectEnd
  /-- SCRUB_PASS (R453). -/
  | scrubPass
  /-- POR_ASSERT (R459). -/
  | porAssert
  /-- POR_RELEASE (R462). -/
  | porRelease
  /-- RST_N_ASSERT (R460). -/
  | rstNAssert
  /-- RST_N_RELEASE (R462): how long the pin was low. -/
  | rstNRelease (w : PulseLen)
  /-- RST_CMD_WARM (R461). -/
  | rstCmdWarm (m : Master) (key : BitVec 8)
  /-- RST_CMD_PART (R461). -/
  | rstCmdPart (m : Master) (key : BitVec 8) (pt : Fin 16)
  /-- RST_CMD_PORT (R461). -/
  | rstCmdPort (m : Master) (key : BitVec 8) (p : Fin 64)
  /-- RESET_PULSE_END (R459). -/
  | resetPulseEnd (r : ResetRef)
  /-- TRIM_ATTEMPT_DONE (R467): whether the checksum matches, and the first failing word. -/
  | trimAttemptDone (ok : Bool) (word : BitVec 16)
  /-- STARTUP_DONE (R470). -/
  | startupDone
  /-- MGMT_READ (R474): address, count N, PEC good. -/
  | mgmtRead (addr : BitVec 32) (n : BitVec 8) (pec : Bool)
  /-- MGMT_WRITE (R474). -/
  | mgmtWrite (addr : BitVec 32) (data : List (BitVec 32)) (pec : Bool)
  /-- MGMT_LAST (R474). -/
  | mgmtLast (pec : Bool)
  /-- MGMT_MCTP (R474). -/
  | mgmtMctp (req : SpdmReq) (pec : Bool)
  /-- MGMT_WARM (R474): the two key bytes, first byte in bits 7:0. -/
  | mgmtWarm (key : BitVec 16) (pec : Bool)
  /-- MGMT_COLD (R474). -/
  | mgmtCold (key : BitVec 16) (pec : Bool)
  /-- SYS_REFCLK_LOST (R477). -/
  | sysRefclkLost
  /-- PLL_LOCK_LOSS (R477): 0 core, 1 Clicker, 2 Lace, 3 HBM, 4 management. -/
  | pllLockLoss (which : Fin 5)
  /-- CROSSING_TIMEOUT (R479). -/
  | crossingTimeout
  /-- FEED_LOW (R484): feed 0 is A, 1 is B. -/
  | feedLow (f : Fin 2)
  /-- FEED_NOT_LOW (R484). -/
  | feedNotLow (f : Fin 2)
  /-- FEED_REVERSE_CURRENT (R483). -/
  | feedReverseCurrent (f : Fin 2)
  /-- FEED_REVERSED (R483). -/
  | feedReversed (f : Fin 2)
  /-- FEED_REVERSED_CLEAR (R483). -/
  | feedReversedClear (f : Fin 2)
  /-- FEED_OVERVOLTAGE (R483). -/
  | feedOvervoltage (f : Fin 2)
  /-- BUS_UNDERVOLTAGE (R486). -/
  | busUndervoltage
  /-- BUS_UV_RECOVERED (R486). -/
  | busUvRecovered
  /-- PWRFAIL_READBACK (R485). -/
  | pwrfailReadback
  /-- SLOT_RAMP_COMPLETE (R488). -/
  | slotRampComplete (n : Fin 16)
  /-- SLOT_QUALIFIED (R492). -/
  | slotQualified (n : Fin 16)
  /-- SLOT_TIMER_TRIP (R489). -/
  | slotTimerTrip (n : Fin 16)
  /-- SLOT_FAST_TRIP (R490). -/
  | slotFastTrip (n : Fin 16)
  /-- SLOT_COOL_END (R491). -/
  | slotCoolEnd (n : Fin 16)
  /-- SLOT_FET_FAULT (R496): 1 DAMAGED, 2 OPEN, 3 SHORTED, coded as `kind + 1`. -/
  | slotFetFault (n : Fin 16) (kind : Fin 3)
  /-- SLOT_CLR_FET (R495). -/
  | slotClrFet (m : Master) (n : Fin 16)
  /-- BIST_TEST_DONE (R498). -/
  | bistTestDone (t : Bist) (f : BistFound)
  /-- BIST_TIMEOUT (R498). -/
  | bistTimeout (t : Bist)
  /-- BIST_CONDITIONS_FAIL (R499). -/
  | bistConditionsFail (t : Bist)
  /-- SECRETS_CLEAR (R508). -/
  | secretsClear (m : Master) (key : BitVec 8) (clrRetained : Bool)
  /-- SECRETS_VERIFY (R509). -/
  | secretsVerify (m : Master) (key : BitVec 8)
  /-- SECRETS_VERIFY_DONE (R509). -/
  | secretsVerifyDone
  /-- CERT_COMMIT (R513). -/
  | certCommit (m : Master)
  /-- SPDM_REQUEST (R512). -/
  | spdmRequest (via : SpdmVia) (r : SpdmReq)
  /-- JTAG_INSTRUCTION (R516). -/
  | jtagInstruction (i : JtagIr)
  /-- TEMP_WARN (R544). -/
  | tempWarn (s : Fin 10)
  /-- TEMP_CRIT (R544). -/
  | tempCrit (s : Fin 10)
  /-- TEMP_SENSOR_FAIL (R544). -/
  | tempSensorFail (s : Fin 10)
  /-- SUPPLY_OUT_OF_RANGE (R537): supplies in the order of Table 22-2. -/
  | supplyOutOfRange (i : Fin 8)
  /-- REGISTER_WRITE (R520): the writes that take effect in one management clock cycle, each of one master. -/
  | registerWrite (ws : List RegWr)
  /-- REGISTER_TIMEOUT (R523). -/
  | registerTimeout (m : Master) (off : BitVec 28)
  /-- TIMER_SOURCE_LOCK (R50). -/
  | timerSourceLock
  /-- SYS_REFCLK_GOOD (R477). -/
  | sysRefclkGood
  /-- HOT_RESET_END (R243). -/
  | hotResetEnd (p : Fin 64)
  /-- PCIE_TRAINING_FAIL (R233), with the lanes whose receive pair the training found open, or shorted (true) (R225). -/
  | pcieTrainingFail (r : RxFail)
  /-- VF_CONFIG_HOLD_END (R351). -/
  | vfConfigHoldEnd (i : Fin 4096)
  /-- POWER_DIE_START (R536). -/
  | powerDieStart
  /-- POWER_DIE_STOP (R536). -/
  | powerDieStop
  /-- FEED_OV_CLEAR (R483). -/
  | feedOvClear (f : Fin 2)
  /-- REGISTER_READ (R520): `len` bytes from `off` by one master, with every byte enable set. -/
  | registerRead (m : Master) (off : BitVec 28) (len : Nat)
deriving DecidableEq, Repr

end Sys2Proof
end

