-- ==== Sys2Proof/Decode.lean ====
section
/-! DEFINITION. Commands spelt as words. Every row of spec/opcode_table.json has an empty list of fields: the table gives the
commands no bits, so there is no word that spells one. -/

namespace Sys2Proof

/-- The command that the low `nbits` bits of `w` spell by the table: none, since no row has bits. -/
def decodeTableWord (_nbits _w : Nat) : Option Instr := none

end Sys2Proof
end

