-- ==== Sys2Proof/Config.lean ====
section
/-! DEFINITION. What one part or one board fixes and the spec does not state, and the free values: opaque constants,
so that no proof can use a value of them. -/

namespace Sys2Proof

/-- The logical source that rail pair `j` carries: R430 gives every pair one, and the spec does not number them. -/
opaque Config.railSource : Nat → Nat

/-- The instance that rail pair `j` carries (R430). -/
opaque Config.railInstance : Nat → Nat

/-- Whether a count is forward where A leads B and INVERT is 0: R52 names the quadrature phase and not which phase. -/
opaque Config.leadForward : Bool

/-- The error of a follower's device time, in ns, that it finds at the accepted record of this free value's number:
R67 corrects it and does not say how a record measures it. -/
opaque Config.recordError : Nat → Int

/-- The register offset of Device Control in the function of remap entry `i`: a device's own layout fixes it (R351). -/
opaque Config.vfDevCtl : Nat → Nat

/-- The address that BAR `b` of the VF of remap entry `i` holds: the device's own SR-IOV registers fix it (R358). -/
opaque Config.vfBar (i b : Nat) : Nat

/-- Whether class `c` is open at port `p` while gates apply there and no list is valid (R124 names no mask for it). -/
opaque Config.gateOpen (p c : Nat) : Bool

/-- The seed words pass their checksum and the key store is good, at the derivation of this free value's number (R507). -/
opaque Config.seedGood : Nat → Bool

/-- Free value number `n`: what an analog reading, or a store that the spec leaves open, holds. -/
opaque Config.freeValue : Nat → Nat

/-- The TLP that a packet's bytes on a T-link spell; their form is that of the base specification (R78). -/
opaque Config.tlpParse : Bytes → Option Packet

/-- The bytes of a transaction as its stitches carry it after the fabric header (R266); the base specification gives the layout of a TLP. -/
opaque Config.tlpBytes : Packet → Bytes

/-- The first four double words of a TLP's header, in the format of the link's mode (R235): what a header log holds. -/
opaque Config.tlpHeader (flit : Bool) : Packet → Nat

/-- The bytes of an SPDM or IDE_KM message named `what` with content `data`; their layouts are those of the protocol (R512). -/
opaque Config.spdmBytes (what : String) (data : Bytes) : Bytes

/-- The SHA-384 hash of an image's public key equals the fused one (R397). -/
opaque Config.keyHashOk : Bytes → Bool

/-- The P-384 signature of an image's first 256 header bytes and body is good under its key (R397). -/
opaque Config.imageSigOk (key sig msg : Bytes) : Bool

/-- SHA-384 of a byte string (R512, R514). -/
opaque Config.sha384 : Bytes → Bytes

/-- The identity fuse words (R514), this part's lot and serial numbers, and byte `i` of its public key (R507). -/
opaque Config.fuses : Bytes
opaque Config.lot : Nat
opaque Config.serial : Nat
opaque Config.idPub : Nat → Nat

/-- The leaf of a certificate chain carries this part's public key (R513). -/
opaque Config.leafMatches : Bytes → Bool

/-- The 16 raw bytes of measurement 2 (Table 20-4), whose order the spec does not give: FACTORY_SINCE_POR, TEST_EN, TST_DBG,
SEV_LOCK, the number of locked AWT entries, the mode. -/
opaque Config.rawMeasure (factory testEn : Bool) (dbg : Nat) (sevLock : Bool) (locks cur : Nat) : Bytes

end Sys2Proof
end

