-- ==== Sys2Proof/Machine/FaultTable.lean ====
section
/-! DEFINITION. The fault sources: their default severities (the source tables of the chapters), which IDs are
implemented (R431), the BLOCK reset dependencies (Table 17-3), and what each rail pair carries (R430). -/

namespace Sys2Proof.Machine

/-- Default severities as ranges of source IDs: first, last, code of Table 17-1. The slot channels
(Table 19-10, indices 0 to 79) follow a formula of their own. -/
def sevRanges : List (Nat × Nat × Nat) := [
  (0x000, 0x000, 1), (0x001, 0x003, 0), (0x004, 0x004, 1), (0x005, 0x005, 0), (0x006, 0x008, 1),
  (0x080, 0x08b, 1), (0x08c, 0x08f, 2), (0x090, 0x090, 3), (0x100, 0x13f, 0), (0x140, 0x17f, 1),
  (0x180, 0x180, 3), (0x181, 0x184, 0), (0x185, 0x18a, 3), (0x18b, 0x18c, 0), (0x18d, 0x190, 1),
  (0x191, 0x192, 3), (0x200, 0x203, 1), (0x204, 0x207, 0), (0x208, 0x20b, 1), (0x20c, 0x20c, 0),
  (0x20d, 0x20d, 1), (0x280, 0x280, 3), (0x281, 0x281, 0), (0x282, 0x283, 3), (0x284, 0x287, 1),
  (0x288, 0x288, 0), (0x289, 0x28a, 1), (0x300, 0x300, 3), (0x301, 0x301, 0), (0x302, 0x303, 1),
  (0x304, 0x304, 0), (0x305, 0x306, 1), (0x307, 0x307, 3), (0x308, 0x308, 1), (0x380, 0x383, 3),
  (0x384, 0x384, 0), (0x385, 0x386, 1), (0x400, 0x45f, 2), (0x460, 0x467, 3), (0x468, 0x46f, 0),
  (0x470, 0x477, 3), (0x478, 0x479, 1), (0x480, 0x480, 1), (0x481, 0x481, 0), (0x482, 0x482, 1),
  (0x483, 0x483, 0), (0x484, 0x484, 3), (0x485, 0x48d, 1), (0x48e, 0x490, 3), (0x500, 0x502, 1),
  (0x503, 0x503, 0), (0x504, 0x50a, 1), (0x50b, 0x50d, 3), (0x580, 0x583, 0), (0x584, 0x587, 1),
  (0x588, 0x58f, 2), (0x590, 0x591, 3), (0x592, 0x592, 1), (0x600, 0x600, 0), (0x601, 0x601, 1),
  (0x602, 0x602, 0), (0x603, 0x603, 1), (0x604, 0x604, 5), (0x605, 0x605, 0), (0x680, 0x684, 5),
  (0x685, 0x685, 1), (0x686, 0x688, 0), (0x689, 0x689, 5), (0x750, 0x75a, 1), (0x75b, 0x75b, 3),
  (0x760, 0x763, 1), (0x780, 0x782, 1), (0x783, 0x783, 0), (0x784, 0x784, 1), (0x785, 0x788, 0),
  (0x789, 0x795, 1), (0x796, 0x797, 0), (0x798, 0x799, 1), (0x800, 0x80f, 2), (0x810, 0x810, 1),
  (0x811, 0x811, 5), (0x880, 0x888, 1), (0x889, 0x891, 5), (0x892, 0x8a2, 1), (0x900, 0xe36, 1)]

/-- The range of `sevRanges` that holds source `n`. -/
def sevFind (n : Nat) : Option Nat :=
  (sevRanges.find? (fun r => r.1 ≤ n && n ≤ r.2.1)).map (·.2.2)

/-- A slot-channel source 5c + k (Table 19-10). -/
def isSlotSource (n : Nat) : Bool := 0x700 ≤ n && n < 0x700 + 80

/-- The default severity of source `n` (R436; the source tables). -/
def sevDefault (n : Nat) : Nat :=
  if isSlotSource n then (if (n - 0x700) % 5 = 0 then 0 else 1) else (sevFind n).getD 0

/-- FLT_SEV[n].IMPL: the source exists (R431). -/
def sevImpl (n : Nat) : Nat :=
  if isSlotSource n || (sevFind n).isSome then 1 else 0

/-- Default of FLT_DEP[b]: the block codes shadowed by a BLOCK reset of `b` (Table 17-3). -/
def fltDepRst (b : Nat) : Nat :=
  match b with
  | 1 => 0x616
  | 2 => 0x604
  | 3 => 0x928
  | 4 => 0x38
  | 5 => 0x120
  | 6 => 0x1e0
  | 7 => 0xc0
  | 8 => 0x120
  | 9 => 0x614
  | 10 => 0x420
  | 11 => 0x10808
  | 14 => 0x24000
  | 16 => 0x10808
  | _ => 0

/-- Whether block code `b` has a BLOCK reset target (Table 17-3). -/
def hasBlockTarget (b : Nat) : Bool := fltDepRst b != 0

/-- FLT_PATH[j].SRC: the logical source that pair `j` carries (R430; the numbering of the pairs is not in the spec). -/
def fltPathSrc (j : Nat) : Nat := Config.railSource j % 4096

/-- FLT_PATH[j].INST: the instance that pair `j` carries (R430). -/
def fltPathInst (j : Nat) : Nat := Config.railInstance j % 256

/-- Reset of SHK_SCH_WEIGHT[p][c]: 1, and 0 for c ≥ 5, where the register reads 0 (Table 5-3). -/
def schWeightRst (i : Nat) : Nat := if i % 8 < 5 then 1 else 0

end Sys2Proof.Machine
end

