-- ==== Sys2Proof/Machine/Regs.lean ====
section
/-! DEFINITION. Sorted maps keyed by numbers, and the register store: what a register field is (R17 to R20, R524) and
how one is read and written in the store. A field's key holds its offset, lowest bit, width and reset reach. -/

namespace Sys2Proof.Machine

/-- A map from numbers, its keys strictly rising; what an absent key means is said where the map is used. -/
abbrev NMap (α : Type) := List (Nat × α)

/-- The value at `k`, if listed. -/
def nget? {α : Type} : NMap α → Nat → Option α
  | [], _ => none
  | (j, v) :: m, k => if j = k then some v else if k < j then none else nget? m k

/-- The value at `k`, or `d`. -/
def nget {α : Type} (m : NMap α) (k : Nat) (d : α) : α := (nget? m k).getD d

/-- `m` with `v` at `k`. -/
def nput {α : Type} : NMap α → Nat → α → NMap α
  | [], k, v => [(k, v)]
  | (j, w) :: m, k, v => if j = k then (k, v) :: m else if k < j then (k, v) :: (j, w) :: m else (j, w) :: nput m k v

/-- `m` without an entry at `k`. -/
def ndel {α : Type} : NMap α → Nat → NMap α
  | [], _ => []
  | (j, w) :: m, k => if j = k then m else if k < j then (j, w) :: m else (j, w) :: ndel m k

/-- `m` with `v` at `k`, nothing listed where `v` is what an absent key means. -/
def nset {α : Type} [DecidableEq α] (d : α) (m : NMap α) (k : Nat) (v : α) : NMap α :=
  if v = d then ndel m k else nput m k v

/-- Keys strictly rising, all above the bound given. -/
def nsorted {α : Type} : Option Nat → NMap α → Bool
  | _, [] => true
  | none, (k, _) :: m => nsorted (some k) m
  | some b, (k, _) :: m => decide (b < k) && nsorted (some k) m

/-- Reset reaches of R20, and the two reset columns that are none: power-die start (R481) and no reset value. -/
inductive Reach where
  | por | cold | warm | part | port | block | func | slice | pdOn | const
deriving DecidableEq, Repr

/-- The number a field's key keeps for its reach. -/
def reachCode : Reach → Nat
  | .por => 0 | .cold => 1 | .warm => 2 | .part => 3 | .port => 4
  | .block => 5 | .func => 6 | .slice => 7 | .pdOn => 8 | .const => 9

/-- Access types of Table 0-5; `live` is a read-only value taken at each read (Table 21-3). -/
inductive Acc where
  | rw | ro | w1c | w1s | rc | rwl | wo | live
deriving DecidableEq, Repr

/-- How a written value is stored (R524 and the register descriptions). -/
inductive Stor where
  | plain
  | clamp (lo hi : Nat)
  | zeroOne
  | above (hi v : Nat)
  | mask (bits : Nat)
  | vlCred
deriving DecidableEq, Repr

/-- What makes a write of a field have no effect: the lock that its description names. -/
inductive Lock where
  | free | layout | modeLocked | follower | setup | setupQuiesce | portOff | portOff8 | gateBank | winEn | poolEn
  | awtLock | bankOwner | remapValid | partEn | expEn | gapEn | pairEn | sevLock | dbgLock | qpEn | schLow
deriving DecidableEq, Repr

/-- A register field: offset in manager BAR0 (slice control pages from 0x2000_0000), lowest bit, width, reset reach,
access, how it is stored, its lock, and its reset value at each instance. -/
structure Fld where
  off : Nat
  lsb : Nat
  width : Nat
  reach : Reach
  acc : Acc
  stor : Stor
  lock : Lock
  rst : Nat → Nat

/-- A register: offset of its first instance, stride and count of each index, whether it has 64 bits, its fields. -/
structure Reg where
  off : Nat
  dims : List (Nat × Nat)
  wide : Bool
  flds : List Fld

/-- The key of field `f` at instance `i`: offset, lowest bit (below 64), width (below 128), reach and instance (below 2^24). -/
def fkey (f : Fld) (i : Nat) : Nat :=
  ((((f.off * 64 + f.lsb % 64) * 128 + f.width % 128) * 16 + reachCode f.reach) * 16777216) + i % 16777216

/-- The width that a key keeps. -/
def keyWidth (k : Nat) : Nat := k / 16777216 / 16 % 128

/-- The reach code that a key keeps. -/
def keyReach (k : Nat) : Nat := k / 16777216 % 16

/-- The offset that a key keeps. -/
def keyOff (k : Nat) : Nat := k / 16777216 / 16 / 128 / 64

/-- The instance that a key keeps. -/
def keyIdx (k : Nat) : Nat := k % 16777216

/-- The register store: a field that is not listed holds its reset value. -/
abbrev Regs := NMap Nat

/-- Field `f` of instance `i`. -/
def rget (r : Regs) (f : Fld) (i : Nat) : Nat := nget r (fkey f i) (f.rst i)

/-- The store with field `f` of instance `i` at `v`, cut to the field's width. -/
def rset (r : Regs) (f : Fld) (i v : Nat) : Regs := nset (f.rst i) r (fkey f i) (v % 2 ^ (f.width % 128))

/-- A counter raised by `n`, saturating at its width (R524). -/
def rbump (r : Regs) (f : Fld) (i n : Nat) : Regs :=
  rset r f i (min (rget r f i + n) (2 ^ f.width - 1))

/-- The store after a reset of the reach with code `c` that covers the instances `hit` names: every field of that
reach, or of a narrower one, returns to its reset value (R20). Fields of the power die and constants stay. -/
def rreset (r : Regs) (hit : Nat → Bool) : Regs := r.filter (fun e => !hit e.1)

/-- What a write of `v` stores (R524). -/
def storVal (st : Stor) (v : Nat) : Nat :=
  match st with
  | .plain => v
  | .clamp lo hi => if v < lo then lo else if hi < v then hi else v
  | .zeroOne => if v = 0 then 1 else v
  | .above hi d => if hi < v then d else v
  | .mask b => v / 2 ^ b * 2 ^ b
  | .vlCred => if v = 0 then 0 else if v < 40 then 40 else if 2048 < v then 2048 else v

/-- Every value of the store fits the width that its key keeps. -/
def rfits (r : Regs) : Bool := r.all (fun e => decide (e.2 < 2 ^ keyWidth e.1))

/-- The canonical form of the register store: keys strictly rising, every value within its field's width. -/
def rwf (r : Regs) : Bool := nsorted none r && rfits r

end Sys2Proof.Machine
end

