-- ==== Sys2Proof/Machine/RegMapA.lean ====
section
/-! DEFINITION. The register fields of GLB, LAN, PRT, one definition each: offset, lowest bit, width, reset reach, access
type, how a write is stored, what locks it, and the reset value, as the register tables of spec/ give them. -/

namespace Sys2Proof.Machine


/-- 21_register_map.md R528: GLB_ID 15:0. -/
def GLB_ID_VENDOR : Fld :=
  ⟨0x0, 0, 16, .const, .ro, .plain, .free, fun _ => 15948⟩

/-- 21_register_map.md R528: GLB_ID 31:16. -/
def GLB_ID_DEVICE : Fld :=
  ⟨0x0, 16, 16, .const, .ro, .plain, .free, fun _ => 24978⟩

/-- 21_register_map.md Table 21-5: GLB_REV 7:0. -/
def GLB_REV_STEPPING : Fld :=
  ⟨0x4, 0, 8, .const, .ro, .plain, .free, fun _ => 0xB1⟩

/-- 21_register_map.md Table 21-5: GLB_REV 15:8. -/
def GLB_REV_FAMILY : Fld :=
  ⟨0x4, 8, 8, .const, .ro, .plain, .free, fun _ => 1⟩

/-- 21_register_map.md R528: GLB_IDCODE 31:0. -/
def GLB_IDCODE : Fld :=
  ⟨0x8, 0, 32, .const, .ro, .plain, .free, fun _ => 370748221⟩

/-- 21_register_map.md Table 21-6: GLB_STRAP 2:0. -/
def GLB_STRAP_PRESET : Fld :=
  ⟨0xc, 0, 3, .por, .ro, .plain, .free, fun _ => 0⟩

/-- 21_register_map.md Table 21-6: GLB_STRAP 3. -/
def GLB_STRAP_ADDR_SEL : Fld :=
  ⟨0xc, 3, 1, .por, .ro, .plain, .free, fun _ => 0⟩

/-- 21_register_map.md Table 21-6: GLB_STRAP 4. -/
def GLB_STRAP_STRAP_FAULT : Fld :=
  ⟨0xc, 4, 1, .por, .ro, .plain, .free, fun _ => 0⟩

/-- 21_register_map.md Table 21-6: GLB_STRAP 6:5. -/
def GLB_STRAP_FAULT_KIND : Fld :=
  ⟨0xc, 5, 2, .por, .ro, .plain, .free, fun _ => 0⟩

/-- 21_register_map.md Table 21-6: GLB_STRAP 14:8. -/
def GLB_STRAP_MGMT_ADDR : Fld :=
  ⟨0xc, 8, 7, .por, .ro, .plain, .free, fun _ => 0⟩

/-- 02_modes.md Table 2-5: GLB_MODE 3:0. -/
def GLB_MODE_CUR : Fld :=
  ⟨0x10, 0, 4, .cold, .ro, .plain, .free, fun _ => 1⟩

/-- 02_modes.md Table 2-5: GLB_MODE 7:4. -/
def GLB_MODE_PREV : Fld :=
  ⟨0x10, 4, 4, .cold, .ro, .plain, .free, fun _ => 0⟩

/-- 02_modes.md Table 2-5: GLB_MODE 8. -/
def GLB_MODE_LOCKED : Fld :=
  ⟨0x10, 8, 1, .warm, .ro, .plain, .free, fun _ => 0⟩

/-- 02_modes.md Table 2-5: GLB_MODE 9. -/
def GLB_MODE_BUSY : Fld :=
  ⟨0x10, 9, 1, .warm, .ro, .plain, .free, fun _ => 0⟩

/-- 02_modes.md Table 2-5: GLB_MODE 10. -/
def GLB_MODE_FENCED : Fld :=
  ⟨0x10, 10, 1, .warm, .ro, .plain, .free, fun _ => 0⟩

/-- 02_modes.md Table 2-5: GLB_MODE 11. -/
def GLB_MODE_TRIM_BAD : Fld :=
  ⟨0x10, 11, 1, .por, .ro, .plain, .free, fun _ => 0⟩

/-- 02_modes.md Table 2-5: GLB_MODE 15:12. -/
def GLB_MODE_CAUSE : Fld :=
  ⟨0x10, 12, 4, .warm, .ro, .plain, .free, fun _ => 0⟩

/-- 02_modes.md Table 2-5: GLB_MODE 27:16. -/
def GLB_MODE_SAFE_SRC : Fld :=
  ⟨0x10, 16, 12, .warm, .ro, .plain, .free, fun _ => 0⟩

/-- 02_modes.md Table 2-6: GLB_MODE_REQ 3:0. -/
def GLB_MODE_REQ_TARGET : Fld :=
  ⟨0x14, 0, 4, .warm, .rw, .plain, .free, fun _ => 0⟩

/-- 02_modes.md Table 2-6: GLB_MODE_REQ 4. -/
def GLB_MODE_REQ_GO : Fld :=
  ⟨0x14, 4, 1, .warm, .w1s, .plain, .free, fun _ => 0⟩

/-- 02_modes.md Table 2-6: GLB_MODE_REQ 11:8. -/
def GLB_MODE_REQ_STATUS : Fld :=
  ⟨0x14, 8, 4, .warm, .ro, .plain, .free, fun _ => 0⟩

/-- 02_modes.md Table 2-6: GLB_MODE_REQ 13:12. -/
def GLB_MODE_REQ_LAYOUT : Fld :=
  ⟨0x14, 12, 2, .cold, .rwl, .plain, .layout, fun _ => 0⟩

/-- 02_modes.md Table 2-6: GLB_MODE_REQ 14. -/
def GLB_MODE_REQ_LAYOUT_LOCK : Fld :=
  ⟨0x14, 14, 1, .cold, .ro, .plain, .free, fun _ => 0⟩

/-- 21_register_map.md R528: GLB_SCRATCH 31:0. -/
def GLB_SCRATCH : Fld :=
  ⟨0x18, 0, 32, .warm, .rw, .plain, .free, fun _ => 0⟩

/-- 21_register_map.md R528: GLB_LOT 31:0. -/
def GLB_LOT : Fld :=
  ⟨0x20, 0, 32, .const, .ro, .plain, .free, fun _ => Config.lot % 2 ^ 32⟩

/-- 21_register_map.md R528: GLB_SERIAL 31:0. -/
def GLB_SERIAL : Fld :=
  ⟨0x24, 0, 32, .const, .ro, .plain, .free, fun _ => Config.serial % 2 ^ 32⟩

/-- 21_register_map.md Table 21-7: GLB_COLLIDE 0. -/
def GLB_COLLIDE_VALID : Fld :=
  ⟨0x30, 0, 1, .warm, .w1c, .plain, .free, fun _ => 0⟩

/-- 21_register_map.md Table 21-7: GLB_COLLIDE 3:1. -/
def GLB_COLLIDE_MASTERS : Fld :=
  ⟨0x30, 1, 3, .warm, .ro, .plain, .free, fun _ => 0⟩

/-- 21_register_map.md Table 21-7: GLB_COLLIDE 5:4. -/
def GLB_COLLIDE_WINNER : Fld :=
  ⟨0x30, 4, 2, .warm, .ro, .plain, .free, fun _ => 0⟩

/-- 21_register_map.md R528: GLB_COLLIDE_ADDR 27:0. -/
def GLB_COLLIDE_ADDR : Fld :=
  ⟨0x34, 0, 28, .warm, .ro, .plain, .free, fun _ => 0⟩

/-- 21_register_map.md R528: WRITE_COLLIDE 31:0. -/
def WRITE_COLLIDE : Fld :=
  ⟨0x38, 0, 32, .warm, .rc, .plain, .free, fun _ => 0⟩

/-- 21_register_map.md R528: GLB_UNMAPPED 31:0. -/
def GLB_UNMAPPED : Fld :=
  ⟨0x3c, 0, 32, .warm, .rc, .plain, .free, fun _ => 0⟩

/-- 21_register_map.md R528: GLB_BAD_ACC 31:0. -/
def GLB_BAD_ACC : Fld :=
  ⟨0x40, 0, 32, .warm, .rc, .plain, .free, fun _ => 0⟩

/-- 21_register_map.md R528: GLB_BKP 31:0. -/
def GLB_BKP : Fld :=
  ⟨0x100, 0, 32, .por, .rw, .plain, .free, fun _ => 0⟩

/-- 21_register_map.md Table 21-8: GLB_RET_STATUS 15:0. -/
def GLB_RET_STATUS_CORR : Fld :=
  ⟨0x120, 0, 16, .cold, .rc, .plain, .free, fun _ => 0⟩

/-- 21_register_map.md Table 21-8: GLB_RET_STATUS 24:16. -/
def GLB_RET_STATUS_RET_WORD : Fld :=
  ⟨0x120, 16, 9, .cold, .ro, .plain, .free, fun _ => 0⟩

/-- 21_register_map.md Table 21-8: GLB_RET_STATUS 25. -/
def GLB_RET_STATUS_RET_UNCORR : Fld :=
  ⟨0x120, 25, 1, .cold, .w1c, .plain, .free, fun _ => 0⟩

/-- 21_register_map.md Table 21-8: GLB_RET_STATUS 26. -/
def GLB_RET_STATUS_BKP_UNCORR : Fld :=
  ⟨0x120, 26, 1, .cold, .w1c, .plain, .free, fun _ => 0⟩

/-- 21_register_map.md Table 21-8: GLB_RET_STATUS 29:27. -/
def GLB_RET_STATUS_BKP_IDX : Fld :=
  ⟨0x120, 27, 3, .cold, .ro, .plain, .free, fun _ => 0⟩

/-- 08_lanes_ports.md Table 8-10: LAN_CTL 0. -/
def LAN_CTL_DIS : Fld :=
  ⟨0x100000, 0, 1, .warm, .rw, .plain, .free, fun _ => 0⟩

/-- 08_lanes_ports.md Table 8-10: LAN_CTL 2:1. -/
def LAN_CTL_LPBK : Fld :=
  ⟨0x100000, 1, 2, .warm, .rw, .plain, .free, fun _ => 0⟩

/-- 08_lanes_ports.md Table 8-11: LAN_STATUS 5:0. -/
def LAN_STATUS_PORT : Fld :=
  ⟨0x100004, 0, 6, .warm, .ro, .plain, .free, fun _ => 0⟩

/-- 08_lanes_ports.md Table 8-11: LAN_STATUS 6. -/
def LAN_STATUS_IN_PORT : Fld :=
  ⟨0x100004, 6, 1, .warm, .ro, .plain, .free, fun _ => 0⟩

/-- 08_lanes_ports.md Table 8-11: LAN_STATUS 7. -/
def LAN_STATUS_PERS : Fld :=
  ⟨0x100004, 7, 1, .warm, .ro, .plain, .free, fun _ => 0⟩

/-- 08_lanes_ports.md Table 8-11: LAN_STATUS 10:8. -/
def LAN_STATUS_LOGICAL : Fld :=
  ⟨0x100004, 8, 3, .warm, .ro, .plain, .free, fun _ => 0⟩

/-- 08_lanes_ports.md Table 8-11: LAN_STATUS 11. -/
def LAN_STATUS_RX_INV : Fld :=
  ⟨0x100004, 11, 1, .warm, .ro, .plain, .free, fun _ => 0⟩

/-- 08_lanes_ports.md Table 8-11: LAN_STATUS 12. -/
def LAN_STATUS_LOCK : Fld :=
  ⟨0x100004, 12, 1, .warm, .ro, .plain, .free, fun _ => 0⟩

/-- 08_lanes_ports.md Table 8-11: LAN_STATUS 15:13. -/
def LAN_STATUS_ELEC : Fld :=
  ⟨0x100004, 13, 3, .warm, .ro, .plain, .free, fun _ => 6⟩

/-- 08_lanes_ports.md R234: LAN_SYM_ERR 31:0. -/
def LAN_SYM_ERR : Fld :=
  ⟨0x100008, 0, 32, .warm, .rc, .plain, .free, fun _ => 0⟩

/-- 08_lanes_ports.md R234: LAN_FEC_CORR 31:0. -/
def LAN_FEC_CORR : Fld :=
  ⟨0x10000c, 0, 32, .warm, .rc, .plain, .free, fun _ => 0⟩

/-- 08_lanes_ports.md R234: LAN_LOCK_LOSS 31:0. -/
def LAN_LOCK_LOSS : Fld :=
  ⟨0x100010, 0, 32, .warm, .rc, .plain, .free, fun _ => 0⟩

/-- 10_tlink_phy.md R283: TLN_EQ 2:0. -/
def TLN_EQ_PRESET_USE : Fld :=
  ⟨0x100100, 0, 3, .warm, .ro, .plain, .free, fun _ => 0⟩

/-- 10_tlink_phy.md R283: TLN_EQ 5:3. -/
def TLN_EQ_PRESET_REQ : Fld :=
  ⟨0x100100, 3, 3, .warm, .ro, .plain, .free, fun _ => 0⟩

/-- 10_tlink_phy.md R283: TLN_EQ 6. -/
def TLN_EQ_EQ_DONE : Fld :=
  ⟨0x100100, 6, 1, .warm, .ro, .plain, .free, fun _ => 0⟩

/-- 10_tlink_phy.md R283: TLN_EQ 15:8. -/
def TLN_EQ_RX_SNR : Fld :=
  ⟨0x100100, 8, 8, .warm, .ro, .plain, .free, fun _ => 0⟩

/-- 08_lanes_ports.md R234: TLN_RUNVIOL 31:0. -/
def TLN_RUNVIOL : Fld :=
  ⟨0x100104, 0, 32, .warm, .rc, .plain, .free, fun _ => 0⟩

/-- 08_lanes_ports.md R234: TLN_STUFF 31:0. -/
def TLN_STUFF : Fld :=
  ⟨0x100108, 0, 32, .warm, .rc, .plain, .free, fun _ => 0⟩

/-- 08_lanes_ports.md R234: LAN_REFCLK 0. -/
def LAN_REFCLK_PCIE_OK : Fld :=
  ⟨0x1c0000, 0, 1, .const, .ro, .plain, .free, fun _ => 1⟩

/-- 08_lanes_ports.md R234: LAN_REFCLK 1. -/
def LAN_REFCLK_TLINK_OK : Fld :=
  ⟨0x1c0000, 1, 1, .const, .ro, .plain, .free, fun _ => 1⟩

/-- 08_lanes_ports.md R234: LAN_REFCLK 2. -/
def LAN_REFCLK_PCIE_LOSS : Fld :=
  ⟨0x1c0000, 2, 1, .cold, .w1c, .plain, .free, fun _ => 0⟩

/-- 08_lanes_ports.md R234: LAN_REFCLK 3. -/
def LAN_REFCLK_TLINK_LOSS : Fld :=
  ⟨0x1c0000, 3, 1, .cold, .w1c, .plain, .free, fun _ => 0⟩

/-- 08_lanes_ports.md Table 8-12: PRT_CFG 7:0. -/
def PRT_CFG_FIRST_LANE : Fld :=
  ⟨0x200000, 0, 8, .warm, .rwl, .plain, .portOff, fun _ => 0⟩

/-- 08_lanes_ports.md Table 8-12: PRT_CFG 10:8. -/
def PRT_CFG_WIDTH : Fld :=
  ⟨0x200000, 8, 3, .warm, .rwl, .plain, .portOff, fun _ => 0⟩

/-- 08_lanes_ports.md Table 8-12: PRT_CFG 11. -/
def PRT_CFG_PERS : Fld :=
  ⟨0x200000, 11, 1, .warm, .rwl, .plain, .portOff, fun _ => 0⟩

/-- 08_lanes_ports.md Table 8-12: PRT_CFG 12. -/
def PRT_CFG_SPARE : Fld :=
  ⟨0x200000, 12, 1, .warm, .rwl, .plain, .portOff, fun _ => 0⟩

/-- 08_lanes_ports.md Table 8-12: PRT_CFG 13. -/
def PRT_CFG_DIR : Fld :=
  ⟨0x200000, 13, 1, .warm, .rwl, .plain, .portOff, fun _ => 0⟩

/-- 08_lanes_ports.md Table 8-12: PRT_CFG 16:14. -/
def PRT_CFG_MAX_RATE : Fld :=
  ⟨0x200000, 14, 3, .warm, .rw, .plain, .free, fun _ => 0⟩

/-- 08_lanes_ports.md Table 8-12: PRT_CFG 17. -/
def PRT_CFG_SRIS : Fld :=
  ⟨0x200000, 17, 1, .warm, .rwl, .plain, .portOff, fun _ => 0⟩

/-- 08_lanes_ports.md R234: PRT_CMD 0. -/
def PRT_CMD_ENABLE : Fld :=
  ⟨0x200004, 0, 1, .const, .wo, .plain, .free, fun _ => 0⟩

/-- 08_lanes_ports.md R234: PRT_CMD 1. -/
def PRT_CMD_DISABLE : Fld :=
  ⟨0x200004, 1, 1, .const, .wo, .plain, .free, fun _ => 0⟩

/-- 08_lanes_ports.md R234: PRT_CMD 2. -/
def PRT_CMD_RETRAIN : Fld :=
  ⟨0x200004, 2, 1, .const, .wo, .plain, .free, fun _ => 0⟩

/-- 08_lanes_ports.md R234: PRT_CMD 7:4. -/
def PRT_CMD_RESULT : Fld :=
  ⟨0x200004, 4, 4, .warm, .ro, .plain, .free, fun _ => 0⟩

/-- 08_lanes_ports.md Table 8-13: PRT_STATUS 2:0. -/
def PRT_STATUS_STATE : Fld :=
  ⟨0x200008, 0, 3, .warm, .ro, .plain, .free, fun _ => 0⟩

/-- 08_lanes_ports.md Table 8-13: PRT_STATUS 3. -/
def PRT_STATUS_EN : Fld :=
  ⟨0x200008, 3, 1, .warm, .ro, .plain, .free, fun _ => 0⟩

/-- 08_lanes_ports.md Table 8-13: PRT_STATUS 6:4. -/
def PRT_STATUS_RATE : Fld :=
  ⟨0x200008, 4, 3, .warm, .ro, .plain, .free, fun _ => 0⟩

/-- 08_lanes_ports.md Table 8-13: PRT_STATUS 9:7. -/
def PRT_STATUS_CUR_WIDTH : Fld :=
  ⟨0x200008, 7, 3, .warm, .ro, .plain, .free, fun _ => 0⟩

/-- 08_lanes_ports.md Table 8-13: PRT_STATUS 10. -/
def PRT_STATUS_FLIT : Fld :=
  ⟨0x200008, 10, 1, .warm, .ro, .plain, .free, fun _ => 0⟩

/-- 08_lanes_ports.md Table 8-13: PRT_STATUS 11. -/
def PRT_STATUS_REVERSED : Fld :=
  ⟨0x200008, 11, 1, .warm, .ro, .plain, .free, fun _ => 0⟩

/-- 08_lanes_ports.md Table 8-13: PRT_STATUS 12. -/
def PRT_STATUS_STEP_DONE : Fld :=
  ⟨0x200008, 12, 1, .warm, .ro, .plain, .free, fun _ => 0⟩

/-- 08_lanes_ports.md Table 8-13: PRT_STATUS 13. -/
def PRT_STATUS_DEGRADED_LINK : Fld :=
  ⟨0x200008, 13, 1, .warm, .ro, .plain, .free, fun _ => 0⟩

/-- 08_lanes_ports.md Table 8-13: PRT_STATUS 14. -/
def PRT_STATUS_PARTNER : Fld :=
  ⟨0x200008, 14, 1, .warm, .ro, .plain, .free, fun _ => 0⟩

/-- 08_lanes_ports.md R234: LINK_UP 31:0. -/
def LINK_UP : Fld :=
  ⟨0x200010, 0, 32, .warm, .rc, .plain, .free, fun _ => 0⟩

/-- 08_lanes_ports.md R234: LINK_DOWN 31:0. -/
def LINK_DOWN : Fld :=
  ⟨0x200014, 0, 32, .warm, .rc, .plain, .free, fun _ => 0⟩

/-- 08_lanes_ports.md R234: TRAIN_FAIL 31:0. -/
def TRAIN_FAIL : Fld :=
  ⟨0x200018, 0, 32, .warm, .rc, .plain, .free, fun _ => 0⟩

/-- 08_lanes_ports.md R234: RATE_FALL 31:0. -/
def RATE_FALL : Fld :=
  ⟨0x20001c, 0, 32, .warm, .rc, .plain, .free, fun _ => 0⟩

/-- 08_lanes_ports.md R234: WIDTH_FALL 31:0. -/
def WIDTH_FALL : Fld :=
  ⟨0x200020, 0, 32, .warm, .rc, .plain, .free, fun _ => 0⟩

/-- 08_lanes_ports.md R234: RX_ERR 31:0. -/
def RX_ERR : Fld :=
  ⟨0x200024, 0, 32, .warm, .rc, .plain, .free, fun _ => 0⟩

/-- 08_lanes_ports.md R234: FEC_CORR 31:0. -/
def FEC_CORR : Fld :=
  ⟨0x200028, 0, 32, .warm, .rc, .plain, .free, fun _ => 0⟩

/-- 08_lanes_ports.md R234: FEC_UNCORR 31:0. -/
def FEC_UNCORR : Fld :=
  ⟨0x20002c, 0, 32, .warm, .rc, .plain, .free, fun _ => 0⟩

/-- 09_pcie_ports.md Table 9-8: PCI_CTL 0. -/
def PCI_CTL_FLIT_LOW : Fld :=
  ⟨0x200100, 0, 1, .warm, .rwl, .plain, .portOff, fun _ => 1⟩

/-- 09_pcie_ports.md Table 9-8: PCI_CTL 1. -/
def PCI_CTL_L1_ALLOW : Fld :=
  ⟨0x200100, 1, 1, .warm, .rw, .plain, .free, fun _ => 1⟩

/-- 09_pcie_ports.md Table 9-8: PCI_CTL 2. -/
def PCI_CTL_L11_ALLOW : Fld :=
  ⟨0x200100, 2, 1, .warm, .rw, .plain, .free, fun _ => 1⟩

/-- 09_pcie_ports.md Table 9-9: PCI_SLOT 3:0. -/
def PCI_SLOT_CHANNEL : Fld :=
  ⟨0x200104, 0, 4, .warm, .rwl, .plain, .portOff, fun _ => 0⟩

/-- 09_pcie_ports.md Table 9-9: PCI_SLOT 4. -/
def PCI_SLOT_BOUND : Fld :=
  ⟨0x200104, 4, 1, .warm, .rwl, .plain, .portOff, fun _ => 0⟩

/-- 09_pcie_ports.md Table 9-9: PCI_SLOT 17:5. -/
def PCI_SLOT_PSN : Fld :=
  ⟨0x200104, 5, 13, .warm, .rwl, .plain, .portOff, fun _ => 0⟩

/-- 09_pcie_ports.md R256: PCI_PTM_INT 15:0. -/
def PCI_PTM_INT : Fld :=
  ⟨0x200108, 0, 16, .warm, .rw, (.clamp 10 65535), .free, fun _ => 1000⟩

/-- 09_pcie_ports.md R256: PCI_PTM_OFS 63:0. -/
def PCI_PTM_OFS : Fld :=
  ⟨0x200110, 0, 64, .part, .ro, .plain, .free, fun _ => 0⟩

/-- 09_pcie_ports.md R256: PCI_PTM_AGE 31:0. -/
def PCI_PTM_AGE : Fld :=
  ⟨0x200118, 0, 32, .part, .live, .plain, .free, fun _ => 4294967295⟩

/-- 09_pcie_ports.md R256: MPS_DISC 31:0. -/
def MPS_DISC : Fld :=
  ⟨0x200120, 0, 32, .warm, .rc, .plain, .free, fun _ => 0⟩

/-- 09_pcie_ports.md R256: IDE_REFUSE 31:0. -/
def IDE_REFUSE : Fld :=
  ⟨0x200124, 0, 32, .warm, .rc, .plain, .free, fun _ => 0⟩

/-- 09_pcie_ports.md R256: VDM_DISC 31:0. -/
def VDM_DISC : Fld :=
  ⟨0x200128, 0, 32, .warm, .rc, .plain, .free, fun _ => 0⟩

/-- The registers of this file, piece 1: offset, strides and counts, 64-bit, fields (R518). -/
def regsA1 : List Reg := [
  ⟨0x0, [], false, [GLB_ID_VENDOR, GLB_ID_DEVICE]⟩,
  ⟨0x4, [], false, [GLB_REV_STEPPING, GLB_REV_FAMILY]⟩,
  ⟨0x8, [], false, [GLB_IDCODE]⟩,
  ⟨0xc, [], false, [GLB_STRAP_PRESET, GLB_STRAP_ADDR_SEL, GLB_STRAP_STRAP_FAULT, GLB_STRAP_FAULT_KIND, GLB_STRAP_MGMT_ADDR]⟩,
  ⟨0x10, [], false, [GLB_MODE_CUR, GLB_MODE_PREV, GLB_MODE_LOCKED, GLB_MODE_BUSY, GLB_MODE_FENCED, GLB_MODE_TRIM_BAD, GLB_MODE_CAUSE, GLB_MODE_SAFE_SRC]⟩,
  ⟨0x14, [], false, [GLB_MODE_REQ_TARGET, GLB_MODE_REQ_GO, GLB_MODE_REQ_STATUS, GLB_MODE_REQ_LAYOUT, GLB_MODE_REQ_LAYOUT_LOCK]⟩,
  ⟨0x18, [], false, [GLB_SCRATCH]⟩,
  ⟨0x20, [], false, [GLB_LOT]⟩,
  ⟨0x24, [], false, [GLB_SERIAL]⟩,
  ⟨0x30, [], false, [GLB_COLLIDE_VALID, GLB_COLLIDE_MASTERS, GLB_COLLIDE_WINNER]⟩,
  ⟨0x34, [], false, [GLB_COLLIDE_ADDR]⟩,
  ⟨0x38, [], false, [WRITE_COLLIDE]⟩,
  ⟨0x3c, [], false, [GLB_UNMAPPED]⟩,
  ⟨0x40, [], false, [GLB_BAD_ACC]⟩,
  ⟨0x100, [(0x4, 8)], false, [GLB_BKP]⟩,
  ⟨0x120, [], false, [GLB_RET_STATUS_CORR, GLB_RET_STATUS_RET_WORD, GLB_RET_STATUS_RET_UNCORR, GLB_RET_STATUS_BKP_UNCORR, GLB_RET_STATUS_BKP_IDX]⟩,
  ⟨0x100000, [(0x1000, 192)], false, [LAN_CTL_DIS, LAN_CTL_LPBK]⟩,
  ⟨0x100004, [(0x1000, 192)], false, [LAN_STATUS_PORT, LAN_STATUS_IN_PORT, LAN_STATUS_PERS, LAN_STATUS_LOGICAL, LAN_STATUS_RX_INV, LAN_STATUS_LOCK, LAN_STATUS_ELEC]⟩,
  ⟨0x100008, [(0x1000, 192)], false, [LAN_SYM_ERR]⟩,
  ⟨0x10000c, [(0x1000, 192)], false, [LAN_FEC_CORR]⟩,
  ⟨0x100010, [(0x1000, 192)], false, [LAN_LOCK_LOSS]⟩,
  ⟨0x100100, [(0x1000, 192)], false, [TLN_EQ_PRESET_USE, TLN_EQ_PRESET_REQ, TLN_EQ_EQ_DONE, TLN_EQ_RX_SNR]⟩,
  ⟨0x100104, [(0x1000, 192)], false, [TLN_RUNVIOL]⟩,
  ⟨0x100108, [(0x1000, 192)], false, [TLN_STUFF]⟩]

/-- The registers of this file, piece 2: offset, strides and counts, 64-bit, fields (R518). -/
def regsA2 : List Reg := [
  ⟨0x1c0000, [(0x10, 4)], false, [LAN_REFCLK_PCIE_OK, LAN_REFCLK_TLINK_OK, LAN_REFCLK_PCIE_LOSS, LAN_REFCLK_TLINK_LOSS]⟩,
  ⟨0x200000, [(0x4000, 64)], false, [PRT_CFG_FIRST_LANE, PRT_CFG_WIDTH, PRT_CFG_PERS, PRT_CFG_SPARE, PRT_CFG_DIR, PRT_CFG_MAX_RATE, PRT_CFG_SRIS]⟩,
  ⟨0x200004, [(0x4000, 64)], false, [PRT_CMD_ENABLE, PRT_CMD_DISABLE, PRT_CMD_RETRAIN, PRT_CMD_RESULT]⟩,
  ⟨0x200008, [(0x4000, 64)], false, [PRT_STATUS_STATE, PRT_STATUS_EN, PRT_STATUS_RATE, PRT_STATUS_CUR_WIDTH, PRT_STATUS_FLIT, PRT_STATUS_REVERSED, PRT_STATUS_STEP_DONE, PRT_STATUS_DEGRADED_LINK, PRT_STATUS_PARTNER]⟩,
  ⟨0x200010, [(0x4000, 64)], false, [LINK_UP]⟩,
  ⟨0x200014, [(0x4000, 64)], false, [LINK_DOWN]⟩,
  ⟨0x200018, [(0x4000, 64)], false, [TRAIN_FAIL]⟩,
  ⟨0x20001c, [(0x4000, 64)], false, [RATE_FALL]⟩,
  ⟨0x200020, [(0x4000, 64)], false, [WIDTH_FALL]⟩,
  ⟨0x200024, [(0x4000, 64)], false, [RX_ERR]⟩,
  ⟨0x200028, [(0x4000, 64)], false, [FEC_CORR]⟩,
  ⟨0x20002c, [(0x4000, 64)], false, [FEC_UNCORR]⟩,
  ⟨0x200100, [(0x4000, 64)], false, [PCI_CTL_FLIT_LOW, PCI_CTL_L1_ALLOW, PCI_CTL_L11_ALLOW]⟩,
  ⟨0x200104, [(0x4000, 64)], false, [PCI_SLOT_CHANNEL, PCI_SLOT_BOUND, PCI_SLOT_PSN]⟩,
  ⟨0x200108, [(0x4000, 64)], false, [PCI_PTM_INT]⟩,
  ⟨0x200110, [(0x4000, 64)], true, [PCI_PTM_OFS]⟩,
  ⟨0x200118, [(0x4000, 64)], false, [PCI_PTM_AGE]⟩,
  ⟨0x200120, [(0x4000, 64)], false, [MPS_DISC]⟩,
  ⟨0x200124, [(0x4000, 64)], false, [IDE_REFUSE]⟩,
  ⟨0x200128, [(0x4000, 64)], false, [VDM_DISC]⟩]

/-- The registers of this file. -/
def regsA : List Reg := regsA1 ++ regsA2

end Sys2Proof.Machine
end

