-- ==== Sys2Proof/Machine/RegMapB.lean ====
section
/-! DEFINITION. The register fields of SHK, LCE, PLC, one definition each: offset, lowest bit, width, reset reach, access
type, how a write is stored, what locks it, and the reset value, as the register tables of spec/ give them. -/

namespace Sys2Proof.Machine


/-- 04_shank_switching.md Table 4-5: SHK_CTL 0. -/
def SHK_CTL_CT_GLOBAL : Fld :=
  ⟨0x300000, 0, 1, .warm, .rw, .plain, .free, fun _ => 1⟩

/-- 04_shank_switching.md Table 4-5: SHK_CTL 14:8. -/
def SHK_CTL_HOLD_MAX : Fld :=
  ⟨0x300000, 8, 7, .warm, .rw, (.clamp 1 64), .free, fun _ => 4⟩

/-- 04_shank_switching.md Table 4-6: SHK_STATUS 3:0. -/
def SHK_STATUS_SPILL : Fld :=
  ⟨0x300004, 0, 4, .warm, .live, .plain, .free, fun _ => 0⟩

/-- 04_shank_switching.md Table 4-6: SHK_STATUS 7:4. -/
def SHK_STATUS_OVF_FENCED : Fld :=
  ⟨0x300004, 4, 4, .warm, .live, .plain, .free, fun _ => 0⟩

/-- 04_shank_switching.md Table 4-6: SHK_STATUS 8. -/
def SHK_STATUS_HELD : Fld :=
  ⟨0x300004, 8, 1, .warm, .live, .plain, .free, fun _ => 0⟩

/-- 04_shank_switching.md Table 4-6: SHK_STATUS 9. -/
def SHK_STATUS_STORED : Fld :=
  ⟨0x300004, 9, 1, .warm, .ro, .plain, .free, fun _ => 0⟩

/-- 04_shank_switching.md R112: SHK_BANK_LOW 16:0. -/
def SHK_BANK_LOW : Fld :=
  ⟨0x300010, 0, 17, .warm, .rw, (.clamp 1024 32768), .free, fun _ => 4096⟩

/-- 04_shank_switching.md R112: SHK_REFILL_GAP 7:0. -/
def SHK_REFILL_GAP : Fld :=
  ⟨0x300014, 0, 8, .warm, .rw, .zeroOne, .free, fun _ => 32⟩

/-- 04_shank_switching.md R112: SHK_ALLOW 14:0. -/
def SHK_ALLOW : Fld :=
  ⟨0x300020, 0, 15, .warm, .rw, (.clamp 16 16384), .free, fun _ => 256⟩

/-- 04_shank_switching.md R112: SHK_Q_FREE 16:0. -/
def SHK_Q_FREE : Fld :=
  ⟨0x300800, 0, 17, .const, .live, .plain, .free, fun _ => 0⟩

/-- 04_shank_switching.md R112: SHK_Q_OVF 24:0. -/
def SHK_Q_OVF : Fld :=
  ⟨0x300804, 0, 25, .const, .live, .plain, .free, fun _ => 0⟩

/-- 04_shank_switching.md R112: SHK_Q_SPILL 31:0. -/
def SHK_Q_SPILL : Fld :=
  ⟨0x300808, 0, 32, .warm, .rc, .plain, .free, fun _ => 0⟩

/-- 04_shank_switching.md R112: SHK_Q_READBACK 31:0. -/
def SHK_Q_READBACK : Fld :=
  ⟨0x30080c, 0, 32, .warm, .rc, .plain, .free, fun _ => 0⟩

/-- 04_shank_switching.md Table 4-7: SHK_VOQ_SEL 6:0. -/
def SHK_VOQ_SEL_IN : Fld :=
  ⟨0x300900, 0, 7, .warm, .rw, .plain, .free, fun _ => 0⟩

/-- 04_shank_switching.md Table 4-7: SHK_VOQ_SEL 14:8. -/
def SHK_VOQ_SEL_OUT : Fld :=
  ⟨0x300900, 8, 7, .warm, .rw, .plain, .free, fun _ => 0⟩

/-- 04_shank_switching.md Table 4-7: SHK_VOQ_SEL 18:16. -/
def SHK_VOQ_SEL_TC : Fld :=
  ⟨0x300900, 16, 3, .warm, .rw, .plain, .free, fun _ => 0⟩

/-- 04_shank_switching.md R112: SHK_VOQ_CELLS 14:0. -/
def SHK_VOQ_CELLS : Fld :=
  ⟨0x300904, 0, 15, .warm, .ro, .plain, .free, fun _ => 0⟩

/-- 04_shank_switching.md R112: SHK_VOQ_OVF 24:0. -/
def SHK_VOQ_OVF : Fld :=
  ⟨0x300908, 0, 25, .warm, .ro, .plain, .free, fun _ => 0⟩

/-- 04_shank_switching.md R112: SHK_VOQ_PKTS 9:0. -/
def SHK_VOQ_PKTS_P : Fld :=
  ⟨0x30090c, 0, 10, .warm, .ro, .plain, .free, fun _ => 0⟩

/-- 04_shank_switching.md R112: SHK_VOQ_PKTS 19:10. -/
def SHK_VOQ_PKTS_NP : Fld :=
  ⟨0x30090c, 10, 10, .warm, .ro, .plain, .free, fun _ => 0⟩

/-- 04_shank_switching.md R112: SHK_VOQ_PKTS 29:20. -/
def SHK_VOQ_PKTS_CPL : Fld :=
  ⟨0x30090c, 20, 10, .warm, .ro, .plain, .free, fun _ => 0⟩

/-- 04_shank_switching.md Table 4-8: SHK_PRT_CTL 9:0. -/
def SHK_PRT_CTL_RET_WIN : Fld :=
  ⟨0x301000, 0, 10, .warm, .rw, (.clamp 0 1000), .free, fun _ => 100⟩

/-- 04_shank_switching.md Table 4-8: SHK_PRT_CTL 16. -/
def SHK_PRT_CTL_CT_EN : Fld :=
  ⟨0x301000, 16, 1, .warm, .rw, .plain, .free, fun _ => 1⟩

/-- 04_shank_switching.md R112: SHK_PRT_RATE 15:0. -/
def SHK_PRT_RATE : Fld :=
  ⟨0x301004, 0, 16, .const, .live, .plain, .free, fun _ => 0⟩

/-- 04_shank_switching.md R112: CT_PKTS 31:0. -/
def CT_PKTS : Fld :=
  ⟨0x301008, 0, 32, .warm, .rc, .plain, .free, fun _ => 0⟩

/-- 04_shank_switching.md R112: SF_PKTS 31:0. -/
def SF_PKTS : Fld :=
  ⟨0x30100c, 0, 32, .warm, .rc, .plain, .free, fun _ => 0⟩

/-- 04_shank_switching.md R112: CT_BAD 31:0. -/
def CT_BAD : Fld :=
  ⟨0x301010, 0, 32, .warm, .rc, .plain, .free, fun _ => 0⟩

/-- 04_shank_switching.md R112: CT_UNDERRUN 31:0. -/
def CT_UNDERRUN : Fld :=
  ⟨0x301014, 0, 32, .warm, .rc, .plain, .free, fun _ => 0⟩

/-- 04_shank_switching.md R112: CA_SENT 31:0. -/
def CA_SENT : Fld :=
  ⟨0x301018, 0, 32, .warm, .rc, .plain, .free, fun _ => 0⟩

/-- 04_shank_switching.md R112: DOWN_UR 31:0. -/
def DOWN_UR : Fld :=
  ⟨0x30101c, 0, 32, .warm, .rc, .plain, .free, fun _ => 0⟩

/-- 04_shank_switching.md R112: DOWN_DISC_P 31:0. -/
def DOWN_DISC_P : Fld :=
  ⟨0x301020, 0, 32, .warm, .rc, .plain, .free, fun _ => 0⟩

/-- 04_shank_switching.md R112: DOWN_DISC_CPL 31:0. -/
def DOWN_DISC_CPL : Fld :=
  ⟨0x301024, 0, 32, .warm, .rc, .plain, .free, fun _ => 0⟩

/-- 04_shank_switching.md R112: RET_FLUSH 31:0. -/
def RET_FLUSH : Fld :=
  ⟨0x301028, 0, 32, .warm, .rc, .plain, .free, fun _ => 0⟩

/-- 04_shank_switching.md R112: CREDIT_HOLD 31:0. -/
def CREDIT_HOLD : Fld :=
  ⟨0x30102c, 0, 32, .warm, .rc, .plain, .free, fun _ => 0⟩

/-- 05_gates_scheduling.md R132: SHK_GATE_SWITCH_TICK 47:0. -/
def SHK_GATE_SWITCH_TICK : Fld :=
  ⟨0x340000, 0, 48, .warm, .rw, .plain, .free, fun _ => 0⟩

/-- 05_gates_scheduling.md R132: SHK_GATE_COMMIT_MASK 63:0. -/
def SHK_GATE_COMMIT_MASK : Fld :=
  ⟨0x340008, 0, 64, .warm, .rw, .plain, .free, fun _ => 0⟩

/-- 05_gates_scheduling.md Table 5-4: SHK_GATE_COMMIT 0. -/
def SHK_GATE_COMMIT_GO : Fld :=
  ⟨0x340010, 0, 1, .warm, .w1s, .plain, .free, fun _ => 0⟩

/-- 05_gates_scheduling.md Table 5-4: SHK_GATE_COMMIT 1. -/
def SHK_GATE_COMMIT_CANCEL : Fld :=
  ⟨0x340010, 1, 1, .warm, .w1s, .plain, .free, fun _ => 0⟩

/-- 05_gates_scheduling.md Table 5-4: SHK_GATE_COMMIT 11:8. -/
def SHK_GATE_COMMIT_STATUS : Fld :=
  ⟨0x340010, 8, 4, .warm, .ro, .plain, .free, fun _ => 0⟩

/-- 05_gates_scheduling.md Table 5-4: SHK_GATE_COMMIT 17:12. -/
def SHK_GATE_COMMIT_FAIL_PORT : Fld :=
  ⟨0x340010, 12, 6, .warm, .ro, .plain, .free, fun _ => 0⟩

/-- 05_gates_scheduling.md Table 5-4: SHK_GATE_COMMIT 23:18. -/
def SHK_GATE_COMMIT_FAIL_ENTRY : Fld :=
  ⟨0x340010, 18, 6, .warm, .ro, .plain, .free, fun _ => 0⟩

/-- 05_gates_scheduling.md Table 5-5: SHK_GATE_CTL 0. -/
def SHK_GATE_CTL_GATE_EN : Fld :=
  ⟨0x341000, 0, 1, .warm, .rwl, .plain, .modeLocked, fun _ => 0⟩

/-- 05_gates_scheduling.md Table 5-6: SHK_GATE_STATUS 0. -/
def SHK_GATE_STATUS_ACTIVE_BANK : Fld :=
  ⟨0x341004, 0, 1, .warm, .ro, .plain, .free, fun _ => 0⟩

/-- 05_gates_scheduling.md Table 5-6: SHK_GATE_STATUS 1. -/
def SHK_GATE_STATUS_VALID : Fld :=
  ⟨0x341004, 1, 1, .warm, .ro, .plain, .free, fun _ => 0⟩

/-- 05_gates_scheduling.md Table 5-6: SHK_GATE_STATUS 2. -/
def SHK_GATE_STATUS_ARMED : Fld :=
  ⟨0x341004, 2, 1, .warm, .ro, .plain, .free, fun _ => 0⟩

/-- 05_gates_scheduling.md Table 5-6: SHK_GATE_STATUS 3. -/
def SHK_GATE_STATUS_TOO_LONG : Fld :=
  ⟨0x341004, 3, 1, .warm, .ro, .plain, .free, fun _ => 0⟩

/-- 05_gates_scheduling.md Table 5-6: SHK_GATE_STATUS 4. -/
def SHK_GATE_STATUS_APPLYING : Fld :=
  ⟨0x341004, 4, 1, .warm, .live, .plain, .free, fun _ => 0⟩

/-- 05_gates_scheduling.md Table 5-6: SHK_GATE_STATUS 10:5. -/
def SHK_GATE_STATUS_ENTRY : Fld :=
  ⟨0x341004, 5, 6, .warm, .ro, .plain, .free, fun _ => 0⟩

/-- 05_gates_scheduling.md R132: GATE_CUT 31:0. -/
def GATE_CUT : Fld :=
  ⟨0x341008, 0, 32, .warm, .rc, .plain, .free, fun _ => 0⟩

/-- 05_gates_scheduling.md R132: GUARD_HOLD 31:0. -/
def GUARD_HOLD : Fld :=
  ⟨0x34100c, 0, 32, .warm, .rc, .plain, .free, fun _ => 0⟩

/-- 05_gates_scheduling.md Table 5-1: SHK_GATE_ENT 31:0. -/
def SHK_GATE_ENT_END : Fld :=
  ⟨0x350000, 0, 32, .warm, .rwl, .plain, .gateBank, fun _ => 0⟩

/-- 05_gates_scheduling.md Table 5-1: SHK_GATE_ENT 39:32. -/
def SHK_GATE_ENT_OPEN : Fld :=
  ⟨0x350000, 32, 8, .warm, .rwl, .plain, .gateBank, fun _ => 0⟩

/-- 05_gates_scheduling.md Table 5-1: SHK_GATE_ENT 40. -/
def SHK_GATE_ENT_LAST : Fld :=
  ⟨0x350000, 40, 1, .warm, .rwl, .plain, .gateBank, fun _ => 0⟩

/-- 05_gates_scheduling.md Table 5-1: SHK_GATE_ENT 41. -/
def SHK_GATE_ENT_GUARD : Fld :=
  ⟨0x350000, 41, 1, .warm, .rwl, .plain, .gateBank, fun _ => 0⟩

/-- 05_gates_scheduling.md R132: SHK_SHP_RATE 19:0. -/
def SHK_SHP_RATE : Fld :=
  ⟨0x360000, 0, 20, .warm, .rw, .plain, .free, fun _ => 0⟩

/-- 05_gates_scheduling.md R132: SHK_SHP_BURST 23:0. -/
def SHK_SHP_BURST : Fld :=
  ⟨0x360004, 0, 24, .warm, .rw, (.clamp 4128 16777215), .free, fun _ => 4128⟩

/-- 05_gates_scheduling.md R132: SHK_SCH_WEIGHT 7:0. -/
def SHK_SCH_WEIGHT : Fld :=
  ⟨0x360008, 0, 8, .warm, .rw, .zeroOne, .schLow, schWeightRst⟩

/-- 05_gates_scheduling.md R132: SHK_SHP_TOKENS 24:0. -/
def SHK_SHP_TOKENS : Fld :=
  ⟨0x36000c, 0, 25, .const, .live, .plain, .free, fun _ => 0⟩

/-- 05_gates_scheduling.md Table 5-7: SHK_POL_CTL 1:0. -/
def SHK_POL_CTL_ACTION : Fld :=
  ⟨0x370000, 0, 2, .warm, .rw, .plain, .free, fun _ => 0⟩

/-- 05_gates_scheduling.md Table 5-7: SHK_POL_CTL 6:4. -/
def SHK_POL_CTL_DEM_TC : Fld :=
  ⟨0x370000, 4, 3, .warm, .rw, (.clamp 0 4), .free, fun _ => 0⟩

/-- 05_gates_scheduling.md R132: SHK_POL_CIR 19:0. -/
def SHK_POL_CIR : Fld :=
  ⟨0x370004, 0, 20, .warm, .rw, .plain, .free, fun _ => 0⟩

/-- 05_gates_scheduling.md R132: SHK_POL_CBS 23:0. -/
def SHK_POL_CBS : Fld :=
  ⟨0x370008, 0, 24, .warm, .rw, (.clamp 4128 16777215), .free, fun _ => 4128⟩

/-- 05_gates_scheduling.md R132: SHK_POL_DEMOTED 31:0. -/
def SHK_POL_DEMOTED : Fld :=
  ⟨0x37000c, 0, 32, .warm, .rc, .plain, .free, fun _ => 0⟩

/-- 05_gates_scheduling.md R132: SHK_POL_HELD 31:0. -/
def SHK_POL_HELD : Fld :=
  ⟨0x370010, 0, 32, .warm, .rc, .plain, .free, fun _ => 0⟩

/-- 03_tick_lace.md Table 3-5: LCE_CTL 3:0. -/
def LCE_CTL_SRC : Fld :=
  ⟨0x400000, 0, 4, .warm, .rwl, .plain, .modeLocked, fun _ => 0⟩

/-- 03_tick_lace.md Table 3-5: LCE_CTL 5:4. -/
def LCE_CTL_ROLE : Fld :=
  ⟨0x400000, 4, 2, .warm, .rwl, .plain, .modeLocked, fun _ => 0⟩

/-- 03_tick_lace.md Table 3-5: LCE_CTL 6. -/
def LCE_CTL_TOUT_EN : Fld :=
  ⟨0x400000, 6, 1, .warm, .rw, .plain, .free, fun _ => 0⟩

/-- 03_tick_lace.md Table 3-6: LCE_STATUS 0. -/
def LCE_STATUS_LOCK : Fld :=
  ⟨0x400004, 0, 1, .warm, .ro, .plain, .free, fun _ => 0⟩

/-- 03_tick_lace.md Table 3-6: LCE_STATUS 1. -/
def LCE_STATUS_EARLY : Fld :=
  ⟨0x400004, 1, 1, .warm, .ro, .plain, .free, fun _ => 0⟩

/-- 03_tick_lace.md Table 3-6: LCE_STATUS 2. -/
def LCE_STATUS_LATE : Fld :=
  ⟨0x400004, 2, 1, .warm, .ro, .plain, .free, fun _ => 0⟩

/-- 03_tick_lace.md Table 3-6: LCE_STATUS 3. -/
def LCE_STATUS_ALIGNED : Fld :=
  ⟨0x400004, 3, 1, .warm, .ro, .plain, .free, fun _ => 0⟩

/-- 03_tick_lace.md Table 3-6: LCE_STATUS 4. -/
def LCE_STATUS_ALIGN_FAR : Fld :=
  ⟨0x400004, 4, 1, .warm, .ro, .plain, .free, fun _ => 0⟩

/-- 03_tick_lace.md Table 3-6: LCE_STATUS 5. -/
def LCE_STATUS_STEPPED : Fld :=
  ⟨0x400004, 5, 1, .warm, .w1c, .plain, .free, fun _ => 0⟩

/-- 03_tick_lace.md Table 3-6: LCE_STATUS 8:6. -/
def LCE_STATUS_HOPS : Fld :=
  ⟨0x400004, 6, 3, .warm, .ro, .plain, .free, fun _ => 0⟩

/-- 03_tick_lace.md Table 3-6: LCE_STATUS 14:9. -/
def LCE_STATUS_MASTER_SEEN : Fld :=
  ⟨0x400004, 9, 6, .warm, .ro, .plain, .free, fun _ => 0⟩

/-- 03_tick_lace.md R75: LCE_TICK_MIN 31:0. -/
def LCE_TICK_MIN : Fld :=
  ⟨0x400008, 0, 32, .warm, .rw, (.clamp 10000 2000000000), .free, fun _ => 10000⟩

/-- 03_tick_lace.md R75: LCE_TICK_MAX 31:0. -/
def LCE_TICK_MAX : Fld :=
  ⟨0x40000c, 0, 32, .warm, .rw, (.clamp 10000 2000000000), .free, fun _ => 2000000000⟩

/-- 03_tick_lace.md R75: LCE_LEAD 15:0. -/
def LCE_LEAD : Fld :=
  ⟨0x400010, 0, 16, .warm, .rw, .plain, .free, fun _ => 0⟩

/-- 03_tick_lace.md R75: LCE_TIMER 31:0. -/
def LCE_TIMER : Fld :=
  ⟨0x400014, 0, 32, .warm, .rw, (.clamp 10000 2000000000), .free, fun _ => 10000⟩

/-- 03_tick_lace.md R75: LCE_TICK_NOW 47:0. -/
def LCE_TICK_NOW : Fld :=
  ⟨0x400020, 0, 48, .warm, .ro, .plain, .free, fun _ => 0⟩

/-- 03_tick_lace.md R75: LCE_TICK_TIME 63:0. -/
def LCE_TICK_TIME : Fld :=
  ⟨0x400028, 0, 64, .warm, .ro, .plain, .free, fun _ => 0⟩

/-- 03_tick_lace.md R75: LCE_TIME_NOW 63:0. -/
def LCE_TIME_NOW : Fld :=
  ⟨0x400030, 0, 64, .const, .live, .plain, .free, fun _ => 0⟩

/-- 03_tick_lace.md R75: LCE_TIME_OFS 63:0. -/
def LCE_TIME_OFS : Fld :=
  ⟨0x400038, 0, 64, .cold, .rwl, .plain, .follower, fun _ => 0⟩

/-- 03_tick_lace.md R75: LCE_TICK_PRESET 47:0. -/
def LCE_TICK_PRESET : Fld :=
  ⟨0x400040, 0, 48, .warm, .rw, .plain, .follower, fun _ => 0⟩

/-- 03_tick_lace.md Table 3-9: LCE_FAB 5:0. -/
def LCE_FAB_MASTER_ID : Fld :=
  ⟨0x400048, 0, 6, .warm, .rw, .plain, .free, fun _ => 0⟩

/-- 03_tick_lace.md R75: LCE_FAB_DOWN 63:0. -/
def LCE_FAB_DOWN : Fld :=
  ⟨0x400050, 0, 64, .warm, .rw, .plain, .free, fun _ => 0⟩

/-- 03_tick_lace.md R75: LCE_VDM_EN 63:0. -/
def LCE_VDM_EN : Fld :=
  ⟨0x400058, 0, 64, .warm, .rw, .plain, .free, fun _ => 0⟩

/-- 03_tick_lace.md R75: TICK_SKIP 31:0. -/
def TICK_SKIP : Fld :=
  ⟨0x400060, 0, 32, .warm, .rc, .plain, .free, fun _ => 0⟩

/-- 03_tick_lace.md R75: TICK_EARLY 31:0. -/
def TICK_EARLY : Fld :=
  ⟨0x400064, 0, 32, .warm, .rc, .plain, .free, fun _ => 0⟩

/-- 03_tick_lace.md R75: TICK_LATE 31:0. -/
def TICK_LATE : Fld :=
  ⟨0x400068, 0, 32, .warm, .rc, .plain, .free, fun _ => 0⟩

/-- 03_tick_lace.md R75: TICK_QUIESCE 31:0. -/
def TICK_QUIESCE : Fld :=
  ⟨0x40006c, 0, 32, .warm, .rc, .plain, .free, fun _ => 0⟩

/-- 03_tick_lace.md R75: TICK_LATE_ARRIVE 31:0. -/
def TICK_LATE_ARRIVE : Fld :=
  ⟨0x400070, 0, 32, .warm, .rc, .plain, .free, fun _ => 0⟩

/-- 03_tick_lace.md R75: REC_IGNORED 31:0. -/
def REC_IGNORED : Fld :=
  ⟨0x400074, 0, 32, .warm, .rc, .plain, .free, fun _ => 0⟩

/-- 03_tick_lace.md Table 3-7: ENC_CTL 15:0. -/
def ENC_CTL_DIV : Fld :=
  ⟨0x400100, 0, 16, .warm, .rw, .zeroOne, .free, fun _ => 1⟩

/-- 03_tick_lace.md Table 3-7: ENC_CTL 19:16. -/
def ENC_CTL_FILT : Fld :=
  ⟨0x400100, 16, 4, .warm, .rw, .plain, .free, fun _ => 4⟩

/-- 03_tick_lace.md Table 3-7: ENC_CTL 20. -/
def ENC_CTL_INVERT : Fld :=
  ⟨0x400100, 20, 1, .warm, .rw, .plain, .free, fun _ => 0⟩

/-- 03_tick_lace.md Table 3-7: ENC_CTL 21. -/
def ENC_CTL_EN : Fld :=
  ⟨0x400100, 21, 1, .warm, .rw, .plain, .free, fun _ => 0⟩

/-- 03_tick_lace.md Table 3-7: ENC_CTL 23:22. -/
def ENC_CTL_ZMODE : Fld :=
  ⟨0x400100, 22, 2, .warm, .rw, .plain, .free, fun _ => 0⟩

/-- 03_tick_lace.md Table 3-7: ENC_CTL 25:24. -/
def ENC_CTL_ZQUAL : Fld :=
  ⟨0x400100, 24, 2, .warm, .rw, .plain, .free, fun _ => 3⟩

/-- 03_tick_lace.md Table 3-7: ENC_CTL 26. -/
def ENC_CTL_ZQEN : Fld :=
  ⟨0x400100, 26, 1, .warm, .rw, .plain, .free, fun _ => 0⟩

/-- 03_tick_lace.md Table 3-7: ENC_CTL 27. -/
def ENC_CTL_Z_TICK : Fld :=
  ⟨0x400100, 27, 1, .warm, .rw, .plain, .free, fun _ => 0⟩

/-- 03_tick_lace.md Table 3-8: ENC_STATUS 0. -/
def ENC_STATUS_POS_VALID : Fld :=
  ⟨0x400104, 0, 1, .warm, .ro, .plain, .free, fun _ => 0⟩

/-- 03_tick_lace.md Table 3-8: ENC_STATUS 1. -/
def ENC_STATUS_IN_REVERSE : Fld :=
  ⟨0x400104, 1, 1, .warm, .ro, .plain, .free, fun _ => 0⟩

/-- 03_tick_lace.md Table 3-8: ENC_STATUS 2. -/
def ENC_STATUS_DIR : Fld :=
  ⟨0x400104, 2, 1, .warm, .ro, .plain, .free, fun _ => 0⟩

/-- 03_tick_lace.md Table 3-8: ENC_STATUS 5:4. -/
def ENC_STATUS_PAIR_A : Fld :=
  ⟨0x400104, 4, 2, .warm, .ro, .plain, .free, fun _ => 0⟩

/-- 03_tick_lace.md Table 3-8: ENC_STATUS 7:6. -/
def ENC_STATUS_PAIR_B : Fld :=
  ⟨0x400104, 6, 2, .warm, .ro, .plain, .free, fun _ => 0⟩

/-- 03_tick_lace.md Table 3-8: ENC_STATUS 9:8. -/
def ENC_STATUS_PAIR_Z : Fld :=
  ⟨0x400104, 8, 2, .warm, .ro, .plain, .free, fun _ => 0⟩

/-- 03_tick_lace.md Table 3-8: ENC_STATUS 10. -/
def ENC_STATUS_ENC_LOCK : Fld :=
  ⟨0x400104, 10, 1, .warm, .ro, .plain, .free, fun _ => 0⟩

/-- 03_tick_lace.md R75: ENC_POS 31:0. -/
def ENC_POS : Fld :=
  ⟨0x400108, 0, 32, .warm, .rw, .plain, .free, fun _ => 0⟩

/-- 03_tick_lace.md R75: ENC_HIGH 31:0. -/
def ENC_HIGH : Fld :=
  ⟨0x40010c, 0, 32, .warm, .ro, .plain, .free, fun _ => 0⟩

/-- 03_tick_lace.md R75: ENC_ZPOS 31:0. -/
def ENC_ZPOS : Fld :=
  ⟨0x400110, 0, 32, .warm, .ro, .plain, .free, fun _ => 0⟩

/-- 03_tick_lace.md R75: ENC_ZVAL 31:0. -/
def ENC_ZVAL : Fld :=
  ⟨0x400114, 0, 32, .warm, .rw, .plain, .free, fun _ => 0⟩

/-- 03_tick_lace.md R75: ENC_ACC 15:0. -/
def ENC_ACC : Fld :=
  ⟨0x400118, 0, 16, .warm, .ro, .plain, .free, fun _ => 0⟩

/-- 03_tick_lace.md R75: ENC_PHASE_ERR 31:0. -/
def ENC_PHASE_ERR : Fld :=
  ⟨0x40011c, 0, 32, .warm, .rc, .plain, .free, fun _ => 0⟩

/-- 03_tick_lace.md Table 3-9: TRIG_CTL 0. -/
def TRIG_CTL_EN : Fld :=
  ⟨0x400200, 0, 1, .warm, .rw, .plain, .free, fun _ => 0⟩

/-- 03_tick_lace.md Table 3-9: TRIG_CTL 1. -/
def TRIG_CTL_POL : Fld :=
  ⟨0x400200, 1, 1, .warm, .rw, .plain, .free, fun _ => 0⟩

/-- 03_tick_lace.md Table 3-9: TRIG_CTL 3:2. -/
def TRIG_CTL_MODE : Fld :=
  ⟨0x400200, 2, 2, .warm, .rw, .plain, .free, fun _ => 0⟩

/-- 03_tick_lace.md Table 3-9: TRIG_CTL 5:4. -/
def TRIG_CTL_ENC : Fld :=
  ⟨0x400200, 4, 2, .warm, .rw, .plain, .free, fun _ => 0⟩

/-- 03_tick_lace.md Table 3-9: TRIG_CTL 6. -/
def TRIG_CTL_FIRE : Fld :=
  ⟨0x400200, 6, 1, .const, .wo, .plain, .free, fun _ => 0⟩

/-- 03_tick_lace.md Table 3-9: TRIG_CTL 31:16. -/
def TRIG_CTL_M : Fld :=
  ⟨0x400200, 16, 16, .warm, .rw, .zeroOne, .free, fun _ => 1⟩

/-- 03_tick_lace.md R75: TRIG_DELAY 27:0. -/
def TRIG_DELAY : Fld :=
  ⟨0x400204, 0, 28, .warm, .rw, .plain, .free, fun _ => 64⟩

/-- 03_tick_lace.md R75: TRIG_WIDTH 15:0. -/
def TRIG_WIDTH : Fld :=
  ⟨0x400208, 0, 16, .warm, .rw, .plain, .free, fun _ => 100⟩

/-- 03_tick_lace.md R75: TRIG_STAT 15:0. -/
def TRIG_STAT_OVERRUN : Fld :=
  ⟨0x40020c, 0, 16, .warm, .rc, .plain, .free, fun _ => 0⟩

/-- 03_tick_lace.md R75: TRIG_STAT 31:16. -/
def TRIG_STAT_TRUNC : Fld :=
  ⟨0x40020c, 16, 16, .warm, .rc, .plain, .free, fun _ => 0⟩

/-- 06_placement.md R173: PLC_STATUS 16:0. -/
def PLC_STATUS : Fld :=
  ⟨0x500000, 0, 17, .warm, .ro, .plain, .free, fun _ => 0⟩

/-- 06_placement.md Table 6-11: PLC_MBR_SEL 9:0. -/
def PLC_MBR_SEL_POOL : Fld :=
  ⟨0x501000, 0, 10, .warm, .rw, .plain, .free, fun _ => 0⟩

/-- 06_placement.md Table 6-11: PLC_MBR_SEL 21:16. -/
def PLC_MBR_SEL_MEMBER : Fld :=
  ⟨0x501000, 16, 6, .warm, .rw, .plain, .free, fun _ => 0⟩

/-- 06_placement.md Table 6-12: PLC_MBR_CTL 1:0. -/
def PLC_MBR_CTL_STATE : Fld :=
  ⟨0x501004, 0, 2, .warm, .rw, .plain, .free, fun _ => 3⟩

/-- 06_placement.md Table 6-12: PLC_MBR_CTL 2. -/
def PLC_MBR_CTL_KIND : Fld :=
  ⟨0x501004, 2, 1, .warm, .rw, .plain, .free, fun _ => 0⟩

/-- 06_placement.md Table 6-12: PLC_MBR_CTL 3. -/
def PLC_MBR_CTL_REMOTE : Fld :=
  ⟨0x501004, 3, 1, .warm, .rw, .plain, .free, fun _ => 0⟩

/-- 06_placement.md Table 6-12: PLC_MBR_CTL 9:4. -/
def PLC_MBR_CTL_PORT : Fld :=
  ⟨0x501004, 4, 6, .warm, .rw, .plain, .free, fun _ => 0⟩

/-- 06_placement.md Table 6-12: PLC_MBR_CTL 15:10. -/
def PLC_MBR_CTL_DEV : Fld :=
  ⟨0x501004, 10, 6, .warm, .rw, .plain, .free, fun _ => 0⟩

/-- 06_placement.md Table 6-12: PLC_MBR_CTL 23:16. -/
def PLC_MBR_CTL_WEIGHT : Fld :=
  ⟨0x501004, 16, 8, .warm, .rw, .zeroOne, .free, fun _ => 1⟩

/-- 06_placement.md R173: PLC_MBR_ADDR 63:0. -/
def PLC_MBR_ADDR : Fld :=
  ⟨0x501008, 0, 64, .warm, .rw, (.mask 12), .free, fun _ => 0⟩

/-- 06_placement.md R173: PLC_MBR_SIZE 3:0. -/
def PLC_MBR_SIZE_V : Fld :=
  ⟨0x501010, 0, 4, .warm, .rw, (.clamp 0 12), .free, fun _ => 0⟩

/-- 06_placement.md R173: PLC_MBR_SIZE 27:16. -/
def PLC_MBR_SIZE_KM1 : Fld :=
  ⟨0x501010, 16, 12, .warm, .rw, .plain, .free, fun _ => 0⟩

/-- 06_placement.md R173: PLC_MBR_COST 15:0. -/
def PLC_MBR_COST : Fld :=
  ⟨0x501014, 0, 16, .warm, .rw, .plain, .free, fun _ => 0⟩

/-- 06_placement.md R173: PLC_MBR_DB 13:0. -/
def PLC_MBR_DB : Fld :=
  ⟨0x501018, 0, 14, .warm, .rw, .plain, .free, fun _ => 0⟩

/-- 06_placement.md R173: PLC_MBR_STAT 15:0. -/
def PLC_MBR_STAT_AVAIL : Fld :=
  ⟨0x50101c, 0, 16, .const, .live, .plain, .free, fun _ => 0⟩

/-- 06_placement.md R173: PLC_MBR_STAT 22:16. -/
def PLC_MBR_STAT_OPEN_PUS : Fld :=
  ⟨0x50101c, 16, 7, .const, .live, .plain, .free, fun _ => 0⟩

/-- 06_placement.md R173: PLC_MBR_STAT 26:23. -/
def PLC_MBR_STAT_CAUSE : Fld :=
  ⟨0x50101c, 23, 4, .const, .live, .plain, .free, fun _ => 0⟩

/-- 06_placement.md Table 6-13: PLC_MBR_CMD 0. -/
def PLC_MBR_CMD_APPLY : Fld :=
  ⟨0x501020, 0, 1, .const, .wo, .plain, .free, fun _ => 0⟩

/-- 06_placement.md Table 6-13: PLC_MBR_CMD 1. -/
def PLC_MBR_CMD_LOAD : Fld :=
  ⟨0x501020, 1, 1, .const, .wo, .plain, .free, fun _ => 0⟩

/-- 06_placement.md Table 6-13: PLC_MBR_CMD 3:2. -/
def PLC_MBR_CMD_STATUS : Fld :=
  ⟨0x501020, 2, 2, .warm, .ro, .plain, .free, fun _ => 0⟩

/-- 06_placement.md R173: PLC_PU_SEL 15:0. -/
def PLC_PU_SEL : Fld :=
  ⟨0x502000, 0, 16, .warm, .rw, .plain, .free, fun _ => 0⟩

/-- 06_placement.md R173: PLC_PU_DATA 63:0. -/
def PLC_PU_DATA : Fld :=
  ⟨0x502008, 0, 64, .warm, .ro, .plain, .free, fun _ => 0⟩

/-- 06_placement.md Table 6-8: PLC_WIN_CTL 0. -/
def PLC_WIN_CTL_EN : Fld :=
  ⟨0x510000, 0, 1, .warm, .rw, .plain, .free, fun _ => 0⟩

/-- 06_placement.md Table 6-8: PLC_WIN_CTL 1. -/
def PLC_WIN_CTL_TICK_BOUND : Fld :=
  ⟨0x510000, 1, 1, .warm, .rwl, .plain, .winEn, fun _ => 0⟩

/-- 06_placement.md Table 6-8: PLC_WIN_CTL 2. -/
def PLC_WIN_CTL_CLOSE_TICK : Fld :=
  ⟨0x510000, 2, 1, .warm, .rwl, .plain, .winEn, fun _ => 0⟩

/-- 06_placement.md Table 6-8: PLC_WIN_CTL 3. -/
def PLC_WIN_CTL_GLOBAL : Fld :=
  ⟨0x510000, 3, 1, .warm, .rwl, .plain, .winEn, fun _ => 0⟩

/-- 06_placement.md Table 6-8: PLC_WIN_CTL 7:4. -/
def PLC_WIN_CTL_PARTITION : Fld :=
  ⟨0x510000, 4, 4, .warm, .rwl, .plain, .winEn, fun _ => 0⟩

/-- 06_placement.md Table 6-8: PLC_WIN_CTL 17:8. -/
def PLC_WIN_CTL_POOL : Fld :=
  ⟨0x510000, 8, 10, .warm, .rw, .plain, .free, fun _ => 0⟩

/-- 06_placement.md Table 6-8: PLC_WIN_CTL 21:18. -/
def PLC_WIN_CTL_ENGINE : Fld :=
  ⟨0x510000, 18, 4, .warm, .rwl, (.clamp 0 11), .winEn, fun _ => 0⟩

/-- 06_placement.md Table 6-9: PLC_WIN_GEOM 5:0. -/
def PLC_WIN_GEOM_HM1 : Fld :=
  ⟨0x510004, 0, 6, .warm, .rwl, .plain, .winEn, fun _ => 0⟩

/-- 06_placement.md Table 6-9: PLC_WIN_GEOM 11:6. -/
def PLC_WIN_GEOM_DM1 : Fld :=
  ⟨0x510004, 6, 6, .warm, .rwl, .zeroOne, .winEn, fun _ => 1⟩

/-- 06_placement.md Table 6-9: PLC_WIN_GEOM 15:12. -/
def PLC_WIN_GEOM_SIZE : Fld :=
  ⟨0x510004, 12, 4, .warm, .rwl, (.clamp 0 12), .winEn, fun _ => 0⟩

/-- 06_placement.md Table 6-9: PLC_WIN_GEOM 31:16. -/
def PLC_WIN_GEOM_PUBASE : Fld :=
  ⟨0x510004, 16, 16, .warm, .rwl, .plain, .winEn, fun _ => 0⟩

/-- 06_placement.md R173: PLC_WIN_STATUS 3:0. -/
def PLC_WIN_STATUS_ERR : Fld :=
  ⟨0x510008, 0, 4, .warm, .ro, .plain, .free, fun _ => 0⟩

/-- 06_placement.md R173: PLC_WIN_STATUS 4. -/
def PLC_WIN_STATUS_ACTIVE : Fld :=
  ⟨0x510008, 4, 1, .warm, .ro, .plain, .free, fun _ => 0⟩

/-- 06_placement.md R173: PLC_WIN_TIMING 15:0. -/
def PLC_WIN_TIMING_GRACE : Fld :=
  ⟨0x51000c, 0, 16, .warm, .rwl, .plain, .winEn, fun _ => 500⟩

/-- 06_placement.md R173: PLC_WIN_TIMING 23:16. -/
def PLC_WIN_TIMING_MISS_HOLD : Fld :=
  ⟨0x51000c, 16, 8, .warm, .rwl, (.clamp 0 100), .winEn, fun _ => 10⟩

/-- 06_placement.md R173: PLC_WIN_BASE 63:0. -/
def PLC_WIN_BASE : Fld :=
  ⟨0x510010, 0, 64, .warm, .rwl, .plain, .winEn, fun _ => 0⟩

/-- 06_placement.md R173: PLC_WIN_SEAL 0. -/
def PLC_WIN_SEAL_SEAL_EN : Fld :=
  ⟨0x510018, 0, 1, .warm, .rwl, .plain, .winEn, fun _ => 0⟩

/-- 06_placement.md R173: PLC_WIN_SEAL 63:12. -/
def PLC_WIN_SEAL_PAGE : Fld :=
  ⟨0x510018, 12, 52, .warm, .rwl, .plain, .winEn, fun _ => 0⟩

/-- 06_placement.md R173: SEALED 31:0. -/
def SEALED : Fld :=
  ⟨0x510020, 0, 32, .warm, .rc, .plain, .free, fun _ => 0⟩

/-- 06_placement.md R173: SHORT 31:0. -/
def SHORT : Fld :=
  ⟨0x510024, 0, 32, .warm, .rc, .plain, .free, fun _ => 0⟩

/-- 06_placement.md R173: MISS_DISC 31:0. -/
def MISS_DISC : Fld :=
  ⟨0x510028, 0, 32, .warm, .rc, .plain, .free, fun _ => 0⟩

/-- 06_placement.md R173: LATE_DISC 31:0. -/
def LATE_DISC : Fld :=
  ⟨0x51002c, 0, 32, .warm, .rc, .plain, .free, fun _ => 0⟩

/-- 06_placement.md R173: BROKEN_DISC 31:0. -/
def BROKEN_DISC : Fld :=
  ⟨0x510030, 0, 32, .warm, .rc, .plain, .free, fun _ => 0⟩

/-- 06_placement.md R173: SLOT_BUSY 31:0. -/
def SLOT_BUSY : Fld :=
  ⟨0x510034, 0, 32, .warm, .rc, .plain, .free, fun _ => 0⟩

/-- 06_placement.md R173: WIN_NP 31:0. -/
def WIN_NP : Fld :=
  ⟨0x510038, 0, 32, .warm, .rc, .plain, .free, fun _ => 0⟩

/-- 06_placement.md R173: SEAL_IGN 31:0. -/
def SEAL_IGN : Fld :=
  ⟨0x51003c, 0, 32, .warm, .rc, .plain, .free, fun _ => 0⟩

/-- 06_placement.md Table 6-10: PLC_POOL_CTL 0. -/
def PLC_POOL_CTL_EN : Fld :=
  ⟨0x520000, 0, 1, .warm, .rw, .plain, .free, fun _ => 0⟩

/-- 06_placement.md Table 6-10: PLC_POOL_CTL 3:1. -/
def PLC_POOL_CTL_POLICY : Fld :=
  ⟨0x520000, 1, 3, .warm, .rw, (.above 4 0), .free, fun _ => 0⟩

/-- 06_placement.md Table 6-10: PLC_POOL_CTL 7:4. -/
def PLC_POOL_CTL_BUF_SIZE : Fld :=
  ⟨0x520000, 4, 4, .warm, .rwl, (.clamp 0 12), .poolEn, fun _ => 0⟩

/-- 06_placement.md Table 6-10: PLC_POOL_CTL 10:8. -/
def PLC_POOL_CTL_CLUSTER : Fld :=
  ⟨0x520000, 8, 3, .warm, .rwl, .plain, .poolEn, fun _ => 0⟩

/-- 06_placement.md Table 6-10: PLC_POOL_CTL 14:11. -/
def PLC_POOL_CTL_PARTITION : Fld :=
  ⟨0x520000, 11, 4, .warm, .rwl, .plain, .poolEn, fun _ => 0⟩

/-- 06_placement.md R173: PLC_POOL_REC 13:0. -/
def PLC_POOL_REC : Fld :=
  ⟨0x520004, 0, 14, .warm, .rw, .plain, .free, fun _ => 0⟩

/-- 06_placement.md R173: PLC_POOL_DEADLINE 31:0. -/
def PLC_POOL_DEADLINE : Fld :=
  ⟨0x520008, 0, 32, .warm, .rw, .plain, .free, fun _ => 0⟩

/-- 06_placement.md R173: PLC_POOL_STATUS 6:0. -/
def PLC_POOL_STATUS_ELIGIBLE : Fld :=
  ⟨0x52000c, 0, 7, .const, .live, .plain, .free, fun _ => 0⟩

/-- 06_placement.md R173: PLC_POOL_STATUS 13:8. -/
def PLC_POOL_STATUS_PTR : Fld :=
  ⟨0x52000c, 8, 6, .warm, .ro, .plain, .free, fun _ => 0⟩

/-- 06_placement.md R173: PLC_POOL_STATUS 18:16. -/
def PLC_POOL_STATUS_SERVING : Fld :=
  ⟨0x52000c, 16, 3, .const, .live, .plain, .free, fun _ => 0⟩

/-- 06_placement.md R173: DECISIONS 31:0. -/
def DECISIONS : Fld :=
  ⟨0x520010, 0, 32, .warm, .rc, .plain, .free, fun _ => 0⟩

/-- 06_placement.md R173: NO_MEMBER 31:0. -/
def NO_MEMBER : Fld :=
  ⟨0x520014, 0, 32, .warm, .rc, .plain, .free, fun _ => 0⟩

/-- 06_placement.md R173: AFF_SPILL 31:0. -/
def AFF_SPILL : Fld :=
  ⟨0x520018, 0, 32, .warm, .rc, .plain, .free, fun _ => 0⟩

/-- 06_placement.md R173: LATE_RISK 31:0. -/
def LATE_RISK : Fld :=
  ⟨0x52001c, 0, 32, .warm, .rc, .plain, .free, fun _ => 0⟩

/-- 06_placement.md R173: REDIRECT 31:0. -/
def REDIRECT : Fld :=
  ⟨0x520020, 0, 32, .warm, .rc, .plain, .free, fun _ => 0⟩

/-- 06_placement.md R173: AWT_DENY 31:0. -/
def AWT_DENY : Fld :=
  ⟨0x520024, 0, 32, .warm, .rc, .plain, .free, fun _ => 0⟩

/-- 06_placement.md R173: RING_FULL 31:0. -/
def RING_FULL : Fld :=
  ⟨0x520028, 0, 32, .warm, .rc, .plain, .free, fun _ => 0⟩

/-- The registers of this file, piece 1: offset, strides and counts, 64-bit, fields (R518). -/
def regsB1 : List Reg := [
  ⟨0x300000, [], false, [SHK_CTL_CT_GLOBAL, SHK_CTL_HOLD_MAX]⟩,
  ⟨0x300004, [], false, [SHK_STATUS_SPILL, SHK_STATUS_OVF_FENCED, SHK_STATUS_HELD, SHK_STATUS_STORED]⟩,
  ⟨0x300010, [], false, [SHK_BANK_LOW]⟩,
  ⟨0x300014, [], false, [SHK_REFILL_GAP]⟩,
  ⟨0x300020, [(0x4, 8)], false, [SHK_ALLOW]⟩,
  ⟨0x300800, [(0x20, 4)], false, [SHK_Q_FREE]⟩,
  ⟨0x300804, [(0x20, 4)], false, [SHK_Q_OVF]⟩,
  ⟨0x300808, [(0x20, 4)], false, [SHK_Q_SPILL]⟩,
  ⟨0x30080c, [(0x20, 4)], false, [SHK_Q_READBACK]⟩,
  ⟨0x300900, [], false, [SHK_VOQ_SEL_IN, SHK_VOQ_SEL_OUT, SHK_VOQ_SEL_TC]⟩,
  ⟨0x300904, [], false, [SHK_VOQ_CELLS]⟩,
  ⟨0x300908, [], false, [SHK_VOQ_OVF]⟩,
  ⟨0x30090c, [], false, [SHK_VOQ_PKTS_P, SHK_VOQ_PKTS_NP, SHK_VOQ_PKTS_CPL]⟩,
  ⟨0x301000, [(0x40, 64)], false, [SHK_PRT_CTL_RET_WIN, SHK_PRT_CTL_CT_EN]⟩,
  ⟨0x301004, [(0x40, 64)], false, [SHK_PRT_RATE]⟩,
  ⟨0x301008, [(0x40, 64)], false, [CT_PKTS]⟩,
  ⟨0x30100c, [(0x40, 64)], false, [SF_PKTS]⟩,
  ⟨0x301010, [(0x40, 64)], false, [CT_BAD]⟩,
  ⟨0x301014, [(0x40, 64)], false, [CT_UNDERRUN]⟩,
  ⟨0x301018, [(0x40, 64)], false, [CA_SENT]⟩,
  ⟨0x30101c, [(0x40, 64)], false, [DOWN_UR]⟩,
  ⟨0x301020, [(0x40, 64)], false, [DOWN_DISC_P]⟩,
  ⟨0x301024, [(0x40, 64)], false, [DOWN_DISC_CPL]⟩,
  ⟨0x301028, [(0x40, 64)], false, [RET_FLUSH]⟩]

/-- The registers of this file, piece 2: offset, strides and counts, 64-bit, fields (R518). -/
def regsB2 : List Reg := [
  ⟨0x30102c, [(0x40, 64)], false, [CREDIT_HOLD]⟩,
  ⟨0x340000, [], true, [SHK_GATE_SWITCH_TICK]⟩,
  ⟨0x340008, [], true, [SHK_GATE_COMMIT_MASK]⟩,
  ⟨0x340010, [], false, [SHK_GATE_COMMIT_GO, SHK_GATE_COMMIT_CANCEL, SHK_GATE_COMMIT_STATUS, SHK_GATE_COMMIT_FAIL_PORT, SHK_GATE_COMMIT_FAIL_ENTRY]⟩,
  ⟨0x341000, [(0x20, 64)], false, [SHK_GATE_CTL_GATE_EN]⟩,
  ⟨0x341004, [(0x20, 64)], false, [SHK_GATE_STATUS_ACTIVE_BANK, SHK_GATE_STATUS_VALID, SHK_GATE_STATUS_ARMED, SHK_GATE_STATUS_TOO_LONG, SHK_GATE_STATUS_APPLYING, SHK_GATE_STATUS_ENTRY]⟩,
  ⟨0x341008, [(0x20, 64)], false, [GATE_CUT]⟩,
  ⟨0x34100c, [(0x20, 64)], false, [GUARD_HOLD]⟩,
  ⟨0x350000, [(0x400, 64), (0x200, 2), (0x8, 64)], true, [SHK_GATE_ENT_END, SHK_GATE_ENT_OPEN, SHK_GATE_ENT_LAST, SHK_GATE_ENT_GUARD]⟩,
  ⟨0x360000, [(0x100, 64), (0x10, 8)], false, [SHK_SHP_RATE]⟩,
  ⟨0x360004, [(0x100, 64), (0x10, 8)], false, [SHK_SHP_BURST]⟩,
  ⟨0x360008, [(0x100, 64), (0x10, 8)], false, [SHK_SCH_WEIGHT]⟩,
  ⟨0x36000c, [(0x100, 64), (0x10, 8)], false, [SHK_SHP_TOKENS]⟩,
  ⟨0x370000, [(0x100, 64), (0x20, 8)], false, [SHK_POL_CTL_ACTION, SHK_POL_CTL_DEM_TC]⟩,
  ⟨0x370004, [(0x100, 64), (0x20, 8)], false, [SHK_POL_CIR]⟩,
  ⟨0x370008, [(0x100, 64), (0x20, 8)], false, [SHK_POL_CBS]⟩,
  ⟨0x37000c, [(0x100, 64), (0x20, 8)], false, [SHK_POL_DEMOTED]⟩,
  ⟨0x370010, [(0x100, 64), (0x20, 8)], false, [SHK_POL_HELD]⟩,
  ⟨0x400000, [], false, [LCE_CTL_SRC, LCE_CTL_ROLE, LCE_CTL_TOUT_EN]⟩,
  ⟨0x400004, [], false, [LCE_STATUS_LOCK, LCE_STATUS_EARLY, LCE_STATUS_LATE, LCE_STATUS_ALIGNED, LCE_STATUS_ALIGN_FAR, LCE_STATUS_STEPPED, LCE_STATUS_HOPS, LCE_STATUS_MASTER_SEEN]⟩,
  ⟨0x400008, [], false, [LCE_TICK_MIN]⟩,
  ⟨0x40000c, [], false, [LCE_TICK_MAX]⟩,
  ⟨0x400010, [], false, [LCE_LEAD]⟩,
  ⟨0x400014, [], false, [LCE_TIMER]⟩]

/-- The registers of this file, piece 3: offset, strides and counts, 64-bit, fields (R518). -/
def regsB3 : List Reg := [
  ⟨0x400020, [], true, [LCE_TICK_NOW]⟩,
  ⟨0x400028, [], true, [LCE_TICK_TIME]⟩,
  ⟨0x400030, [], true, [LCE_TIME_NOW]⟩,
  ⟨0x400038, [], true, [LCE_TIME_OFS]⟩,
  ⟨0x400040, [], true, [LCE_TICK_PRESET]⟩,
  ⟨0x400048, [], false, [LCE_FAB_MASTER_ID]⟩,
  ⟨0x400050, [], true, [LCE_FAB_DOWN]⟩,
  ⟨0x400058, [], true, [LCE_VDM_EN]⟩,
  ⟨0x400060, [], false, [TICK_SKIP]⟩,
  ⟨0x400064, [], false, [TICK_EARLY]⟩,
  ⟨0x400068, [], false, [TICK_LATE]⟩,
  ⟨0x40006c, [], false, [TICK_QUIESCE]⟩,
  ⟨0x400070, [], false, [TICK_LATE_ARRIVE]⟩,
  ⟨0x400074, [], false, [REC_IGNORED]⟩,
  ⟨0x400100, [(0x40, 4)], false, [ENC_CTL_DIV, ENC_CTL_FILT, ENC_CTL_INVERT, ENC_CTL_EN, ENC_CTL_ZMODE, ENC_CTL_ZQUAL, ENC_CTL_ZQEN, ENC_CTL_Z_TICK]⟩,
  ⟨0x400104, [(0x40, 4)], false, [ENC_STATUS_POS_VALID, ENC_STATUS_IN_REVERSE, ENC_STATUS_DIR, ENC_STATUS_PAIR_A, ENC_STATUS_PAIR_B, ENC_STATUS_PAIR_Z, ENC_STATUS_ENC_LOCK]⟩,
  ⟨0x400108, [(0x40, 4)], false, [ENC_POS]⟩,
  ⟨0x40010c, [(0x40, 4)], false, [ENC_HIGH]⟩,
  ⟨0x400110, [(0x40, 4)], false, [ENC_ZPOS]⟩,
  ⟨0x400114, [(0x40, 4)], false, [ENC_ZVAL]⟩,
  ⟨0x400118, [(0x40, 4)], false, [ENC_ACC]⟩,
  ⟨0x40011c, [(0x40, 4)], false, [ENC_PHASE_ERR]⟩,
  ⟨0x400200, [(0x10, 16)], false, [TRIG_CTL_EN, TRIG_CTL_POL, TRIG_CTL_MODE, TRIG_CTL_ENC, TRIG_CTL_FIRE, TRIG_CTL_M]⟩,
  ⟨0x400204, [(0x10, 16)], false, [TRIG_DELAY]⟩]

/-- The registers of this file, piece 4: offset, strides and counts, 64-bit, fields (R518). -/
def regsB4 : List Reg := [
  ⟨0x400208, [(0x10, 16)], false, [TRIG_WIDTH]⟩,
  ⟨0x40020c, [(0x10, 16)], false, [TRIG_STAT_OVERRUN, TRIG_STAT_TRUNC]⟩,
  ⟨0x500000, [], false, [PLC_STATUS]⟩,
  ⟨0x501000, [], false, [PLC_MBR_SEL_POOL, PLC_MBR_SEL_MEMBER]⟩,
  ⟨0x501004, [], false, [PLC_MBR_CTL_STATE, PLC_MBR_CTL_KIND, PLC_MBR_CTL_REMOTE, PLC_MBR_CTL_PORT, PLC_MBR_CTL_DEV, PLC_MBR_CTL_WEIGHT]⟩,
  ⟨0x501008, [], true, [PLC_MBR_ADDR]⟩,
  ⟨0x501010, [], false, [PLC_MBR_SIZE_V, PLC_MBR_SIZE_KM1]⟩,
  ⟨0x501014, [], false, [PLC_MBR_COST]⟩,
  ⟨0x501018, [], false, [PLC_MBR_DB]⟩,
  ⟨0x50101c, [], false, [PLC_MBR_STAT_AVAIL, PLC_MBR_STAT_OPEN_PUS, PLC_MBR_STAT_CAUSE]⟩,
  ⟨0x501020, [], false, [PLC_MBR_CMD_APPLY, PLC_MBR_CMD_LOAD, PLC_MBR_CMD_STATUS]⟩,
  ⟨0x502000, [], false, [PLC_PU_SEL]⟩,
  ⟨0x502008, [(0x8, 4)], true, [PLC_PU_DATA]⟩,
  ⟨0x510000, [(0x40, 256)], false, [PLC_WIN_CTL_EN, PLC_WIN_CTL_TICK_BOUND, PLC_WIN_CTL_CLOSE_TICK, PLC_WIN_CTL_GLOBAL, PLC_WIN_CTL_PARTITION, PLC_WIN_CTL_POOL, PLC_WIN_CTL_ENGINE]⟩,
  ⟨0x510004, [(0x40, 256)], false, [PLC_WIN_GEOM_HM1, PLC_WIN_GEOM_DM1, PLC_WIN_GEOM_SIZE, PLC_WIN_GEOM_PUBASE]⟩,
  ⟨0x510008, [(0x40, 256)], false, [PLC_WIN_STATUS_ERR, PLC_WIN_STATUS_ACTIVE]⟩,
  ⟨0x51000c, [(0x40, 256)], false, [PLC_WIN_TIMING_GRACE, PLC_WIN_TIMING_MISS_HOLD]⟩,
  ⟨0x510010, [(0x40, 256)], true, [PLC_WIN_BASE]⟩,
  ⟨0x510018, [(0x40, 256)], true, [PLC_WIN_SEAL_SEAL_EN, PLC_WIN_SEAL_PAGE]⟩,
  ⟨0x510020, [(0x40, 256)], false, [SEALED]⟩,
  ⟨0x510024, [(0x40, 256)], false, [SHORT]⟩,
  ⟨0x510028, [(0x40, 256)], false, [MISS_DISC]⟩,
  ⟨0x51002c, [(0x40, 256)], false, [LATE_DISC]⟩,
  ⟨0x510030, [(0x40, 256)], false, [BROKEN_DISC]⟩]

/-- The registers of this file, piece 5: offset, strides and counts, 64-bit, fields (R518). -/
def regsB5 : List Reg := [
  ⟨0x510034, [(0x40, 256)], false, [SLOT_BUSY]⟩,
  ⟨0x510038, [(0x40, 256)], false, [WIN_NP]⟩,
  ⟨0x51003c, [(0x40, 256)], false, [SEAL_IGN]⟩,
  ⟨0x520000, [(0x40, 1024)], false, [PLC_POOL_CTL_EN, PLC_POOL_CTL_POLICY, PLC_POOL_CTL_BUF_SIZE, PLC_POOL_CTL_CLUSTER, PLC_POOL_CTL_PARTITION]⟩,
  ⟨0x520004, [(0x40, 1024)], false, [PLC_POOL_REC]⟩,
  ⟨0x520008, [(0x40, 1024)], false, [PLC_POOL_DEADLINE]⟩,
  ⟨0x52000c, [(0x40, 1024)], false, [PLC_POOL_STATUS_ELIGIBLE, PLC_POOL_STATUS_PTR, PLC_POOL_STATUS_SERVING]⟩,
  ⟨0x520010, [(0x40, 1024)], false, [DECISIONS]⟩,
  ⟨0x520014, [(0x40, 1024)], false, [NO_MEMBER]⟩,
  ⟨0x520018, [(0x40, 1024)], false, [AFF_SPILL]⟩,
  ⟨0x52001c, [(0x40, 1024)], false, [LATE_RISK]⟩,
  ⟨0x520020, [(0x40, 1024)], false, [REDIRECT]⟩,
  ⟨0x520024, [(0x40, 1024)], false, [AWT_DENY]⟩,
  ⟨0x520028, [(0x40, 1024)], false, [RING_FULL]⟩]

/-- The registers of this file. -/
def regsB : List Reg := regsB1 ++ regsB2 ++ regsB3 ++ regsB4 ++ regsB5

end Sys2Proof.Machine
end

