-- ==== Sys2Proof/Machine/RegMapC.lean ====
section
/-! DEFINITION. The register fields of AWT, PTN, CKR, WLT, FAB, one definition each: offset, lowest bit, width, reset reach, access
type, how a write is stored, what locks it, and the reset value, as the register tables of spec/ give them. -/

namespace Sys2Proof.Machine


/-- 14_access_control.md R394: AWT_STATUS 0. -/
def AWT_STATUS_CHECKING : Fld :=
  ⟨0x600000, 0, 1, .warm, .ro, .plain, .free, fun _ => 0⟩

/-- 14_access_control.md R394: AWT_STATUS 1. -/
def AWT_STATUS_OVERLAP : Fld :=
  ⟨0x600000, 1, 1, .warm, .ro, .plain, .free, fun _ => 0⟩

/-- 14_access_control.md R394: AWT_STATUS 14:2. -/
def AWT_STATUS_IN_FORCE : Fld :=
  ⟨0x600000, 2, 13, .warm, .live, .plain, .free, fun _ => 0⟩

/-- 14_access_control.md Table 14-7: AWT_FENCE 0. -/
def AWT_FENCE_GO : Fld :=
  ⟨0x600008, 0, 1, .warm, .w1s, .plain, .free, fun _ => 0⟩

/-- 14_access_control.md R394: AWT_FENCE_DONE 0. -/
def AWT_FENCE_DONE_DONE : Fld :=
  ⟨0x60000c, 0, 1, .warm, .ro, .plain, .free, fun _ => 1⟩

/-- 14_access_control.md R394: AWT_FENCE_DONE 1. -/
def AWT_FENCE_DONE_STALE : Fld :=
  ⟨0x60000c, 1, 1, .warm, .w1c, .plain, .free, fun _ => 0⟩

/-- 14_access_control.md R394: AWT_FENCE_TO 9:0. -/
def AWT_FENCE_TO : Fld :=
  ⟨0x600010, 0, 10, .warm, .rw, (.clamp 1 1000), .free, fun _ => 128⟩

/-- 14_access_control.md R394: AWT_OVL 12:0. -/
def AWT_OVL_ENTRY_A : Fld :=
  ⟨0x600018, 0, 13, .warm, .ro, .plain, .free, fun _ => 0⟩

/-- 14_access_control.md R394: AWT_OVL 28:16. -/
def AWT_OVL_ENTRY_B : Fld :=
  ⟨0x600018, 16, 13, .warm, .ro, .plain, .free, fun _ => 0⟩

/-- 14_access_control.md R394: AWT_OVL 31. -/
def AWT_OVL_SET : Fld :=
  ⟨0x600018, 31, 1, .warm, .w1c, .plain, .free, fun _ => 0⟩

/-- 14_access_control.md R394: AWT_DLOG_ADDR 63:0. -/
def AWT_DLOG_ADDR : Fld :=
  ⟨0x600020, 0, 64, .warm, .ro, .plain, .free, fun _ => 0⟩

/-- 14_access_control.md Table 14-8: AWT_DLOG 15:0. -/
def AWT_DLOG_RID : Fld :=
  ⟨0x600028, 0, 16, .warm, .ro, .plain, .free, fun _ => 0⟩

/-- 14_access_control.md Table 14-8: AWT_DLOG 20:16. -/
def AWT_DLOG_REQ_SRC : Fld :=
  ⟨0x600028, 16, 5, .warm, .ro, .plain, .free, fun _ => 0⟩

/-- 14_access_control.md Table 14-8: AWT_DLOG 24:21. -/
def AWT_DLOG_OWNER : Fld :=
  ⟨0x600028, 21, 4, .warm, .ro, .plain, .free, fun _ => 0⟩

/-- 14_access_control.md Table 14-8: AWT_DLOG 27:25. -/
def AWT_DLOG_REASON : Fld :=
  ⟨0x600028, 25, 3, .warm, .ro, .plain, .free, fun _ => 0⟩

/-- 14_access_control.md Table 14-8: AWT_DLOG 29:28. -/
def AWT_DLOG_ACCESS : Fld :=
  ⟨0x600028, 28, 2, .warm, .ro, .plain, .free, fun _ => 0⟩

/-- 14_access_control.md Table 14-8: AWT_DLOG 30. -/
def AWT_DLOG_GLOBAL : Fld :=
  ⟨0x600028, 30, 1, .warm, .ro, .plain, .free, fun _ => 0⟩

/-- 14_access_control.md Table 14-8: AWT_DLOG 31. -/
def AWT_DLOG_VALID : Fld :=
  ⟨0x600028, 31, 1, .warm, .w1c, .plain, .free, fun _ => 0⟩

/-- 14_access_control.md Table 14-8: AWT_DLOG 51:32. -/
def AWT_DLOG_PASID : Fld :=
  ⟨0x600028, 32, 20, .warm, .ro, .plain, .free, fun _ => 0⟩

/-- 14_access_control.md Table 14-8: AWT_DLOG 52. -/
def AWT_DLOG_PASID_V : Fld :=
  ⟨0x600028, 52, 1, .warm, .ro, .plain, .free, fun _ => 0⟩

/-- 14_access_control.md Table 14-8: AWT_DLOG 58:53. -/
def AWT_DLOG_SRC_DEV : Fld :=
  ⟨0x600028, 53, 6, .warm, .ro, .plain, .free, fun _ => 0⟩

/-- 14_access_control.md R394: AWT_DENIED 31:0. -/
def AWT_DENIED : Fld :=
  ⟨0x600030, 0, 32, .warm, .rc, .plain, .free, fun _ => 0⟩

/-- 14_access_control.md R394: AWT_LOCKED 31:0. -/
def AWT_LOCKED : Fld :=
  ⟨0x600034, 0, 32, .warm, .rc, .plain, .free, fun _ => 0⟩

/-- 14_access_control.md R394: AWT_LOCK_WR 31:0. -/
def AWT_LOCK_WR : Fld :=
  ⟨0x600038, 0, 32, .warm, .rc, .plain, .free, fun _ => 0⟩

/-- 14_access_control.md R394: AWT_STALE 31:0. -/
def AWT_STALE : Fld :=
  ⟨0x60003c, 0, 32, .warm, .rc, .plain, .free, fun _ => 0⟩

/-- 14_access_control.md R394: AWT_PLACED_CA 31:0. -/
def AWT_PLACED_CA : Fld :=
  ⟨0x600040, 0, 32, .warm, .rc, .plain, .free, fun _ => 0⟩

/-- 14_access_control.md R394: AWT_SCOPE 0. -/
def AWT_SCOPE_DOWN : Fld :=
  ⟨0x600100, 0, 1, .warm, .rw, .plain, .free, fun _ => 0⟩

/-- 14_access_control.md R394: AWT_SCOPE 1. -/
def AWT_SCOPE_UP : Fld :=
  ⟨0x600100, 1, 1, .warm, .rw, .plain, .free, fun _ => 0⟩

/-- 14_access_control.md R394: AWT_SCOPE 2. -/
def AWT_SCOPE_P2P : Fld :=
  ⟨0x600100, 2, 1, .warm, .rw, .plain, .free, fun _ => 0⟩

/-- 14_access_control.md Table 14-9: AWT_BANK_SEL 0. -/
def AWT_BANK_SEL_MODE : Fld :=
  ⟨0x600200, 0, 1, .warm, .rwl, .plain, .bankOwner, fun _ => 0⟩

/-- 14_access_control.md Table 14-9: AWT_BANK_SEL 1. -/
def AWT_BANK_SEL_ACTIVE : Fld :=
  ⟨0x600200, 1, 1, .warm, .ro, .plain, .free, fun _ => 0⟩

/-- 14_access_control.md Table 14-9: AWT_BANK_SEL 2. -/
def AWT_BANK_SEL_SWAP : Fld :=
  ⟨0x600200, 2, 1, .warm, .w1s, .plain, .free, fun _ => 0⟩

/-- 14_access_control.md Table 14-9: AWT_BANK_SEL 3. -/
def AWT_BANK_SEL_DRAINED : Fld :=
  ⟨0x600200, 3, 1, .warm, .ro, .plain, .free, fun _ => 1⟩

/-- 14_access_control.md R394: AWL_ADDR 63:0. -/
def AWL_ADDR : Fld :=
  ⟨0x600800, 0, 64, .warm, .rw, .plain, .free, fun _ => 0⟩

/-- 14_access_control.md R394: AWL_DATA 63:0. -/
def AWL_DATA : Fld :=
  ⟨0x600808, 0, 64, .warm, .rw, .plain, .free, fun _ => 0⟩

/-- 14_access_control.md Table 14-10: AWL_CTL 3:0. -/
def AWL_CTL_PARTITION : Fld :=
  ⟨0x600810, 0, 4, .warm, .rw, .plain, .free, fun _ => 0⟩

/-- 14_access_control.md Table 14-10: AWL_CTL 4. -/
def AWL_CTL_GLOBAL : Fld :=
  ⟨0x600810, 4, 1, .warm, .rw, .plain, .free, fun _ => 0⟩

/-- 14_access_control.md Table 14-10: AWL_CTL 5. -/
def AWL_CTL_WRITE : Fld :=
  ⟨0x600810, 5, 1, .warm, .rw, .plain, .free, fun _ => 0⟩

/-- 14_access_control.md Table 14-10: AWL_CTL 8:6. -/
def AWL_CTL_SIZEM1 : Fld :=
  ⟨0x600810, 6, 3, .warm, .rw, .plain, .free, fun _ => 7⟩

/-- 14_access_control.md Table 14-10: AWL_CTL 11:9. -/
def AWL_CTL_VIA : Fld :=
  ⟨0x600810, 9, 3, .warm, .rw, .plain, .free, fun _ => 0⟩

/-- 14_access_control.md Table 14-10: AWL_CTL 12. -/
def AWL_CTL_GO : Fld :=
  ⟨0x600810, 12, 1, .warm, .w1s, .plain, .free, fun _ => 0⟩

/-- 14_access_control.md R394: AWL_STATUS 3:0. -/
def AWL_STATUS : Fld :=
  ⟨0x600814, 0, 4, .warm, .ro, .plain, .free, fun _ => 0⟩

/-- 14_access_control.md Table 14-1: AWT_W0 0. -/
def AWT_W0_VALID : Fld :=
  ⟨0x610000, 0, 1, .cold, .rwl, .plain, .awtLock, fun _ => 0⟩

/-- 14_access_control.md Table 14-1: AWT_W0 1. -/
def AWT_W0_LOCK : Fld :=
  ⟨0x610000, 1, 1, .cold, .rwl, .plain, .awtLock, fun _ => 0⟩

/-- 14_access_control.md Table 14-1: AWT_W0 2. -/
def AWT_W0_GLOBAL : Fld :=
  ⟨0x610000, 2, 1, .cold, .rwl, .plain, .awtLock, fun _ => 0⟩

/-- 14_access_control.md Table 14-1: AWT_W0 3. -/
def AWT_W0_BANK : Fld :=
  ⟨0x610000, 3, 1, .cold, .rwl, .plain, .awtLock, fun _ => 0⟩

/-- 14_access_control.md Table 14-1: AWT_W0 63:6. -/
def AWT_W0_START : Fld :=
  ⟨0x610000, 6, 58, .cold, .rwl, .plain, .awtLock, fun _ => 0⟩

/-- 14_access_control.md Table 14-1: AWT_W1 0. -/
def AWT_W1_R : Fld :=
  ⟨0x610008, 0, 1, .cold, .rwl, .plain, .awtLock, fun _ => 0⟩

/-- 14_access_control.md Table 14-1: AWT_W1 1. -/
def AWT_W1_W : Fld :=
  ⟨0x610008, 1, 1, .cold, .rwl, .plain, .awtLock, fun _ => 0⟩

/-- 14_access_control.md Table 14-1: AWT_W1 2. -/
def AWT_W1_A : Fld :=
  ⟨0x610008, 2, 1, .cold, .rwl, .plain, .awtLock, fun _ => 0⟩

/-- 14_access_control.md Table 14-1: AWT_W1 63:6. -/
def AWT_W1_END : Fld :=
  ⟨0x610008, 6, 58, .cold, .rwl, .plain, .awtLock, fun _ => 0⟩

/-- 14_access_control.md Table 14-1: AWT_W2 15:0. -/
def AWT_W2_RID : Fld :=
  ⟨0x610010, 0, 16, .cold, .rwl, .plain, .awtLock, fun _ => 0⟩

/-- 14_access_control.md Table 14-1: AWT_W2 31:16. -/
def AWT_W2_RID_MASK : Fld :=
  ⟨0x610010, 16, 16, .cold, .rwl, .plain, .awtLock, fun _ => 0⟩

/-- 14_access_control.md Table 14-1: AWT_W2 35:32. -/
def AWT_W2_OWNER : Fld :=
  ⟨0x610010, 32, 4, .cold, .rwl, .plain, .awtLock, fun _ => 0⟩

/-- 14_access_control.md Table 14-1: AWT_W2 40:36. -/
def AWT_W2_REQ_SRC : Fld :=
  ⟨0x610010, 36, 5, .cold, .rwl, .plain, .awtLock, fun _ => 0⟩

/-- 14_access_control.md Table 14-1: AWT_W2 47:41. -/
def AWT_W2_REQ_DEV : Fld :=
  ⟨0x610010, 41, 7, .cold, .rwl, .plain, .awtLock, fun _ => 0⟩

/-- 14_access_control.md Table 14-1: AWT_W3 19:0. -/
def AWT_W3_PASID : Fld :=
  ⟨0x610018, 0, 20, .cold, .rwl, .plain, .awtLock, fun _ => 0⟩

/-- 14_access_control.md Table 14-1: AWT_W3 21:20. -/
def AWT_W3_PASID_MODE : Fld :=
  ⟨0x610018, 20, 2, .cold, .rwl, .plain, .awtLock, fun _ => 0⟩

/-- 14_access_control.md Table 14-1: AWT_W3 23:22. -/
def AWT_W3_NS : Fld :=
  ⟨0x610018, 22, 2, .cold, .rwl, .plain, .awtLock, fun _ => 0⟩

/-- 14_access_control.md Table 14-1: AWT_W3 25:24. -/
def AWT_W3_RO : Fld :=
  ⟨0x610018, 24, 2, .cold, .rwl, .plain, .awtLock, fun _ => 0⟩

/-- 14_access_control.md Table 14-1: AWT_W3 27:26. -/
def AWT_W3_IBO : Fld :=
  ⟨0x610018, 26, 2, .cold, .rwl, .plain, .awtLock, fun _ => 0⟩

/-- 14_access_control.md Table 14-1: AWT_W3 29:28. -/
def AWT_W3_TPH : Fld :=
  ⟨0x610018, 28, 2, .cold, .rwl, .plain, .awtLock, fun _ => 0⟩

/-- 14_access_control.md Table 14-1: AWT_W3 31:30. -/
def AWT_W3_PH : Fld :=
  ⟨0x610018, 30, 2, .cold, .rwl, .plain, .awtLock, fun _ => 0⟩

/-- 14_access_control.md Table 14-1: AWT_W3 47:32. -/
def AWT_W3_ST : Fld :=
  ⟨0x610018, 32, 16, .cold, .rwl, .plain, .awtLock, fun _ => 0⟩

/-- 13_partitions_sharing.md Table 13-10: PTN_CTL 3:0. -/
def PTN_CTL_MGR_PT : Fld :=
  ⟨0x700000, 0, 4, .cold, .rwl, .plain, .setup, fun _ => 0⟩

/-- 13_partitions_sharing.md Table 13-10: PTN_CTL 17:4. -/
def PTN_CTL_MGR_RING : Fld :=
  ⟨0x700000, 4, 14, .warm, .rw, .plain, .free, fun _ => 0⟩

/-- 13_partitions_sharing.md Table 13-11: PTN_CFG 0. -/
def PTN_CFG_EN : Fld :=
  ⟨0x700010, 0, 1, .warm, .rw, .plain, .free, fun n => if n = 0 then 1 else 0⟩

/-- 13_partitions_sharing.md Table 13-11: PTN_CFG 11:1. -/
def PTN_CFG_VECM1 : Fld :=
  ⟨0x700010, 1, 11, .warm, .rwl, .plain, .partEn, fun _ => 0⟩

/-- 13_partitions_sharing.md Table 13-11: PTN_CFG 31:16. -/
def PTN_CFG_SSID : Fld :=
  ⟨0x700010, 16, 16, .warm, .rwl, .plain, .partEn, fun _ => 0⟩

/-- 13_partitions_sharing.md R370: PTN_STAT 0. -/
def PTN_STAT_ACTIVE : Fld :=
  ⟨0x700014, 0, 1, .warm, .ro, .plain, .free, fun _ => 0⟩

/-- 13_partitions_sharing.md R370: PTN_STAT 1. -/
def PTN_STAT_IN_RESET : Fld :=
  ⟨0x700014, 1, 1, .warm, .ro, .plain, .free, fun _ => 0⟩

/-- 13_partitions_sharing.md R370: PTN_STAT 7:2. -/
def PTN_STAT_UPORT : Fld :=
  ⟨0x700014, 2, 6, .warm, .ro, .plain, .free, fun _ => 0⟩

/-- 13_partitions_sharing.md R370: PTN_STAT 8. -/
def PTN_STAT_UP_VALID : Fld :=
  ⟨0x700014, 8, 1, .warm, .ro, .plain, .free, fun _ => 0⟩

/-- 13_partitions_sharing.md R370: PTN_STAT 9. -/
def PTN_STAT_UP_CONFLICT : Fld :=
  ⟨0x700014, 9, 1, .warm, .ro, .plain, .free, fun _ => 0⟩

/-- 13_partitions_sharing.md R370: PTN_STAT 20:10. -/
def PTN_STAT_SLICES : Fld :=
  ⟨0x700014, 10, 11, .warm, .ro, .plain, .free, fun _ => 0⟩

/-- 13_partitions_sharing.md R370: PART_DISC 31:0. -/
def PART_DISC : Fld :=
  ⟨0x700018, 0, 32, .warm, .rc, .plain, .free, fun _ => 0⟩

/-- 13_partitions_sharing.md R370: PART_LATE 31:0. -/
def PART_LATE : Fld :=
  ⟨0x70001c, 0, 32, .warm, .rc, .plain, .free, fun _ => 0⟩

/-- 13_partitions_sharing.md R370: PTN_PORT 3:0. -/
def PTN_PORT_PARTITION : Fld :=
  ⟨0x700200, 0, 4, .warm, .rwl, .plain, .portOff, fun _ => 0⟩

/-- 13_partitions_sharing.md R370: PTN_SLC_SEL 3:0. -/
def PTN_SLC_SEL_PARTITION : Fld :=
  ⟨0x701000, 0, 4, .warm, .rw, .plain, .free, fun _ => 0⟩

/-- 13_partitions_sharing.md R370: PTN_SLC_SEL 17:8. -/
def PTN_SLC_SEL_SLICE : Fld :=
  ⟨0x701000, 8, 10, .warm, .rw, .plain, .free, fun _ => 0⟩

/-- 13_partitions_sharing.md R370: PTN_SLC_PASID 19:0. -/
def PTN_SLC_PASID_PASID : Fld :=
  ⟨0x701004, 0, 20, .warm, .rw, .plain, .free, fun _ => 0⟩

/-- 13_partitions_sharing.md R370: PTN_SLC_PASID 20. -/
def PTN_SLC_PASID_PASID_V : Fld :=
  ⟨0x701004, 20, 1, .warm, .rw, .plain, .free, fun _ => 0⟩

/-- 13_partitions_sharing.md R370: PTN_SLC_QP 13:0. -/
def PTN_SLC_QP_QP_BASE : Fld :=
  ⟨0x701008, 0, 14, .warm, .rw, .plain, .free, fun _ => 0⟩

/-- 13_partitions_sharing.md R370: PTN_SLC_QP 24:16. -/
def PTN_SLC_QP_QP_COUNT : Fld :=
  ⟨0x701008, 16, 9, .warm, .rw, (.clamp 0 256), .free, fun _ => 0⟩

/-- 13_partitions_sharing.md R370: PTN_SLC_VEC 10:0. -/
def PTN_SLC_VEC_VEC_BASE : Fld :=
  ⟨0x70100c, 0, 11, .warm, .rw, .plain, .free, fun _ => 0⟩

/-- 13_partitions_sharing.md R370: PTN_SLC_VEC 23:12. -/
def PTN_SLC_VEC_VEC_COUNT : Fld :=
  ⟨0x70100c, 12, 12, .warm, .rw, .plain, .free, fun _ => 0⟩

/-- 13_partitions_sharing.md R370: PTN_SLC_DMA 7:0. -/
def PTN_SLC_DMA_SHARE : Fld :=
  ⟨0x701010, 0, 8, .warm, .rw, .zeroOne, .free, fun _ => 1⟩

/-- 13_partitions_sharing.md R370: PTN_SLC_DMA 10:8. -/
def PTN_SLC_DMA_CLUSTER : Fld :=
  ⟨0x701010, 8, 3, .warm, .rw, .plain, .free, fun _ => 0⟩

/-- 13_partitions_sharing.md R370: PTN_SLC_OVF 15:0. -/
def PTN_SLC_OVF_OVF_QUOTA : Fld :=
  ⟨0x701014, 0, 16, .warm, .rw, .plain, .free, fun _ => 0⟩

/-- 13_partitions_sharing.md Table 13-12: PTN_SLC_CMD 0. -/
def PTN_SLC_CMD_CREATE : Fld :=
  ⟨0x701018, 0, 1, .const, .wo, .plain, .free, fun _ => 0⟩

/-- 13_partitions_sharing.md Table 13-12: PTN_SLC_CMD 1. -/
def PTN_SLC_CMD_DELETE : Fld :=
  ⟨0x701018, 1, 1, .const, .wo, .plain, .free, fun _ => 0⟩

/-- 13_partitions_sharing.md Table 13-12: PTN_SLC_CMD 2. -/
def PTN_SLC_CMD_RECREATE : Fld :=
  ⟨0x701018, 2, 1, .const, .wo, .plain, .free, fun _ => 0⟩

/-- 13_partitions_sharing.md Table 13-12: PTN_SLC_CMD 3. -/
def PTN_SLC_CMD_RESET : Fld :=
  ⟨0x701018, 3, 1, .const, .wo, .plain, .free, fun _ => 0⟩

/-- 13_partitions_sharing.md Table 13-12: PTN_SLC_CMD 4. -/
def PTN_SLC_CMD_LOAD : Fld :=
  ⟨0x701018, 4, 1, .const, .wo, .plain, .free, fun _ => 0⟩

/-- 13_partitions_sharing.md Table 13-12: PTN_SLC_CMD 11:8. -/
def PTN_SLC_CMD_RESULT : Fld :=
  ⟨0x701018, 8, 4, .warm, .ro, .plain, .free, fun _ => 0⟩

/-- 13_partitions_sharing.md R370: PTN_SLC_STAT 0. -/
def PTN_SLC_STAT_EXISTS : Fld :=
  ⟨0x70101c, 0, 1, .const, .live, .plain, .free, fun _ => 0⟩

/-- 13_partitions_sharing.md R370: PTN_SLC_STAT 1. -/
def PTN_SLC_STAT_RESETTING : Fld :=
  ⟨0x70101c, 1, 1, .const, .live, .plain, .free, fun _ => 0⟩

/-- 13_partitions_sharing.md R370: PTN_SLC_STAT 10:2. -/
def PTN_SLC_STAT_QPS : Fld :=
  ⟨0x70101c, 2, 9, .const, .live, .plain, .free, fun _ => 0⟩

/-- 13_partitions_sharing.md R370: PTN_SLC_STAT 11. -/
def PTN_SLC_STAT_RESIZE_PEND : Fld :=
  ⟨0x70101c, 11, 1, .const, .live, .plain, .free, fun _ => 0⟩

/-- 13_partitions_sharing.md R370: PTN_RESIZE_LAST 3:0. -/
def PTN_RESIZE_LAST_RESULT : Fld :=
  ⟨0x701020, 0, 4, .warm, .ro, .plain, .free, fun _ => 0⟩

/-- 13_partitions_sharing.md R370: PTN_RESIZE_LAST 13:4. -/
def PTN_RESIZE_LAST_SLICE : Fld :=
  ⟨0x701020, 4, 10, .warm, .ro, .plain, .free, fun _ => 0⟩

/-- 13_partitions_sharing.md R370: PTN_RESIZE_LAST 17:14. -/
def PTN_RESIZE_LAST_PARTITION : Fld :=
  ⟨0x701020, 14, 4, .warm, .ro, .plain, .free, fun _ => 0⟩

/-- 13_partitions_sharing.md Table 13-3: PTN_RID 0. -/
def PTN_RID_VALID : Fld :=
  ⟨0x710000, 0, 1, .warm, .rw, .plain, .free, fun _ => 0⟩

/-- 13_partitions_sharing.md Table 13-3: PTN_RID 6:1. -/
def PTN_RID_PORT : Fld :=
  ⟨0x710000, 1, 6, .warm, .rwl, .plain, .remapValid, fun _ => 0⟩

/-- 13_partitions_sharing.md Table 13-3: PTN_RID 10:7. -/
def PTN_RID_PARTITION : Fld :=
  ⟨0x710000, 7, 4, .warm, .rwl, .plain, .remapValid, fun _ => 0⟩

/-- 13_partitions_sharing.md Table 13-3: PTN_RID 26:11. -/
def PTN_RID_RID_REAL : Fld :=
  ⟨0x710000, 11, 16, .warm, .rwl, .plain, .remapValid, fun _ => 0⟩

/-- 13_partitions_sharing.md Table 13-3: PTN_RID 34:27. -/
def PTN_RID_RID_GUEST : Fld :=
  ⟨0x710000, 27, 8, .warm, .rwl, .plain, .remapValid, fun _ => 0⟩

/-- 13_partitions_sharing.md Table 13-3: PTN_RID 43:35. -/
def PTN_RID_XWIN : Fld :=
  ⟨0x710000, 35, 9, .warm, .rwl, .plain, .remapValid, fun _ => 0⟩

/-- 13_partitions_sharing.md Table 13-3: PTN_RID 44. -/
def PTN_RID_XWIN_V : Fld :=
  ⟨0x710000, 44, 1, .warm, .rwl, .plain, .remapValid, fun _ => 0⟩

/-- 13_partitions_sharing.md Table 13-13: PTN_XW_CTL 0. -/
def PTN_XW_CTL_EN : Fld :=
  ⟨0x720000, 0, 1, .warm, .rw, .plain, .free, fun _ => 0⟩

/-- 13_partitions_sharing.md Table 13-13: PTN_XW_CTL 4:1. -/
def PTN_XW_CTL_SRC_PT : Fld :=
  ⟨0x720000, 1, 4, .warm, .rw, .plain, .free, fun _ => 0⟩

/-- 13_partitions_sharing.md Table 13-13: PTN_XW_CTL 8:5. -/
def PTN_XW_CTL_TGT_PT : Fld :=
  ⟨0x720000, 5, 4, .warm, .rw, .plain, .free, fun _ => 0⟩

/-- 13_partitions_sharing.md Table 13-13: PTN_XW_CTL 9. -/
def PTN_XW_CTL_TGT_GLOBAL : Fld :=
  ⟨0x720000, 9, 1, .warm, .rw, .plain, .free, fun _ => 0⟩

/-- 13_partitions_sharing.md Table 13-13: PTN_XW_CTL 15:10. -/
def PTN_XW_CTL_K : Fld :=
  ⟨0x720000, 10, 6, .warm, .rw, (.clamp 12 48), .free, fun _ => 12⟩

/-- 13_partitions_sharing.md Table 13-13: PTN_XW_CTL 16. -/
def PTN_XW_CTL_PENDING : Fld :=
  ⟨0x720000, 16, 1, .warm, .ro, .plain, .free, fun _ => 0⟩

/-- 13_partitions_sharing.md R370: PTN_XW_BASE 63:0. -/
def PTN_XW_BASE : Fld :=
  ⟨0x720008, 0, 64, .warm, .rw, .plain, .free, fun _ => 0⟩

/-- 13_partitions_sharing.md R370: PTN_XW_TGT 63:0. -/
def PTN_XW_TGT : Fld :=
  ⟨0x720010, 0, 64, .warm, .rw, .plain, .free, fun _ => 0⟩

/-- 13_partitions_sharing.md R370: PTN_XW_PKTS 31:0. -/
def PTN_XW_PKTS : Fld :=
  ⟨0x720018, 0, 32, .warm, .rc, .plain, .free, fun _ => 0⟩

/-- 13_partitions_sharing.md R370: PTN_XW_COMMIT 8:0. -/
def PTN_XW_COMMIT_WIN : Fld :=
  ⟨0x730000, 0, 9, .warm, .rw, .plain, .free, fun _ => 0⟩

/-- 13_partitions_sharing.md R370: PTN_XW_COMMIT 9. -/
def PTN_XW_COMMIT_ALL : Fld :=
  ⟨0x730000, 9, 1, .warm, .rw, .plain, .free, fun _ => 0⟩

/-- 13_partitions_sharing.md R370: PTN_XW_COMMIT 10. -/
def PTN_XW_COMMIT_GO : Fld :=
  ⟨0x730000, 10, 1, .warm, .w1s, .plain, .free, fun _ => 0⟩

/-- 13_partitions_sharing.md R370: PTN_XW_COMMIT 11. -/
def PTN_XW_COMMIT_DRAINED : Fld :=
  ⟨0x730000, 11, 1, .warm, .ro, .plain, .free, fun _ => 0⟩

/-- 13_partitions_sharing.md R370: PTN_XW_COMMIT 15:12. -/
def PTN_XW_COMMIT_STATUS : Fld :=
  ⟨0x730000, 12, 4, .warm, .ro, .plain, .free, fun _ => 0⟩

/-- 13_partitions_sharing.md R370: PTN_XW_COMMIT 24:16. -/
def PTN_XW_COMMIT_FAIL_WIN : Fld :=
  ⟨0x730000, 16, 9, .warm, .ro, .plain, .free, fun _ => 0⟩

/-- 15_clickers.md R408: CKR_IMG_CMD 0. -/
def CKR_IMG_CMD_VERIFY : Fld :=
  ⟨0x800000, 0, 1, .const, .wo, .plain, .free, fun _ => 0⟩

/-- 15_clickers.md R408: CKR_IMG_CMD 1. -/
def CKR_IMG_CMD_INSTALL : Fld :=
  ⟨0x800000, 1, 1, .const, .wo, .plain, .free, fun _ => 0⟩

/-- 15_clickers.md R408: CKR_IMG_CMD 15:8. -/
def CKR_IMG_CMD_MASK : Fld :=
  ⟨0x800000, 8, 8, .warm, .rw, .plain, .free, fun _ => 0⟩

/-- 15_clickers.md R408: CKR_IMG_STATUS 0. -/
def CKR_IMG_STATUS_VERIFIED : Fld :=
  ⟨0x800004, 0, 1, .warm, .ro, .plain, .free, fun _ => 0⟩

/-- 15_clickers.md R408: CKR_IMG_STATUS 1. -/
def CKR_IMG_STATUS_BUSY : Fld :=
  ⟨0x800004, 1, 1, .warm, .ro, .plain, .free, fun _ => 0⟩

/-- 15_clickers.md R408: CKR_IMG_STATUS 5:2. -/
def CKR_IMG_STATUS_RESULT : Fld :=
  ⟨0x800004, 2, 4, .warm, .ro, .plain, .free, fun _ => 0⟩

/-- 15_clickers.md R408: CKR_IMG_VERSION 31:0. -/
def CKR_IMG_VERSION : Fld :=
  ⟨0x800008, 0, 32, .warm, .ro, .plain, .free, fun _ => 0⟩

/-- 15_clickers.md R408: CKR_MBX_VEC 4:0. -/
def CKR_MBX_VEC : Fld :=
  ⟨0x800010, 0, 5, .warm, .rw, .plain, .free, fun _ => 0⟩

/-- 15_clickers.md Table 15-7: CKR_CLU_CTL 0. -/
def CKR_CLU_CTL_EN : Fld :=
  ⟨0x800100, 0, 1, .warm, .rwl, .plain, .setup, fun _ => 0⟩

/-- 15_clickers.md Table 15-7: CKR_CLU_CTL 3:1. -/
def CKR_CLU_CTL_SIB : Fld :=
  ⟨0x800100, 1, 3, .warm, .rw, .plain, .free, fun k => k ^^^ 1⟩

/-- 15_clickers.md Table 15-7: CKR_CLU_CTL 4. -/
def CKR_CLU_CTL_RETURN : Fld :=
  ⟨0x800100, 4, 1, .warm, .rw, .plain, .free, fun _ => 1⟩

/-- 15_clickers.md Table 15-7: CKR_CLU_CTL 15:5. -/
def CKR_CLU_CTL_DRAIN_TO : Fld :=
  ⟨0x800100, 5, 11, .warm, .rw, (.clamp 10 2000), .free, fun _ => 2000⟩

/-- 15_clickers.md Table 15-7: CKR_CLU_CTL 31:16. -/
def CKR_CLU_CTL_WDT : Fld :=
  ⟨0x800100, 16, 16, .warm, .rw, .zeroOne, .free, fun _ => 100⟩

/-- 15_clickers.md R408: CKR_CLU_STATUS 2:0. -/
def CKR_CLU_STATUS_STATE : Fld :=
  ⟨0x800104, 0, 3, .warm, .ro, .plain, .free, fun _ => 0⟩

/-- 15_clickers.md R408: CKR_CLU_STATUS 3. -/
def CKR_CLU_STATUS_UNSERVED : Fld :=
  ⟨0x800104, 3, 1, .warm, .ro, .plain, .free, fun _ => 0⟩

/-- 15_clickers.md R408: CKR_CLU_STATUS 6:4. -/
def CKR_CLU_STATUS_SERVING : Fld :=
  ⟨0x800104, 4, 3, .warm, .ro, .plain, .free, fun _ => 0⟩

/-- 15_clickers.md R408: CKR_CLU_CMD 0. -/
def CKR_CLU_CMD_SWAP : Fld :=
  ⟨0x800108, 0, 1, .const, .wo, .plain, .free, fun _ => 0⟩

/-- 15_clickers.md R408: CKR_CLU_CMD 1. -/
def CKR_CLU_CMD_RESTORE : Fld :=
  ⟨0x800108, 1, 1, .const, .wo, .plain, .free, fun _ => 0⟩

/-- 15_clickers.md R408: CKR_CLU_CMD 2. -/
def CKR_CLU_CMD_RECLAIM : Fld :=
  ⟨0x800108, 2, 1, .const, .wo, .plain, .free, fun _ => 0⟩

/-- 15_clickers.md R408: CKR_CLU_CMD 5:4. -/
def CKR_CLU_CMD_RESULT : Fld :=
  ⟨0x800108, 4, 2, .warm, .ro, .plain, .free, fun _ => 0⟩

/-- 15_clickers.md R408: CKR_CLU_VERSION 31:0. -/
def CKR_CLU_VERSION : Fld :=
  ⟨0x80010c, 0, 32, .warm, .ro, .plain, .free, fun _ => 0⟩

/-- 15_clickers.md R408: CKR_CLU_LATE 31:0. -/
def CKR_CLU_LATE : Fld :=
  ⟨0x800110, 0, 32, .warm, .rc, .plain, .free, fun _ => 0⟩

/-- 15_clickers.md R408: CKR_ENG_CTL 0. -/
def CKR_ENG_CTL_RESTORE : Fld :=
  ⟨0x801000, 0, 1, .const, .wo, .plain, .free, fun _ => 0⟩

/-- 15_clickers.md R408: CKR_ENG_STATUS 1:0. -/
def CKR_ENG_STATUS_STATE : Fld :=
  ⟨0x801004, 0, 2, .warm, .ro, .plain, .free, fun _ => 0⟩

/-- 15_clickers.md R408: CKR_ENG_STATUS 5:2. -/
def CKR_ENG_STATUS_CAUSE : Fld :=
  ⟨0x801004, 2, 4, .warm, .ro, .plain, .free, fun _ => 0⟩

/-- 15_clickers.md R408: CKR_ENG_BEAT 31:0. -/
def CKR_ENG_BEAT : Fld :=
  ⟨0x801008, 0, 32, .warm, .ro, .plain, .free, fun _ => 0⟩

/-- 15_clickers.md R408: CKR_MBX_REQ 31:0. -/
def CKR_MBX_REQ : Fld :=
  ⟨0x802000, 0, 32, .warm, .rw, .plain, .free, fun _ => 0⟩

/-- 15_clickers.md R408: CKR_MBX_RSP 31:0. -/
def CKR_MBX_RSP : Fld :=
  ⟨0x802040, 0, 32, .warm, .ro, .plain, .free, fun _ => 0⟩

/-- 15_clickers.md R408: CKR_MBX_CTL 0. -/
def CKR_MBX_CTL_REQ : Fld :=
  ⟨0x802080, 0, 1, .warm, .w1s, .plain, .free, fun _ => 0⟩

/-- 15_clickers.md R408: CKR_MBX_CTL 1. -/
def CKR_MBX_CTL_ACK : Fld :=
  ⟨0x802080, 1, 1, .warm, .w1c, .plain, .free, fun _ => 0⟩

/-- 15_clickers.md R408: CKR_MBX_CTL 2. -/
def CKR_MBX_CTL_BUSY : Fld :=
  ⟨0x802080, 2, 1, .warm, .w1c, .plain, .free, fun _ => 0⟩

/-- 15_clickers.md R408: CKR_MBX_CTL 3. -/
def CKR_MBX_CTL_ABORT : Fld :=
  ⟨0x802080, 3, 1, .warm, .ro, .plain, .free, fun _ => 0⟩

/-- 15_clickers.md R408: CKR_MBX_CTL 4. -/
def CKR_MBX_CTL_IRQ_EN : Fld :=
  ⟨0x802080, 4, 1, .warm, .rw, .plain, .free, fun _ => 0⟩

/-- 10_tlink_phy.md Table 10-10: TL_PHY_CTL 10:0. -/
def TL_PHY_CTL_FILL_INT : Fld :=
  ⟨0x900000, 0, 11, .warm, .rw, (.clamp 68 1024), .free, fun _ => 1024⟩

/-- 10_tlink_phy.md Table 10-10: TL_PHY_CTL 11. -/
def TL_PHY_CTL_FAST_EN : Fld :=
  ⟨0x900000, 11, 1, .warm, .rw, .plain, .free, fun _ => 1⟩

/-- 10_tlink_phy.md Table 10-11: TL_PHY_STATUS 3:0. -/
def TL_PHY_STATUS_TSTATE : Fld :=
  ⟨0x900004, 0, 4, .warm, .ro, .plain, .free, fun _ => 0⟩

/-- 10_tlink_phy.md Table 10-11: TL_PHY_STATUS 4. -/
def TL_PHY_STATUS_FAST_USED : Fld :=
  ⟨0x900004, 4, 1, .warm, .ro, .plain, .free, fun _ => 0⟩

/-- 10_tlink_phy.md Table 10-11: TL_PHY_STATUS 9:5. -/
def TL_PHY_STATUS_RX_OK : Fld :=
  ⟨0x900004, 5, 5, .warm, .ro, .plain, .free, fun _ => 0⟩

/-- 10_tlink_phy.md Table 10-11: TL_PHY_STATUS 14:10. -/
def TL_PHY_STATUS_PARTNER_RX_OK : Fld :=
  ⟨0x900004, 10, 5, .warm, .ro, .plain, .free, fun _ => 0⟩

/-- 10_tlink_phy.md Table 10-11: TL_PHY_STATUS 15. -/
def TL_PHY_STATUS_LEADER : Fld :=
  ⟨0x900004, 15, 1, .warm, .ro, .plain, .free, fun _ => 0⟩

/-- 10_tlink_phy.md Table 10-12: TL_PARTNER 5:0. -/
def TL_PARTNER_DEV_ID : Fld :=
  ⟨0x900008, 0, 6, .warm, .ro, .plain, .free, fun _ => 0⟩

/-- 10_tlink_phy.md Table 10-12: TL_PARTNER 11:6. -/
def TL_PARTNER_PORT : Fld :=
  ⟨0x900008, 6, 6, .warm, .ro, .plain, .free, fun _ => 0⟩

/-- 10_tlink_phy.md Table 10-12: TL_PARTNER 15:12. -/
def TL_PARTNER_MAX_RATE : Fld :=
  ⟨0x900008, 12, 4, .warm, .ro, .plain, .free, fun _ => 0⟩

/-- 10_tlink_phy.md Table 10-12: TL_PARTNER 16. -/
def TL_PARTNER_SPARE : Fld :=
  ⟨0x900008, 16, 1, .warm, .ro, .plain, .free, fun _ => 0⟩

/-- 10_tlink_phy.md Table 10-12: TL_PARTNER 17. -/
def TL_PARTNER_VALID : Fld :=
  ⟨0x900008, 17, 1, .warm, .ro, .plain, .free, fun _ => 0⟩

/-- 10_tlink_phy.md Table 10-13: TL_SOAK 3:0. -/
def TL_SOAK_SOAK : Fld :=
  ⟨0x90000c, 0, 4, .warm, .rw, (.clamp 3 15), .free, fun _ => 7⟩

/-- 10_tlink_phy.md Table 10-13: TL_SOAK 31:16. -/
def TL_SOAK_CORR_LIMIT : Fld :=
  ⟨0x90000c, 16, 16, .warm, .rw, .plain, .free, fun _ => 4096⟩

/-- 10_tlink_phy.md R283: STITCH_BAD 31:0. -/
def STITCH_BAD : Fld :=
  ⟨0x900010, 0, 32, .warm, .rc, .plain, .free, fun _ => 0⟩

/-- 10_tlink_phy.md R283: TYPE_BAD 31:0. -/
def TYPE_BAD : Fld :=
  ⟨0x900014, 0, 32, .warm, .rc, .plain, .free, fun _ => 0⟩

/-- 10_tlink_phy.md R283: TS_BAD 31:0. -/
def TS_BAD : Fld :=
  ⟨0x900018, 0, 32, .warm, .rc, .plain, .free, fun _ => 0⟩

/-- 10_tlink_phy.md R283: FILLER_DEL 31:0. -/
def FILLER_DEL : Fld :=
  ⟨0x90001c, 0, 32, .warm, .rc, .plain, .free, fun _ => 0⟩

/-- 10_tlink_phy.md R283: EB_FAULT 31:0. -/
def EB_FAULT : Fld :=
  ⟨0x900020, 0, 32, .warm, .rc, .plain, .free, fun _ => 0⟩

/-- 10_tlink_phy.md R283: SOAK_FAIL 31:0. -/
def SOAK_FAIL : Fld :=
  ⟨0x900024, 0, 32, .warm, .rc, .plain, .free, fun _ => 0⟩

/-- 10_tlink_phy.md R283: FAST_FAIL 31:0. -/
def FAST_FAIL : Fld :=
  ⟨0x900028, 0, 32, .warm, .rc, .plain, .free, fun _ => 0⟩

/-- 11_welt_layer.md Table 11-9: WLT_CTL 6:0. -/
def WLT_CTL_T_LL : Fld :=
  ⟨0x900100, 0, 7, .warm, .rw, (.clamp 1 64), .free, fun _ => 8⟩

/-- 11_welt_layer.md Table 11-9: WLT_CTL 15:8. -/
def WLT_CTL_REPLAY_TO : Fld :=
  ⟨0x900100, 8, 8, .warm, .rw, (.clamp 5 160), .free, fun _ => 20⟩

/-- 11_welt_layer.md Table 11-9: WLT_CTL 19:16. -/
def WLT_CTL_REPLAY_MAX : Fld :=
  ⟨0x900100, 16, 4, .warm, .rw, .zeroOne, .free, fun _ => 4⟩

/-- 11_welt_layer.md Table 11-9: WLT_CTL 26:20. -/
def WLT_CTL_DEAD_TO : Fld :=
  ⟨0x900100, 20, 7, .warm, .rw, (.clamp 2 64), .free, fun _ => 16⟩

/-- 11_welt_layer.md Table 11-9: WLT_CTL 27. -/
def WLT_CTL_SPARE_EN : Fld :=
  ⟨0x900100, 27, 1, .warm, .rw, .plain, .free, fun _ => 1⟩

/-- 11_welt_layer.md Table 11-9: WLT_CTL 28. -/
def WLT_CTL_WIDTH_EN : Fld :=
  ⟨0x900100, 28, 1, .warm, .rw, .plain, .free, fun _ => 1⟩

/-- 11_welt_layer.md Table 11-10: WLT_STATUS 1:0. -/
def WLT_STATUS_SPARE : Fld :=
  ⟨0x900104, 0, 2, .warm, .ro, .plain, .free, fun _ => 0⟩

/-- 11_welt_layer.md Table 11-10: WLT_STATUS 4:2. -/
def WLT_STATUS_SPARE_FOR : Fld :=
  ⟨0x900104, 2, 3, .warm, .ro, .plain, .free, fun _ => 0⟩

/-- 11_welt_layer.md Table 11-10: WLT_STATUS 9:5. -/
def WLT_STATUS_OUT_LANES : Fld :=
  ⟨0x900104, 5, 5, .warm, .ro, .plain, .free, fun _ => 0⟩

/-- 11_welt_layer.md Table 11-10: WLT_STATUS 10. -/
def WLT_STATUS_RECOVER : Fld :=
  ⟨0x900104, 10, 1, .warm, .ro, .plain, .free, fun _ => 0⟩

/-- 11_welt_layer.md Table 11-10: WLT_STATUS 11. -/
def WLT_STATUS_REPLAYING : Fld :=
  ⟨0x900104, 11, 1, .warm, .ro, .plain, .free, fun _ => 0⟩

/-- 11_welt_layer.md Table 11-10: WLT_STATUS 12. -/
def WLT_STATUS_LEAK_LOW : Fld :=
  ⟨0x900104, 12, 1, .warm, .ro, .plain, .free, fun _ => 0⟩

/-- 11_welt_layer.md Table 11-10: WLT_STATUS 15:13. -/
def WLT_STATUS_DOWN_CAUSE : Fld :=
  ⟨0x900104, 13, 3, .warm, .ro, .plain, .free, fun _ => 0⟩

/-- 11_welt_layer.md R320: WLT_SEQ 15:0. -/
def WLT_SEQ_N : Fld :=
  ⟨0x900108, 0, 16, .warm, .ro, .plain, .free, fun _ => 0⟩

/-- 11_welt_layer.md R320: WLT_SEQ 31:16. -/
def WLT_SEQ_E : Fld :=
  ⟨0x900108, 16, 16, .warm, .ro, .plain, .free, fun _ => 0⟩

/-- 11_welt_layer.md R320: WLT_OLDEST 15:0. -/
def WLT_OLDEST_O : Fld :=
  ⟨0x90010c, 0, 16, .warm, .ro, .plain, .free, fun _ => 0⟩

/-- 11_welt_layer.md R320: WLT_OLDEST 26:16. -/
def WLT_OLDEST_HELD : Fld :=
  ⟨0x90010c, 16, 11, .warm, .ro, .plain, .free, fun _ => 0⟩

/-- 11_welt_layer.md R320: WLT_LINK_DELAY 31:0. -/
def WLT_LINK_DELAY : Fld :=
  ⟨0x900110, 0, 32, .warm, .ro, .plain, .free, fun _ => 0⟩

/-- 11_welt_layer.md R320: WLT_VL_CRED 11:0. -/
def WLT_VL_CRED : Fld :=
  ⟨0x900120, 0, 12, .warm, .rwl, .vlCred, .portOff8, fun _ => 256⟩

/-- 11_welt_layer.md R320: WLT_VL_STAT 11:0. -/
def WLT_VL_STAT_AVAIL : Fld :=
  ⟨0x900140, 0, 12, .warm, .ro, .plain, .free, fun _ => 0⟩

/-- 11_welt_layer.md R320: WLT_VL_STAT 23:12. -/
def WLT_VL_STAT_LEAKED : Fld :=
  ⟨0x900140, 12, 12, .warm, .ro, .plain, .free, fun _ => 0⟩

/-- 11_welt_layer.md R320: WLT_VL_STAT2 11:0. -/
def WLT_VL_STAT2_GRANTED : Fld :=
  ⟨0x900144, 0, 12, .warm, .ro, .plain, .free, fun _ => 0⟩

/-- 11_welt_layer.md R320: WLT_VL_STAT2 27:16. -/
def WLT_VL_STAT2_RX_OCC : Fld :=
  ⟨0x900144, 16, 12, .warm, .ro, .plain, .free, fun _ => 0⟩

/-- 11_welt_layer.md R320: ACK_OOW 31:0. -/
def ACK_OOW : Fld :=
  ⟨0x900180, 0, 32, .warm, .rc, .plain, .free, fun _ => 0⟩

/-- 11_welt_layer.md R320: NAK_RX 31:0. -/
def NAK_RX : Fld :=
  ⟨0x900184, 0, 32, .warm, .rc, .plain, .free, fun _ => 0⟩

/-- 11_welt_layer.md R320: NAK_TX 31:0. -/
def NAK_TX : Fld :=
  ⟨0x900188, 0, 32, .warm, .rc, .plain, .free, fun _ => 0⟩

/-- 11_welt_layer.md R320: REPLAYS 31:0. -/
def REPLAYS : Fld :=
  ⟨0x90018c, 0, 32, .warm, .rc, .plain, .free, fun _ => 0⟩

/-- 11_welt_layer.md R320: CRED_OVF 31:0. -/
def CRED_OVF : Fld :=
  ⟨0x900190, 0, 32, .warm, .rc, .plain, .free, fun _ => 0⟩

/-- 11_welt_layer.md R320: RETRAIN_LEAK 31:0. -/
def RETRAIN_LEAK : Fld :=
  ⟨0x900194, 0, 32, .warm, .rc, .plain, .free, fun _ => 0⟩

/-- 11_welt_layer.md R320: SPARE_SWAPS 31:0. -/
def SPARE_SWAPS : Fld :=
  ⟨0x900198, 0, 32, .warm, .rc, .plain, .free, fun _ => 0⟩

/-- 11_welt_layer.md R320: WIDTH_CHG 31:0. -/
def WIDTH_CHG : Fld :=
  ⟨0x90019c, 0, 32, .warm, .rc, .plain, .free, fun _ => 0⟩

/-- 11_welt_layer.md R320: DELAY_MISS 31:0. -/
def DELAY_MISS : Fld :=
  ⟨0x9001a0, 0, 32, .warm, .rc, .plain, .free, fun _ => 0⟩

/-- 11_welt_layer.md R320: CTL_FAIL 31:0. -/
def CTL_FAIL : Fld :=
  ⟨0x9001a4, 0, 32, .warm, .rc, .plain, .free, fun _ => 0⟩

/-- 11_welt_layer.md R320: CTL_BAD 31:0. -/
def CTL_BAD : Fld :=
  ⟨0x9001a8, 0, 32, .warm, .rc, .plain, .free, fun _ => 0⟩

/-- 11_welt_layer.md R320: RESUME_FAIL 31:0. -/
def RESUME_FAIL : Fld :=
  ⟨0x9001ac, 0, 32, .warm, .rc, .plain, .free, fun _ => 0⟩

/-- 11_welt_layer.md R320: GSEQ_DUP 31:0. -/
def GSEQ_DUP : Fld :=
  ⟨0x9001b0, 0, 32, .warm, .rc, .plain, .free, fun _ => 0⟩

/-- 11_welt_layer.md R320: GSEQ_RANGE 31:0. -/
def GSEQ_RANGE : Fld :=
  ⟨0x9001b4, 0, 32, .warm, .rc, .plain, .free, fun _ => 0⟩

/-- 11_welt_layer.md R320: FAILOVERS 31:0. -/
def FAILOVERS : Fld :=
  ⟨0x9001b8, 0, 32, .warm, .rc, .plain, .free, fun _ => 0⟩

/-- 11_welt_layer.md R320: WLT_CTL2 3:0. -/
def WLT_CTL2_FLOOR : Fld :=
  ⟨0x9001c0, 0, 4, .warm, .rw, .zeroOne, .free, fun _ => 12⟩

/-- 11_welt_layer.md R320: WLT_CTL2 15:8. -/
def WLT_CTL2_ACK_INT : Fld :=
  ⟨0x9001c0, 8, 8, .warm, .rw, (.clamp 8 255), .free, fun _ => 64⟩

/-- 11_welt_layer.md R320: WLT_CTL2 31:16. -/
def WLT_CTL2_CORR_MAX : Fld :=
  ⟨0x9001c0, 16, 16, .warm, .rw, .zeroOne, .free, fun _ => 8192⟩

/-- 11_welt_layer.md Table 11-11: WLT_PAIR_CTL 0. -/
def WLT_PAIR_CTL_EN : Fld :=
  ⟨0x910000, 0, 1, .warm, .rw, .plain, .free, fun _ => 0⟩

/-- 11_welt_layer.md Table 11-11: WLT_PAIR_CTL 6:1. -/
def WLT_PAIR_CTL_PORT_A : Fld :=
  ⟨0x910000, 1, 6, .warm, .rwl, .plain, .pairEn, fun _ => 0⟩

/-- 11_welt_layer.md Table 11-11: WLT_PAIR_CTL 12:7. -/
def WLT_PAIR_CTL_PORT_B : Fld :=
  ⟨0x910000, 7, 6, .warm, .rwl, .plain, .pairEn, fun _ => 0⟩

/-- 11_welt_layer.md R320: WLT_PAIR_STATUS 1:0. -/
def WLT_PAIR_STATUS_STATE : Fld :=
  ⟨0x910004, 0, 2, .warm, .ro, .plain, .free, fun _ => 0⟩

/-- 11_welt_layer.md R320: WLT_PAIR_STATUS 2. -/
def WLT_PAIR_STATUS_UP_A : Fld :=
  ⟨0x910004, 2, 1, .warm, .ro, .plain, .free, fun _ => 0⟩

/-- 11_welt_layer.md R320: WLT_PAIR_STATUS 3. -/
def WLT_PAIR_STATUS_UP_B : Fld :=
  ⟨0x910004, 3, 1, .warm, .ro, .plain, .free, fun _ => 0⟩

/-- 11_welt_layer.md R320: WLT_PAIR_STATUS 9:4. -/
def WLT_PAIR_STATUS_DEV_ID : Fld :=
  ⟨0x910004, 4, 6, .warm, .ro, .plain, .free, fun _ => 0⟩

/-- 11_welt_layer.md R320: PAIR_FAILOVERS 31:0. -/
def PAIR_FAILOVERS : Fld :=
  ⟨0x910008, 0, 32, .warm, .rc, .plain, .free, fun _ => 0⟩

/-- 11_welt_layer.md R320: RESENT_PKTS 31:0. -/
def RESENT_PKTS : Fld :=
  ⟨0x91000c, 0, 32, .warm, .rc, .plain, .free, fun _ => 0⟩

/-- 12_fabric.md Table 12-8: FAB_CTL 5:0. -/
def FAB_CTL_DEV_ID : Fld :=
  ⟨0xa00000, 0, 6, .cold, .rwl, .plain, .setup, fun _ => 0⟩

/-- 12_fabric.md Table 12-8: FAB_CTL 9:6. -/
def FAB_CTL_TTL_INIT : Fld :=
  ⟨0xa00000, 6, 4, .warm, .rw, .zeroOne, .free, fun _ => 7⟩

/-- 12_fabric.md Table 12-8: FAB_CTL 10. -/
def FAB_CTL_HASH_MODE : Fld :=
  ⟨0xa00000, 10, 1, .warm, .rw, .plain, .free, fun _ => 0⟩

/-- 12_fabric.md Table 12-8: FAB_CTL 11. -/
def FAB_CTL_NOTICE_EN : Fld :=
  ⟨0xa00000, 11, 1, .warm, .rw, .plain, .free, fun _ => 1⟩

/-- 12_fabric.md R345: FAB_STATUS 6:0. -/
def FAB_STATUS_UP_PORTS : Fld :=
  ⟨0xa00004, 0, 7, .warm, .ro, .plain, .free, fun _ => 0⟩

/-- 12_fabric.md R345: FAB_STATUS 7. -/
def FAB_STATUS_CLASH : Fld :=
  ⟨0xa00004, 7, 1, .warm, .ro, .plain, .free, fun _ => 0⟩

/-- 12_fabric.md R345: NO_ROUTE 31:0. -/
def NO_ROUTE : Fld :=
  ⟨0xa00010, 0, 32, .warm, .rc, .plain, .free, fun _ => 0⟩

/-- 12_fabric.md R345: TTL_DROP 31:0. -/
def TTL_DROP : Fld :=
  ⟨0xa00014, 0, 32, .warm, .rc, .plain, .free, fun _ => 0⟩

/-- 12_fabric.md R345: EXP_MISS 31:0. -/
def EXP_MISS : Fld :=
  ⟨0xa00018, 0, 32, .warm, .rc, .plain, .free, fun _ => 0⟩

/-- 12_fabric.md R345: CLASH_DISC 31:0. -/
def CLASH_DISC : Fld :=
  ⟨0xa0001c, 0, 32, .warm, .rc, .plain, .free, fun _ => 0⟩

/-- 12_fabric.md R345: RET_STALE 31:0. -/
def RET_STALE : Fld :=
  ⟨0xa00020, 0, 32, .warm, .rc, .plain, .free, fun _ => 0⟩

/-- 12_fabric.md R345: NOTICE_DUP 31:0. -/
def NOTICE_DUP : Fld :=
  ⟨0xa00024, 0, 32, .warm, .rc, .plain, .free, fun _ => 0⟩

/-- 12_fabric.md R345: NOTICE_SUPP 31:0. -/
def NOTICE_SUPP : Fld :=
  ⟨0xa00028, 0, 32, .warm, .rc, .plain, .free, fun _ => 0⟩

/-- 12_fabric.md R345: NBR_CHANGE 31:0. -/
def NBR_CHANGE : Fld :=
  ⟨0xa0002c, 0, 32, .warm, .rc, .plain, .free, fun _ => 0⟩

/-- 12_fabric.md R345: RET_FULL 31:0. -/
def RET_FULL : Fld :=
  ⟨0xa00030, 0, 32, .warm, .rc, .plain, .free, fun _ => 0⟩

/-- 12_fabric.md R345: FAB_RET_LIM 14:0. -/
def FAB_RET_LIM : Fld :=
  ⟨0xa00040, 0, 15, .warm, .rw, (.clamp 64 16384), .free, fun _ => 1024⟩

/-- 12_fabric.md Table 12-9: FAB_DEV 1:0. -/
def FAB_DEV_MODE : Fld :=
  ⟨0xa00100, 0, 2, .warm, .rw, .plain, .free, fun _ => 0⟩

/-- 12_fabric.md Table 12-9: FAB_DEV 3:2. -/
def FAB_DEV_NHOPSM1 : Fld :=
  ⟨0xa00100, 2, 2, .warm, .rw, .plain, .free, fun _ => 0⟩

/-- 12_fabric.md Table 12-9: FAB_DEV 9:4. -/
def FAB_DEV_HOP0 : Fld :=
  ⟨0xa00100, 4, 6, .warm, .rw, .plain, .free, fun _ => 0⟩

/-- 12_fabric.md Table 12-9: FAB_DEV 15:10. -/
def FAB_DEV_HOP1 : Fld :=
  ⟨0xa00100, 10, 6, .warm, .rw, .plain, .free, fun _ => 0⟩

/-- 12_fabric.md Table 12-9: FAB_DEV 21:16. -/
def FAB_DEV_HOP2 : Fld :=
  ⟨0xa00100, 16, 6, .warm, .rw, .plain, .free, fun _ => 0⟩

/-- 12_fabric.md Table 12-9: FAB_DEV 27:22. -/
def FAB_DEV_HOP3 : Fld :=
  ⟨0xa00100, 22, 6, .warm, .rw, .plain, .free, fun _ => 0⟩

/-- 12_fabric.md R345: FAB_DEV_STAT 3:0. -/
def FAB_DEV_STAT_UP : Fld :=
  ⟨0xa00104, 0, 4, .warm, .ro, .plain, .free, fun _ => 0⟩

/-- 12_fabric.md R345: FAB_DEV_STAT 7:4. -/
def FAB_DEV_STAT_MOVED : Fld :=
  ⟨0xa00104, 4, 4, .warm, .ro, .plain, .free, fun _ => 0⟩

/-- 12_fabric.md R345: FAB_DEV_STAT 15:8. -/
def FAB_DEV_STAT_MOVED_TO : Fld :=
  ⟨0xa00104, 8, 8, .warm, .ro, .plain, .free, fun _ => 0⟩

/-- 12_fabric.md R345: FAB_DEV_STAT 16. -/
def FAB_DEV_STAT_REACH : Fld :=
  ⟨0xa00104, 16, 1, .warm, .ro, .plain, .free, fun _ => 0⟩

/-- 12_fabric.md R345: FAB_NBR 5:0. -/
def FAB_NBR_DEV_ID : Fld :=
  ⟨0xa00600, 0, 6, .warm, .ro, .plain, .free, fun _ => 0⟩

/-- 12_fabric.md R345: FAB_NBR 11:6. -/
def FAB_NBR_PORT : Fld :=
  ⟨0xa00600, 6, 6, .warm, .ro, .plain, .free, fun _ => 0⟩

/-- 12_fabric.md R345: FAB_NBR 12. -/
def FAB_NBR_UP : Fld :=
  ⟨0xa00600, 12, 1, .warm, .ro, .plain, .free, fun _ => 0⟩

/-- 12_fabric.md R345: FAB_NBR 13. -/
def FAB_NBR_VALID : Fld :=
  ⟨0xa00600, 13, 1, .warm, .ro, .plain, .free, fun _ => 0⟩

/-- 12_fabric.md R345: FAB_NBR 14. -/
def FAB_NBR_CLASH : Fld :=
  ⟨0xa00600, 14, 1, .warm, .ro, .plain, .free, fun _ => 0⟩

/-- 12_fabric.md R345: FAB_PORT 0. -/
def FAB_PORT_TRANSIT : Fld :=
  ⟨0xa00604, 0, 1, .warm, .rw, .plain, .free, fun _ => 1⟩

/-- 12_fabric.md R345: FAB_EXP 0. -/
def FAB_EXP_EN : Fld :=
  ⟨0xa00800, 0, 1, .warm, .rw, .plain, .free, fun _ => 0⟩

/-- 12_fabric.md R345: FAB_EXP 4:1. -/
def FAB_EXP_PARTITION : Fld :=
  ⟨0xa00800, 1, 4, .warm, .rwl, .plain, .expEn, fun _ => 0⟩

/-- 12_fabric.md R345: FAB_EXP 10:5. -/
def FAB_EXP_K : Fld :=
  ⟨0xa00800, 5, 6, .warm, .rwl, (.clamp 12 52), .expEn, fun _ => 0⟩

/-- 12_fabric.md R345: FAB_EXP_BASE 63:0. -/
def FAB_EXP_BASE : Fld :=
  ⟨0xa00808, 0, 64, .warm, .rwl, (.mask 12), .expEn, fun _ => 0⟩

/-- 12_fabric.md R345: FAB_GAP 0. -/
def FAB_GAP_EN : Fld :=
  ⟨0xa01000, 0, 1, .warm, .rw, .plain, .free, fun _ => 0⟩

/-- 12_fabric.md R345: FAB_GAP 6:1. -/
def FAB_GAP_K : Fld :=
  ⟨0xa01000, 1, 6, .warm, .rwl, (.clamp 20 58), .gapEn, fun _ => 0⟩

/-- 12_fabric.md R345: FAB_GAP_BASE 63:0. -/
def FAB_GAP_BASE : Fld :=
  ⟨0xa01008, 0, 64, .warm, .rwl, .plain, .gapEn, fun _ => 0⟩

/-- 12_fabric.md R345: FAB_GAP_GBASE 63:0. -/
def FAB_GAP_GBASE : Fld :=
  ⟨0xa01010, 0, 64, .warm, .rwl, .plain, .gapEn, fun _ => 0⟩

/-- 12_fabric.md R345: FAB_NOTICE_LOG 31:0. -/
def FAB_NOTICE_LOG : Fld :=
  ⟨0xa02000, 0, 32, .warm, .ro, .plain, .free, fun _ => 0⟩

/-- 12_fabric.md R345: FAB_NOTICE_NEXT 3:0. -/
def FAB_NOTICE_NEXT : Fld :=
  ⟨0xa02200, 0, 4, .warm, .ro, .plain, .free, fun _ => 0⟩

/-- 12_fabric.md R345: FAB_RET_USE 14:0. -/
def FAB_RET_USE : Fld :=
  ⟨0xa03000, 0, 15, .warm, .ro, .plain, .free, fun _ => 0⟩

/-- The registers of this file, piece 1: offset, strides and counts, 64-bit, fields (R518). -/
def regsC1 : List Reg := [
  ⟨0x600000, [], false, [AWT_STATUS_CHECKING, AWT_STATUS_OVERLAP, AWT_STATUS_IN_FORCE]⟩,
  ⟨0x600008, [], false, [AWT_FENCE_GO]⟩,
  ⟨0x60000c, [], false, [AWT_FENCE_DONE_DONE, AWT_FENCE_DONE_STALE]⟩,
  ⟨0x600010, [], false, [AWT_FENCE_TO]⟩,
  ⟨0x600018, [], false, [AWT_OVL_ENTRY_A, AWT_OVL_ENTRY_B, AWT_OVL_SET]⟩,
  ⟨0x600020, [], true, [AWT_DLOG_ADDR]⟩,
  ⟨0x600028, [], true, [AWT_DLOG_RID, AWT_DLOG_REQ_SRC, AWT_DLOG_OWNER, AWT_DLOG_REASON, AWT_DLOG_ACCESS, AWT_DLOG_GLOBAL, AWT_DLOG_VALID, AWT_DLOG_PASID, AWT_DLOG_PASID_V, AWT_DLOG_SRC_DEV]⟩,
  ⟨0x600030, [], false, [AWT_DENIED]⟩,
  ⟨0x600034, [], false, [AWT_LOCKED]⟩,
  ⟨0x600038, [], false, [AWT_LOCK_WR]⟩,
  ⟨0x60003c, [], false, [AWT_STALE]⟩,
  ⟨0x600040, [], false, [AWT_PLACED_CA]⟩,
  ⟨0x600100, [(0x4, 16)], false, [AWT_SCOPE_DOWN, AWT_SCOPE_UP, AWT_SCOPE_P2P]⟩,
  ⟨0x600200, [(0x4, 16)], false, [AWT_BANK_SEL_MODE, AWT_BANK_SEL_ACTIVE, AWT_BANK_SEL_SWAP, AWT_BANK_SEL_DRAINED]⟩,
  ⟨0x600800, [], true, [AWL_ADDR]⟩,
  ⟨0x600808, [], true, [AWL_DATA]⟩,
  ⟨0x600810, [], false, [AWL_CTL_PARTITION, AWL_CTL_GLOBAL, AWL_CTL_WRITE, AWL_CTL_SIZEM1, AWL_CTL_VIA, AWL_CTL_GO]⟩,
  ⟨0x600814, [], false, [AWL_STATUS]⟩,
  ⟨0x610000, [(0x20, 8192)], true, [AWT_W0_VALID, AWT_W0_LOCK, AWT_W0_GLOBAL, AWT_W0_BANK, AWT_W0_START]⟩,
  ⟨0x610008, [(0x20, 8192)], true, [AWT_W1_R, AWT_W1_W, AWT_W1_A, AWT_W1_END]⟩,
  ⟨0x610010, [(0x20, 8192)], true, [AWT_W2_RID, AWT_W2_RID_MASK, AWT_W2_OWNER, AWT_W2_REQ_SRC, AWT_W2_REQ_DEV]⟩,
  ⟨0x610018, [(0x20, 8192)], true, [AWT_W3_PASID, AWT_W3_PASID_MODE, AWT_W3_NS, AWT_W3_RO, AWT_W3_IBO, AWT_W3_TPH, AWT_W3_PH, AWT_W3_ST]⟩,
  ⟨0x700000, [], false, [PTN_CTL_MGR_PT, PTN_CTL_MGR_RING]⟩,
  ⟨0x700010, [(0x10, 16)], false, [PTN_CFG_EN, PTN_CFG_VECM1, PTN_CFG_SSID]⟩]

/-- The registers of this file, piece 2: offset, strides and counts, 64-bit, fields (R518). -/
def regsC2 : List Reg := [
  ⟨0x700014, [(0x10, 16)], false, [PTN_STAT_ACTIVE, PTN_STAT_IN_RESET, PTN_STAT_UPORT, PTN_STAT_UP_VALID, PTN_STAT_UP_CONFLICT, PTN_STAT_SLICES]⟩,
  ⟨0x700018, [(0x10, 16)], false, [PART_DISC]⟩,
  ⟨0x70001c, [(0x10, 16)], false, [PART_LATE]⟩,
  ⟨0x700200, [(0x4, 64)], false, [PTN_PORT_PARTITION]⟩,
  ⟨0x701000, [], false, [PTN_SLC_SEL_PARTITION, PTN_SLC_SEL_SLICE]⟩,
  ⟨0x701004, [], false, [PTN_SLC_PASID_PASID, PTN_SLC_PASID_PASID_V]⟩,
  ⟨0x701008, [], false, [PTN_SLC_QP_QP_BASE, PTN_SLC_QP_QP_COUNT]⟩,
  ⟨0x70100c, [], false, [PTN_SLC_VEC_VEC_BASE, PTN_SLC_VEC_VEC_COUNT]⟩,
  ⟨0x701010, [], false, [PTN_SLC_DMA_SHARE, PTN_SLC_DMA_CLUSTER]⟩,
  ⟨0x701014, [], false, [PTN_SLC_OVF_OVF_QUOTA]⟩,
  ⟨0x701018, [], false, [PTN_SLC_CMD_CREATE, PTN_SLC_CMD_DELETE, PTN_SLC_CMD_RECREATE, PTN_SLC_CMD_RESET, PTN_SLC_CMD_LOAD, PTN_SLC_CMD_RESULT]⟩,
  ⟨0x70101c, [], false, [PTN_SLC_STAT_EXISTS, PTN_SLC_STAT_RESETTING, PTN_SLC_STAT_QPS, PTN_SLC_STAT_RESIZE_PEND]⟩,
  ⟨0x701020, [], false, [PTN_RESIZE_LAST_RESULT, PTN_RESIZE_LAST_SLICE, PTN_RESIZE_LAST_PARTITION]⟩,
  ⟨0x710000, [(0x8, 4096)], true, [PTN_RID_VALID, PTN_RID_PORT, PTN_RID_PARTITION, PTN_RID_RID_REAL, PTN_RID_RID_GUEST, PTN_RID_XWIN, PTN_RID_XWIN_V]⟩,
  ⟨0x720000, [(0x20, 512)], false, [PTN_XW_CTL_EN, PTN_XW_CTL_SRC_PT, PTN_XW_CTL_TGT_PT, PTN_XW_CTL_TGT_GLOBAL, PTN_XW_CTL_K, PTN_XW_CTL_PENDING]⟩,
  ⟨0x720008, [(0x20, 512)], true, [PTN_XW_BASE]⟩,
  ⟨0x720010, [(0x20, 512)], true, [PTN_XW_TGT]⟩,
  ⟨0x720018, [(0x20, 512)], false, [PTN_XW_PKTS]⟩,
  ⟨0x730000, [], false, [PTN_XW_COMMIT_WIN, PTN_XW_COMMIT_ALL, PTN_XW_COMMIT_GO, PTN_XW_COMMIT_DRAINED, PTN_XW_COMMIT_STATUS, PTN_XW_COMMIT_FAIL_WIN]⟩,
  ⟨0x800000, [], false, [CKR_IMG_CMD_VERIFY, CKR_IMG_CMD_INSTALL, CKR_IMG_CMD_MASK]⟩,
  ⟨0x800004, [], false, [CKR_IMG_STATUS_VERIFIED, CKR_IMG_STATUS_BUSY, CKR_IMG_STATUS_RESULT]⟩,
  ⟨0x800008, [], false, [CKR_IMG_VERSION]⟩,
  ⟨0x800010, [], false, [CKR_MBX_VEC]⟩,
  ⟨0x800100, [(0x20, 8)], false, [CKR_CLU_CTL_EN, CKR_CLU_CTL_SIB, CKR_CLU_CTL_RETURN, CKR_CLU_CTL_DRAIN_TO, CKR_CLU_CTL_WDT]⟩]

/-- The registers of this file, piece 3: offset, strides and counts, 64-bit, fields (R518). -/
def regsC3 : List Reg := [
  ⟨0x800104, [(0x20, 8)], false, [CKR_CLU_STATUS_STATE, CKR_CLU_STATUS_UNSERVED, CKR_CLU_STATUS_SERVING]⟩,
  ⟨0x800108, [(0x20, 8)], false, [CKR_CLU_CMD_SWAP, CKR_CLU_CMD_RESTORE, CKR_CLU_CMD_RECLAIM, CKR_CLU_CMD_RESULT]⟩,
  ⟨0x80010c, [(0x20, 8)], false, [CKR_CLU_VERSION]⟩,
  ⟨0x800110, [(0x20, 8)], false, [CKR_CLU_LATE]⟩,
  ⟨0x801000, [(0x10, 96)], false, [CKR_ENG_CTL_RESTORE]⟩,
  ⟨0x801004, [(0x10, 96)], false, [CKR_ENG_STATUS_STATE, CKR_ENG_STATUS_CAUSE]⟩,
  ⟨0x801008, [(0x10, 96)], false, [CKR_ENG_BEAT]⟩,
  ⟨0x802000, [(0x100, 8), (0x4, 16)], false, [CKR_MBX_REQ]⟩,
  ⟨0x802040, [(0x100, 8), (0x4, 16)], false, [CKR_MBX_RSP]⟩,
  ⟨0x802080, [(0x100, 8)], false, [CKR_MBX_CTL_REQ, CKR_MBX_CTL_ACK, CKR_MBX_CTL_BUSY, CKR_MBX_CTL_ABORT, CKR_MBX_CTL_IRQ_EN]⟩,
  ⟨0x900000, [(0x400, 64)], false, [TL_PHY_CTL_FILL_INT, TL_PHY_CTL_FAST_EN]⟩,
  ⟨0x900004, [(0x400, 64)], false, [TL_PHY_STATUS_TSTATE, TL_PHY_STATUS_FAST_USED, TL_PHY_STATUS_RX_OK, TL_PHY_STATUS_PARTNER_RX_OK, TL_PHY_STATUS_LEADER]⟩,
  ⟨0x900008, [(0x400, 64)], false, [TL_PARTNER_DEV_ID, TL_PARTNER_PORT, TL_PARTNER_MAX_RATE, TL_PARTNER_SPARE, TL_PARTNER_VALID]⟩,
  ⟨0x90000c, [(0x400, 64)], false, [TL_SOAK_SOAK, TL_SOAK_CORR_LIMIT]⟩,
  ⟨0x900010, [(0x400, 64)], false, [STITCH_BAD]⟩,
  ⟨0x900014, [(0x400, 64)], false, [TYPE_BAD]⟩,
  ⟨0x900018, [(0x400, 64)], false, [TS_BAD]⟩,
  ⟨0x90001c, [(0x400, 64)], false, [FILLER_DEL]⟩,
  ⟨0x900020, [(0x400, 64)], false, [EB_FAULT]⟩,
  ⟨0x900024, [(0x400, 64)], false, [SOAK_FAIL]⟩,
  ⟨0x900028, [(0x400, 64)], false, [FAST_FAIL]⟩,
  ⟨0x900100, [(0x400, 64)], false, [WLT_CTL_T_LL, WLT_CTL_REPLAY_TO, WLT_CTL_REPLAY_MAX, WLT_CTL_DEAD_TO, WLT_CTL_SPARE_EN, WLT_CTL_WIDTH_EN]⟩,
  ⟨0x900104, [(0x400, 64)], false, [WLT_STATUS_SPARE, WLT_STATUS_SPARE_FOR, WLT_STATUS_OUT_LANES, WLT_STATUS_RECOVER, WLT_STATUS_REPLAYING, WLT_STATUS_LEAK_LOW, WLT_STATUS_DOWN_CAUSE]⟩,
  ⟨0x900108, [(0x400, 64)], false, [WLT_SEQ_N, WLT_SEQ_E]⟩]

/-- The registers of this file, piece 4: offset, strides and counts, 64-bit, fields (R518). -/
def regsC4 : List Reg := [
  ⟨0x90010c, [(0x400, 64)], false, [WLT_OLDEST_O, WLT_OLDEST_HELD]⟩,
  ⟨0x900110, [(0x400, 64)], false, [WLT_LINK_DELAY]⟩,
  ⟨0x900120, [(0x400, 64), (0x4, 8)], false, [WLT_VL_CRED]⟩,
  ⟨0x900140, [(0x400, 64), (0x8, 8)], false, [WLT_VL_STAT_AVAIL, WLT_VL_STAT_LEAKED]⟩,
  ⟨0x900144, [(0x400, 64), (0x8, 8)], false, [WLT_VL_STAT2_GRANTED, WLT_VL_STAT2_RX_OCC]⟩,
  ⟨0x900180, [(0x400, 64)], false, [ACK_OOW]⟩,
  ⟨0x900184, [(0x400, 64)], false, [NAK_RX]⟩,
  ⟨0x900188, [(0x400, 64)], false, [NAK_TX]⟩,
  ⟨0x90018c, [(0x400, 64)], false, [REPLAYS]⟩,
  ⟨0x900190, [(0x400, 64)], false, [CRED_OVF]⟩,
  ⟨0x900194, [(0x400, 64)], false, [RETRAIN_LEAK]⟩,
  ⟨0x900198, [(0x400, 64)], false, [SPARE_SWAPS]⟩,
  ⟨0x90019c, [(0x400, 64)], false, [WIDTH_CHG]⟩,
  ⟨0x9001a0, [(0x400, 64)], false, [DELAY_MISS]⟩,
  ⟨0x9001a4, [(0x400, 64)], false, [CTL_FAIL]⟩,
  ⟨0x9001a8, [(0x400, 64)], false, [CTL_BAD]⟩,
  ⟨0x9001ac, [(0x400, 64)], false, [RESUME_FAIL]⟩,
  ⟨0x9001b0, [(0x400, 64)], false, [GSEQ_DUP]⟩,
  ⟨0x9001b4, [(0x400, 64)], false, [GSEQ_RANGE]⟩,
  ⟨0x9001b8, [(0x400, 64)], false, [FAILOVERS]⟩,
  ⟨0x9001c0, [(0x400, 64)], false, [WLT_CTL2_FLOOR, WLT_CTL2_ACK_INT, WLT_CTL2_CORR_MAX]⟩,
  ⟨0x910000, [(0x20, 32)], false, [WLT_PAIR_CTL_EN, WLT_PAIR_CTL_PORT_A, WLT_PAIR_CTL_PORT_B]⟩,
  ⟨0x910004, [(0x20, 32)], false, [WLT_PAIR_STATUS_STATE, WLT_PAIR_STATUS_UP_A, WLT_PAIR_STATUS_UP_B, WLT_PAIR_STATUS_DEV_ID]⟩,
  ⟨0x910008, [(0x20, 32)], false, [PAIR_FAILOVERS]⟩]

/-- The registers of this file, piece 5: offset, strides and counts, 64-bit, fields (R518). -/
def regsC5 : List Reg := [
  ⟨0x91000c, [(0x20, 32)], false, [RESENT_PKTS]⟩,
  ⟨0xa00000, [], false, [FAB_CTL_DEV_ID, FAB_CTL_TTL_INIT, FAB_CTL_HASH_MODE, FAB_CTL_NOTICE_EN]⟩,
  ⟨0xa00004, [], false, [FAB_STATUS_UP_PORTS, FAB_STATUS_CLASH]⟩,
  ⟨0xa00010, [], false, [NO_ROUTE]⟩,
  ⟨0xa00014, [], false, [TTL_DROP]⟩,
  ⟨0xa00018, [], false, [EXP_MISS]⟩,
  ⟨0xa0001c, [], false, [CLASH_DISC]⟩,
  ⟨0xa00020, [], false, [RET_STALE]⟩,
  ⟨0xa00024, [], false, [NOTICE_DUP]⟩,
  ⟨0xa00028, [], false, [NOTICE_SUPP]⟩,
  ⟨0xa0002c, [], false, [NBR_CHANGE]⟩,
  ⟨0xa00030, [], false, [RET_FULL]⟩,
  ⟨0xa00040, [], false, [FAB_RET_LIM]⟩,
  ⟨0xa00100, [(0x10, 64)], false, [FAB_DEV_MODE, FAB_DEV_NHOPSM1, FAB_DEV_HOP0, FAB_DEV_HOP1, FAB_DEV_HOP2, FAB_DEV_HOP3]⟩,
  ⟨0xa00104, [(0x10, 64)], false, [FAB_DEV_STAT_UP, FAB_DEV_STAT_MOVED, FAB_DEV_STAT_MOVED_TO, FAB_DEV_STAT_REACH]⟩,
  ⟨0xa00600, [(0x8, 64)], false, [FAB_NBR_DEV_ID, FAB_NBR_PORT, FAB_NBR_UP, FAB_NBR_VALID, FAB_NBR_CLASH]⟩,
  ⟨0xa00604, [(0x8, 64)], false, [FAB_PORT_TRANSIT]⟩,
  ⟨0xa00800, [(0x10, 64)], false, [FAB_EXP_EN, FAB_EXP_PARTITION, FAB_EXP_K]⟩,
  ⟨0xa00808, [(0x10, 64)], true, [FAB_EXP_BASE]⟩,
  ⟨0xa01000, [(0x80, 16), (0x20, 4)], false, [FAB_GAP_EN, FAB_GAP_K]⟩,
  ⟨0xa01008, [(0x80, 16), (0x20, 4)], true, [FAB_GAP_BASE]⟩,
  ⟨0xa01010, [(0x80, 16), (0x20, 4)], true, [FAB_GAP_GBASE]⟩,
  ⟨0xa02000, [(0x20, 16), (0x4, 8)], false, [FAB_NOTICE_LOG]⟩,
  ⟨0xa02200, [], false, [FAB_NOTICE_NEXT]⟩]

/-- The registers of this file, piece 6: offset, strides and counts, 64-bit, fields (R518). -/
def regsC6 : List Reg := [
  ⟨0xa03000, [(0x4, 64)], false, [FAB_RET_USE]⟩]

/-- The registers of this file. -/
def regsC : List Reg := regsC1 ++ regsC2 ++ regsC3 ++ regsC4 ++ regsC5 ++ regsC6

end Sys2Proof.Machine
end

