-- ==== Sys2Proof/Machine/RegMapD.lean ====
section
/-! DEFINITION. The register fields of OFM, FLT, RST, PWD, TST, SLC, one definition each: offset, lowest bit, width, reset reach, access
type, how a write is stored, what locks it, and the reset value, as the register tables of spec/ give them. -/

namespace Sys2Proof.Machine


/-- 16_overflow_holdup.md Table 16-6: OFM_CTL 7:0. -/
def OFM_CTL_DUR_TC : Fld :=
  ⟨0xb00000, 0, 8, .warm, .rwl, .plain, .setupQuiesce, fun _ => 0⟩

/-- 16_overflow_holdup.md Table 16-7: OFM_STATUS 3:0. -/
def OFM_STATUS_READY : Fld :=
  ⟨0xb00004, 0, 4, .warm, .ro, .plain, .free, fun _ => 0⟩

/-- 16_overflow_holdup.md Table 16-7: OFM_STATUS 7:4. -/
def OFM_STATUS_FENCED : Fld :=
  ⟨0xb00004, 4, 4, .warm, .ro, .plain, .free, fun _ => 0⟩

/-- 16_overflow_holdup.md Table 16-7: OFM_STATUS 8. -/
def OFM_STATUS_DUR_ON : Fld :=
  ⟨0xb00004, 8, 1, .warm, .ro, .plain, .free, fun _ => 0⟩

/-- 16_overflow_holdup.md Table 16-7: OFM_STATUS 9. -/
def OFM_STATUS_OVER_BUDGET : Fld :=
  ⟨0xb00004, 9, 1, .warm, .ro, .plain, .free, fun _ => 0⟩

/-- 16_overflow_holdup.md Table 16-7: OFM_STATUS 10. -/
def OFM_STATUS_DUR_DONE : Fld :=
  ⟨0xb00004, 10, 1, .warm, .ro, .plain, .free, fun _ => 0⟩

/-- 16_overflow_holdup.md R428: OFM_DUR_HELD 31:0. -/
def OFM_DUR_HELD : Fld :=
  ⟨0xb00008, 0, 32, .warm, .live, .plain, .free, fun _ => 0⟩

/-- 16_overflow_holdup.md R428: OFM_DUR_LIMIT 31:0. -/
def OFM_DUR_LIMIT : Fld :=
  ⟨0xb0000c, 0, 32, .const, .live, .plain, .free, fun _ => 0⟩

/-- 16_overflow_holdup.md R428: OFM_DUR_DONE_T 63:0. -/
def OFM_DUR_DONE_T : Fld :=
  ⟨0xb00010, 0, 64, .warm, .ro, .plain, .free, fun _ => 0⟩

/-- 16_overflow_holdup.md R428: OFM_CMD 3:0. -/
def OFM_CMD_RESTORE : Fld :=
  ⟨0xb00018, 0, 4, .const, .wo, .plain, .free, fun _ => 0⟩

/-- 16_overflow_holdup.md R428: OFM_CMD 7:4. -/
def OFM_CMD_RESULT : Fld :=
  ⟨0xb00018, 4, 4, .warm, .ro, .plain, .free, fun _ => 0⟩

/-- 16_overflow_holdup.md R428: OFM_GRP_FREE 24:0. -/
def OFM_GRP_FREE : Fld :=
  ⟨0xb00040, 0, 25, .const, .live, .plain, .free, fun _ => 0⟩

/-- 16_overflow_holdup.md R428: OFM_GRP_CORR 31:0. -/
def OFM_GRP_CORR : Fld :=
  ⟨0xb00044, 0, 32, .warm, .rc, .plain, .free, fun _ => 0⟩

/-- 16_overflow_holdup.md R428: OFM_GRP_UNCORR 31:0. -/
def OFM_GRP_UNCORR : Fld :=
  ⟨0xb00048, 0, 32, .warm, .rc, .plain, .free, fun _ => 0⟩

/-- 16_overflow_holdup.md R428: OFM_GRP_REFUSED 31:0. -/
def OFM_GRP_REFUSED : Fld :=
  ⟨0xb0004c, 0, 32, .warm, .rc, .plain, .free, fun _ => 0⟩

/-- 16_overflow_holdup.md R428: OFM_QUOTA 15:0. -/
def OFM_QUOTA : Fld :=
  ⟨0xb00100, 0, 16, .warm, .rw, .plain, .free, fun _ => 64⟩

/-- 16_overflow_holdup.md R428: OFM_USE 26:0. -/
def OFM_USE : Fld :=
  ⟨0xb00120, 0, 27, .warm, .live, .plain, .free, fun _ => 0⟩

/-- 16_overflow_holdup.md R428: OFM_WARN 0. -/
def OFM_WARN_EN : Fld :=
  ⟨0xb00500, 0, 1, .warm, .rw, .plain, .free, fun _ => 0⟩

/-- 16_overflow_holdup.md R428: OFM_WARN 11:1. -/
def OFM_WARN_VEC : Fld :=
  ⟨0xb00500, 1, 11, .warm, .rw, .plain, .free, fun _ => 0⟩

/-- 16_overflow_holdup.md R428: QUOTA_HOLD 31:0. -/
def QUOTA_HOLD : Fld :=
  ⟨0xb00540, 0, 32, .warm, .rc, .plain, .free, fun _ => 0⟩

/-- 16_overflow_holdup.md R428: DUR_HOLD 31:0. -/
def DUR_HOLD : Fld :=
  ⟨0xb00544, 0, 32, .warm, .rc, .plain, .free, fun _ => 0⟩

/-- 17_faults.md Table 17-10: FLT_CTL 2:0. -/
def FLT_CTL_PAIR_SEV : Fld :=
  ⟨0xc00000, 0, 3, .warm, .rwl, (.clamp 0 5), .sevLock, fun _ => 4⟩

/-- 17_faults.md Table 17-10: FLT_CTL 3. -/
def FLT_CTL_PAIR_FORCE : Fld :=
  ⟨0xc00000, 3, 1, .warm, .rw, .plain, .free, fun _ => 0⟩

/-- 17_faults.md Table 17-10: FLT_CTL 4. -/
def FLT_CTL_SEV_LOCK : Fld :=
  ⟨0xc00000, 4, 1, .cold, .w1s, .plain, .free, fun _ => 0⟩

/-- 17_faults.md Table 17-10: FLT_CTL 5. -/
def FLT_CTL_NOTE_EN : Fld :=
  ⟨0xc00000, 5, 1, .warm, .rw, .plain, .free, fun _ => 1⟩

/-- 17_faults.md Table 17-10: FLT_CTL 10:6. -/
def FLT_CTL_NOTE_VEC : Fld :=
  ⟨0xc00000, 6, 5, .warm, .rw, .plain, .free, fun _ => 0⟩

/-- 17_faults.md R458: FLT_STATUS 0. -/
def FLT_STATUS_PAIR_STATIC : Fld :=
  ⟨0xc00004, 0, 1, .warm, .ro, .plain, .free, fun _ => 0⟩

/-- 17_faults.md R458: FLT_STATUS 1. -/
def FLT_STATUS_SELF_OK : Fld :=
  ⟨0xc00004, 1, 1, .warm, .ro, .plain, .free, fun _ => 0⟩

/-- 17_faults.md R458: FLT_STATUS 2. -/
def FLT_STATUS_ANY_PATH_BROKEN : Fld :=
  ⟨0xc00004, 2, 1, .const, .live, .plain, .free, fun _ => 0⟩

/-- 17_faults.md R458: FLT_STATUS 3. -/
def FLT_STATUS_ANY_SHADOW : Fld :=
  ⟨0xc00004, 3, 1, .const, .live, .plain, .free, fun _ => 0⟩

/-- 17_faults.md R458: FLT_STATUS 28:16. -/
def FLT_STATUS_STICKIES : Fld :=
  ⟨0xc00004, 16, 13, .const, .live, .plain, .free, fun _ => 0⟩

/-- 17_faults.md R458: FLT_FIRST 11:0. -/
def FLT_FIRST_SRC : Fld :=
  ⟨0xc00008, 0, 12, .cold, .ro, .plain, .free, fun _ => 0⟩

/-- 17_faults.md R458: FLT_FIRST 16. -/
def FLT_FIRST_VALID : Fld :=
  ⟨0xc00008, 16, 1, .cold, .w1c, .plain, .free, fun _ => 0⟩

/-- 17_faults.md R458: FLT_FIRST_TIME 63:0. -/
def FLT_FIRST_TIME : Fld :=
  ⟨0xc00010, 0, 64, .cold, .ro, .plain, .free, fun _ => 0⟩

/-- 17_faults.md R458: FLT_RING_SEQ 15:0. -/
def FLT_RING_SEQ : Fld :=
  ⟨0xc00018, 0, 16, .por, .ro, .plain, .free, fun _ => 0⟩

/-- 17_faults.md R458: FLT_RING_RD 15:0. -/
def FLT_RING_RD : Fld :=
  ⟨0xc0001c, 0, 16, .por, .rw, .plain, .free, fun _ => 0⟩

/-- 17_faults.md R458: FLT_RING_LOST 31:0. -/
def FLT_RING_LOST : Fld :=
  ⟨0xc00020, 0, 32, .por, .rc, .plain, .free, fun _ => 0⟩

/-- 17_faults.md R458: FLT_BLK_DISC 31:0. -/
def FLT_BLK_DISC : Fld :=
  ⟨0xc00024, 0, 32, .warm, .rc, .plain, .free, fun _ => 0⟩

/-- 17_faults.md Table 17-11: FLT_INJ 11:0. -/
def FLT_INJ_SRC : Fld :=
  ⟨0xc00028, 0, 12, .warm, .rw, .plain, .free, fun _ => 0⟩

/-- 17_faults.md Table 17-11: FLT_INJ 13:12. -/
def FLT_INJ_KIND : Fld :=
  ⟨0xc00028, 12, 2, .warm, .rw, .plain, .free, fun _ => 0⟩

/-- 17_faults.md Table 17-11: FLT_INJ 14. -/
def FLT_INJ_GO : Fld :=
  ⟨0xc00028, 14, 1, .warm, .w1s, .plain, .free, fun _ => 0⟩

/-- 17_faults.md Table 17-11: FLT_INJ 31:16. -/
def FLT_INJ_DUR : Fld :=
  ⟨0xc00028, 16, 16, .warm, .rw, .zeroOne, .free, fun _ => 1⟩

/-- 17_faults.md R458: FLT_CMD 11:0. -/
def FLT_CMD_SRC : Fld :=
  ⟨0xc00030, 0, 12, .warm, .rw, .plain, .free, fun _ => 0⟩

/-- 17_faults.md R458: FLT_CMD 12. -/
def FLT_CMD_RESTORE : Fld :=
  ⟨0xc00030, 12, 1, .const, .wo, .plain, .free, fun _ => 0⟩

/-- 17_faults.md R458: FLT_CMD 13. -/
def FLT_CMD_CLEAR_ALL : Fld :=
  ⟨0xc00030, 13, 1, .const, .wo, .plain, .free, fun _ => 0⟩

/-- 17_faults.md R458: FLT_CMD 17:16. -/
def FLT_CMD_RESULT : Fld :=
  ⟨0xc00030, 16, 2, .warm, .ro, .plain, .free, fun _ => 0⟩

/-- 17_faults.md R458: FLT_DEP 31:0. -/
def FLT_DEP : Fld :=
  ⟨0xc00100, 0, 32, .warm, .rwl, .plain, .sevLock, fltDepRst⟩

/-- 17_faults.md R458: FLT_BLK 1:0. -/
def FLT_BLK_STATE : Fld :=
  ⟨0xc00200, 0, 2, .warm, .ro, .plain, .free, fun _ => 0⟩

/-- 17_faults.md R458: FLT_BLK 4:2. -/
def FLT_BLK_RECENT : Fld :=
  ⟨0xc00200, 2, 3, .warm, .ro, .plain, .free, fun _ => 0⟩

/-- 17_faults.md R458: FLT_BLK 5. -/
def FLT_BLK_LIMIT_FENCED : Fld :=
  ⟨0xc00200, 5, 1, .warm, .ro, .plain, .free, fun _ => 0⟩

/-- 17_faults.md R458: BLOCK_RESETS 31:0. -/
def BLOCK_RESETS : Fld :=
  ⟨0xc00204, 0, 32, .warm, .rc, .plain, .free, fun _ => 0⟩

/-- 17_faults.md Table 17-11: FLT_SEV 2:0. -/
def FLT_SEV_SEV : Fld :=
  ⟨0xc10000, 0, 3, .warm, .rwl, (.clamp 0 5), .sevLock, sevDefault⟩

/-- 17_faults.md Table 17-11: FLT_SEV 4. -/
def FLT_SEV_STICKY : Fld :=
  ⟨0xc10000, 4, 1, .cold, .w1c, .plain, .free, fun _ => 0⟩

/-- 17_faults.md Table 17-11: FLT_SEV 5. -/
def FLT_SEV_LIVE : Fld :=
  ⟨0xc10000, 5, 1, .warm, .ro, .plain, .free, fun _ => 0⟩

/-- 17_faults.md Table 17-11: FLT_SEV 6. -/
def FLT_SEV_PATH_BROKEN : Fld :=
  ⟨0xc10000, 6, 1, .warm, .ro, .plain, .free, fun _ => 0⟩

/-- 17_faults.md Table 17-11: FLT_SEV 7. -/
def FLT_SEV_IMPL : Fld :=
  ⟨0xc10000, 7, 1, .const, .ro, .plain, .free, sevImpl⟩

/-- 17_faults.md Table 17-11: FLT_SEV 8. -/
def FLT_SEV_FENCED : Fld :=
  ⟨0xc10000, 8, 1, .warm, .ro, .plain, .free, fun _ => 0⟩

/-- 17_faults.md Table 17-11: FLT_SEV 11:9. -/
def FLT_SEV_APPLIED : Fld :=
  ⟨0xc10000, 9, 3, .cold, .ro, .plain, .free, fun _ => 0⟩

/-- 17_faults.md Table 17-11: FLT_SEV 15:12. -/
def FLT_SEV_PARTITION : Fld :=
  ⟨0xc10000, 12, 4, .cold, .ro, .plain, .free, fun _ => 0⟩

/-- 17_faults.md Table 17-11: FLT_SEV 16. -/
def FLT_SEV_PT_V : Fld :=
  ⟨0xc10000, 16, 1, .cold, .ro, .plain, .free, fun _ => 0⟩

/-- 17_faults.md R458: FLT_COUNT 31:0. -/
def FLT_COUNT : Fld :=
  ⟨0xc10004, 0, 32, .cold, .ro, .plain, .free, fun _ => 0⟩

/-- 17_faults.md R458: FLT_TIME 63:0. -/
def FLT_TIME : Fld :=
  ⟨0xc10008, 0, 64, .cold, .ro, .plain, .free, fun _ => 0⟩

/-- 17_faults.md R458: FLT_PATH 11:0. -/
def FLT_PATH_SRC : Fld :=
  ⟨0xc20000, 0, 12, .const, .ro, .plain, .free, fltPathSrc⟩

/-- 17_faults.md R458: FLT_PATH 19:12. -/
def FLT_PATH_INST : Fld :=
  ⟨0xc20000, 12, 8, .const, .ro, .plain, .free, fltPathInst⟩

/-- 18_reset_boot_clocks.md Table 18-11: RST_CAUSE 0. -/
def RST_CAUSE_POR : Fld :=
  ⟨0xd00000, 0, 1, .por, .w1c, .plain, .free, fun _ => 1⟩

/-- 18_reset_boot_clocks.md Table 18-11: RST_CAUSE 1. -/
def RST_CAUSE_PIN_COLD : Fld :=
  ⟨0xd00000, 1, 1, .por, .w1c, .plain, .free, fun _ => 0⟩

/-- 18_reset_boot_clocks.md Table 18-11: RST_CAUSE 2. -/
def RST_CAUSE_CMD_COLD : Fld :=
  ⟨0xd00000, 2, 1, .por, .w1c, .plain, .free, fun _ => 0⟩

/-- 18_reset_boot_clocks.md Table 18-11: RST_CAUSE 3. -/
def RST_CAUSE_CMD_WARM : Fld :=
  ⟨0xd00000, 3, 1, .por, .w1c, .plain, .free, fun _ => 0⟩

/-- 18_reset_boot_clocks.md Table 18-11: RST_CAUSE 4. -/
def RST_CAUSE_REG_WARM : Fld :=
  ⟨0xd00000, 4, 1, .por, .w1c, .plain, .free, fun _ => 0⟩

/-- 18_reset_boot_clocks.md Table 18-11: RST_CAUSE 5. -/
def RST_CAUSE_ESC_COLD : Fld :=
  ⟨0xd00000, 5, 1, .por, .w1c, .plain, .free, fun _ => 0⟩

/-- 18_reset_boot_clocks.md Table 18-11: RST_CAUSE 6. -/
def RST_CAUSE_TRIM_SAFE : Fld :=
  ⟨0xd00000, 6, 1, .por, .w1c, .plain, .free, fun _ => 0⟩

/-- 18_reset_boot_clocks.md Table 18-11: RST_CAUSE 7. -/
def RST_CAUSE_BLOCK : Fld :=
  ⟨0xd00000, 7, 1, .por, .w1c, .plain, .free, fun _ => 0⟩

/-- 18_reset_boot_clocks.md Table 18-11: RST_CAUSE 8. -/
def RST_CAUSE_PIN_PERST : Fld :=
  ⟨0xd00000, 8, 1, .por, .w1c, .plain, .free, fun _ => 0⟩

/-- 18_reset_boot_clocks.md Table 18-11: RST_CAUSE 9. -/
def RST_CAUSE_PORT : Fld :=
  ⟨0xd00000, 9, 1, .por, .w1c, .plain, .free, fun _ => 0⟩

/-- 18_reset_boot_clocks.md Table 18-11: RST_CAUSE 10. -/
def RST_CAUSE_FUNC : Fld :=
  ⟨0xd00000, 10, 1, .por, .w1c, .plain, .free, fun _ => 0⟩

/-- 18_reset_boot_clocks.md Table 18-11: RST_CAUSE 11. -/
def RST_CAUSE_SLICE : Fld :=
  ⟨0xd00000, 11, 1, .por, .w1c, .plain, .free, fun _ => 0⟩

/-- 18_reset_boot_clocks.md Table 18-11: RST_CAUSE 31:16. -/
def RST_CAUSE_PART : Fld :=
  ⟨0xd00000, 16, 16, .por, .w1c, .plain, .free, fun _ => 0⟩

/-- 18_reset_boot_clocks.md Table 18-12: RST_CMD 0. -/
def RST_CMD_WARM : Fld :=
  ⟨0xd00008, 0, 1, .const, .wo, .plain, .free, fun _ => 0⟩

/-- 18_reset_boot_clocks.md Table 18-12: RST_CMD 1. -/
def RST_CMD_PART : Fld :=
  ⟨0xd00008, 1, 1, .const, .wo, .plain, .free, fun _ => 0⟩

/-- 18_reset_boot_clocks.md Table 18-12: RST_CMD 2. -/
def RST_CMD_PORT : Fld :=
  ⟨0xd00008, 2, 1, .const, .wo, .plain, .free, fun _ => 0⟩

/-- 18_reset_boot_clocks.md Table 18-12: RST_CMD 11:8. -/
def RST_CMD_PT : Fld :=
  ⟨0xd00008, 8, 4, .const, .wo, .plain, .free, fun _ => 0⟩

/-- 18_reset_boot_clocks.md Table 18-12: RST_CMD 17:12. -/
def RST_CMD_PORT_NUM : Fld :=
  ⟨0xd00008, 12, 6, .const, .wo, .plain, .free, fun _ => 0⟩

/-- 18_reset_boot_clocks.md Table 18-12: RST_CMD 31:24. -/
def RST_CMD_KEY : Fld :=
  ⟨0xd00008, 24, 8, .const, .wo, .plain, .free, fun _ => 0⟩

/-- 18_reset_boot_clocks.md R480: RST_STATUS 0. -/
def RST_STATUS_COLD : Fld :=
  ⟨0xd00010, 0, 1, .const, .live, .plain, .free, fun _ => 0⟩

/-- 18_reset_boot_clocks.md R480: RST_STATUS 1. -/
def RST_STATUS_WARM : Fld :=
  ⟨0xd00010, 1, 1, .const, .live, .plain, .free, fun _ => 0⟩

/-- 18_reset_boot_clocks.md R480: RST_STATUS 2. -/
def RST_STATUS_PART : Fld :=
  ⟨0xd00010, 2, 1, .const, .live, .plain, .free, fun _ => 0⟩

/-- 18_reset_boot_clocks.md R480: RST_STATUS 3. -/
def RST_STATUS_PORT : Fld :=
  ⟨0xd00010, 3, 1, .const, .live, .plain, .free, fun _ => 0⟩

/-- 18_reset_boot_clocks.md R480: RST_STATUS 4. -/
def RST_STATUS_BLOCK : Fld :=
  ⟨0xd00010, 4, 1, .const, .live, .plain, .free, fun _ => 0⟩

/-- 18_reset_boot_clocks.md R480: RST_STATUS 5. -/
def RST_STATUS_FUNC : Fld :=
  ⟨0xd00010, 5, 1, .const, .live, .plain, .free, fun _ => 0⟩

/-- 18_reset_boot_clocks.md R480: RST_STATUS 6. -/
def RST_STATUS_SLICE : Fld :=
  ⟨0xd00010, 6, 1, .const, .live, .plain, .free, fun _ => 0⟩

/-- 18_reset_boot_clocks.md R480: RST_STATUS 7. -/
def RST_STATUS_WAITING : Fld :=
  ⟨0xd00010, 7, 1, .const, .live, .plain, .free, fun _ => 0⟩

/-- 18_reset_boot_clocks.md R480: RST_STATUS 31:16. -/
def RST_STATUS_PARTS : Fld :=
  ⟨0xd00010, 16, 16, .const, .live, .plain, .free, fun _ => 0⟩

/-- 18_reset_boot_clocks.md R480: RST_PINS 15:0. -/
def RST_PINS_PERST : Fld :=
  ⟨0xd00014, 0, 16, .const, .live, .plain, .free, fun _ => 0⟩

/-- 18_reset_boot_clocks.md R480: RST_PINS 16. -/
def RST_PINS_RST_N : Fld :=
  ⟨0xd00014, 16, 1, .const, .live, .plain, .free, fun _ => 0⟩

/-- 18_reset_boot_clocks.md R480: RST_TRIM 1:0. -/
def RST_TRIM_FAILS : Fld :=
  ⟨0xd00018, 0, 2, .cold, .ro, .plain, .free, fun _ => 0⟩

/-- 18_reset_boot_clocks.md R480: RST_TRIM 2. -/
def RST_TRIM_TRIM_OK : Fld :=
  ⟨0xd00018, 2, 1, .cold, .ro, .plain, .free, fun _ => 0⟩

/-- 18_reset_boot_clocks.md R480: RST_TRIM 3. -/
def RST_TRIM_TRIM_BAD : Fld :=
  ⟨0xd00018, 3, 1, .cold, .ro, .plain, .free, fun _ => 0⟩

/-- 18_reset_boot_clocks.md R480: RST_TRIM 23:8. -/
def RST_TRIM_WORD : Fld :=
  ⟨0xd00018, 8, 16, .cold, .ro, .plain, .free, fun _ => 0⟩

/-- 18_reset_boot_clocks.md R480: RST_CLK 0. -/
def RST_CLK_SYS_OK : Fld :=
  ⟨0xd00020, 0, 1, .const, .live, .plain, .free, fun _ => 0⟩

/-- 18_reset_boot_clocks.md R480: RST_CLK 1. -/
def RST_CLK_CORE_LOCK : Fld :=
  ⟨0xd00020, 1, 1, .const, .live, .plain, .free, fun _ => 0⟩

/-- 18_reset_boot_clocks.md R480: RST_CLK 2. -/
def RST_CLK_CKR_LOCK : Fld :=
  ⟨0xd00020, 2, 1, .const, .live, .plain, .free, fun _ => 0⟩

/-- 18_reset_boot_clocks.md R480: RST_CLK 3. -/
def RST_CLK_LACE_LOCK : Fld :=
  ⟨0xd00020, 3, 1, .const, .live, .plain, .free, fun _ => 0⟩

/-- 18_reset_boot_clocks.md R480: RST_CLK 4. -/
def RST_CLK_MGMT_LOCK : Fld :=
  ⟨0xd00020, 4, 1, .const, .live, .plain, .free, fun _ => 0⟩

/-- 18_reset_boot_clocks.md R480: RST_CLK 5. -/
def RST_CLK_HBM_LOCK : Fld :=
  ⟨0xd00020, 5, 1, .const, .live, .plain, .free, fun _ => 0⟩

/-- 18_reset_boot_clocks.md R480: RST_CLK 6. -/
def RST_CLK_BACKUP_OSC : Fld :=
  ⟨0xd00020, 6, 1, .const, .live, .plain, .free, fun _ => 0⟩

/-- 18_reset_boot_clocks.md R480: RST_T_TRIM 63:0. -/
def RST_T_TRIM : Fld :=
  ⟨0xd00028, 0, 64, .por, .ro, .plain, .free, fun _ => 0⟩

/-- 18_reset_boot_clocks.md R480: RST_T_SETUP 63:0. -/
def RST_T_SETUP : Fld :=
  ⟨0xd00030, 0, 64, .por, .ro, .plain, .free, fun _ => 0⟩

/-- 19_power_slots.md Table 19-7: PWD_FEED_STATUS 2:0. -/
def PWD_FEED_STATUS_STATE_A : Fld :=
  ⟨0xe00000, 0, 3, .pdOn, .ro, .plain, .free, fun _ => 0⟩

/-- 19_power_slots.md Table 19-7: PWD_FEED_STATUS 3. -/
def PWD_FEED_STATUS_CONDUCT_A : Fld :=
  ⟨0xe00000, 3, 1, .pdOn, .ro, .plain, .free, fun _ => 0⟩

/-- 19_power_slots.md Table 19-7: PWD_FEED_STATUS 6:4. -/
def PWD_FEED_STATUS_STATE_B : Fld :=
  ⟨0xe00000, 4, 3, .pdOn, .ro, .plain, .free, fun _ => 0⟩

/-- 19_power_slots.md Table 19-7: PWD_FEED_STATUS 7. -/
def PWD_FEED_STATUS_CONDUCT_B : Fld :=
  ⟨0xe00000, 7, 1, .pdOn, .ro, .plain, .free, fun _ => 0⟩

/-- 19_power_slots.md Table 19-7: PWD_FEED_STATUS 8. -/
def PWD_FEED_STATUS_WARN : Fld :=
  ⟨0xe00000, 8, 1, .pdOn, .ro, .plain, .free, fun _ => 1⟩

/-- 19_power_slots.md Table 19-7: PWD_FEED_STATUS 9. -/
def PWD_FEED_STATUS_RECOVERING : Fld :=
  ⟨0xe00000, 9, 1, .pdOn, .ro, .plain, .free, fun _ => 0⟩

/-- 19_power_slots.md Table 19-7: PWD_FEED_STATUS 10. -/
def PWD_FEED_STATUS_PWRFAIL : Fld :=
  ⟨0xe00000, 10, 1, .pdOn, .ro, .plain, .free, fun _ => 1⟩

/-- 19_power_slots.md Table 19-7: PWD_FEED_STATUS 11. -/
def PWD_FEED_STATUS_UVLO : Fld :=
  ⟨0xe00000, 11, 1, .pdOn, .ro, .plain, .free, fun _ => 0⟩

/-- 19_power_slots.md R497: PWD_BUS_MV 15:0. -/
def PWD_BUS_MV : Fld :=
  ⟨0xe00004, 0, 16, .const, .live, .plain, .free, fun _ => 0⟩

/-- 19_power_slots.md R497: PWD_UVLO 15:0. -/
def PWD_UVLO : Fld :=
  ⟨0xe00008, 0, 16, .pdOn, .rw, (.clamp 6000 11000), .free, fun _ => 8000⟩

/-- 19_power_slots.md R497: PWD_FEED_CTL 0. -/
def PWD_FEED_CTL_EN : Fld :=
  ⟨0xe00010, 0, 1, .pdOn, .rw, .plain, .free, fun _ => 1⟩

/-- 19_power_slots.md R497: PWD_FEED_CTL 1. -/
def PWD_FEED_CTL_OV_CUT : Fld :=
  ⟨0xe00010, 1, 1, .pdOn, .rw, .plain, .free, fun _ => 1⟩

/-- 19_power_slots.md R497: PWD_FEED_WARN 15:0. -/
def PWD_FEED_WARN_LEVEL : Fld :=
  ⟨0xe00014, 0, 16, .pdOn, .rw, (.clamp 8000 14000), .free, fun _ => 10800⟩

/-- 19_power_slots.md R497: PWD_FEED_WARN 23:16. -/
def PWD_FEED_WARN_HYST : Fld :=
  ⟨0xe00014, 16, 8, .pdOn, .rw, .plain, .free, fun _ => 20⟩

/-- 19_power_slots.md R497: PWD_FEED_OV 15:0. -/
def PWD_FEED_OV : Fld :=
  ⟨0xe00018, 0, 16, .pdOn, .rw, (.clamp 12500 22000), .free, fun _ => 15000⟩

/-- 19_power_slots.md R497: PWD_FEED_MV 15:0. -/
def PWD_FEED_MV : Fld :=
  ⟨0xe0001c, 0, 16, .const, .live, .plain, .free, fun _ => 0⟩

/-- 19_power_slots.md Table 19-8: PWD_SLOT_CTL 0. -/
def PWD_SLOT_CTL_ON : Fld :=
  ⟨0xe00100, 0, 1, .pdOn, .rw, .plain, .free, fun _ => 0⟩

/-- 19_power_slots.md Table 19-8: PWD_SLOT_CTL 3:1. -/
def PWD_SLOT_CTL_RETRY : Fld :=
  ⟨0xe00100, 1, 3, .pdOn, .rw, .plain, .free, fun _ => 3⟩

/-- 19_power_slots.md Table 19-8: PWD_SLOT_CTL 8:4. -/
def PWD_SLOT_CTL_RAMP : Fld :=
  ⟨0xe00100, 4, 5, .pdOn, .rw, (.clamp 1 20), .free, fun _ => 10⟩

/-- 19_power_slots.md Table 19-8: PWD_SLOT_CTL 9. -/
def PWD_SLOT_CTL_CLR_FET : Fld :=
  ⟨0xe00100, 9, 1, .const, .wo, .plain, .free, fun _ => 0⟩

/-- 19_power_slots.md R497: PWD_SLOT_LIM 7:0. -/
def PWD_SLOT_LIM_INRUSH : Fld :=
  ⟨0xe00104, 0, 8, .pdOn, .rw, (.clamp 8 200), .free, fun _ => 16⟩

/-- 19_power_slots.md R497: PWD_SLOT_LIM 15:8. -/
def PWD_SLOT_LIM_RUN : Fld :=
  ⟨0xe00104, 8, 8, .pdOn, .rw, (.clamp 8 200), .free, fun _ => 40⟩

/-- 19_power_slots.md R497: PWD_SLOT_TIME 7:0. -/
def PWD_SLOT_TIME_FT : Fld :=
  ⟨0xe00108, 0, 8, .pdOn, .rw, (.clamp 1 200), .free, fun _ => 10⟩

/-- 19_power_slots.md R497: PWD_SLOT_TIME 14:8. -/
def PWD_SLOT_TIME_COOL : Fld :=
  ⟨0xe00108, 8, 7, .pdOn, .rw, (.clamp 1 100), .free, fun _ => 10⟩

/-- 19_power_slots.md Table 19-9: PWD_SLOT_STATUS 3:0. -/
def PWD_SLOT_STATUS_STATE : Fld :=
  ⟨0xe0010c, 0, 4, .pdOn, .ro, .plain, .free, fun _ => 0⟩

/-- 19_power_slots.md Table 19-9: PWD_SLOT_STATUS 4. -/
def PWD_SLOT_STATUS_PG : Fld :=
  ⟨0xe0010c, 4, 1, .pdOn, .ro, .plain, .free, fun _ => 0⟩

/-- 19_power_slots.md Table 19-9: PWD_SLOT_STATUS 5. -/
def PWD_SLOT_STATUS_IN_LIMIT : Fld :=
  ⟨0xe0010c, 5, 1, .pdOn, .ro, .plain, .free, fun _ => 0⟩

/-- 19_power_slots.md Table 19-9: PWD_SLOT_STATUS 6. -/
def PWD_SLOT_STATUS_FENCED : Fld :=
  ⟨0xe0010c, 6, 1, .pdOn, .ro, .plain, .free, fun _ => 0⟩

/-- 19_power_slots.md Table 19-9: PWD_SLOT_STATUS 9:7. -/
def PWD_SLOT_STATUS_RETRIES_LEFT : Fld :=
  ⟨0xe0010c, 7, 3, .pdOn, .ro, .plain, .free, fun _ => 0⟩

/-- 19_power_slots.md Table 19-9: PWD_SLOT_STATUS 11:10. -/
def PWD_SLOT_STATUS_FET : Fld :=
  ⟨0xe0010c, 10, 2, .pdOn, .ro, .plain, .free, fun _ => 0⟩

/-- 19_power_slots.md Table 19-9: PWD_SLOT_STATUS 12. -/
def PWD_SLOT_STATUS_LAST_FAST : Fld :=
  ⟨0xe0010c, 12, 1, .pdOn, .ro, .plain, .free, fun _ => 0⟩

/-- 19_power_slots.md Table 19-9: PWD_SLOT_STATUS 13. -/
def PWD_SLOT_STATUS_PFD : Fld :=
  ⟨0xe0010c, 13, 1, .pdOn, .w1c, .plain, .free, fun _ => 0⟩

/-- 19_power_slots.md R497: PWD_SLOT_MEAS 15:0. -/
def PWD_SLOT_MEAS_OUT : Fld :=
  ⟨0xe00110, 0, 16, .const, .live, .plain, .free, fun _ => 0⟩

/-- 19_power_slots.md R497: PWD_SLOT_MEAS 31:16. -/
def PWD_SLOT_MEAS_SENSE : Fld :=
  ⟨0xe00110, 16, 16, .const, .live, .plain, .free, fun _ => 0⟩

/-- 19_power_slots.md R497: SLOT_TRIPS 31:0. -/
def SLOT_TRIPS : Fld :=
  ⟨0xe00114, 0, 32, .por, .rc, .plain, .free, fun _ => 0⟩

/-- 19_power_slots.md R497: SLOT_FAST 31:0. -/
def SLOT_FAST : Fld :=
  ⟨0xe00118, 0, 32, .por, .rc, .plain, .free, fun _ => 0⟩

/-- 22_electrical_package.md R544: PWD_TEMP_CTL 7:0. -/
def PWD_TEMP_CTL_WARN : Fld :=
  ⟨0xe00600, 0, 8, .cold, .rw, (.clamp 60 125), .free, fun _ => 105⟩

/-- 22_electrical_package.md R544: PWD_TEMP_CTL 15:8. -/
def PWD_TEMP_CTL_CRIT : Fld :=
  ⟨0xe00600, 8, 8, .cold, .rw, (.clamp 60 125), .free, fun _ => 118⟩

/-- 22_electrical_package.md R544: PWD_TEMP 15:0. -/
def PWD_TEMP_VALUE : Fld :=
  ⟨0xe00604, 0, 16, .const, .live, .plain, .free, fun _ => 0⟩

/-- 22_electrical_package.md R544: PWD_TEMP 16. -/
def PWD_TEMP_VALID : Fld :=
  ⟨0xe00604, 16, 1, .const, .live, .plain, .free, fun _ => 0⟩

/-- 22_electrical_package.md R544: PWD_TEMP 17. -/
def PWD_TEMP_FAILED : Fld :=
  ⟨0xe00604, 17, 1, .const, .live, .plain, .free, fun _ => 0⟩

/-- 22_electrical_package.md R544: PWD_TEMP_MAX 15:0. -/
def PWD_TEMP_MAX : Fld :=
  ⟨0xe00630, 0, 16, .cold, .rc, .plain, .free, fun _ => 0⟩

/-- 16_overflow_holdup.md R428: PWD_HU_CTL 0. -/
def PWD_HU_CTL_EN : Fld :=
  ⟨0xe00800, 0, 1, .cold, .rw, .plain, .free, fun _ => 0⟩

/-- 16_overflow_holdup.md R428: PWD_HU_CTL 1. -/
def PWD_HU_CTL_MEASURE : Fld :=
  ⟨0xe00800, 1, 1, .const, .wo, .plain, .free, fun _ => 0⟩

/-- 16_overflow_holdup.md Table 16-9: PWD_HU_STATUS 0. -/
def PWD_HU_STATUS_BUSY : Fld :=
  ⟨0xe00804, 0, 1, .cold, .ro, .plain, .free, fun _ => 0⟩

/-- 16_overflow_holdup.md Table 16-9: PWD_HU_STATUS 1. -/
def PWD_HU_STATUS_PASS : Fld :=
  ⟨0xe00804, 1, 1, .cold, .ro, .plain, .free, fun _ => 0⟩

/-- 16_overflow_holdup.md Table 16-9: PWD_HU_STATUS 4:2. -/
def PWD_HU_STATUS_RESULT : Fld :=
  ⟨0xe00804, 2, 3, .cold, .ro, .plain, .free, fun _ => 0⟩

/-- 16_overflow_holdup.md Table 16-9: PWD_HU_STATUS 31:16. -/
def PWD_HU_STATUS_AGE : Fld :=
  ⟨0xe00804, 16, 16, .cold, .ro, .plain, .free, fun _ => 65535⟩

/-- 16_overflow_holdup.md R428: PWD_HU_V0 15:0. -/
def PWD_HU_V0 : Fld :=
  ⟨0xe00808, 0, 16, .cold, .ro, .plain, .free, fun _ => 0⟩

/-- 16_overflow_holdup.md R428: PWD_HU_DV 15:0. -/
def PWD_HU_DV : Fld :=
  ⟨0xe0080c, 0, 16, .cold, .ro, .plain, .free, fun _ => 0⟩

/-- 16_overflow_holdup.md R428: PWD_HU_CAP 19:0. -/
def PWD_HU_CAP : Fld :=
  ⟨0xe00810, 0, 20, .cold, .ro, .plain, .free, fun _ => 0⟩

/-- 16_overflow_holdup.md R428: PWD_HU_ENERGY 31:0. -/
def PWD_HU_ENERGY : Fld :=
  ⟨0xe00814, 0, 32, .cold, .ro, .plain, .free, fun _ => 0⟩

/-- 16_overflow_holdup.md R428: PWD_HU_ETA 9:0. -/
def PWD_HU_ETA : Fld :=
  ⟨0xe00818, 0, 10, .cold, .rw, (.clamp 0 1000), .free, fun _ => 0⟩

/-- 16_overflow_holdup.md R428: PWD_HU_VMIN 15:0. -/
def PWD_HU_VMIN : Fld :=
  ⟨0xe0081c, 0, 16, .cold, .rw, .plain, .free, fun _ => 0⟩

/-- 16_overflow_holdup.md R428: PWD_HU_PDRAIN 9:0. -/
def PWD_HU_PDRAIN : Fld :=
  ⟨0xe00820, 0, 10, .cold, .rw, .plain, .free, fun _ => 0⟩

/-- 16_overflow_holdup.md R428: PWD_HU_TFIXED 15:0. -/
def PWD_HU_TFIXED : Fld :=
  ⟨0xe00824, 0, 16, .cold, .rw, .plain, .free, fun _ => 0⟩

/-- 16_overflow_holdup.md R428: PWD_HU_RATE 19:0. -/
def PWD_HU_RATE : Fld :=
  ⟨0xe00828, 0, 20, .cold, .rw, .plain, .free, fun _ => 0⟩

/-- 16_overflow_holdup.md R428: PWD_HU_MIN 31:0. -/
def PWD_HU_MIN : Fld :=
  ⟨0xe0082c, 0, 32, .cold, .rw, .plain, .free, fun _ => 0⟩

/-- 16_overflow_holdup.md R428: PWD_HU_BUDGET 31:0. -/
def PWD_HU_BUDGET : Fld :=
  ⟨0xe00830, 0, 32, .cold, .ro, .plain, .free, fun _ => 0⟩

/-- 16_overflow_holdup.md R428: HU_TESTS 31:0. -/
def HU_TESTS : Fld :=
  ⟨0xe00834, 0, 32, .cold, .rc, .plain, .free, fun _ => 0⟩

/-- 16_overflow_holdup.md R428: HU_SKIPS 31:0. -/
def HU_SKIPS : Fld :=
  ⟨0xe00838, 0, 32, .cold, .rc, .plain, .free, fun _ => 0⟩

/-- 20_selftest_security.md Table 20-6: TST_BIST_SEL 0. -/
def TST_BIST_SEL_LBIST : Fld :=
  ⟨0xf00000, 0, 1, .warm, .rw, .plain, .free, fun _ => 0⟩

/-- 20_selftest_security.md Table 20-6: TST_BIST_SEL 1. -/
def TST_BIST_SEL_MBIST : Fld :=
  ⟨0xf00000, 1, 1, .warm, .rw, .plain, .free, fun _ => 0⟩

/-- 20_selftest_security.md Table 20-6: TST_BIST_SEL 2. -/
def TST_BIST_SEL_OVF : Fld :=
  ⟨0xf00000, 2, 1, .warm, .rw, .plain, .free, fun _ => 0⟩

/-- 20_selftest_security.md Table 20-6: TST_BIST_SEL 3. -/
def TST_BIST_SEL_SERDES : Fld :=
  ⟨0xf00000, 3, 1, .warm, .rw, .plain, .free, fun _ => 0⟩

/-- 20_selftest_security.md Table 20-6: TST_BIST_SEL 7:4. -/
def TST_BIST_SEL_QMASK : Fld :=
  ⟨0xf00000, 4, 4, .warm, .rw, .plain, .free, fun _ => 0⟩

/-- 20_selftest_security.md Table 20-7: TST_BIST_STATUS 1:0. -/
def TST_BIST_STATUS_LBIST : Fld :=
  ⟨0xf00004, 0, 2, .cold, .ro, .plain, .free, fun _ => 0⟩

/-- 20_selftest_security.md Table 20-7: TST_BIST_STATUS 3:2. -/
def TST_BIST_STATUS_MBIST : Fld :=
  ⟨0xf00004, 2, 2, .cold, .ro, .plain, .free, fun _ => 0⟩

/-- 20_selftest_security.md Table 20-7: TST_BIST_STATUS 5:4. -/
def TST_BIST_STATUS_OVF : Fld :=
  ⟨0xf00004, 4, 2, .cold, .ro, .plain, .free, fun _ => 0⟩

/-- 20_selftest_security.md Table 20-7: TST_BIST_STATUS 7:6. -/
def TST_BIST_STATUS_SERDES : Fld :=
  ⟨0xf00004, 6, 2, .cold, .ro, .plain, .free, fun _ => 0⟩

/-- 20_selftest_security.md Table 20-7: TST_BIST_STATUS 8. -/
def TST_BIST_STATUS_RUNNING : Fld :=
  ⟨0xf00004, 8, 1, .cold, .ro, .plain, .free, fun _ => 0⟩

/-- 20_selftest_security.md Table 20-7: TST_BIST_STATUS 11:9. -/
def TST_BIST_STATUS_ABORT : Fld :=
  ⟨0xf00004, 9, 3, .cold, .ro, .plain, .free, fun _ => 0⟩

/-- 20_selftest_security.md Table 20-7: TST_BIST_STATUS 12. -/
def TST_BIST_STATUS_REPAIRED : Fld :=
  ⟨0xf00004, 12, 1, .cold, .ro, .plain, .free, fun _ => 0⟩

/-- 20_selftest_security.md R517: TST_LBIST_RES 0. -/
def TST_LBIST_RES_CORE_FAIL : Fld :=
  ⟨0xf00008, 0, 1, .cold, .ro, .plain, .free, fun _ => 0⟩

/-- 20_selftest_security.md R517: TST_LBIST_RES 1. -/
def TST_LBIST_RES_CKR_FAIL : Fld :=
  ⟨0xf00008, 1, 1, .cold, .ro, .plain, .free, fun _ => 0⟩

/-- 20_selftest_security.md R517: TST_LBIST_RES 2. -/
def TST_LBIST_RES_LACE_FAIL : Fld :=
  ⟨0xf00008, 2, 1, .cold, .ro, .plain, .free, fun _ => 0⟩

/-- 20_selftest_security.md R517: TST_MBIST_RES 15:0. -/
def TST_MBIST_RES_REPAIRS : Fld :=
  ⟨0xf0000c, 0, 16, .cold, .ro, .plain, .free, fun _ => 0⟩

/-- 20_selftest_security.md R517: TST_MBIST_RES 31:16. -/
def TST_MBIST_RES_UNREPAIRABLE : Fld :=
  ⟨0xf0000c, 16, 16, .cold, .ro, .plain, .free, fun _ => 0⟩

/-- 20_selftest_security.md R517: TST_OVF_RES 16:0. -/
def TST_OVF_RES_RETIRED : Fld :=
  ⟨0xf00010, 0, 17, .cold, .ro, .plain, .free, fun _ => 0⟩

/-- 20_selftest_security.md R517: TST_OVF_RES 17. -/
def TST_OVF_RES_LIMIT : Fld :=
  ⟨0xf00010, 17, 1, .cold, .ro, .plain, .free, fun _ => 0⟩

/-- 20_selftest_security.md R517: TST_LANE_FAIL 31:0. -/
def TST_LANE_FAIL : Fld :=
  ⟨0xf00020, 0, 32, .cold, .ro, .plain, .free, fun _ => 0⟩

/-- 20_selftest_security.md Table 20-8: TST_SEC_CMD 0. -/
def TST_SEC_CMD_CLEAR : Fld :=
  ⟨0xf00040, 0, 1, .const, .wo, .plain, .free, fun _ => 0⟩

/-- 20_selftest_security.md Table 20-8: TST_SEC_CMD 1. -/
def TST_SEC_CMD_VERIFY : Fld :=
  ⟨0xf00040, 1, 1, .const, .wo, .plain, .free, fun _ => 0⟩

/-- 20_selftest_security.md Table 20-8: TST_SEC_CMD 2. -/
def TST_SEC_CMD_CLR_RETAINED : Fld :=
  ⟨0xf00040, 2, 1, .const, .wo, .plain, .free, fun _ => 0⟩

/-- 20_selftest_security.md Table 20-8: TST_SEC_CMD 7:4. -/
def TST_SEC_CMD_RESULT : Fld :=
  ⟨0xf00040, 4, 4, .cold, .ro, .plain, .free, fun _ => 0⟩

/-- 20_selftest_security.md Table 20-8: TST_SEC_CMD 31:24. -/
def TST_SEC_CMD_KEY : Fld :=
  ⟨0xf00040, 24, 8, .const, .wo, .plain, .free, fun _ => 0⟩

/-- 20_selftest_security.md Table 20-9: TST_SEC_STATUS 0. -/
def TST_SEC_STATUS_CLEARED : Fld :=
  ⟨0xf00044, 0, 1, .cold, .ro, .plain, .free, fun _ => 0⟩

/-- 20_selftest_security.md Table 20-9: TST_SEC_STATUS 1. -/
def TST_SEC_STATUS_CLEARED_OK : Fld :=
  ⟨0xf00044, 1, 1, .cold, .ro, .plain, .free, fun _ => 0⟩

/-- 20_selftest_security.md Table 20-9: TST_SEC_STATUS 2. -/
def TST_SEC_STATUS_ID_READY : Fld :=
  ⟨0xf00044, 2, 1, .cold, .ro, .plain, .free, fun _ => 0⟩

/-- 20_selftest_security.md Table 20-9: TST_SEC_STATUS 3. -/
def TST_SEC_STATUS_SPDM_EN : Fld :=
  ⟨0xf00044, 3, 1, .cold, .ro, .plain, .free, fun _ => 0⟩

/-- 20_selftest_security.md Table 20-9: TST_SEC_STATUS 4. -/
def TST_SEC_STATUS_FACTORY_SINCE_POR : Fld :=
  ⟨0xf00044, 4, 1, .por, .ro, .plain, .free, fun _ => 0⟩

/-- 20_selftest_security.md Table 20-9: TST_SEC_STATUS 5. -/
def TST_SEC_STATUS_TEST_EN : Fld :=
  ⟨0xf00044, 5, 1, .const, .live, .plain, .free, fun _ => 0⟩

/-- 20_selftest_security.md Table 20-9: TST_SEC_STATUS 11:6. -/
def TST_SEC_STATUS_SESSIONS : Fld :=
  ⟨0xf00044, 6, 6, .cold, .ro, .plain, .free, fun _ => 0⟩

/-- 20_selftest_security.md Table 20-10: TST_DBG 0. -/
def TST_DBG_JTAG_AWL : Fld :=
  ⟨0xf00048, 0, 1, .cold, .rwl, .plain, .dbgLock, fun _ => 0⟩

/-- 20_selftest_security.md Table 20-10: TST_DBG 1. -/
def TST_DBG_LOCK : Fld :=
  ⟨0xf00048, 1, 1, .cold, .w1s, .plain, .free, fun _ => 0⟩

/-- 20_selftest_security.md R517: TST_ID_PUB 31:0. -/
def TST_ID_PUB : Fld :=
  ⟨0xf00100, 0, 32, .const, .live, .plain, .free, fun _ => 0⟩

/-- 20_selftest_security.md R517: TST_CERT_CTL 13:0. -/
def TST_CERT_CTL_LEN : Fld :=
  ⟨0xf00200, 0, 14, .cold, .rw, .plain, .free, fun _ => 0⟩

/-- 20_selftest_security.md R517: TST_CERT_CTL 14. -/
def TST_CERT_CTL_CERT_VALID : Fld :=
  ⟨0xf00200, 14, 1, .cold, .ro, .plain, .free, fun _ => 0⟩

/-- 20_selftest_security.md R517: TST_CERT_CTL 15. -/
def TST_CERT_CTL_COMMIT : Fld :=
  ⟨0xf00200, 15, 1, .const, .wo, .plain, .free, fun _ => 0⟩

/-- 07_rings_dma.md R214: SLC_INFO 8:0. -/
def SLC_INFO_QP_COUNT : Fld :=
  ⟨0x20000000, 0, 9, .const, .live, .plain, .free, fun _ => 0⟩

/-- 07_rings_dma.md R214: SLC_PASID 19:0. -/
def SLC_PASID : Fld :=
  ⟨0x20000004, 0, 20, .const, .live, .plain, .free, fun _ => 0⟩

/-- 07_rings_dma.md R214: SLC_CPL_TO 12:0. -/
def SLC_CPL_TO : Fld :=
  ⟨0x20000008, 0, 13, .slice, .rw, (.clamp 5 6400), .free, fun _ => 100⟩

/-- 07_rings_dma.md R214: SLC_QP_SEL 7:0. -/
def SLC_QP_SEL : Fld :=
  ⟨0x20000010, 0, 8, .slice, .rw, .plain, .free, fun _ => 0⟩

/-- 07_rings_dma.md R214: DB_BAD 31:0. -/
def DB_BAD : Fld :=
  ⟨0x20000040, 0, 32, .slice, .rc, .plain, .free, fun _ => 0⟩

/-- 07_rings_dma.md R214: DB_IGN 31:0. -/
def DB_IGN : Fld :=
  ⟨0x20000044, 0, 32, .slice, .rc, .plain, .free, fun _ => 0⟩

/-- 07_rings_dma.md R214: LATE_CPL 31:0. -/
def LATE_CPL : Fld :=
  ⟨0x20000048, 0, 32, .slice, .rc, .plain, .free, fun _ => 0⟩

/-- 07_rings_dma.md R214: UNEXP_CPL 31:0. -/
def UNEXP_CPL : Fld :=
  ⟨0x2000004c, 0, 32, .slice, .rc, .plain, .free, fun _ => 0⟩

/-- 07_rings_dma.md R214: JOBS_OK 31:0. -/
def JOBS_OK : Fld :=
  ⟨0x20000050, 0, 32, .slice, .rc, .plain, .free, fun _ => 0⟩

/-- 07_rings_dma.md R214: JOBS_ERR 31:0. -/
def JOBS_ERR : Fld :=
  ⟨0x20000054, 0, 32, .slice, .rc, .plain, .free, fun _ => 0⟩

/-- 07_rings_dma.md R214: CQ_FULL 31:0. -/
def CQ_FULL : Fld :=
  ⟨0x20000058, 0, 32, .slice, .rc, .plain, .free, fun _ => 0⟩

/-- 07_rings_dma.md R214: FETCH_ERR 31:0. -/
def FETCH_ERR : Fld :=
  ⟨0x2000005c, 0, 32, .slice, .rc, .plain, .free, fun _ => 0⟩

/-- 07_rings_dma.md R214: QP_SQ_BASE 63:0. -/
def QP_SQ_BASE : Fld :=
  ⟨0x20000018, 0, 64, .slice, .rwl, (.mask 12), .qpEn, fun _ => 0⟩

/-- 07_rings_dma.md R214: QP_CQ_BASE 63:0. -/
def QP_CQ_BASE : Fld :=
  ⟨0x20000020, 0, 64, .slice, .rwl, (.mask 12), .qpEn, fun _ => 0⟩

/-- 07_rings_dma.md Table 7-11: QP_CFG 1:0. -/
def QP_CFG_TYPE : Fld :=
  ⟨0x20000028, 0, 2, .slice, .rwl, .plain, .qpEn, fun _ => 0⟩

/-- 07_rings_dma.md Table 7-11: QP_CFG 5:2. -/
def QP_CFG_SQ_SIZE : Fld :=
  ⟨0x20000028, 2, 4, .slice, .rwl, (.clamp 0 12), .qpEn, fun _ => 0⟩

/-- 07_rings_dma.md Table 7-11: QP_CFG 9:6. -/
def QP_CFG_CQ_SIZE : Fld :=
  ⟨0x20000028, 6, 4, .slice, .rwl, (.clamp 0 12), .qpEn, fun _ => 0⟩

/-- 07_rings_dma.md Table 7-11: QP_CFG 10. -/
def QP_CFG_HALT_ON_ERR : Fld :=
  ⟨0x20000028, 10, 1, .slice, .rw, .plain, .free, fun _ => 0⟩

/-- 07_rings_dma.md Table 7-11: QP_CFG 13:11. -/
def QP_CFG_FETCH_TC : Fld :=
  ⟨0x20000028, 11, 3, .slice, .rw, .plain, .free, fun _ => 0⟩

/-- 07_rings_dma.md Table 7-11: QP_CFG 16:14. -/
def QP_CFG_INFLIGHTM1 : Fld :=
  ⟨0x20000028, 14, 3, .slice, .rw, .plain, .free, fun _ => 7⟩

/-- 07_rings_dma.md Table 7-11: QP_CFG 27:17. -/
def QP_CFG_VEC : Fld :=
  ⟨0x20000028, 17, 11, .slice, .rwl, .plain, .qpEn, fun _ => 0⟩

/-- 07_rings_dma.md R214: QP_MOD 7:0. -/
def QP_MOD_CNT : Fld :=
  ⟨0x2000002c, 0, 8, .slice, .rw, .plain, .free, fun _ => 1⟩

/-- 07_rings_dma.md R214: QP_MOD 17:8. -/
def QP_MOD_TIME : Fld :=
  ⟨0x2000002c, 8, 10, .slice, .rw, .plain, .free, fun _ => 0⟩

/-- 07_rings_dma.md Table 7-12: QP_CTL 0. -/
def QP_CTL_EN : Fld :=
  ⟨0x20000030, 0, 1, .slice, .rw, .plain, .free, fun _ => 0⟩

/-- 07_rings_dma.md Table 7-12: QP_CTL 1. -/
def QP_CTL_RESUME : Fld :=
  ⟨0x20000030, 1, 1, .const, .wo, .plain, .free, fun _ => 0⟩

/-- 07_rings_dma.md Table 7-13: QP_STATUS 2:0. -/
def QP_STATUS_STATE : Fld :=
  ⟨0x20000034, 0, 3, .slice, .ro, .plain, .free, fun _ => 0⟩

/-- 07_rings_dma.md Table 7-13: QP_STATUS 3. -/
def QP_STATUS_PHASE : Fld :=
  ⟨0x20000034, 3, 1, .slice, .ro, .plain, .free, fun _ => 1⟩

/-- 07_rings_dma.md Table 7-13: QP_STATUS 7:4. -/
def QP_STATUS_ERR : Fld :=
  ⟨0x20000034, 4, 4, .slice, .ro, .plain, .free, fun _ => 0⟩

/-- 07_rings_dma.md Table 7-13: QP_STATUS 21:8. -/
def QP_STATUS_GLOBAL_QP : Fld :=
  ⟨0x20000034, 8, 14, .const, .live, .plain, .free, fun _ => 0⟩

/-- 07_rings_dma.md R214: QP_SQ_PTR 15:0. -/
def QP_SQ_PTR_HEAD : Fld :=
  ⟨0x20000038, 0, 16, .slice, .ro, .plain, .free, fun _ => 0⟩

/-- 07_rings_dma.md R214: QP_SQ_PTR 31:16. -/
def QP_SQ_PTR_TAIL : Fld :=
  ⟨0x20000038, 16, 16, .slice, .ro, .plain, .free, fun _ => 0⟩

/-- 07_rings_dma.md R214: QP_CQ_PTR 15:0. -/
def QP_CQ_PTR_TAIL : Fld :=
  ⟨0x2000003c, 0, 16, .slice, .ro, .plain, .free, fun _ => 0⟩

/-- 07_rings_dma.md R214: QP_CQ_PTR 31:16. -/
def QP_CQ_PTR_HEAD : Fld :=
  ⟨0x2000003c, 16, 16, .slice, .ro, .plain, .free, fun _ => 0⟩

/-- The registers of this file, piece 1: offset, strides and counts, 64-bit, fields (R518). -/
def regsD1 : List Reg := [
  ⟨0xb00000, [], false, [OFM_CTL_DUR_TC]⟩,
  ⟨0xb00004, [], false, [OFM_STATUS_READY, OFM_STATUS_FENCED, OFM_STATUS_DUR_ON, OFM_STATUS_OVER_BUDGET, OFM_STATUS_DUR_DONE]⟩,
  ⟨0xb00008, [], false, [OFM_DUR_HELD]⟩,
  ⟨0xb0000c, [], false, [OFM_DUR_LIMIT]⟩,
  ⟨0xb00010, [], true, [OFM_DUR_DONE_T]⟩,
  ⟨0xb00018, [], false, [OFM_CMD_RESTORE, OFM_CMD_RESULT]⟩,
  ⟨0xb00040, [(0x10, 4)], false, [OFM_GRP_FREE]⟩,
  ⟨0xb00044, [(0x10, 4)], false, [OFM_GRP_CORR]⟩,
  ⟨0xb00048, [(0x10, 4)], false, [OFM_GRP_UNCORR]⟩,
  ⟨0xb0004c, [(0x10, 4)], false, [OFM_GRP_REFUSED]⟩,
  ⟨0xb00100, [(0x40, 16), (0x4, 8)], false, [OFM_QUOTA]⟩,
  ⟨0xb00120, [(0x40, 16), (0x4, 8)], false, [OFM_USE]⟩,
  ⟨0xb00500, [(0x4, 16)], false, [OFM_WARN_EN, OFM_WARN_VEC]⟩,
  ⟨0xb00540, [], false, [QUOTA_HOLD]⟩,
  ⟨0xb00544, [], false, [DUR_HOLD]⟩,
  ⟨0xc00000, [], false, [FLT_CTL_PAIR_SEV, FLT_CTL_PAIR_FORCE, FLT_CTL_SEV_LOCK, FLT_CTL_NOTE_EN, FLT_CTL_NOTE_VEC]⟩,
  ⟨0xc00004, [], false, [FLT_STATUS_PAIR_STATIC, FLT_STATUS_SELF_OK, FLT_STATUS_ANY_PATH_BROKEN, FLT_STATUS_ANY_SHADOW, FLT_STATUS_STICKIES]⟩,
  ⟨0xc00008, [], false, [FLT_FIRST_SRC, FLT_FIRST_VALID]⟩,
  ⟨0xc00010, [], true, [FLT_FIRST_TIME]⟩,
  ⟨0xc00018, [], false, [FLT_RING_SEQ]⟩,
  ⟨0xc0001c, [], false, [FLT_RING_RD]⟩,
  ⟨0xc00020, [], false, [FLT_RING_LOST]⟩,
  ⟨0xc00024, [], false, [FLT_BLK_DISC]⟩,
  ⟨0xc00028, [], false, [FLT_INJ_SRC, FLT_INJ_KIND, FLT_INJ_GO, FLT_INJ_DUR]⟩]

/-- The registers of this file, piece 2: offset, strides and counts, 64-bit, fields (R518). -/
def regsD2 : List Reg := [
  ⟨0xc00030, [], false, [FLT_CMD_SRC, FLT_CMD_RESTORE, FLT_CMD_CLEAR_ALL, FLT_CMD_RESULT]⟩,
  ⟨0xc00100, [(0x4, 18)], false, [FLT_DEP]⟩,
  ⟨0xc00200, [(0x8, 18)], false, [FLT_BLK_STATE, FLT_BLK_RECENT, FLT_BLK_LIMIT_FENCED]⟩,
  ⟨0xc00204, [(0x8, 18)], false, [BLOCK_RESETS]⟩,
  ⟨0xc10000, [(0x10, 4096)], false, [FLT_SEV_SEV, FLT_SEV_STICKY, FLT_SEV_LIVE, FLT_SEV_PATH_BROKEN, FLT_SEV_IMPL, FLT_SEV_FENCED, FLT_SEV_APPLIED, FLT_SEV_PARTITION, FLT_SEV_PT_V]⟩,
  ⟨0xc10004, [(0x10, 4096)], false, [FLT_COUNT]⟩,
  ⟨0xc10008, [(0x10, 4096)], true, [FLT_TIME]⟩,
  ⟨0xc20000, [(0x4, 1335)], false, [FLT_PATH_SRC, FLT_PATH_INST]⟩,
  ⟨0xd00000, [], false, [RST_CAUSE_POR, RST_CAUSE_PIN_COLD, RST_CAUSE_CMD_COLD, RST_CAUSE_CMD_WARM, RST_CAUSE_REG_WARM, RST_CAUSE_ESC_COLD, RST_CAUSE_TRIM_SAFE, RST_CAUSE_BLOCK, RST_CAUSE_PIN_PERST, RST_CAUSE_PORT, RST_CAUSE_FUNC, RST_CAUSE_SLICE, RST_CAUSE_PART]⟩,
  ⟨0xd00008, [], false, [RST_CMD_WARM, RST_CMD_PART, RST_CMD_PORT, RST_CMD_PT, RST_CMD_PORT_NUM, RST_CMD_KEY]⟩,
  ⟨0xd00010, [], false, [RST_STATUS_COLD, RST_STATUS_WARM, RST_STATUS_PART, RST_STATUS_PORT, RST_STATUS_BLOCK, RST_STATUS_FUNC, RST_STATUS_SLICE, RST_STATUS_WAITING, RST_STATUS_PARTS]⟩,
  ⟨0xd00014, [], false, [RST_PINS_PERST, RST_PINS_RST_N]⟩,
  ⟨0xd00018, [], false, [RST_TRIM_FAILS, RST_TRIM_TRIM_OK, RST_TRIM_TRIM_BAD, RST_TRIM_WORD]⟩,
  ⟨0xd00020, [], false, [RST_CLK_SYS_OK, RST_CLK_CORE_LOCK, RST_CLK_CKR_LOCK, RST_CLK_LACE_LOCK, RST_CLK_MGMT_LOCK, RST_CLK_HBM_LOCK, RST_CLK_BACKUP_OSC]⟩,
  ⟨0xd00028, [], true, [RST_T_TRIM]⟩,
  ⟨0xd00030, [], true, [RST_T_SETUP]⟩,
  ⟨0xe00000, [], false, [PWD_FEED_STATUS_STATE_A, PWD_FEED_STATUS_CONDUCT_A, PWD_FEED_STATUS_STATE_B, PWD_FEED_STATUS_CONDUCT_B, PWD_FEED_STATUS_WARN, PWD_FEED_STATUS_RECOVERING, PWD_FEED_STATUS_PWRFAIL, PWD_FEED_STATUS_UVLO]⟩,
  ⟨0xe00004, [], false, [PWD_BUS_MV]⟩,
  ⟨0xe00008, [], false, [PWD_UVLO]⟩,
  ⟨0xe00010, [(0x10, 2)], false, [PWD_FEED_CTL_EN, PWD_FEED_CTL_OV_CUT]⟩,
  ⟨0xe00014, [(0x10, 2)], false, [PWD_FEED_WARN_LEVEL, PWD_FEED_WARN_HYST]⟩,
  ⟨0xe00018, [(0x10, 2)], false, [PWD_FEED_OV]⟩,
  ⟨0xe0001c, [(0x10, 2)], false, [PWD_FEED_MV]⟩,
  ⟨0xe00100, [(0x20, 16)], false, [PWD_SLOT_CTL_ON, PWD_SLOT_CTL_RETRY, PWD_SLOT_CTL_RAMP, PWD_SLOT_CTL_CLR_FET]⟩]

/-- The registers of this file, piece 3: offset, strides and counts, 64-bit, fields (R518). -/
def regsD3 : List Reg := [
  ⟨0xe00104, [(0x20, 16)], false, [PWD_SLOT_LIM_INRUSH, PWD_SLOT_LIM_RUN]⟩,
  ⟨0xe00108, [(0x20, 16)], false, [PWD_SLOT_TIME_FT, PWD_SLOT_TIME_COOL]⟩,
  ⟨0xe0010c, [(0x20, 16)], false, [PWD_SLOT_STATUS_STATE, PWD_SLOT_STATUS_PG, PWD_SLOT_STATUS_IN_LIMIT, PWD_SLOT_STATUS_FENCED, PWD_SLOT_STATUS_RETRIES_LEFT, PWD_SLOT_STATUS_FET, PWD_SLOT_STATUS_LAST_FAST, PWD_SLOT_STATUS_PFD]⟩,
  ⟨0xe00110, [(0x20, 16)], false, [PWD_SLOT_MEAS_OUT, PWD_SLOT_MEAS_SENSE]⟩,
  ⟨0xe00114, [(0x20, 16)], false, [SLOT_TRIPS]⟩,
  ⟨0xe00118, [(0x20, 16)], false, [SLOT_FAST]⟩,
  ⟨0xe00600, [], false, [PWD_TEMP_CTL_WARN, PWD_TEMP_CTL_CRIT]⟩,
  ⟨0xe00604, [(0x4, 10)], false, [PWD_TEMP_VALUE, PWD_TEMP_VALID, PWD_TEMP_FAILED]⟩,
  ⟨0xe00630, [], false, [PWD_TEMP_MAX]⟩,
  ⟨0xe00800, [], false, [PWD_HU_CTL_EN, PWD_HU_CTL_MEASURE]⟩,
  ⟨0xe00804, [], false, [PWD_HU_STATUS_BUSY, PWD_HU_STATUS_PASS, PWD_HU_STATUS_RESULT, PWD_HU_STATUS_AGE]⟩,
  ⟨0xe00808, [], false, [PWD_HU_V0]⟩,
  ⟨0xe0080c, [], false, [PWD_HU_DV]⟩,
  ⟨0xe00810, [], false, [PWD_HU_CAP]⟩,
  ⟨0xe00814, [], false, [PWD_HU_ENERGY]⟩,
  ⟨0xe00818, [], false, [PWD_HU_ETA]⟩,
  ⟨0xe0081c, [], false, [PWD_HU_VMIN]⟩,
  ⟨0xe00820, [], false, [PWD_HU_PDRAIN]⟩,
  ⟨0xe00824, [], false, [PWD_HU_TFIXED]⟩,
  ⟨0xe00828, [], false, [PWD_HU_RATE]⟩,
  ⟨0xe0082c, [], false, [PWD_HU_MIN]⟩,
  ⟨0xe00830, [], false, [PWD_HU_BUDGET]⟩,
  ⟨0xe00834, [], false, [HU_TESTS]⟩,
  ⟨0xe00838, [], false, [HU_SKIPS]⟩]

/-- The registers of this file, piece 4: offset, strides and counts, 64-bit, fields (R518). -/
def regsD4 : List Reg := [
  ⟨0xf00000, [], false, [TST_BIST_SEL_LBIST, TST_BIST_SEL_MBIST, TST_BIST_SEL_OVF, TST_BIST_SEL_SERDES, TST_BIST_SEL_QMASK]⟩,
  ⟨0xf00004, [], false, [TST_BIST_STATUS_LBIST, TST_BIST_STATUS_MBIST, TST_BIST_STATUS_OVF, TST_BIST_STATUS_SERDES, TST_BIST_STATUS_RUNNING, TST_BIST_STATUS_ABORT, TST_BIST_STATUS_REPAIRED]⟩,
  ⟨0xf00008, [], false, [TST_LBIST_RES_CORE_FAIL, TST_LBIST_RES_CKR_FAIL, TST_LBIST_RES_LACE_FAIL]⟩,
  ⟨0xf0000c, [], false, [TST_MBIST_RES_REPAIRS, TST_MBIST_RES_UNREPAIRABLE]⟩,
  ⟨0xf00010, [(0x4, 4)], false, [TST_OVF_RES_RETIRED, TST_OVF_RES_LIMIT]⟩,
  ⟨0xf00020, [(0x4, 6)], false, [TST_LANE_FAIL]⟩,
  ⟨0xf00040, [], false, [TST_SEC_CMD_CLEAR, TST_SEC_CMD_VERIFY, TST_SEC_CMD_CLR_RETAINED, TST_SEC_CMD_RESULT, TST_SEC_CMD_KEY]⟩,
  ⟨0xf00044, [], false, [TST_SEC_STATUS_CLEARED, TST_SEC_STATUS_CLEARED_OK, TST_SEC_STATUS_ID_READY, TST_SEC_STATUS_SPDM_EN, TST_SEC_STATUS_FACTORY_SINCE_POR, TST_SEC_STATUS_TEST_EN, TST_SEC_STATUS_SESSIONS]⟩,
  ⟨0xf00048, [], false, [TST_DBG_JTAG_AWL, TST_DBG_LOCK]⟩,
  ⟨0xf00100, [(0x4, 25)], false, [TST_ID_PUB]⟩,
  ⟨0xf00200, [], false, [TST_CERT_CTL_LEN, TST_CERT_CTL_CERT_VALID, TST_CERT_CTL_COMMIT]⟩,
  ⟨0x20000000, [(0x1000, 16384)], false, [SLC_INFO_QP_COUNT]⟩,
  ⟨0x20000004, [(0x1000, 16384)], false, [SLC_PASID]⟩,
  ⟨0x20000008, [(0x1000, 16384)], false, [SLC_CPL_TO]⟩,
  ⟨0x20000010, [(0x1000, 16384)], false, [SLC_QP_SEL]⟩,
  ⟨0x20000040, [(0x1000, 16384)], false, [DB_BAD]⟩,
  ⟨0x20000044, [(0x1000, 16384)], false, [DB_IGN]⟩,
  ⟨0x20000048, [(0x1000, 16384)], false, [LATE_CPL]⟩,
  ⟨0x2000004c, [(0x1000, 16384)], false, [UNEXP_CPL]⟩,
  ⟨0x20000050, [(0x1000, 16384)], false, [JOBS_OK]⟩,
  ⟨0x20000054, [(0x1000, 16384)], false, [JOBS_ERR]⟩,
  ⟨0x20000058, [(0x1000, 16384)], false, [CQ_FULL]⟩,
  ⟨0x2000005c, [(0x1000, 16384)], false, [FETCH_ERR]⟩,
  ⟨0x20000018, [(0x1000, 16384)], true, [QP_SQ_BASE]⟩]

/-- The registers of this file, piece 5: offset, strides and counts, 64-bit, fields (R518). -/
def regsD5 : List Reg := [
  ⟨0x20000020, [(0x1000, 16384)], true, [QP_CQ_BASE]⟩,
  ⟨0x20000028, [(0x1000, 16384)], false, [QP_CFG_TYPE, QP_CFG_SQ_SIZE, QP_CFG_CQ_SIZE, QP_CFG_HALT_ON_ERR, QP_CFG_FETCH_TC, QP_CFG_INFLIGHTM1, QP_CFG_VEC]⟩,
  ⟨0x2000002c, [(0x1000, 16384)], false, [QP_MOD_CNT, QP_MOD_TIME]⟩,
  ⟨0x20000030, [(0x1000, 16384)], false, [QP_CTL_EN, QP_CTL_RESUME]⟩,
  ⟨0x20000034, [(0x1000, 16384)], false, [QP_STATUS_STATE, QP_STATUS_PHASE, QP_STATUS_ERR, QP_STATUS_GLOBAL_QP]⟩,
  ⟨0x20000038, [(0x1000, 16384)], false, [QP_SQ_PTR_HEAD, QP_SQ_PTR_TAIL]⟩,
  ⟨0x2000003c, [(0x1000, 16384)], false, [QP_CQ_PTR_TAIL, QP_CQ_PTR_HEAD]⟩]

/-- The registers of this file. -/
def regsD : List Reg := regsD1 ++ regsD2 ++ regsD3 ++ regsD4 ++ regsD5

end Sys2Proof.Machine
end

