-- ==== Sys2Proof/Machine/State.lean ====
section
/-! DEFINITION. The state of the part as plain data: the register store, and per block the state that its chapter
describes beside its registers. Maps keyed by numbers list only what differs from the default their docstring names. -/

namespace Sys2Proof.Machine

/-- Why a step stops with a fault. -/
inductive Fault where
  /-- Raised by no meaning of this model: every command that reaches its meaning answers a next state. Safe. -/
  | unreachable
deriving DecidableEq, Repr

/-- Why a step is refused. -/
inductive Refusal where
  /-- Raised by `exec` for a command whose meaning is not written yet. Safe: no claim is made of it. -/
  | notModelled (mnemonic : String)
deriving DecidableEq, Repr

/-- What the part sends out, newest last in `State.out`. -/
inductive Emit where
  /-- A packet leaves on a port; `bad` is a nullified TLP or a DATA_END_BAD end (R95). -/
  | sent (port : Nat) (pk : Packet) (bad : Bool)
  /-- A packet is delivered to a Clicker cluster's attachment (R76). -/
  | toCluster (k : Nat) (pk : Packet)
  /-- A stitch leaves on a T-link port: its type code, subtype and bytes (R266). -/
  | stitch (port : Nat) (type subtype : Nat) (body : Bytes)
  /-- Symbols leave on a lane of a T-link port, as levels, stuff symbols among them (R259, R264). -/
  | line (lane : Nat) (levels : List Nat)
  /-- An MSI-X message (R209, R436). -/
  | msix (f : FnRef) (vec : Nat)
  /-- The level a pin takes: trigger outputs, LACE_TOUT, fault pair, PWRFAIL_N, slot gates (by name). -/
  | pin (name : String) (idx : Nat) (level : Bool)
  /-- A pin goes to high impedance (R468). -/
  | highZ (name : String) (idx : Nat)
  /-- A PCIe-level action on a port: hot reset, nullify, link order, by name. -/
  | link (port : Nat) (what : String)
  /-- The answer to a register read, a management-bus transfer or a JTAG access: bytes; an in-band one without bytes is a Completer
  Abort. -/
  | answer (m : Master) (data : Bytes)
  /-- An SPDM response or error (R512), by its name. -/
  | spdm (via : SpdmVia) (what : String) (data : Bytes)
deriving DecidableEq, Repr

/-- A detector's report: source, instance, charged partition (R432). -/
structure Detect where
  src : Nat
  inst : Nat
  pt : Option Nat
deriving DecidableEq, Repr

/-! ### Queues of the Shank -/

/-- A packet in the Shank: arrival number, input attachment, class, cells (R78), partition whose traffic it is (R104),
how many of its cells lie in overflow memory, the PU it was counted into, whether it was stored after the latest
matching (R89), the slice that issued it (partition·1024 + slice), the crossing window that translated it, the group
sequence it has been given (R314), the class it arrived in, whose credits it took (R80, R128), the Quarter in whose bank it
was stored (R24), and whether it carries a proxy identity, its requester being in the return entry (R330). -/
structure QPkt where
  seq : Nat
  inp : Nat
  cls : Nat
  cells : Nat
  pk : Packet
  pt : Nat
  ovf : Nat
  pu : Option Nat
  fresh : Bool
  slice : Option Nat
  xw : Option Nat
  gseq : Option Nat := none
  vl : Nat := cls
  qtr : Nat := 0
  ret : Bool := false
deriving DecidableEq, Repr

/-- A packet in egress staging; `own` if the part formed it (R548), `ct` while it is sent cut-through. -/
structure Staged where
  q : QPkt
  own : Bool
  ct : Bool
deriving DecidableEq, Repr

/-- A pair matched for a packet: input, output, cells still to cross (R86). -/
structure Match where
  i : Nat
  o : Nat
  left : Nat
deriving DecidableEq, Repr

/-- A packet that waits at ingress: held back under R100, or by its policer (R128); `budget` if the hold-up budget holds it (R416). -/
structure HeldPkt where
  q : QPkt
  outp : Nat
  pol : Bool
  budget : Bool
  since : Nat
deriving DecidableEq, Repr

/-- The Shank beside its registers. VOQs are keyed (input·72 + output)·8 + class, oldest packet first; an absent VOQ
is empty. `spilled`: VOQs that send every new cell to overflow (R103). `spilling`: cells being written, by VOQ (R101).
Pointers default 0. `wait`: packets the part formed that wait for staging room (R548). `window`: T-link ports in their
return window (R106). `freed`: stitches whose credit returns, by port·8 + class (R101, R293). Buckets hold tokens in
1/8000 byte, below 0 after a charge they did not cover (R548), and the time they were counted; an absent bucket is
full (R127). `withheld`: credits of packets that are stored while the mode withholds them (Table 2-1): input, class, packet. `counted`:
by input, the time up to which CREDIT_HOLD has counted and the nanoseconds over. -/
structure Shank where
  voq : NMap (List QPkt) := []
  spilled : List Nat := []
  spilling : NMap Nat := []
  xbar : List Match := []
  gptr : NMap Nat := []
  aptr : NMap Nat := []
  staging : NMap (List Staged) := []
  wait : NMap (List Staged) := []
  held : List HeldPkt := []
  window : List Nat := []
  freed : NMap Nat := []
  nextSeq : Nat := 0
  deficit : NMap Int := []
  wptr : NMap Nat := []
  buckets : NMap (Int × Nat) := []
  withheld : List (Nat × Nat × Packet) := []
  counted : NMap (Nat × Nat) := []
deriving DecidableEq, Repr

/-! ### Gates -/

/-- Gates beside their registers: the entry in force is SHK_GATE_STATUS.ENTRY; `base`: tick start from which the list
of a port runs (absent: the LAST entry holds, R116); `frozen` in QUIESCE (R121); `latched`: OPEN mask of the LAST
entry of a port whose array failed (R133); `badEnt`: uncorrectable entries (port·128 + bank·64 + entry); `tick`: by armed port, the
tick T of the commit that armed it (R125). -/
structure Gates where
  base : NMap Nat := []
  frozen : List Nat := []
  latched : NMap Nat := []
  badEnt : List Nat := []
  committing : Bool := false
  tick : NMap Nat := []
deriving DecidableEq, Repr

/-! ### Access Window Table -/

/-- A checked access that has not completed (R388): its number, whether it is non-posted and then its requester and
tag, the job it belongs to, and whether it lies before the fence, or before a bank swap of which partition. -/
structure OpenAcc where
  id : Nat
  np : Bool
  rid : Nat
  tag : Nat
  job : Option Nat
  owner : Nat
  fenced : Bool
  swapped : Bool
deriving DecidableEq, Repr

/-- The AWT beside its registers: `shadow` holds words 1 to 3 of entry i at key 4·i + word, default 0 (R374);
`compare` the entries whose comparison runs (R385); `denied` the placed-denial flags set (R377); `awlShut`: a locked entry became
uncorrectable, so Awl accesses end LOCKED until COLD; `awlWait`: an Awl read waits for a tag. -/
structure AwtSt where
  shadow : NMap Nat := []
  compare : List Nat := []
  denied : List Nat := []
  accs : List OpenAcc := []
  fencing : Bool := false
  awlBusy : Bool := false
  awlShut : Bool := false
  awlWait : Bool := false
deriving DecidableEq, Repr

/-! ### Lace -/

/-- A tick stamped and not yet started (R60); `hops` and `delay` of its record as this part took it, 0 where it stamped the tick. -/
structure TickPend where
  stamp : Nat
  start : Nat
  num : Nat
  early : Bool
  late : Bool
  resync : Bool
  interval : Nat
  pos : Nat
  src : Nat
  master : Nat
  hops : Nat := 0
  delay : Nat := 0
deriving DecidableEq, Repr

/-- Lace beside its registers. `aLvl`, `bLvl`: filtered levels of the A and B pins, low where absent; `prevStamp`,
`prevNum`: of the latest tick stamped; `prevStart`: of the latest tick start; `pend`: ticks stamped and not started,
oldest first; `preset`: an armed preset; `resync`: SRC was changed since the latest stamp; `held`: candidates stamped
during a BLOCK reset (Table 17-3): stamp and position; `tinPrev`: the latest LACE_TIN edge; per trigger `fires`: due
times, earliest first (R73), and `trigCnt`: new-ground counts since its latest firing; `active`: triggers whose pulse
is on; the follower: `recHops`: HOPS of the records each port delivers, `lastRec`: the
last accepted number, `goodCorr`: records in succession whose corrections were below 3 ns, `adj`: the correction of device time so far,
`slew`: what is still to be slewed (R67); `presetAt`: the device time of the write that armed the preset; `boundary`: the encoder whose latest
count formed a candidate, until its next count. -/
structure Lace where
  aLvl : NMap Bool := []
  bLvl : NMap Bool := []
  prevStamp : Option Nat := none
  prevStart : Option Nat := none
  prevNum : Nat := 0
  pend : List TickPend := []
  preset : Option Nat := none
  presetAt : Nat := 0
  boundary : Option Nat := none
  resync : Bool := false
  held : List (Nat × Nat) := []
  tinPrev : Option Nat := none
  fires : NMap (List Nat) := []
  trigCnt : NMap Nat := []
  active : List Nat := []
  recHops : NMap Nat := []
  lastRec : Option Nat := none
  goodCorr : Nat := 0
  adj : Int := 0
  slew : Int := 0
deriving DecidableEq, Repr

/-- A live slice (R361, Table 13-4): PASID and whether it has one, queue pairs, vectors, share, cluster, overflow quota
in MiB; `resetting` while its SLICE or FUNC reset runs. -/
structure Slice where
  pasid : Nat
  pasidV : Bool
  qpBase : Nat
  qpCount : Nat
  vecBase : Nat
  vecCount : Nat
  share : Nat
  cluster : Nat
  ovfQuota : Nat
  resetting : Bool
deriving DecidableEq, Repr

/-! ### Placement (06_placement.md) -/

/-- A write held for a PU (R148, R150): input, class, packet, partition of the requester, offset in the PU, slice of a
Clicker's own write, and since when it waits; `sealWr`: it is a seal write that waits its turn behind them (R159). -/
structure HeldWr where
  inp : Nat
  cls : Nat
  pk : Packet
  pt : Nat
  off : Nat
  slice : Option Nat
  since : Nat := 0
  sealWr : Bool := false
deriving DecidableEq, Repr

/-- A PU entry (Table 6-14). Beside the table's fields: `life` counts assignments, so that a packet still queued from
an earlier life is not counted at egress; `ingRes` the residue modulo 15 of the ingress count (R452); `brk` the broken count; `size` S; `cls` the class of the first counted write;
`port` and `remote` device of the member at assignment; `held` writes; `mismatch` of R158; `sealTime`; `late`, `miss`,
`noMem`: the event has been posted; `drop`: later writes are discarded at
once (R150); `due`: its record waits to be posted (R163); `redo`: a decision found no member (R149); `again`: another cluster is to issue its
flush read again (R164). -/
structure Pu where
  state : Nat := 0
  broken : Bool := false
  cause : Nat := 0
  sealR : Nat := 0
  lateRisk : Bool := false
  redirected : Bool := false
  missed : Bool := false
  member : Nat := 0
  pool : Nat := 0
  window : Nat := 0
  head : Nat := 0
  slot : Nat := 0
  hash : Nat := 0
  tick : Nat := 0
  bufTag : Nat := 0
  bufAddr : Nat := 0
  ing : Nat := 0
  ingRes : Nat := 0
  egr : Nat := 0
  brk : Nat := 0
  life : Nat := 0
  size : Nat := 0
  cls : Option Nat := none
  port : Nat := 0
  remote : Option Nat := none
  held : List HeldWr := []
  ready : Nat := 0
  mismatch : Bool := false
  sealTime : Nat := 0
  late : Bool := false
  miss : Bool := false
  noMem : Bool := false
  drop : Bool := false
  due : Bool := false
  redo : Bool := false
  again : Bool := false
deriving DecidableEq, Repr

/-- A live pool member (Tables 6-11 and 6-12, R141): the settings applied, its failure cause, free buffers read and not
taken (address bits and tag), ring fetch position and tail, whether a ring read is outstanding and of how many entries,
credits, next slot of a fixed region, and the cumulative count of credits returned. An absent member is OFF. -/
structure Member where
  state : Nat := 3
  kind : Nat := 0
  remote : Bool := false
  port : Nat := 0
  dev : Nat := 0
  weight : Nat := 1
  addr : Nat := 0
  v : Nat := 0
  km1 : Nat := 0
  cost : Nat := 0
  db : Nat := 0
  cause : Nat := 0
  bufs : List Nat := []
  pos : Nat := 0
  tail : Nat := 0
  reading : Nat := 0
  credits : Nat := 0
  nextSlot : Nat := 0
  ret : Nat := 0
deriving DecidableEq, Repr

/-- A placement or event record that waits for its ring (Table 6-2 without PHASE); `pu`: the PU that it frees; `full`: since
when its ring has no room (R163). -/
structure PRec where
  type : Nat := 0
  status : Nat := 0
  sealR : Nat := 0
  flags : Nat := 0
  cause : Nat := 0
  member : Nat := 0
  pool : Nat := 0
  head : Nat := 0
  window : Nat := 0
  slot : Nat := 0
  tick : Nat := 0
  bufTag : Nat := 0
  bufAddr : Nat := 0
  bytes : Nat := 0
  sealTime : Nat := 0
  pu : Option Nat := none
  full : Option Nat := none
deriving DecidableEq, Repr

/-- Placement beside its registers: PU entries (absent: FREE), live members by pool·64 + member, the running values of
WEIGHTED_ROUND and the busy times of DEADLINE by the same key, the member bound to each POST queue pair (R178), records
that wait, oldest first, and the PU entries (first, and one past the last) that each ACTIVE window took when it was enabled (R140). -/
structure Plc where
  pu : NMap Pu := []
  mbr : NMap Member := []
  cur : NMap Int := []
  busy : NMap Nat := []
  bound : NMap Nat := []
  recs : List PRec := []
  range : NMap (Nat × Nat) := []
deriving DecidableEq, Repr

/-! ### Rings (07_rings_dma.md) -/

/-- How far a job is: started and not begun, moving data, waiting for its flush reads, waiting for its tick, ended. -/
inductive JobSt where
  | ready | running | flushing | waiting | ended
deriving DecidableEq, Repr

/-- A job of a ring (R186): ring index, descriptor, state, status (Table 7-6), destination bytes written, source bytes
asked for, data received by offset and not written yet, the buffer that a PLACE_COPY holds (member, address, tag),
DETAIL, flush reads outstanding and still to be issued (egress port, twice the address plus 1 if global), its number in
the order of starts, the flush reads issued so far, the egress ports written so far, each with its last address in the same form (R29),
the status with which it is to fail once what it has received in order is written (R199, R201), and the residue modulo 15 of the bytes
written (R452). -/
structure Job where
  idx : Nat
  desc : Bytes
  st : JobSt
  status : Nat
  written : Nat
  asked : Nat
  data : NMap Bytes
  buf : Option (Nat × Nat × Nat)
  detail : Nat
  flushes : Nat
  toFlush : List (Nat × Nat)
  id : Nat
  sent : List (Nat × Nat) := []
  ports : List (Nat × Nat) := []
  fail : Nat := 0
  res : Nat := 0
deriving DecidableEq, Repr

/-- A queue pair beside its registers: fetch position, the fetch outstanding (entries asked), descriptors fetched and not
started, jobs started and not retired in ring order, entries since the last signal and the first of them's time (R209),
whether a job error is to halt it (R205), the destinations (port, address) of NO_CPL jobs since the last FENCE (R186),
the descriptor for which a FETCH_FAIL entry is due, since when an entry waits for room (R204), and the cluster and class of the latest entry
(R28). -/
structure Qp where
  pos : Nat := 0
  fetching : Nat := 0
  fetched : List (Nat × Bytes) := []
  jobs : List Job := []
  modCnt : Nat := 0
  modSince : Option Nat := none
  halting : Bool := false
  dirty : List (Nat × Nat) := []
  fetchFail : Option Nat := none
  waits : Option Nat := none
  via : Option (Nat × Nat) := none
deriving DecidableEq, Repr

/-- What a read of the Clicking function is for. -/
inductive Purpose where
  | job (q id off : Nat)
  | jobFlush (q id : Nat)
  | fetch (q : Nat)
  | pu (u life : Nat)
  | ring (pm : Nat)
  | awl
deriving DecidableEq, Repr

/-- A tag in use or quarantined (R197 to R200): its cluster, purpose, time of issue, bytes asked and received, the port
of its request, whether it is quarantined after a timeout, whether a stopping queue pair discards its data (R211), the
data received by a fetch or a read of a buffer ring, and whether poisoned data have ended what it is for, so that only its last byte is
still awaited (R200, R201). -/
structure TagUse where
  cluster : Nat
  purpose : Purpose
  at' : Nat
  len : Nat
  got : Nat
  port : Nat
  quar : Bool
  silent : Bool
  buf : Bytes := []
  done : Bool := false
deriving DecidableEq, Repr

/-- Rings beside the registers: queue pairs by (partition·1024 + slice)·256 + local number, tags by partition·16384 +
tag, MSI-X words by ((function·2048 + vector)·4 + word) with function 16 the manager's (absent: 0, and vectors masked),
pending bits by function·2048 + vector, for those that wait behind an entry its cluster·8 + class (R28), the number of the next job, and the
service of R362: credits in bytes by cluster·16384 + slice, by cluster the slice it serves, and by cluster·16384 + slice the ring whose turn is
next. -/
structure Rings where
  qp : NMap Qp := []
  tags : NMap TagUse := []
  msix : NMap Nat := []
  pba : List Nat := []
  pbaVia : NMap Nat := []
  nextJob : Nat := 0
  credit : NMap Nat := []
  turn : NMap Nat := []
  ringTurn : NMap Nat := []
deriving DecidableEq, Repr

/-! ### Fabric, partitions (12_fabric.md, 13_partitions_sharing.md) -/

/-- A return entry (R330): the original requester, its partition and class, the input to answer, the fabric header of the
request, the crossing window it came through (512 is added once that window's copy has been replaced, R369), its time,
whether a completion has started, whether it is quarantined. -/
structure RetEnt where
  part : Nat
  tc : Nat
  rid : Nat
  tag : Nat
  inp : Nat
  fab : Option FabHdr
  xw : Option Nat
  at' : Nat
  started : Bool
  quar : Bool
deriving DecidableEq, Repr

/-- A request that waits at ingress for a return entry of port `outp` (R330, R332), with its arrival number. -/
structure RetWait where
  outp : Nat
  inp : Nat
  cls : Nat
  pt : Nat
  pk : Packet
  slice : Option Nat
  xw : Option Nat
  since : Nat
  seq : Nat := 0
  vl : Nat := cls
deriving DecidableEq, Repr

/-- A live crossing window (R367). -/
structure XWin where
  en : Bool
  src : Nat
  tgt : Nat
  glob : Bool
  k : Nat
  base : Nat
  addr : Nat
deriving DecidableEq, Repr

/-- Fabric and partitions beside the registers. `ret`: return entries by port·16384 + tag; `retWait`: requests that
wait for one; `seen`: notices by origin,
(NSEQ, time) newest first; `nseq`: this part's next notice; `sent`: times of its notices; `noRoute`: by device, when the
no-route source was last raised; `xw`: live crossing windows; `resets`: by partition, the causes that hold its PART reset, by name code; `ptResets`: PT_RESETS;
`vfHold`: remap entries whose configuration access is held; `vfFlr`: remap entries whose FLR is not answered;
`places`: bridge places by partition·64 + port (R239); `layout`: the layout in force (R47); `ridOld`: remap entries cleared
(partition, guest ID, port, real ID), whose reads may still be answered; `stall`: a lookup needed a check while the AWT was in
BLOCK reset; `stalled`: the packets held for that or by the mode (Tables 2-1 and 17-3), with port, class and since when; `cfgWait`: configuration requests held for a VF, with its entry and
input (R351). -/
structure Fabric where
  ret : NMap RetEnt := []
  retWait : List RetWait := []
  seen : NMap (List (Nat × Nat)) := []
  nseq : Nat := 0
  sent : List Nat := []
  noRoute : NMap Nat := []
  xw : NMap XWin := []
  resets : NMap (List Nat) := []
  ptResets : NMap Nat := []
  vfHold : List Nat := []
  vfFlr : List Nat := []
  places : NMap Nat := []
  layout : Nat := 0
  ridOld : List (Nat × Nat × Nat × Nat) := []
  stall : Bool := false
  stalled : List (Nat × Nat × Packet × Nat) := []
  cfgWait : List (Nat × Nat × Packet) := []
deriving DecidableEq, Repr

/-! ### Ports and T-links (08_lanes_ports.md, 10_tlink_phy.md, 11_welt_layer.md) -/

/-- A packet whose stitches the replay buffer holds (R284): the packet, whether the part formed it, its stitches, how many of them are still held,
whether it ended DATA_END_BAD (R315), and the CREDIT_RET of each of its stitches (R289). -/
structure Flight where
  q : QPkt
  own : Bool
  full : Nat
  left : Nat
  bad : Bool
  crs : List Nat := []
deriving DecidableEq, Repr

/-- A packet that arrives by stitches: its virtual lane, bytes and stitches so far, and whether it is being discarded (R316). -/
structure Partial where
  vl : Nat
  bytes : Bytes
  n : Nat
  drop : Bool
deriving DecidableEq, Repr

/-- A run of equal symbols on a lane: the level, how many of them, and whether the run has been counted as a violation (R264, R265). -/
structure Run where
  lvl : Nat := 0
  cnt : Nat := 0
  told : Bool := false
deriving DecidableEq, Repr

/-- The line of a physical lane: the generators of the two directions (R262, R263), and the run in which each ended (R264). -/
structure Line where
  tx : BitVec 31 := 0
  rx : BitVec 31 := 0
  txRun : Run := {}
  rxRun : Run := {}
deriving DecidableEq, Repr

/-- A T-link port beside its registers. Training: good TS1 and TS2 in a row by logical lane, stitches received since the
first TS2, whether this end sends TS2, the agreed width code, whether the training is
fast, the last rate, whether START found the partner known before. Step-up: code of the attempt (0: none), target,
corrected bytes in SOAK by lane. Welt: held packets, packet in arrival, accepted stitches since the last ACK or NAK and whether one is uncovered
(R287), CUM_RET and returns received by VL (R293, R296), replay tries, the request outstanding (subtype, ARG, sends, R299), whether
RESUME is under way and has been accepted, the E that it reports, whether the replay buffer was emptied
(R310 to R312), whether T_LL runs, the DELAY_REQ outstanding (ID, T1), the next ID, the bytes corrected in the window by logical
lane (R301), data lanes without symbol lock in striped mode (R308), lanes whose partner is adapted (R279), O when the link went down,
whether the SPARE_GO of an exchange that this end began is awaited (R303), and the width code of the receiver (R307). Line: the physical
lanes that carry logical lanes 0 upward to the receiver (R303, R307); of the sideband, the bytes sent of the FILLER under way, the bytes
received of the stitch under way, whether a run violation touched them, and when a stitch last failed its checks (R301, R302); the TICK that
waits for striped mode (R280); the REASON of the latest NAK of a RECOVER (Table 11-2); and of a replay under way the number that it began
from and the number of the stitch to be sent next (R289). Since the training began: when a training stitch first came, and the lanes that have
brought one (Table 8-4). -/
structure Tl where
  ts1 : NMap Nat := []
  ts2 : NMap Nat := []
  after : Nat := 0
  sendTs2 : Bool := false
  agreed : Nat := 0
  fast : Bool := false
  lastRate : Nat := 1
  same : Bool := false
  code : Nat := 0
  target : Nat := 0
  soak : NMap Nat := []
  flights : List Flight := []
  part : Option Partial := none
  since : Nat := 0
  uncovered : Bool := false
  cum : NMap Nat := []
  recvd : NMap Nat := []
  tries : Nat := 0
  req : Option (Nat × Nat × Nat) := none
  resume : Bool := false
  resumeGot : Bool := false
  eDown : Nat := 0
  noReplay : Bool := false
  tll : Bool := false
  delay : Option (Nat × Nat) := none
  delayId : Nat := 0
  corr : NMap Nat := []
  lost : List Nat := []
  eqP : List Nat := []
  oDown : Nat := 0
  spareGo : Bool := false
  rxw : Nat := 0
  rxLanes : List Nat := []
  sbTx : Nat := 0
  sbRx : Bytes := []
  sbViol : Bool := false
  sbBad : Option Nat := none
  tickDue : Option Bytes := none
  nakWhy : Nat := 0
  replayAt : Option (Nat × Nat) := none
  heardAt : Option Nat := none
  heard : List Nat := []
deriving DecidableEq, Repr

/-- A link pair beside its registers (R313 to R316): the partner device last verified, the next number, the base and the numbers
taken ahead of it, by class; and whether a member has trained again since the mismatch. -/
structure PairSt where
  dev : Option Nat := none
  tx : NMap Nat := []
  base : NMap Nat := []
  seen : NMap (List Nat) := []
  again : Bool := false
deriving DecidableEq, Repr

/-- The DOE mailbox of a function (Table 9-1; the base specification's): the double words written and not yet handed over, those of the response
not yet read, whether a response is awaited, and an error. -/
structure Doe where
  wr : List Nat := []
  rd : List Nat := []
  busy : Bool := false
  err : Bool := false
deriving DecidableEq, Repr

/-- Ports beside their registers: T-links, pairs; `bring`: bring-up may begin after a reset (R221); `dpc`: ports that DPC holds
down; `hot`: ports whose partner holds a hot reset; `retrain`: ports in a training that is no link down (R232); `stay`: (port·8 + class)
whose flows stay with the pair's other member (R318); `enWait`: ENABLE commands that wait for block 1 (Table 17-3); `ide`: key sets by
owner·2 + direction (R252); `ptm`: when PCI_PTM_OFS was updated; `portRst`: what
holds a port's PORT reset (0 its timer, 1 Secondary Bus Reset); `line`: the line of each physical lane; `doe`: the DOE mailboxes by function;
`l1`: downstream ports whose link is in L1 (R255). -/
structure Ports where
  tl : NMap Tl := []
  pairs : NMap PairSt := []
  bring : Bool := false
  dpc : List Nat := []
  hot : List Nat := []
  retrain : List Nat := []
  stay : List Nat := []
  enWait : List Nat := []
  ide : NMap Nat := []
  ptm : NMap Nat := []
  portRst : NMap (List Nat) := []
  line : NMap Line := []
  doe : NMap Doe := []
  l1 : List Nat := []
deriving DecidableEq, Repr

/-! ### Resets (18_reset_boot_clocks.md) -/

/-- A cause of a mode change that waits for a transition or a reset in progress (R42): the mode it leads to, GLB_MODE.CAUSE, the fault source
where it leads to SAFE, and whether it is a request. -/
structure Cause where
  to' : Nat
  cause : Nat
  src : Nat
  req : Bool
deriving DecidableEq, Repr

/-- Resets and pins: POR asserted; what asserts COLD (0 the pin, 1 its timer); WARM's pulse runs; a POR or COLD, or a WARM, is asserted and
not yet released (R477); RST_N low after qualification; partitions
whose PERSTn_N is low; a trim attempt runs; start-up after trim or WARM runs, until SETUP; the code of the last management-bus
command; TEST_EN high; SYS_REFCLK lost; PLLs out of lock (0 core, 1 Clicker, 2 Lace, 3 HBM, 4 management);
partitions whose latest FUNC reset may still run; causes of a mode change that wait, in the order in which they came (R42); narrower resets that
recovery waits for since SETUP was reached (R465): partition n, 16 + port, 80 + block. -/
structure RstSt where
  por : Bool := true
  cold : List Nat := []
  warm : Bool := false
  coldWait : Bool := true
  warmWait : Bool := false
  rstLow : Bool := false
  perst : List Nat := []
  trimming : Bool := false
  starting : Bool := false
  lastCmd : Nat := 0
  testEn : Bool := false
  sysLost : Bool := false
  unlocked : List Nat := []
  func : List Nat := []
  later : List Cause := []
  waits : List Nat := []
deriving DecidableEq, Repr

/-! ### Modes (02_modes.md) -/

/-- A mode transition in progress: the mode it leads to and the mode it leaves, GLB_MODE.CAUSE and LOCKED as it will set them,
the fault source where it leads to SAFE, and whether a request began it. -/
structure Trans where
  to' : Nat
  from' : Nat
  cause : Nat
  locked : Bool
  src : Nat
  req : Bool
deriving DecidableEq, Repr

/-! ### Clicker clusters and firmware (15_clickers.md) -/

/-- Clusters beside their registers. `stg`: bytes of the staging buffer; `verifying` and `changed`: a check runs, and a write
fell in it (R399); `installing`: the mask of an INSTALL that runs; `img`: by cluster the image in its shared memory; `ran`: clusters
whose engines have run since their memories were emptied; `hand`: hand-offs under way, by cluster the target (R401); `reset`:
clusters whose BLOCK reset is held (Table 17-3); `stay`: by job number, the cluster on which a job ends that it had started when its work
moved on (R402, R403). -/
structure Ckr where
  stg : List Host.Cell := []
  verifying : Bool := false
  changed : Bool := false
  installing : Option Nat := none
  img : NMap (List Host.Cell) := []
  ran : List Nat := []
  hand : NMap Nat := []
  reset : List Nat := []
  stay : NMap Nat := []
deriving DecidableEq, Repr

/-! ### Overflow memory and the Heel (16_overflow_holdup.md) -/

/-- The Heel beside its registers: a test's V0 in mV and V1 in 10 µV while it runs; the latest valid test's V0, ΔV, C and time;
whether a DRAIN has occurred since that test; whether tests run every second until one passes (R421); whether SETUP has been reached;
a MEASURE that waits; the latest valid test is older than 30 s; the latest test was not valid; groups that a RESTORE rebuilds (plus 4: that are rebuilt after a BLOCK reset), and
whether its mask named one that was not fenced (R412). -/
structure Heel where
  v0 : Option Nat := none
  v1 : Option Nat := none
  valid : Option (Nat × Nat × Nat) := none
  validAt : Nat := 0
  drained : Bool := false
  retry : Bool := false
  setup : Bool := false
  asked : Bool := false
  old : Bool := false
  bad : Bool := false
  rebuild : List Nat := []
  notFenced : Bool := false
deriving DecidableEq, Repr

/-! ### Faults (17_faults.md) -/

/-- The collector beside its registers. `ret`: bytes of retained memory (0 where absent); `retBad`, `bkpBad`: its words and the
backup registers that are uncorrectable; `broken`: broken rail pairs; `once`: sources recorded in the shadow that now covers them;
`due`: shadowed occurrences whose reaction waits for the shadow's end (source, instance, partition); `blkTimes`: times of the latest BLOCK
reactions applied, by block, newest first; `port`: the port that a BLOCK reset of code 2 holds;
`inj`: source and kind of an injection that runs; `blkSrc`: source and instance of the BLOCK reset of each block; `again`: T-links that
train anew when the Welt's BLOCK reset is released (R440). -/
structure Flt where
  ret : List Host.Cell := []
  retBad : List Nat := []
  bkpBad : List Nat := []
  broken : List Nat := []
  once : List Nat := []
  due : List (Nat × Nat × Option Nat) := []
  blkTimes : NMap (List Nat) := []
  port : Option Nat := none
  inj : Option (Nat × Nat) := none
  blkSrc : NMap (Nat × Nat) := []
  again : List Nat := []
deriving DecidableEq, Repr

/-! ### The power die (19_power_slots.md, 22_electrical_package.md) -/

/-- The power die beside its registers: running (R536); feeds below their threshold (R484); channels whose cool-down ended in
undervoltage (R486); temperature sensors that failed (R544). -/
structure Pwr where
  on : Bool := true
  low : List Nat := []
  cooled : List Nat := []
  failed : List Nat := []
deriving DecidableEq, Repr

/-! ### Self-test and secrets (20_selftest_security.md) -/

/-- Self-tests and secrets beside their registers: tests selected and not ended, and the Quarters selected; the certificate window's bytes; whether the
seed can be read, whether the key store holds anything, whether VERIFY runs and a write fell in it; a KEY_EXCHANGE or
IDE_KM exchange under way (R515); whether the latest CLEAR cleared retained memory too (R508). -/
structure Tst where
  left : List Bist := []
  qmask : Nat := 0
  cert : List Host.Cell := []
  seedOpen : Bool := false
  keys : Bool := false
  verifying : Bool := false
  changed : Bool := false
  exchange : Option SpdmVia := none
  retClr : Bool := false
deriving DecidableEq, Repr

/-! ### Register access (21_register_map.md) -/

/-- Held low halves of writes and latched high halves of reads, by master·2^30 + offset (R521). -/
structure Bus where
  lo : NMap Nat := []
  hi : NMap Nat := []
deriving DecidableEq, Repr

/-- The whole state of the part. `now`: nanoseconds since POR (R16); `mgmtStatus`: the STATUS byte of the latest management-bus
transfer (R474); `regs`: every register field of chapter 21 that differs from its reset value; `pending`: the commands that wait,
first in, first out; `out`: what the part has sent, oldest first; `detect`: detectors that have asserted and that the collector has
not taken (R436); `free`: how many free values have been drawn; `cfg`: configuration space, by function·2048 + word, with the captured
bus at 1024; `slices`: live slices by partition·1024 + slice; `tr`: a mode transition in progress. -/
structure State where
  now : Nat
  mgmtStatus : Nat
  regs : Regs
  pending : List Instr
  out : List Emit
  detect : List Detect
  free : Nat
  cfg : NMap Nat
  slices : NMap Slice
  shk : Shank
  gate : Gates
  awt : AwtSt
  lce : Lace
  plc : Plc
  rng : Rings
  fab : Fabric
  prt : Ports
  rst : RstSt
  tr : Option Trans
  ckr : Ckr
  heel : Heel
  flt : Flt
  pwr : Pwr
  tst : Tst
  bus : Bus
deriving DecidableEq, Repr

/-- The part while power-on reset is asserted, the state that POR leaves (R459, R465): every register at its reset value, every
queue, table and memory empty, POR not yet released. -/
def State.reset : State where
  now := 0
  mgmtStatus := 0
  regs := []
  pending := []
  out := []
  detect := []
  free := 0
  cfg := []
  slices := []
  shk := {}
  gate := {}
  awt := {}
  lce := {}
  plc := {}
  rng := {}
  fab := {}
  prt := {}
  rst := {}
  tr := none
  ckr := {}
  heel := {}
  flt := {}
  pwr := {}
  tst := {}
  bus := {}

end Sys2Proof.Machine
end

