-- ==== Sys2Proof/Machine/Ops.lean ====
section
/-! DEFINITION. The named operations on the state that every family uses: register fields, counters, detectors, what
is sent out, time, and the addressing of attachments. -/

namespace Sys2Proof.Machine

/-- The answer of a meaning: a next state (every meaning of this model completes). -/
abbrev Res := Host.Outcome State Fault Refusal

/-! ### Registers -/

/-- Field `f` of instance `i`. -/
def rd (s : State) (f : Fld) (i : Nat := 0) : Nat := rget s.regs f i

/-- A one-bit field as a truth value. -/
def bit (s : State) (f : Fld) (i : Nat := 0) : Bool := rd s f i != 0

/-- The state with field `f` of instance `i` at `v`. -/
def wr (s : State) (f : Fld) (i v : Nat) : State := { s with regs := rset s.regs f i v }

/-- A truth value written to a one-bit field. -/
def wrb (s : State) (f : Fld) (i : Nat) (b : Bool) : State := wr s f i (if b then 1 else 0)

/-- A counter raised by `n`, saturating. -/
def inc (s : State) (f : Fld) (i : Nat := 0) (n : Nat := 1) : State := { s with regs := rbump s.regs f i n }

/-- The instances at which a field whose reset value is 0 holds something else, in ascending order. -/
def setIdx (s : State) (f : Fld) : List Nat :=
  let lo := fkey f 0
  (s.regs.filter (fun e => lo ≤ e.1 && e.1 < lo + 16777216 && e.2 != 0)).map (fun e => e.1 - lo)

/-! ### Detectors and output -/

/-- The detector of `src` asserts its rails; the collector acts on it in a step of its own (R430, R436). -/
def raise (s : State) (src : Nat) (inst : Nat := 0) (pt : Option Nat := none) : State :=
  { s with detect := s.detect ++ [⟨src, inst, pt⟩] }

/-- The part sends `e`. -/
def emit (s : State) (e : Emit) : State := { s with out := s.out ++ [e] }

/-- `raise` where the condition holds. -/
def raiseIf (c : Bool) (s : State) (src : Nat) (inst : Nat := 0) (pt : Option Nat := none) : State :=
  if c then raise s src inst pt else s

/-! ### Residues modulo 15 (R452) -/

/-- The residue of a value. -/
def residue (v : Nat) : Nat := v % 15

/-- The residues of a sum, a difference and a product from those of their operands; 0xF, which is never valid, stays 0xF. -/
def resAdd (a b : Nat) : Nat := if a < 15 && b < 15 then (a + b) % 15 else 15
def resSub (a b : Nat) : Nat := if a < 15 && b < 15 then (a + 15 - b) % 15 else 15
def resMul (a b : Nat) : Nat := if a < 15 && b < 15 then a * b % 15 else 15

/-- Residue `r`, formed from the operands, against the result `v`; a mismatch raises the block's source. -/
def resCheck (s : State) (r v src : Nat) (inst : Nat := 0) : State := raiseIf (!(r < 15 && r == residue v)) s src inst

/-- Address `a` of a window that starts at `lo`, moved to the window that starts at `base`, modulo 2^64. -/
def moveAddr (a lo base : Nat) : Nat := (base + (a - lo)) % 2 ^ 64

/-- The residue of the moved address from those of its operands; a carry out of bit 63 takes 2^64, whose residue is 1. -/
def moveRes (a lo base : Nat) : Nat :=
  resSub (resAdd (residue base) (resSub (residue a) (residue lo))) (residue ((base + (a - lo)) / 2 ^ 64))

/-- The check of an address rewrite (Table 17-5). -/
def moveCheck (s : State) (a lo base src : Nat) (inst : Nat := 0) : State := resCheck s (moveRes a lo base) (moveAddr a lo base) src inst

/-- The same action for each of a list, in order. -/
def forEach {α : Type} (l : List α) (s : State) (f : State → α → State) : State := l.foldl f s

/-- A bit mask of the numbers below `n` at which `p` holds. -/
def maskOf (n : Nat) (p : Nat → Bool) : Nat := (List.range n).foldl (fun a i => if p i then a + 2 ^ i else a) 0

/-- R465: the narrower reset `k` (partition n, 16 + port, 80 + block) is released: recovery waits for it no longer. -/
def waitEnd (s : State) (k : Nat) : State := { s with rst := { s.rst with waits := s.rst.waits.filter (· != k) } }

/-- R41, R438: the fences of the sources `hit` names are lifted; GLB_MODE.FENCED clears once no resource is fenced. -/
def fenceFree (s : State) (hit : Nat → Bool) : State :=
  let s := forEach ((setIdx s FLT_SEV_FENCED).filter hit) s (fun s n => wr s FLT_SEV_FENCED n 0)
  if setIdx s FLT_SEV_FENCED = [] && (List.range 8).all (fun k => rd s CKR_CLU_STATUS_STATE k != 5) then wr s GLB_MODE_FENCED 0 0
  else s

/-! ### Modes (Table 2-1) -/

/-- GLB_MODE.CUR. -/
def mode (s : State) : Nat := rd s GLB_MODE_CUR

def mHOLD : Nat := 1
def mTEST : Nat := 2
def mSETUP : Nat := 3
def mFREE : Nat := 4
def mLOCKED : Nat := 5
def mDEGRADED : Nat := 6
def mQUIESCE : Nat := 7
def mDRAIN : Nat := 8
def mSAFE : Nat := 9
def mLOOPBACK : Nat := 10
def mFACTORY : Nat := 11
def mSTANDBY : Nat := 12

/-- RUN-FREE, RUN-LOCKED or DEGRADED: forwarding, placement and Clickers run in full (Table 2-1). -/
def running (s : State) : Bool := mode s == mFREE || mode s == mLOCKED || mode s == mDEGRADED

/-- Modes in which Lace decodes encoders, forms ticks and fires triggers (the paragraph after Table 2-1). -/
def laceRuns (s : State) : Bool :=
  !(mode s == mHOLD || mode s == mTEST || mode s == mSAFE || mode s == mFACTORY || mode s == mSTANDBY)

/-! ### Time -/

/-- Device time: nanoseconds since POR plus the offset and a follower's correction, modulo 2^64 (R16, R59, R67). -/
def devTime (s : State) : Nat := (((s.now + rd s LCE_TIME_OFS : Nat) + s.lce.adj) % (2 ^ 64 : Nat)).toNat

/-! ### Byte strings (R14) -/

/-- The `n` bytes of `v`, least significant first. -/
def leBytes : Nat → Nat → Bytes
  | 0, _ => []
  | n + 1, v => BitVec.ofNat 8 v :: leBytes n (v / 256)

/-- The number whose little-endian bytes are `l`. -/
def leNat : Bytes → Nat
  | [] => 0
  | b :: l => b.toNat + 256 * leNat l

/-! ### Byte stores: sorted by address, no entry that is 0, which an absent address reads as -/

/-- The byte at `a`. -/
def cget : List Host.Cell → Nat → Byte
  | [], _ => 0
  | (b, v) :: m, a => if b = a then v else if a < b then 0 else cget m a

/-- The store without the byte at `a`. -/
def cdel : List Host.Cell → Nat → List Host.Cell
  | [], _ => []
  | (b, v) :: m, a => if b = a then m else if a < b then (b, v) :: m else (b, v) :: cdel m a

/-- The store with byte `v` listed at `a`. -/
def cins : List Host.Cell → Nat → Byte → List Host.Cell
  | [], a, v => [(a, v)]
  | (b, w) :: m, a, v => if b = a then (a, v) :: m else if a < b then (a, v) :: (b, w) :: m else (b, w) :: cins m a v

/-- The store with byte `v` at `a`. -/
def cput (m : List Host.Cell) (a : Nat) (v : Byte) : List Host.Cell := if v = 0 then cdel m a else cins m a v

/-- The store with the bytes of `l` from `a` on. -/
def cputs : List Host.Cell → Nat → Bytes → List Host.Cell
  | m, _, [] => m
  | m, a, v :: l => cputs (cput m a v) (a + 1) l

/-- The `n` bytes from `a` on. -/
def cgets (m : List Host.Cell) (a n : Nat) : Bytes := (List.range n).map (fun i => cget m (a + i))

/-! ### Masters (R522, R439) -/

/-- Block `b` is in BLOCK reset (R439). -/
def inBlockReset (s : State) (b : Nat) : Bool := rd s FLT_BLK_STATE b == 1

/-- The block that an offset of manager BAR0 belongs to (Table 21-1). -/
def blockOf (off : Nat) : Nat := if 0x4000000 ≤ off then 8 else off / 0x100000

/-- The manager-access column of Table 2-1. -/
def modeAllows (s : State) (m : Master) (off : Nat) (w : Bool) : Bool :=
  let md := mode s
  let b := blockOf off
  if md == mHOLD then m = .mgmt && !w && [0x0, 0xc, 0x10, RST_CAUSE_POR.off].contains (off / 4 * 4)
  else if md == mTEST then m = .mgmt && (b == 0 || b == 15)
  else if md == mSAFE then m = .mgmt && (!w || b == 12 || b == 13 || b == 14 || (0x100 ≤ off && off < 0x120))
  else if md == mFACTORY then m = .mgmt || m = .awl
  else if md == mSTANDBY then m = .mgmt
  else true

/-- How an access that a mode or a reset turns away ends at its master: nothing in-band, STATUS `code` on the
management bus, AWL_STATUS = CA at the Awl (R522). -/
def accDenied (s : State) (m : Master) (code : Nat) : State :=
  match m with
  | .inband => s
  | .mgmt => { s with mgmtStatus := code }
  | .awl => wr s AWL_STATUS 0 5

/-- A write by master `m` at offset `off` with effect `f`: as R522 allows it in this mode, and as R439 answers for a
block in BLOCK reset. -/
def asMaster (s : State) (m : Master) (off : Nat) (f : State → State) : State :=
  if !modeAllows s m off true then accDenied s m 3
  else if inBlockReset s (blockOf off) then accDenied (inc s FLT_BLK_DISC) m 1
  else f (if m = .mgmt then { s with mgmtStatus := 0 } else s)

/-- A reset of WARM reach or wider is asserted (R446, R465). -/
def wideReset (s : State) : Bool := s.rst.coldWait || s.rst.warmWait

/-! ### Attachments -/

/-- The width in lanes that a WIDTH code names (Table 8-12). -/
def widthOf (code : Nat) : Nat :=
  match code with
  | 1 => 2 | 2 => 4 | 3 => 8 | 4 => 16 | _ => 1

/-- Port `p` is a T-link port. -/
def isTlink (s : State) (p : Nat) : Bool := bit s PRT_CFG_PERS p

/-- The Quarter of attachment `a`: of a port's first lane, of cluster K(a − 64) (R10, R24). -/
def quarterOf (s : State) (a : Nat) : Nat :=
  if a < 64 then rd s PRT_CFG_FIRST_LANE a / 48 % 4 else (a - 64) / 2

/-- Port `p` is UP or STEPPING. -/
def linkUp (s : State) (p : Nat) : Bool :=
  rd s PRT_STATUS_STATE p == 3 || rd s PRT_STATUS_STATE p == 4

/-- R349: while the stored layout is transparent or fabric spine, every port is PT0's. -/
def oneLayout (s : State) : Bool := rd s GLB_MODE_REQ_LAYOUT == 0 || rd s GLB_MODE_REQ_LAYOUT == 3

/-- The partition that owns port `p`. -/
def portPt (s : State) (p : Nat) : Nat := if oneLayout s then 0 else rd s PTN_PORT_PARTITION p

/-- The upstream port of partition `n`, if one is up or configured (PTN_STAT). -/
def upPort (s : State) (n : Nat) : Option Nat :=
  if bit s PTN_STAT_UP_VALID n then some (rd s PTN_STAT_UPORT n) else none

end Sys2Proof.Machine
end

