-- ==== Sys2Proof/Machine/Awt.lean ====
section
/-! DEFINITION. The Access Window Table: match, permission, attributes, denial, overlap, fence and banks
(14_access_control.md). -/

namespace Sys2Proof.Machine

/-- What a request needs (R380). -/
inductive Need where
  | read | write | atomic | zero
deriving DecidableEq, Repr

/-- A checked request: address range, owner and space sought (Table 14-2), requester identity (Table 14-3). -/
structure AccReq where
  addr : Nat
  len : Nat
  owner : Nat
  glob : Bool
  kind : Nat
  rid : Nat
  dev : Nat
  pasid : Option Nat
  need : Need
deriving DecidableEq, Repr

/-- What a check answers: the one entry that admits, or the denial reason code of R382. -/
inductive Verdict where
  | permit (i : Nat)
  | deny (reason : Nat)
deriving DecidableEq, Repr

/-- The entries whose word 0 has VALID = 1, in index order. -/
def awtValid (s : State) : List Nat :=
  let lo := fkey AWT_W0_VALID 0
  (s.regs.filter (fun e => lo ≤ e.1 && e.1 < lo + 8192 && e.2 != 0)).map (fun e => e.1 - lo)

/-- R390, R392: entry `i` is in force for its owner's bank. -/
def awtInForce (s : State) (i : Nat) : Bool :=
  let n := rd s AWT_W2_OWNER i
  bit s AWT_W0_LOCK i || !bit s AWT_BANK_SEL_MODE n || rd s AWT_W0_BANK i == rd s AWT_BANK_SEL_ACTIVE n

/-- R379 for the PASID. -/
def pasidMatch (s : State) (i : Nat) (p : Option Nat) : Bool :=
  match rd s AWT_W3_PASID_MODE i, p with
  | 0, _ => true
  | 1, none => true
  | 2, some v => v == rd s AWT_W3_PASID i
  | _, _ => false

/-- R379 without the range: entry `i` is in force for this space, owner and requester. -/
def awtSelects (s : State) (i : Nat) (r : AccReq) : Bool :=
  let src := rd s AWT_W2_REQ_SRC i
  let dev := rd s AWT_W2_REQ_DEV i
  awtInForce s i && bit s AWT_W0_GLOBAL i == r.glob && rd s AWT_W2_OWNER i == r.owner
    && (src == r.kind || (src == 0x1F && r.kind != 0x11))
    && ((r.rid ^^^ rd s AWT_W2_RID i) &&& rd s AWT_W2_RID_MASK i) == 0
    && (r.kind != 0x10 || src == 0x1F || dev / 64 == 1 || dev % 64 == r.dev)
    && pasidMatch s i r.pasid

/-- First byte of entry `i` (R372). -/
def awtLo (s : State) (i : Nat) : Nat := rd s AWT_W0_START i * 64

/-- One past the last byte of entry `i` (R372). -/
def awtHi (s : State) (i : Nat) : Nat := (rd s AWT_W1_END i + 1) * 64

/-- Every byte from `a`, `n` long, lies within entry `i`. -/
def awtCovers (s : State) (i a n : Nat) : Bool := awtLo s i ≤ a && a + n ≤ awtHi s i

/-- Some byte from `a`, `n` long, lies within entry `i`. -/
def awtTouches (s : State) (i a n : Nat) : Bool := awtLo s i < a + n && a < awtHi s i && awtLo s i < awtHi s i

/-- The entries that match `r` (R379). -/
def awtMatches (s : State) (r : AccReq) : List Nat :=
  (awtValid s).filter (fun i => awtSelects s i r && awtCovers s i r.addr r.len)

/-- R380: entry `i` grants what is needed. -/
def awtGrants (s : State) (i : Nat) (n : Need) : Bool :=
  match n with
  | .read => bit s AWT_W1_R i
  | .write => bit s AWT_W1_W i
  | .atomic => bit s AWT_W1_A i
  | .zero => bit s AWT_W1_R i || bit s AWT_W1_W i

/-- R380, R381, R386: the check of one request. Reasons: 1 NO_MATCH, 2 PERM, 3 OVERLAP, 4 SPAN (R382). -/
def awtCheck (s : State) (r : AccReq) : Verdict :=
  match awtMatches s r with
  | [i] => if awtGrants s i r.need then .permit i else .deny 2
  | [] => if (awtValid s).any (fun i => awtSelects s i r && awtTouches s i r.addr r.len) then .deny 4 else .deny 1
  | _ => .deny 3

/-- R393: some VALID entry with LOCK, of this space and owner, shares a granule with the range. -/
def awtLockedRange (s : State) (r : AccReq) : Bool :=
  (awtValid s).any (fun i => bit s AWT_W0_LOCK i && bit s AWT_W0_GLOBAL i == r.glob && rd s AWT_W2_OWNER i == r.owner
    && awtTouches s i (r.addr / 64 * 64) ((r.addr + r.len + 63) / 64 * 64 - r.addr / 64 * 64))

/-- R381: the denial reason of a job's whole range, if any granule of it is denied (R195). The granules looked at are
the first and every one at which an entry begins or ends, since between those the matching entries do not change. -/
def awtRangeDeny (s : State) (r : AccReq) : Option Nat :=
  let lo := r.addr / 64
  let hi := (r.addr + r.len + 63) / 64
  let cuts := (awtValid s).foldl (fun l i => rd s AWT_W0_START i :: (rd s AWT_W1_END i + 1) :: l) [lo]
  (cuts.filter (fun g => lo ≤ g && g < hi)).foldl (fun acc g =>
    match acc with
    | some d => some d
    | none => match awtCheck s { r with addr := g * 64, len := 64 } with
      | .permit _ => none
      | .deny d => some d) none

/-- R195, R381: the whole range passes, before the first request of a job. -/
def awtRangeOk (s : State) (r : AccReq) : Bool := r.len == 0 || (awtRangeDeny s r).isNone

/-- A one-bit attribute under its two-bit control (Table 14-1: NS, RO, IBO). -/
def attrOf (ctl : Nat) (b : Bool) : Bool := if ctl == 1 then false else if ctl == 2 then true else b

/-- R383: the attributes that entry `i` gives a permitted request. -/
def awtAttrs (s : State) (i : Nat) (pk : Packet) : Packet :=
  { pk with
    ns := attrOf (rd s AWT_W3_NS i) pk.ns
    ro := attrOf (rd s AWT_W3_RO i) pk.ro
    ido := attrOf (rd s AWT_W3_IBO i) pk.ido
    tph := match rd s AWT_W3_TPH i with
      | 1 => none
      | 2 => some (BitVec.ofNat 2 (rd s AWT_W3_PH i), BitVec.ofNat 16 (rd s AWT_W3_ST i))
      | _ => pk.tph }

/-- The ACCESS code of AWT_DLOG. -/
def needCode : Need → Nat
  | .read => 0 | .write => 1 | .atomic => 2 | .zero => 3

/-- R382: AWT_DLOG and AWT_DLOG_ADDR take the first denial since VALID was cleared. -/
def awtLog (s : State) (r : AccReq) (reason : Nat) : State :=
  if bit s AWT_DLOG_VALID then s else
  let s := wr s AWT_DLOG_ADDR 0 r.addr
  let s := wr s AWT_DLOG_RID 0 r.rid
  let s := wr s AWT_DLOG_REQ_SRC 0 r.kind
  let s := wr s AWT_DLOG_OWNER 0 r.owner
  let s := wr s AWT_DLOG_REASON 0 reason
  let s := wr s AWT_DLOG_ACCESS 0 (needCode r.need)
  let s := wrb s AWT_DLOG_GLOBAL 0 r.glob
  let s := wr s AWT_DLOG_PASID 0 (r.pasid.getD 0)
  let s := wrb s AWT_DLOG_PASID_V 0 r.pasid.isSome
  let s := wr s AWT_DLOG_SRC_DEV 0 r.dev
  wr s AWT_DLOG_VALID 0 1

/-- R386: a request that more than one entry matched raises its source, whoever treats the denial. -/
def overlapRaise (s : State) (reason : Nat) : State := if reason = 3 then raise s 0x303 else s

/-- R382: a denial is counted, logged and raised; an overlap raises its own source too (R386). -/
def awtDeny (s : State) (r : AccReq) (reason : Nat) : State :=
  overlapRaise (raise (awtLog (inc s AWT_DENIED) r reason) 0x304) reason

/-- A permitted access enters the fence's books (R388). -/
def awtOpen (s : State) (a : OpenAcc) : State := { s with awt := { s.awt with accs := s.awt.accs ++ [a] } }

/-- The accesses that `done` names have completed (R388). -/
def awtClose (s : State) (done : OpenAcc → Bool) : State :=
  { s with awt := { s.awt with accs := s.awt.accs.filter (fun a => !done a) } }

/-- A posted request of number `id` left, or was discarded (R388). -/
def awtClosePosted (s : State) (id : Nat) : State := awtClose s (fun a => !a.np && a.job.isNone && a.id == id)

/-- The last completion for a requester and tag left, or the part answered the request (R388). -/
def awtCloseNp (s : State) (rid tag : Nat) : State := awtClose s (fun a => a.np && a.rid == rid && a.tag == tag)

/-! ### Overlap -/

/-- R384: the requester selectors of entries `a` and `b` can both match one request. -/
def selectorsMeet (s : State) (a b : Nat) : Bool :=
  let sa := rd s AWT_W2_REQ_SRC a
  let sb := rd s AWT_W2_REQ_SRC b
  let da := rd s AWT_W2_REQ_DEV a
  let db := rd s AWT_W2_REQ_DEV b
  let pa := rd s AWT_W3_PASID_MODE a
  let pb := rd s AWT_W3_PASID_MODE b
  (sa == sb || ((sa == 0x1F || sb == 0x1F) && sa != 0x11 && sb != 0x11))
    && (!(sa == 0x10 && sb == 0x10) || da == db || da / 64 == 1 || db / 64 == 1)
    && ((rd s AWT_W2_RID a ^^^ rd s AWT_W2_RID b) &&& rd s AWT_W2_RID_MASK a &&& rd s AWT_W2_RID_MASK b) == 0
    && (pa == 0 || pb == 0 || (pa == 1 && pb == 1) || (pa == 2 && pb == 2 && rd s AWT_W3_PASID a == rd s AWT_W3_PASID b))

/-- R384, R392: the entries are in force in one bank. -/
def sameBank (s : State) (a b : Nat) : Bool :=
  bit s AWT_W0_LOCK a || bit s AWT_W0_LOCK b || !bit s AWT_BANK_SEL_MODE (rd s AWT_W2_OWNER a)
    || rd s AWT_W0_BANK a == rd s AWT_W0_BANK b

/-- R384: entries `a` and `b` conflict. -/
def awtConflict (s : State) (a b : Nat) : Bool :=
  a != b && bit s AWT_W0_VALID a && bit s AWT_W0_VALID b && rd s AWT_W0_GLOBAL a == rd s AWT_W0_GLOBAL b
    && rd s AWT_W2_OWNER a == rd s AWT_W2_OWNER b && sameBank s a b
    && max (awtLo s a) (awtLo s b) < min (awtHi s a) (awtHi s b) && selectorsMeet s a b

/-- The lowest entry that conflicts with `i`. -/
def firstConflict (s : State) (i : Nat) : Option Nat := (awtValid s).find? (fun j => awtConflict s i j)

/-- Some conflicting pair exists (R385). -/
def anyConflict (s : State) : Bool := (awtValid s).any (fun i => (firstConflict s i).isSome)

/-! ### Writing entries -/

/-- The fields of word 0 to 3 of entry `i` take those of the words given (Table 14-1). -/
def awtStore (s : State) (i w0 w1 w2 w3 : Nat) : State :=
  let put := fun (s : State) (f : Fld) (w : Nat) => wr s f i (w / 2 ^ f.lsb)
  let s := put (put (put (put (put s AWT_W0_VALID w0) AWT_W0_LOCK w0) AWT_W0_GLOBAL w0) AWT_W0_BANK w0) AWT_W0_START w0
  let s := put (put (put (put s AWT_W1_R w1) AWT_W1_W w1) AWT_W1_A w1) AWT_W1_END w1
  let s := put (put (put (put (put s AWT_W2_RID w2) AWT_W2_RID_MASK w2) AWT_W2_OWNER w2) AWT_W2_REQ_SRC w2) AWT_W2_REQ_DEV w2
  let s := put (put (put (put (put s AWT_W3_PASID w3) AWT_W3_PASID_MODE w3) AWT_W3_NS w3) AWT_W3_RO w3) AWT_W3_IBO w3
  put (put (put s AWT_W3_TPH w3) AWT_W3_PH w3) AWT_W3_ST w3

/-- Word `w` of entry `i` in the shadow (R374). -/
def awtShadow (s : State) (i w : Nat) : Nat := nget s.awt.shadow (4 * i + w) 0

/-- R374: a write of word 1, 2 or 3 goes to the shadow. -/
def awtShadowWrite (s : State) (i w v : Nat) : State :=
  { s with awt := { s.awt with shadow := nset 0 s.awt.shadow (4 * i + w) (v % 2 ^ 64) } }

/-- R392: a write to a locked entry is counted and raised; an Awl register write ends LOCKED. -/
def awtLockHit (s : State) (m : Master) : State :=
  let s := raise (inc s AWT_LOCK_WR) 0x306
  if m = .awl then wr s AWL_STATUS 0 3 else s

/-- R374, R385, R392: word 0 of entry `i` is written by `m`. -/
def awtCommit (s : State) (m : Master) (i w0 : Nat) : State :=
  if bit s AWT_W0_LOCK i then awtLockHit s m else
  let s := awtStore s i w0 (awtShadow s i 1) (awtShadow s i 2) (awtShadow s i 3)
  if w0 % 2 = 1 then
    wr { s with awt := { s.awt with compare := s.awt.compare ++ [i] } } AWT_STATUS_CHECKING 0 1
  else wrb s AWT_STATUS_OVERLAP 0 (bit s AWT_STATUS_OVERLAP && anyConflict s)

/-- AWT_ENTRY_COMMIT (R374). -/
def execAwtEntryCommit (m : Master) (i : Fin 8192) (w0 : BitVec 64) (s : State) : Res :=
  .next (asMaster s m AWT_W0_VALID.off (fun s => awtCommit s m i w0.toNat))

/-- R385: the comparison of entry `i` ends; a conflict is recorded, in AWT_OVL if it is clear, and raised. -/
def awtCompared (s : State) (i : Nat) : State :=
  match firstConflict s i with
  | some j =>
    let s := wr s AWT_STATUS_OVERLAP 0 1
    let s := if bit s AWT_OVL_SET then s else wr (wr (wr s AWT_OVL_ENTRY_A 0 i) AWT_OVL_ENTRY_B 0 j) AWT_OVL_SET 0 1
    raise s 0x302 i
  | none => wrb s AWT_STATUS_OVERLAP 0 (bit s AWT_STATUS_OVERLAP && anyConflict s)

/-- AWT_OVERLAP_CHECK_DONE (R385): the oldest comparison ends; none running, nothing happens. -/
def execAwtOverlapCheckDone (s : State) : Res :=
  .next (match s.awt.compare with
    | [] => s
    | i :: l =>
      let s := awtCompared { s with awt := { s.awt with compare := l } } i
      wrb s AWT_STATUS_CHECKING 0 (!l.isEmpty))

/-! ### Fence -/

/-- R388: the fence ends. -/
def awtFenceEnd (s : State) : State :=
  wr (wr { s with awt := { s.awt with fencing := false } } AWT_FENCE_DONE_DONE 0 1) AWT_FENCE_GO 0 0

/-- R388: GO marks every access looked up so far as before the fence. -/
def awtFenceStart (s : State) : State :=
  wr (wr { s with awt := { s.awt with fencing := true, accs := s.awt.accs.map (fun a => { a with fenced := true }) } }
    AWT_FENCE_DONE_DONE 0 0) AWT_FENCE_GO 0 1

/-- AWT_FENCE (R388). -/
def execAwtFence (m : Master) (s : State) : Res := .next (asMaster s m AWT_FENCE_GO.off awtFenceStart)

/-- No access lies before the fence any more, and no comparison runs (R388). -/
def awtFenceMet (s : State) : Bool := s.awt.fencing && s.awt.accs.all (fun a => !a.fenced) && s.awt.compare.isEmpty

/-- AWT_FENCE_DONE (R388): DONE sets once its conditions hold; before that nothing happens. -/
def execAwtFenceDone (s : State) : Res := .next (if awtFenceMet s then awtFenceEnd s else s)

/-- R389: `n` accesses stop holding. -/
def awtStale (s : State) (n : Nat) : State :=
  if n = 0 then s else raise (wr (inc s AWT_STALE 0 n) AWT_FENCE_DONE_STALE 0 1) 0x308

/-- AWT_FENCE_TIMEOUT (R389): the accesses still before the fence stop holding it. -/
def execAwtFenceTimeout (s : State) : Res :=
  .next (if !s.awt.fencing then s else
    let n := (s.awt.accs.filter (·.fenced)).length
    let s := awtStale { s with awt := { s.awt with accs := s.awt.accs.map (fun a => { a with fenced := false }) } } n
    if awtFenceMet s then awtFenceEnd s else s)

/-! ### Banks -/

/-- R390: ACTIVE toggles for partition `n`, DRAINED clears; nothing in native mode. -/
def bankSwap (s : State) (n : Nat) : State :=
  if !bit s AWT_BANK_SEL_MODE n then s else
  let s := wr s AWT_BANK_SEL_ACTIVE n (1 - rd s AWT_BANK_SEL_ACTIVE n)
  let s := { s with awt := { s.awt with accs := s.awt.accs.map (fun a => if a.owner == n then { a with swapped := true } else a) } }
  wr (wr s AWT_BANK_SEL_SWAP n 0) AWT_BANK_SEL_DRAINED n 0

/-- AWT_BANK_SWAP (R390). -/
def execAwtBankSwap (m : Master) (n : Fin 16) (s : State) : Res :=
  .next (asMaster s m AWT_BANK_SEL_SWAP.off (fun s => bankSwap s n))

/-- AWT_BANK_DRAINED (R390): the accesses checked against the previous bank have completed, or, where some have not,
their time under R389 has passed. -/
def execAwtBankDrained (n : Fin 16) (s : State) : Res :=
  .next (if bit s AWT_BANK_SEL_DRAINED n then s else
    let k := (s.awt.accs.filter (fun a => a.swapped && a.owner == n.val)).length
    let s := { s with awt := { s.awt with accs := s.awt.accs.map (fun a => if a.owner == n.val then { a with swapped := false } else a) } }
    wr (awtStale s k) AWT_BANK_SEL_DRAINED n 1)

end Sys2Proof.Machine
end

