-- ==== Sys2Proof/Machine/Bridges.lean ====
section
/-! DEFINITION. The bridges of a partition and the functions it holds: configuration registers that route (09_pcie_ports.md; the
registers' places are those of the base specification), ports of a partition, remapped functions, and the return entries of
proxied requests (12_fabric.md). -/

namespace Sys2Proof.Machine

/-! ### Functions and their configuration space -/

/-- The upstream bridge of partition `n`. -/
def fnUp (n : Nat) : Nat := n

/-- The Clicking function of partition `n`. -/
def fnClick (n : Nat) : Nat := 16 + n

/-- The manager function. -/
def fnMgr : Nat := 32

/-- The downstream bridge of port `p` in partition `n`: its own or a shared one (R355). -/
def fnDown (n p : Nat) : Nat := 64 + n * 64 + p

/-- PRESUMED: what double word `dw` of a function's configuration space holds at reset, as the base specification has it: Device Control with
512-byte reads and 128-byte payloads (Table 9-6 says the same), the uncorrectable error mask and severity, the correctable error mask. -/
def cfgDef (dw : Nat) : Nat :=
  if dw = 30 then 0x2810 else if dw = 66 then 0x400000 else if dw = 67 then 0x462030 else if dw = 69 then 0xE000 else 0

/-- Double word `dw` of the configuration space of function `f`. -/
def cfgGet (s : State) (f dw : Nat) : Nat := nget s.cfg (f * 2048 + dw) (cfgDef dw)

/-- Double word `dw` of function `f` set. -/
def cfgPut (s : State) (f dw v : Nat) : State := { s with cfg := nset (cfgDef dw) s.cfg (f * 2048 + dw) (v % 2 ^ 32) }

/-- The bus number that function `f` captured from its latest Type 0 configuration write; kept beside the registers. -/
def busOf (s : State) (f : Nat) : Nat := nget s.cfg (f * 2048 + 1024) 0

/-- Max_Payload_Size of function `f`. -/
def mpsOf (s : State) (f : Nat) : Nat := 128 * 2 ^ min 5 (cfgGet s f 30 / 32 % 8)

/-- Max_Read_Request_Size of function `f`. -/
def mrrsOf (s : State) (f : Nat) : Nat := 128 * 2 ^ min 5 (cfgGet s f 30 / 4096 % 8)

/-- Function `f` is in D3hot (R244). -/
def inD3 (s : State) (f : Nat) : Bool := cfgGet s f 17 % 4 == 3

/-- Secondary and subordinate bus of bridge `f`. -/
def secBus (s : State) (f : Nat) : Nat := cfgGet s f 6 / 256 % 256
def subBus (s : State) (f : Nat) : Nat := cfgGet s f 6 / 65536 % 256

/-- Bridge `f` takes bus `b` below it. -/
def bridgeBus (s : State) (f b : Nat) : Bool := secBus s f != 0 && secBus s f ≤ b && b ≤ subBus s f

/-- Bridge `f` takes memory address `a` below it: its memory and prefetchable windows, while Memory Space is enabled. -/
def bridgeMem (s : State) (f a : Nat) : Bool :=
  let m := cfgGet s f 8
  let p := cfgGet s f 9
  let lo := m / 16 % 4096 * 2 ^ 20
  let hi := m / 2 ^ 20 * 2 ^ 20 + 2 ^ 20
  let plo := cfgGet s f 10 * 2 ^ 32 + p / 16 % 4096 * 2 ^ 20
  let phi := cfgGet s f 11 * 2 ^ 32 + p / 2 ^ 20 * 2 ^ 20 + 2 ^ 20
  cfgGet s f 1 / 2 % 2 == 1 && ((lo ≤ a && a < hi) || (plo ≤ a && a < phi))

/-- Bridge `f` takes I/O address `a` below it. -/
def bridgeIo (s : State) (f a : Nat) : Bool :=
  let w := cfgGet s f 7
  let u := cfgGet s f 12
  let lo := u % 65536 * 65536 + w / 16 % 16 * 4096
  let hi := u / 65536 * 65536 + w / 4096 % 16 * 4096 + 4096
  cfgGet s f 1 % 2 == 1 && lo ≤ a && a < hi

/-- Base of 64-bit BAR `b` of endpoint `f`, and whether Memory Space is enabled. -/
def barBase (s : State) (f b : Nat) : Nat := cfgGet s f (4 + b) / 16 * 16 + cfgGet s f (5 + b) * 2 ^ 32
def memOn (s : State) (f : Nat) : Bool := cfgGet s f 1 / 2 % 2 == 1

/-- Address `a` lies in the `size` bytes at BAR `b` of endpoint `f`. -/
def inBar (s : State) (f b size a : Nat) : Bool := memOn s f && barBase s f b ≤ a && a < barBase s f b + size

/-! ### Ports of a partition -/

/-- Remap entries with VALID = 1. -/
def remapValid (s : State) : List Nat :=
  let lo := fkey PTN_RID_VALID 0
  (s.regs.filter (fun e => lo ≤ e.1 && e.1 < lo + 4096 && e.2 != 0)).map (fun e => e.1 - lo)

/-- Port `p` is a PCIe port that is not DISABLED. -/
def pcieOn (s : State) (p : Nat) : Bool := !isTlink s p && rd s PRT_STATUS_STATE p != 0

/-- Partition `n` has a bridge for port `p`: its own downstream port, or one shared with it (R355). -/
def hasBridge (s : State) (n p : Nat) : Bool :=
  (pcieOn s p && !bit s PRT_CFG_DIR p && portPt s p == n)
    || (remapValid s).any (fun i => rd s PTN_RID_PORT i == p && rd s PTN_RID_PARTITION i == n)

/-- The downstream ports of partition `n`, shared bridges included. -/
def bridgePorts (s : State) (n : Nat) : List Nat := (List.range 64).filter (fun p => hasBridge s n p)

/-- The port of partition `n` below whose bridge memory address `a` lies. -/
def memPort (s : State) (n a : Nat) : Option Nat := (bridgePorts s n).find? (fun p => bridgeMem s (fnDown n p) a)

/-- The port of partition `n` below whose bridge bus `b` lies. -/
def busPort (s : State) (n b : Nat) : Option Nat := (bridgePorts s n).find? (fun p => bridgeBus s (fnDown n p) b)

/-- The port of partition `n` below whose bridge I/O address `a` lies. -/
def ioPort (s : State) (n a : Nat) : Option Nat := (bridgePorts s n).find? (fun p => bridgeIo s (fnDown n p) a)

/-- The requester ID of the Clicking function of partition `n` (R378). -/
def clickRid (s : State) (n : Nat) : Nat := busOf s (fnClick n) * 256

/-- R356: the remap entry for a requester ID at a port. -/
def remapAt (s : State) (p rid : Nat) : Option Nat :=
  (remapValid s).find? (fun i => rd s PTN_RID_PORT i == p && rd s PTN_RID_RID_REAL i == rid)

/-- R356: the guest requester ID of remap entry `i`, below the shared bridge of its partition. -/
def guestRid (s : State) (i : Nat) : Nat :=
  secBus s (fnDown (rd s PTN_RID_PARTITION i) (rd s PTN_RID_PORT i)) * 256 + rd s PTN_RID_RID_GUEST i

/-- R356: the remap entry that partition `n` addresses by the guest ID `rid`. -/
def guestAt (s : State) (n rid : Nat) : Option Nat :=
  (remapValid s).find? (fun i => rd s PTN_RID_PARTITION i == n && guestRid s i == rid)

/-- The bridge through which port `p` sends: the upstream bridge of its partition, or its downstream bridge there. -/
def portFn (s : State) (p : Nat) : Nat :=
  let n := portPt s p
  if bit s PRT_CFG_DIR p then fnUp n else fnDown n p

/-- Device and function number of the place `k` of a downstream bridge (R239). -/
def placeDevFn (k : Nat) : Nat := (k % 31 + 1) * 8 + k / 31

/-- The requester ID of the egress bridge of port `p` (R330): upstream bridge 00.0 on the captured bus; a downstream
bridge at its place on the internal bus (R239). -/
def bridgeRid (s : State) (p : Nat) : Nat :=
  let n := portPt s p
  if bit s PRT_CFG_DIR p then busOf s (fnUp n) * 256
  else secBus s (fnUp n) * 256 + placeDevFn (nget s.fab.places (n * 64 + p) 0)

/-- The PART reset of partition `n` is asserted (R351); while EN = 0 it stays asserted. -/
def partInReset (s : State) (n : Nat) : Bool := bit s PTN_STAT_IN_RESET n || !bit s PTN_CFG_EN n

/-! ### Return entries (R330 to R332) -/

/-- Fabric and partitions changed by `f`. -/
def fabUpd (s : State) (f : Fabric → Fabric) : State := { s with fab := f s.fab }

/-- Entries that port `p` holds (R332). -/
def retUse (s : State) (p : Nat) : Nat := (s.fab.ret.filter (fun e => e.1 / 16384 == p)).length

/-- FAB_RET_USE[p]. -/
def retCount (s : State) (p : Nat) : State := wr s FAB_RET_USE p (retUse s p)

/-- The return entry of port `p` and tag `t` is no longer held. -/
def retDel (s : State) (p t : Nat) : State := retCount (fabUpd s (fun x => { x with ret := ndel x.ret (p * 16384 + t) })) p

/-- R356: the requester ID that attachment `a` knows the requester `rid` of partition `n` by: a remapped function's real ID below
the port that holds it. -/
def realRid (s : State) (a n rid : Nat) : Nat :=
  match (guestAt s n rid).filter (fun i => rd s PTN_RID_PORT i == a) with
  | some i => rd s PTN_RID_RID_REAL i
  | none => match s.fab.ridOld.find? (fun e => e.1 == n && e.2.1 == rid && e.2.2.1 == a) with
    | some e => e.2.2.2
    | none => rid

end Sys2Proof.Machine
end

