-- ==== Sys2Proof/Machine/Sched.lean ====
section
/-! DEFINITION. Sizes and rates of packets and ports, token buckets, gates and the choice of class at an output
(04_shank_switching.md R78, R91; 05_gates_scheduling.md). -/

namespace Sys2Proof.Machine

/-! ### Sizes and rates -/

/-- The payload of a packet in bytes. -/
def payload (pk : Packet) : Nat := pk.data.length

/-- R78: the cells a packet occupies. -/
def cellsOf (pk : Packet) : Nat := max 1 ((payload pk + 255) / 256)

/-- R127: what a packet costs a bucket, in bytes. -/
def costOf (pk : Packet) : Nat := payload pk + 32

/-- The data stitches of a packet on a T-link: fabric header, transaction header and payload, 112 bytes each (R291). -/
def stitchesOf (pk : Packet) : Nat := (8 + 16 + payload pk + 111) / 112

/-- A VOQ's number: input, output, class (R79). -/
def voqKey (i o c : Nat) : Nat := (i * 72 + o) * 8 + c

/-- The line rate of a PCIe rate code, Mb/s per lane (Table 8-5). -/
def pcieRate (code : Nat) : Nat :=
  match code with
  | 1 => 2500 | 2 => 5000 | 3 => 8000 | 4 => 16000 | 5 => 32000 | 6 => 64000 | _ => 0

/-- The effective rate of a T-link lane at a rate code, Mb/s (Tables 4-1 and 10-1). -/
def tlinkEff (code : Nat) : Nat :=
  match code with
  | 1 => 22875 | 2 => 45750 | 3 => 91500 | 4 => 183000 | _ => 0

/-- R91, R237: the effective rate of attachment `a` in Mb/s, 0 while a port is down. -/
def effMbps (s : State) (a : Nat) : Nat :=
  if 64 ≤ a then 1638000 else
  if !linkUp s a then 0 else
  let w := widthOf (rd s PRT_STATUS_CUR_WIDTH a)
  let c := rd s PRT_STATUS_RATE a
  if isTlink s a then w * tlinkEff c
  else if c ≤ 2 then w * pcieRate c * 4 / 5
  else if bit s PRT_STATUS_FLIT a then
    if c ≤ 4 then w * pcieRate c * (128 * 236) / (130 * 256) else w * pcieRate c * 236 / 256
  else w * pcieRate c * 128 / 130

/-- SHK_PRT_RATE: whole Gb/s (R91). -/
def effGbps (s : State) (a : Nat) : Nat := effMbps s a / 1000

/-! ### Token buckets (R127, R128) -/

/-- The key of the shaper's bucket of port `p`, class `c`; a policer's is one more. -/
def bucketKey (p c : Nat) (pol : Bool) : Nat := (p * 8 + c) * 2 + if pol then 1 else 0

/-- A bucket's rate in Mb/s. -/
def bucketRate (s : State) (p c : Nat) (pol : Bool) : Nat :=
  if pol then rd s SHK_POL_CIR (p * 8 + c) else rd s SHK_SHP_RATE (p * 8 + c)

/-- A bucket's size in bytes. -/
def bucketBurst (s : State) (p c : Nat) (pol : Bool) : Nat :=
  if pol then rd s SHK_POL_CBS (p * 8 + c) else rd s SHK_SHP_BURST (p * 8 + c)

/-- The tokens of a bucket now, in 1/8000 byte: at r Mb/s a bucket gains r of these each nanosecond. -/
def tokens (s : State) (p c : Nat) (pol : Bool) : Int :=
  let full : Int := (bucketBurst s p c pol * 8000 : Nat)
  match nget? s.shk.buckets (bucketKey p c pol) with
  | none => full
  | some (t, at') => min full (t + (bucketRate s p c pol * (s.now - at') : Nat))

/-- The tokens cover the cost of `pk`, or the bucket is off (rate 0, R127). -/
def tokensCover (s : State) (p c : Nat) (pol : Bool) (pk : Packet) : Bool :=
  bucketRate s p c pol == 0 || decide (((costOf pk * 8000 : Nat) : Int) ≤ tokens s p c pol)

/-- The tokens are set as of now. -/
def tokensSet (s : State) (p c : Nat) (pol : Bool) (t : Int) : State :=
  { s with shk := { s.shk with buckets := nput s.shk.buckets (bucketKey p c pol) (t, s.now) } }

/-- The cost of `pk` is charged; a bucket that is off takes no charge. -/
def charge (s : State) (p c : Nat) (pol : Bool) (pk : Packet) : State :=
  if bucketRate s p c pol == 0 then s else tokensSet s p c pol (tokens s p c pol - (costOf pk * 8000 : Nat))

/-- Shapers and policers apply: not in DRAIN (R130). -/
def shapersOn (s : State) : Bool := mode s != mDRAIN

/-! ### Gates -/

/-- The index of gate entry `i` of bank `b` of port `p`. -/
def entIdx (p b i : Nat) : Nat := (p * 2 + b) * 64 + i

/-- R115: the lowest entry with LAST in bank `b` of port `p`. -/
def lastEntry (s : State) (p b : Nat) : Option Nat := (List.range 64).find? (fun i => bit s SHK_GATE_ENT_LAST (entIdx p b i))

/-- R115: the list length of a bank that has a LAST entry. -/
def listLength (s : State) (p b : Nat) : Option Nat := (lastEntry s p b).map (fun i => rd s SHK_GATE_ENT_END (entIdx p b i))

/-- The active bank of port `p` (R122). -/
def activeBank (s : State) (p : Nat) : Nat := rd s SHK_GATE_STATUS_ACTIVE_BANK p

/-- R114: gates apply at port `p`. -/
def gatesApply (s : State) (p : Nat) : Bool :=
  p < 64 && bit s SHK_GATE_CTL_GATE_EN p
    && (mode s == mLOCKED || ((mode s == mDEGRADED || mode s == mQUIESCE) && bit s GLB_MODE_LOCKED))

/-- The OPEN mask in force at port `p`: of the entry in force, or the one latched for a failed array (R116, R133). -/
def openMask (s : State) (p : Nat) : Nat :=
  match nget? s.gate.latched p with
  | some m => m
  | none => rd s SHK_GATE_ENT_OPEN (entIdx p (activeBank s p) (rd s SHK_GATE_STATUS_ENTRY p))

/-- Class `c` is open at output `o` (R113, R114). With no list of the port valid and no mask latched the spec does not say what is open. -/
def classOpen (s : State) (o c : Nat) : Bool :=
  !gatesApply s o || (if bit s SHK_GATE_STATUS_VALID o || (nget? s.gate.latched o).isSome then (openMask s o).testBit c
    else Config.gateOpen o c)

/-- R118: the time allowed for a packet at R Gb/s, in ns. -/
def allowedTime (r : Nat) (pk : Packet) : Nat := (costOf pk * 8 + r - 1) / r

/-- Device time since the latest tick start that the gates of `p` run from. -/
def sinceTick (s : State) (p : Nat) : Nat :=
  match nget? s.gate.base p with
  | some t => devTime s - t
  | none => 0

/-- R118: the entry in force guards its end against class `c` (open now, closed next), and the staged packets plus
`pk` cannot leave by END. -/
def guardHolds (s : State) (o c : Nat) (pk : Packet) : Bool :=
  let b := activeBank s o
  let i := rd s SHK_GATE_STATUS_ENTRY o
  gatesApply s o && (nget? s.gate.base o).isSome && (nget? s.gate.latched o).isNone && bit s SHK_GATE_ENT_GUARD (entIdx o b i) && !bit s SHK_GATE_ENT_LAST (entIdx o b i)
    && !(rd s SHK_GATE_ENT_OPEN (entIdx o b (i + 1))).testBit c
    && (let r := effGbps s o
        let need := (nget s.shk.staging o []).foldl (fun a st => a + allowedTime r st.q.pk) (allowedTime r pk)
        r == 0 || rd s SHK_GATE_ENT_END (entIdx o b i) < sinceTick s o + need)

/-! ### The class of an output (R113) -/

/-- The weight of class `c` ≤ 4 at output `o`; 1 at a cluster (R114). -/
def weightOf (s : State) (o c : Nat) : Nat := if o < 64 then max 1 (rd s SHK_SCH_WEIGHT (o * 8 + c)) else 1

/-- deficit[o][c]. -/
def deficitOf (s : State) (o c : Nat) : Int := nget s.shk.deficit (o * 8 + c) 0

/-- deficit[o][c] set. -/
def deficitSet (s : State) (o c : Nat) (v : Int) : State :=
  { s with shk := { s.shk with deficit := nset 0 s.shk.deficit (o * 8 + c) v } }

/-- The rounds of R113 until some class of `w` has a positive deficit: 0 if one has. -/
def roundsOf (s : State) (o : Nat) (w : List Nat) : Nat :=
  if w.any (fun c => deficitOf s o c > 0) then 0 else
  w.foldl (fun acc c => min acc (((1 - deficitOf s o c).toNat + weightOf s o c - 1) / weightOf s o c)) 65536

/-- The classes 4, 3, 2, 1, 0 in turn, starting at `c`. -/
def rrOrder (c : Nat) : List Nat := (List.range 5).map (fun k => (c + 5 - k) % 5)

/-- wptr[o]; the order starts at class 4. -/
def wptrOf (s : State) (o : Nat) : Nat := nget s.shk.wptr o 4

/-- OFM_CTL.DUR_TC marks class `c` as durable (R415). -/
def durable (s : State) (c : Nat) : Bool := (rd s OFM_CTL_DUR_TC).testBit c

/-- egress_class_choice of R113 among the candidate classes, the new rounds counted into the deficits; in DRAIN the
durable classes go first, higher class first (R424). -/
def classChoice (s : State) (o : Nat) (cand : List Nat) : State × Option Nat :=
  let dur := if mode s == mDRAIN then [7, 6, 5, 4, 3, 2, 1, 0].filter (fun c => cand.contains c && durable s c) else []
  match dur with
  | c :: _ => (s, some c)
  | [] =>
    match [7, 6, 5].find? (fun c => cand.contains c) with
    | some c => (s, some c)
    | none =>
      let w := cand.filter (· ≤ 4)
      if w.isEmpty then (s, none) else
      let k := roundsOf s o w
      let s := w.foldl (fun s c => deficitSet s o c (deficitOf s o c + (k * weightOf s o c : Nat))) s
      (s, (rrOrder (wptrOf s o)).find? (fun c => w.contains c && deficitOf s o c > 0))

/-- What R113 does when a packet of class `c` is accepted at output `o`: deficit, pointer, shaper. -/
def onAccept (s : State) (o c : Nat) (pk : Packet) : State :=
  let s := if c ≤ 4 then
      let d := deficitOf s o c - (cellsOf pk : Nat)
      let s := deficitSet s o c d
      if d ≤ 0 then { s with shk := { s.shk with wptr := nset 4 s.shk.wptr o ((c + 4) % 5) } } else s
    else s
  if o < 64 && shapersOn s then charge s o c false pk else s

/-! ### Gate commands -/

/-- R116: when gates begin to apply at `p`, the LAST entry of the active list is in force until the next tick start. -/
def gateBegin (s : State) (p : Nat) : State :=
  let s := { s with gate := { s.gate with base := ndel s.gate.base p, frozen := s.gate.frozen.filter (· != p) } }
  match lastEntry s p (activeBank s p) with
  | some i => wr s SHK_GATE_STATUS_ENTRY p i
  | none => s

/-- GATE_BOUNDARY (R116): the next entry of port `p` takes effect; nothing while gates do not apply, are frozen
(R121) or hold a latched mask (R133), in the LAST entry, or before the list has started (R116). -/
def execGateBoundary (p : Fin 64) (s : State) : Res :=
  .next (
    let i := rd s SHK_GATE_STATUS_ENTRY p
    if gatesApply s p && !s.gate.frozen.contains p.val && (nget? s.gate.latched p.val).isNone
        && (nget? s.gate.base p.val).isSome && !bit s SHK_GATE_ENT_LAST (entIdx p (activeBank s p) i) && i < 63
    then wr s SHK_GATE_STATUS_ENTRY p (i + 1) else s)

/-- The ports of SHK_GATE_COMMIT_MASK, ascending. -/
def commitPorts (s : State) : List Nat := (List.range 64).filter (fun p => (rd s SHK_GATE_COMMIT_MASK).testBit p)

/-- The bank of port `p` that is not active (R122). -/
def pendingBank (s : State) (p : Nat) : Nat := 1 - activeBank s p

/-- R123 ORDER at port `p`: the first entry of the pending list whose END breaks the order, or an uncorrectable
entry of the pending bank (R133). -/
def orderFail (s : State) (p : Nat) : Option Nat :=
  let b := pendingBank s p
  match lastEntry s p b with
  | none => none
  | some k => (List.range 64).find? (fun i =>
      s.gate.badEnt.contains (entIdx p b i) ||
      (i ≤ k && (if i = 0 then rd s SHK_GATE_ENT_END (entIdx p b 0) < 64
       else rd s SHK_GATE_ENT_END (entIdx p b i) < rd s SHK_GATE_ENT_END (entIdx p b (i - 1)) + 64)))

/-- R125: tick T lies ahead of the latest tick. -/
def tickAhead (s : State) : Bool :=
  (rd s SHK_GATE_SWITCH_TICK + 2 ^ 48 - rd s LCE_TICK_NOW + 2 ^ 48 - 1) % 2 ^ 48 < 2 ^ 47

/-- R123: the first check that fails: its STATUS code, port and entry. -/
def commitFail (s : State) : Option (Nat × Nat × Nat) :=
  let ps := commitPorts s
  let first := fun (code : Nat) (bad : Nat → Bool) (ent : Nat → Nat) =>
    (ps.find? bad).map (fun p => (code, p, ent p))
  (first 6 (fun p => !bit s SHK_GATE_CTL_GATE_EN p) (fun _ => 0)).or
  ((first 7 (fun p => bit s SHK_GATE_STATUS_ARMED p) (fun _ => 0)).or
  ((first 2 (fun p => (lastEntry s p (pendingBank s p)).isNone) (fun _ => 0)).or
  ((first 3 (fun p => (orderFail s p).isSome) (fun p => (orderFail s p).getD 0)).or
  ((first 4 (fun p => rd s LCE_TICK_MIN < (listLength s p (pendingBank s p)).getD 0)
      (fun p => (lastEntry s p (pendingBank s p)).getD 0)).or
  (if bit s GLB_MODE_LOCKED && !tickAhead s then some (5, ps.head?.getD 0, 0) else none)))))

/-- R126: TOO_LONG of port `p` holds while its active list (if it passed a commit) or its armed list is longer than
LCE_TICK_MIN. -/
def listTooLong (s : State) (p : Nat) : Bool :=
  (bit s SHK_GATE_STATUS_VALID p && rd s LCE_TICK_MIN < (listLength s p (activeBank s p)).getD 0)
    || (bit s SHK_GATE_STATUS_ARMED p && rd s LCE_TICK_MIN < (listLength s p (pendingBank s p)).getD 0)

/-- R126: TOO_LONG clears where neither list of `p` is too long any more. -/
def tooLongClear (s : State) (p : Nat) : State := if listTooLong s p then s else wr s SHK_GATE_STATUS_TOO_LONG p 0

/-- Port `p` is no longer armed. -/
def disarm (s : State) (p : Nat) : State :=
  wr { s with gate := { s.gate with tick := ndel s.gate.tick p } } SHK_GATE_STATUS_ARMED p 0

/-- R125: port `p` is armed for the tick that SHK_GATE_SWITCH_TICK names now. -/
def arm (s : State) (p : Nat) : State :=
  wr { s with gate := { s.gate with tick := nput s.gate.tick p (rd s SHK_GATE_SWITCH_TICK) } } SHK_GATE_STATUS_ARMED p 1

/-- R125: port `p` is armed and tick number `n` has reached its tick T. -/
def switchDue (s : State) (p n : Nat) : Bool :=
  bit s SHK_GATE_STATUS_ARMED p && (n + 2 ^ 48 - nget s.gate.tick p 0) % 2 ^ 48 < 2 ^ 47

/-- R122, R124, R125, R133: the pending bank of `p` becomes active and valid. -/
def bankSwitch (s : State) (p : Nat) : State :=
  let s := wr s SHK_GATE_STATUS_ACTIVE_BANK p (pendingBank s p)
  let s := disarm (wr s SHK_GATE_STATUS_VALID p 1) p
  let s := { s with gate := { s.gate with latched := ndel s.gate.latched p } }
  tooLongClear (gateBegin s p) p

/-- R123: GO starts the checks. -/
def gateCommitStart (s : State) : State :=
  wr (wr { s with gate := { s.gate with committing := true } } SHK_GATE_COMMIT_GO 0 1) SHK_GATE_COMMIT_STATUS 0 1

/-- GATE_COMMIT_GO (R123). -/
def execGateCommitGo (m : Master) (s : State) : Res :=
  .next (asMaster s m SHK_GATE_COMMIT_GO.off gateCommitStart)

/-- GATE_COMMIT_DONE (R123 to R125): the checks end; nothing if none run. -/
def execGateCommitDone (s : State) : Res :=
  .next (if !s.gate.committing then s else
    let s := wr { s with gate := { s.gate with committing := false } } SHK_GATE_COMMIT_GO 0 0
    match commitFail s with
    | some (code, p, e) => wr (wr (wr s SHK_GATE_COMMIT_STATUS 0 code) SHK_GATE_COMMIT_FAIL_PORT 0 p) SHK_GATE_COMMIT_FAIL_ENTRY 0 e
    | none =>
      let s := wr s SHK_GATE_COMMIT_STATUS 0 0
      forEach (commitPorts s) s (fun s p => if bit s GLB_MODE_LOCKED then arm s p else bankSwitch s p))

/-- R125: every armed port is disarmed and STATUS reads CANCELLED. -/
def gateCommitCancel (s : State) : State :=
  let s := forEach (List.range 64) s (fun s p => tooLongClear (disarm s p) p)
  wr (wr s SHK_GATE_COMMIT_CANCEL 0 0) SHK_GATE_COMMIT_STATUS 0 8

/-- GATE_COMMIT_CANCEL (R125). -/
def execGateCommitCancel (m : Master) (s : State) : Res :=
  .next (asMaster s m SHK_GATE_COMMIT_CANCEL.off gateCommitCancel)

/-- R119, R121, R125, R116 at a tick start of number `n` and start `t`: a list cut short is counted, armed ports
whose tick has come switch, also where gates do not apply, and each list starts at entry 0; a latched port holds (R133); in QUIESCE
nothing switches and a frozen list holds (R121). -/
def gateTick (s : State) (n t : Nat) : State :=
  forEach (List.range 64) s (fun s p =>
    let switch := switchDue s p n && mode s != mQUIESCE
    if !gatesApply s p then (if switch then bankSwitch s p else s) else
    if s.gate.frozen.contains p && mode s == mQUIESCE then s else
    if (nget? s.gate.latched p).isSome && !switch then s else
    let cut := (nget? s.gate.base p).isSome && !s.gate.frozen.contains p
      && !bit s SHK_GATE_ENT_LAST (entIdx p (activeBank s p) (rd s SHK_GATE_STATUS_ENTRY p))
    let s := if cut then inc s GATE_CUT p else s
    let s := if switch then bankSwitch s p else s
    let s := wr s SHK_GATE_STATUS_ENTRY p 0
    { s with gate := { s.gate with base := nput s.gate.base p t, frozen := s.gate.frozen.filter (· != p) } })

/-- R62, R126: the value is stored clamped; a port whose active or armed list is longer sets TOO_LONG and raises the
long-list source, and one whose lists fit again clears it. -/
def tickMinSet (s : State) (v : Nat) : State :=
  let s := wr s LCE_TICK_MIN 0 (min (storVal LCE_TICK_MIN.stor v) (rd s LCE_TICK_MAX))
  forEach (List.range 64) s (fun s p =>
    if listTooLong s p then raise (wr s SHK_GATE_STATUS_TOO_LONG p 1) 0x190 p else wr s SHK_GATE_STATUS_TOO_LONG p 0)

/-- R62: LCE_TICK_MAX is stored clamped, and not below LCE_TICK_MIN. -/
def tickMaxSet (s : State) (v : Nat) : State := wr s LCE_TICK_MAX 0 (max (storVal LCE_TICK_MAX.stor v) (rd s LCE_TICK_MIN))

/-- TICK_MIN_WRITE (R62, R126). -/
def execTickMinWrite (m : Master) (v : BitVec 32) (s : State) : Res :=
  .next (asMaster s m LCE_TICK_MIN.off (fun s => tickMinSet s v.toNat))

/-- R127, R128: tokens gained so far are kept and the new rate applies from now; a change from 0 fills the bucket. -/
def rateSet (s : State) (pol : Bool) (p c v : Nat) : State :=
  let t := if bucketRate s p c pol == 0 && v != 0 then ((bucketBurst s p c pol * 8000 : Nat) : Int) else tokens s p c pol
  let s := tokensSet s p c pol t
  if pol then wr s SHK_POL_CIR (p * 8 + c) v else wr s SHK_SHP_RATE (p * 8 + c) v

/-- SHAPER_RATE_WRITE (R127, R128). -/
def execShaperRateWrite (m : Master) (pol : Bool) (p : Fin 64) (c : Fin 8) (v : BitVec 20) (s : State) : Res :=
  .next (asMaster s m SHK_SHP_RATE.off (fun s => rateSet s pol p c v.toNat))

/-- R127, R128: the tokens are cut to the new burst at once. -/
def burstSet (s : State) (pol : Bool) (p c v : Nat) : State :=
  let b := storVal SHK_SHP_BURST.stor v
  let s := tokensSet s p c pol (min ((b * 8000 : Nat) : Int) (tokens s p c pol))
  if pol then wr s SHK_POL_CBS (p * 8 + c) b else wr s SHK_SHP_BURST (p * 8 + c) b

/-- SHAPER_BURST_WRITE (R127, R128). -/
def execShaperBurstWrite (m : Master) (pol : Bool) (p : Fin 64) (c : Fin 8) (v : BitVec 24) (s : State) : Res :=
  .next (asMaster s m SHK_SHP_BURST.off (fun s => burstSet s pol p c v.toNat))

end Sys2Proof.Machine
end

