-- ==== Sys2Proof/Machine/Shank.lean ====
section
/-! DEFINITION. The Shank: queues, storing and spilling, back-pressure, matching, staging, flushing
(04_shank_switching.md; the quota and durable rules of 16_overflow_holdup.md). -/

namespace Sys2Proof.Machine

/-! ### Queues -/

/-- VOQ number `k`, oldest packet first. -/
def voq (s : State) (k : Nat) : List QPkt := nget s.shk.voq k []

/-- Some input holds a packet of class `c` for output `o`. -/
def classHeld (v : NMap (List QPkt)) (o c : Nat) : Bool := v.any (fun e => e.1 / 8 % 72 == o && e.1 % 8 == c && !e.2.isEmpty)

/-- VOQ number `k` set; a class that no input holds for an output has deficit 0 there (R113). -/
def voqSet (s : State) (k : Nat) (l : List QPkt) : State :=
  let v := nset [] s.shk.voq k l
  { s with shk := { s.shk with voq := v,
                               deficit := if classHeld v (k / 8 % 72) (k % 8) then s.shk.deficit else ndel s.shk.deficit (k / 8 % 72 * 8 + k % 8) } }

/-- The cells of packets on chip. -/
def chipCells (l : List QPkt) : Nat := l.foldl (fun n q => n + (q.cells - q.ovf)) 0

/-- The cells of packets in overflow memory. -/
def ovfCells (l : List QPkt) : Nat := l.foldl (fun n q => n + q.ovf) 0

/-- The sum of a measure over every VOQ: its number and its packets. -/
def voqSum (s : State) (f : Nat → List QPkt → Nat) : Nat := s.shk.voq.foldl (fun n e => n + f e.1 e.2) 0

/-- The packets stored in Quarter `q`, which each keeps until it leaves (R24). -/
def inQuarter (q : Nat) (l : List QPkt) : List QPkt := l.filter (fun p => p.qtr == q)

/-- Free cells of packet-buffer bank `q`, of 65,536 (R10). -/
def bankFree (s : State) (q : Nat) : Nat := 65536 - voqSum s (fun _ l => chipCells (inQuarter q l))

/-- Cells of bank `q` held in overflow group `q` (R23). -/
def grpUsed (s : State) (q : Nat) : Nat := voqSum s (fun _ l => ovfCells (inQuarter q l))

/-- Free cells of group `q`: 25,165,824 less those used and retired (R409, R503). -/
def grpFree (s : State) (q : Nat) : Nat := 25165824 - rd s TST_OVF_RES_RETIRED q - grpUsed s q

/-- OFM_USE[n][c] (R413). -/
def ofmUse (s : State) (n c : Nat) : Nat :=
  voqSum s (fun _ l => ovfCells (l.filter (fun q => q.pt == n && q.cls == c)))

/-- Overflow cells of one slice (R413). -/
def sliceUse (s : State) (sl : Nat) : Nat := voqSum s (fun _ l => ovfCells (l.filter (fun q => q.slice == some sl)))

/-- OFM_DUR_HELD: every cell of every durable VOQ (R416). -/
def durHeld (s : State) : Nat := voqSum s (fun k l => if durable s (k % 8) then chipCells l + ovfCells l else 0)

/-- DUR_ON (R417). -/
def durOn (s : State) : Bool := bit s OFM_STATUS_DUR_ON

/-- R426: DUR_DONE is set where OFM_DUR_HELD first reads 0 in DRAIN. -/
def durDone (s : State) : State :=
  if mode s == mDRAIN && durHeld s = 0 && !bit s OFM_STATUS_DUR_DONE then
    wr (wr s OFM_STATUS_DUR_DONE 0 1) OFM_DUR_DONE_T 0 (devTime s)
  else s

/-- R417: OVER_BUDGET follows OFM_DUR_HELD: it sets, with its source, above the budget in force, and clears below it or
when DUR_ON is 0. -/
def overBudget (s : State) : State :=
  let s := durDone s
  if !durOn s then wr s OFM_STATUS_OVER_BUDGET 0 0
  else if rd s PWD_HU_BUDGET < durHeld s then
    if bit s OFM_STATUS_OVER_BUDGET then s else raise (wr s OFM_STATUS_OVER_BUDGET 0 1) 0x592
  else if durHeld s < rd s PWD_HU_BUDGET then wr s OFM_STATUS_OVER_BUDGET 0 0 else s

/-! ### The part's own packets (R548) -/

/-- The cells of one type in staging, matched and own. -/
def stagedCells (l : List Staged) (k : PktKind) : Nat :=
  l.foldl (fun n st => if st.q.pk.kind = k then n + st.q.cells else n) 0

/-- What a type takes of the shared 32 cells (R84). -/
def sharedOf (n : Nat) : Nat := n - 32

/-- R84: output `o` has staging room for `n` cells of type `k`; the room that waiting own packets need counts as
taken (R548) when `all` is set. -/
def stageRoom (s : State) (o : Nat) (k : PktKind) (n : Nat) (all : Bool) : Bool :=
  let l := nget s.shk.staging o [] ++ (if all then nget s.shk.wait o [] else [])
  let u := fun t => stagedCells l t + if t = k then n else 0
  sharedOf (u .posted) + sharedOf (u .nonPosted) + sharedOf (u .completion) ≤ 32

/-- A packet for output `o` brings a link in L1 back to L0 (R255). -/
def l1Leave (s : State) (o : Nat) : State :=
  if s.prt.l1.contains o then emit { s with prt := { s.prt with l1 := s.prt.l1.filter (· != o) } } (.link o "L0") else s

/-- A packet joins the staging of output `o`. -/
def stage (s : State) (o : Nat) (st : Staged) : State :=
  let s := l1Leave s o
  { s with shk := { s.shk with staging := nset [] s.shk.staging o (nget s.shk.staging o [] ++ [st]) } }

/-- The next arrival number. -/
def takeSeq (s : State) : State × Nat := ({ s with shk := { s.shk with nextSeq := s.shk.nextSeq + 1 } }, s.shk.nextSeq)

/-- R548: a packet that the part forms for port `o` enters its staging, or waits for room of its type; its cost is
charged to the shaper of the port and class. -/
def formed (s : State) (o : Nat) (cls pt : Nat) (pk : Packet) : State :=
  let (s, n) := takeSeq s
  let q : QPkt := { seq := n, inp := o, cls := cls, cells := cellsOf pk, pk := pk, pt := pt, ovf := 0, pu := none,
                    fresh := false, slice := none, xw := none }
  let s := if shapersOn s then charge s o cls false pk else s
  let ws := nget s.shk.wait o []
  if ws.isEmpty && stageRoom s o pk.kind q.cells false then stage s o ⟨q, true, false⟩
  else { s with shk := { s.shk with wait := nset [] s.shk.wait o (ws ++ [⟨q, true, false⟩]) } }

/-- R548: own packets that wait take the room that staging now has, in order. -/
def unwait (s : State) (o : Nat) : State :=
  forEach (nget s.shk.wait o []) s (fun s st =>
    match nget s.shk.wait o [] with
    | w :: ws =>
      if w = st && stageRoom s o w.q.pk.kind w.q.cells false then
        stage { s with shk := { s.shk with wait := nset [] s.shk.wait o ws } } o w
      else s
    | [] => s)

/-! ### Checks by polynomial -/

/-- One bit of the CRC-32C, least significant bit first. -/
def crc32cBit (c : BitVec 32) : BitVec 32 := if c.getLsbD 0 then (c >>> 1) ^^^ 0x82F63B78#32 else c >>> 1

/-- One byte of the CRC-32C. -/
def crc32cByte (c : BitVec 32) (b : Byte) : BitVec 32 :=
  crc32cBit (crc32cBit (crc32cBit (crc32cBit (crc32cBit (crc32cBit (crc32cBit (crc32cBit (c ^^^ b.setWidth 32))))))))

/-- CRC-32C with initial value and final XOR 0xFFFF_FFFF (R145). -/
def crc32c (l : Bytes) : Nat := ((l.foldl crc32cByte 0xFFFFFFFF#32) ^^^ 0xFFFFFFFF#32).toNat

/-- The CRC-32C of numbers taken as bytes. -/
def crcOf (l : List Nat) : Nat := crc32c (l.map (BitVec.ofNat 8))

/-- This part's device ID. -/
def devId (s : State) : Nat := rd s FAB_CTL_DEV_ID

/-- R333: the flow hash of a packet that placement does not fix; the requester ID counts in mode 1. -/
def flowHash (s : State) (src dst part tc rid : Nat) : Nat :=
  crcOf (if bit s FAB_CTL_HASH_MODE then [src, dst, part, tc, rid % 256, rid / 256, 0, 0]
    else [src, dst, part, tc, 0, 0, 0, 0]) % 256

/-! ### Answers -/

/-- The part's own fabric header for an answer to a packet that came with one (R331, Table 12-1). -/
def answerHdr (s : State) (rid : Nat) (h : FabHdr) : FabHdr :=
  { h with dstDev := h.srcDev, srcDev := BitVec.ofNat 6 (devId s), dstPort := 0,
           hash := BitVec.ofNat 8 (flowHash s (devId s) h.srcDev.toNat h.part.toNat h.tc.toNat rid),
           ttl := BitVec.ofNat 4 (rd s FAB_CTL_TTL_INIT), gseq := 0, gseqV := false, placed := false, notice := false }

/-- A completion without data for a request. -/
def cplFor (s : State) (pk : Packet) (st : CplStatus) : Packet :=
  { pk with kind := .completion, op := .cpl, addr := 0, len := 0, data := [], fbe := 0, lbe := 0, status := st,
            lastPiece := true, ro := false, ido := false, ns := false, tph := none,
            fab := pk.fab.map (answerHdr s pk.rid.toNat), notice := none }

/-- The part answers a request that came in at attachment `a` with status `st`: at a port through staging (R548), to the ID by which
the requester is known there (R356); at a cluster directly. The access has completed for a fence (R388). -/
def answer (s : State) (a cls pt : Nat) (pk : Packet) (st : CplStatus) : State :=
  let s := awtCloseNp s pk.rid.toNat pk.tag.toNat
  let c := cplFor s pk st
  if a < 64 then formed s a cls pt { c with rid := BitVec.ofNat 16 (realRid s a pt c.rid.toNat) } else emit s (.toCluster (a - 64) c)

/-! ### Credits and storing -/

/-- The ingress credit of a packet is given back: Welt credits on a T-link input (R293), flow-control credits of its type on a PCIe
input. -/
def creditGive (s : State) (a cls : Nat) (pk : Packet) : State :=
  if 64 ≤ a then s
  else if isTlink s a then
    let n := stitchesOf pk
    wr { s with shk := { s.shk with freed := nset 0 s.shk.freed (a * 8 + cls) (nget s.shk.freed (a * 8 + cls) 0 + n) } }
      WLT_VL_STAT2_RX_OCC (a * 8 + cls) (rd s WLT_VL_STAT2_RX_OCC (a * 8 + cls) - n)
  else emit s (.link a "credit returned")

/-- Posted and Non-Posted credits are withheld (Table 2-1): in QUIESCE and DRAIN, and on the way into them. -/
def withholds (s : State) : Bool :=
  let m := fun (n : Nat) => n == mQUIESCE || n == mDRAIN
  m (mode s) || s.tr.any (fun t => m t.to')

/-- R101: the ingress credit of a packet returns once its cells are stored, a request's after the modes that withhold it (Table 2-1). -/
def creditBack (s : State) (a cls : Nat) (pk : Packet) : State :=
  if withholds s && a < 64 && pk.kind != .completion then
    { s with shk := { s.shk with withheld := s.shk.withheld ++ [(a, cls, pk)] } }
  else creditGive s a cls pk

/-- R49: the credits withheld are returned. -/
def creditsBack (s : State) : State :=
  forEach s.shk.withheld { s with shk := { s.shk with withheld := [] } } (fun s e => creditGive s e.1 e.2.1 e.2.2)

/-- What storing one more cell of a VOQ does: on chip, to overflow, or not at all (R102 to R104, R414, R416). -/
inductive Place where
  | chip | ovf | hold (budget refused : Bool)
deriving DecidableEq, Repr

/-- The rules for one cell of VOQ `k` of partition `n`, class `c`, slice `sl`: `chip` and `spd` cells of its packet
are placed already, `spill` says whether one of them went to overflow. -/
def placeCell (s : State) (k n c : Nat) (sl : Option Nat) (chip spd : Nat) : Place :=
  if inBlockReset s 3 then .hold false false else
  let q := quarterOf s (k / 576)
  let l := voq s k
  let onChip := chipCells l + chip
  let free := bankFree s q - chip
  let dur := durable s c
  if dur && durOn s && rd s PWD_HU_BUDGET ≤ durHeld s + chip + spd then .hold true false else
  let full := rd s SHK_ALLOW c ≤ onChip
  let low := free < rd s SHK_BANK_LOW
  let must := s.shk.spilled.contains k || spd != 0
  if !(must || full || low) then .chip else
  if dur && !durOn s then (if full || free = 0 then .hold false false else .chip) else
  let quota := 4096 * rd s OFM_QUOTA (n * 8 + c)
  let slOk := match sl with
    | some x => (nget? s.slices x).all (fun y => y.ovfQuota = 0 || sliceUse s x + spd + 1 ≤ 4096 * y.ovfQuota)
    | none => true
  let ready := (rd s OFM_STATUS_READY).testBit q && !(rd s OFM_STATUS_FENCED).testBit q
  if grpFree s q ≤ spd && ready then .hold false true
  else if ofmUse s n c + spd + 1 ≤ quota && slOk && ready then .ovf else .hold false false

/-- The placing of `m` more cells: how many lie in overflow in the end, or why the packet waits. -/
def placeCells (s : State) (k n c : Nat) (sl : Option Nat) : Nat → Nat → Nat → Except (Bool × Bool) Nat
  | 0, _, spd => .ok spd
  | m + 1, chip, spd =>
    match placeCell s k n c sl chip spd with
    | .chip => placeCells s k n c sl m (chip + 1) spd
    | .ovf => placeCells s k n c sl m chip (spd + 1)
    | .hold b r => .error (b, r)

/-- A packet's cells are stored in VOQ `k`, in the Quarter of its input (R24), `spd` of them spilled; the credit returns once they are
stored: at once on chip (R101), after the last spill write otherwise. -/
def enqueue (s : State) (k : Nat) (q : QPkt) (spd : Nat) : State :=
  let s := voqSet s k (voq s k ++ [{ q with ovf := spd, fresh := true, qtr := quarterOf s q.inp }])
  let s := if spd = 0 then creditBack s q.inp q.vl q.pk else
    { s with shk := { s.shk with
        spilled := if s.shk.spilled.contains k then s.shk.spilled else s.shk.spilled ++ [k],
        spilling := nset 0 s.shk.spilling k (nget s.shk.spilling k 0 + spd) } }
  overBudget s

/-- An earlier packet waits at the input of `q` and `q` may not pass it: one of its type and class, or of its type at a policer
(R100, R128), or one for the same VOQ, which only a Posted packet passes, a Non-Posted one, and at no cluster (R81, R82). -/
def heldAhead (s : State) (q : QPkt) (o : Nat) : Bool :=
  let passes := fun (k : PktKind) => decide (q.pk.kind = .posted) && decide (k = .nonPosted) && decide (q.inp < 64)
  s.shk.held.any (fun h => decide (h.q.seq < q.seq) && h.q.inp == q.inp &&
      (if h.pol then decide (h.q.pk.kind = q.pk.kind)
       else h.q.cls == q.cls && (decide (h.q.pk.kind = q.pk.kind) || (h.outp == o && !passes h.q.pk.kind))))
    || s.fab.retWait.any (fun w => decide (w.seq < q.seq) && w.inp == q.inp && w.cls == q.cls &&
      (decide (q.pk.kind = .nonPosted) || (w.outp == o && !passes .nonPosted)))

/-- The packet waits at its input (R100), in order of arrival. -/
def hold (s : State) (q : QPkt) (o : Nat) (pol budget : Bool) : State :=
  let l := s.shk.held
  { s with shk := { s.shk with held := l.filter (fun h => h.q.seq < q.seq) ++ ⟨q, o, pol, budget, s.now⟩ :: l.filter (fun h => q.seq ≤ h.q.seq) } }

/-- R100 to R104, R414: the packet is stored in its VOQ or waits at its input. -/
def store (s : State) (q : QPkt) (o : Nat) : State :=
  if heldAhead s q o then hold s q o false false else
  let k := voqKey q.inp o q.cls
  match placeCells s k q.pt q.cls q.slice q.cells 0 0 with
  | .ok spd => enqueue s k q spd
  | .error (b, r) =>
    let s := if r then raise (inc s OFM_GRP_REFUSED (quarterOf s q.inp)) 0x18D else s
    hold s q o false b

/-- Since when each packet waits at input `a`: held, for a return entry, for a PU, or for a block in BLOCK reset (R100, R128, R148,
R330, Table 17-3). -/
def waitsAt (s : State) (a : Nat) : List Nat :=
  (s.shk.held.filter (fun h => h.q.inp == a)).map (·.since)
    ++ (s.fab.retWait.filter (fun w => w.inp == a)).map (·.since)
    ++ s.plc.pu.flatMap (fun e => (e.2.held.filter (fun h => h.inp == a)).map (·.since))
    ++ (s.fab.stalled.filter (fun e => e.1 == a)).map (fun e => e.2.2.2)

/-- R100: some packet of input `a` waits. -/
def inputHeld (s : State) (a : Nat) : Bool := !(waitsAt s a).isEmpty

/-- R112: CREDIT_HOLD of port `a` counts the time up to now in which some packet of the port has waited, each moment once. -/
def holdCount (s : State) (a : Nat) : State :=
  match waitsAt s a with
  | [] => s
  | w :: ws =>
    if 64 ≤ a then s else
    let (t, ns) := nget s.shk.counted a (0, 0)
    let d := ns + (s.now - max t (ws.foldl min w))
    inc { s with shk := { s.shk with counted := nput s.shk.counted a (s.now, d % 1000) } } CREDIT_HOLD a (d / 1000)

/-- The time a packet was held, in µs, goes to DUR_HOLD or QUOTA_HOLD (R414, R416). -/
def heldTime (s : State) (h : HeldPkt) : State :=
  let us := (s.now - h.since) / 1000
  if h.pol then s else if h.budget then inc s DUR_HOLD 0 us else inc s QUOTA_HOLD 0 us

/-- A packet no longer waits; its time is counted. -/
def unhold (s : State) (h : HeldPkt) : State :=
  let s := heldTime (holdCount s h.q.inp) h
  { s with shk := { s.shk with held := s.shk.held.filter (fun x => x.q.seq != h.q.seq) } }

/-- The packets held under R100 are tried again, oldest first; those of a policer wait for their tokens. A packet
behind an earlier one that it may not pass goes on waiting. -/
def release (s : State) : State :=
  forEach s.shk.held s (fun s h =>
    if h.pol || heldAhead s h.q h.outp then s else
    let k := voqKey h.q.inp h.outp h.q.cls
    match placeCells s k h.q.pt h.q.cls h.q.slice h.q.cells 0 0 with
    | .ok spd => enqueue (unhold s h) k h.q spd
    | .error _ => s)

/-! ### Cells on their way to overflow -/

/-- How many cells of each packet are not written yet, newest packet first: they are the newest of the VOQ's overflow cells. -/
def unwrittenRev : List QPkt → Nat → List (QPkt × Nat)
  | [], _ => []
  | q :: l, n => (q, min q.ovf n) :: unwrittenRev l (n - q.ovf)

/-- The packets of VOQ `k`, oldest first, each with its overflow cells that are not written yet (R101). -/
def unwritten (s : State) (k : Nat) : List (QPkt × Nat) := (unwrittenRev (voq s k).reverse (nget s.shk.spilling k 0)).reverse

/-- A VOQ with no cell left in overflow stops spilling (R103). -/
def unspill (s : State) (k : Nat) : State :=
  if ovfCells (voq s k) = 0 then { s with shk := { s.shk with spilled := s.shk.spilled.filter (· != k) } } else s

/-- The packets of VOQ `k` that `gone` names leave it; the credit of one that was not stored in full returns (R101). -/
def voqDrop (s : State) (k : Nat) (gone : QPkt → Bool) : State :=
  let l := unwritten s k
  let stay := l.filter (fun e => !gone e.1)
  let s := voqSet s k (stay.map (·.1))
  let s := { s with shk := { s.shk with spilling := nset 0 s.shk.spilling k (stay.foldl (fun n e => n + e.2) 0) } }
  forEach (l.filter (fun e => gone e.1 && e.2 != 0)) (unspill s k) (fun s e => creditBack s e.1.inp e.1.vl e.1.pk)

/-! ### Flushing (R108) -/

/-- A non-posted request that was bound for port `o` is answered with `st`: under its proxy identity it answers to the requester
that its return entry keeps, which is freed (R330, R331), and to nobody where the entry is gone or quarantined. -/
def answerLost (s : State) (o : Nat) (q : QPkt) (st : CplStatus) : State :=
  if !q.ret then answer s q.inp q.cls q.pt q.pk st else
  match nget? s.fab.ret (o * 16384 + q.pk.tag.toNat) with
  | none => s
  | some e =>
    if e.quar then s else
    answer (retDel s o q.pk.tag.toNat) e.inp e.tc e.part
      { q.pk with rid := BitVec.ofNat 16 e.rid, tag := BitVec.ofNat 14 e.tag, fab := e.fab } st

/-- R108, R110, R111: a packet queued for port `o` is lost: a non-posted request is answered with `st`, a posted
packet counts in DOWN_DISC_P (in PART_DISC of the partition where the port is its upstream port going down), a
completion in DOWN_DISC_CPL. -/
def lose (s : State) (o : Nat) (q : QPkt) (st : CplStatus) (upstream : Bool) : State :=
  match q.pk.kind with
  | .nonPosted => answerLost (if o < 64 then inc s DOWN_UR o else s) o q st
  | .posted =>
    let s := awtClosePosted s q.seq
    if upstream then inc s PART_DISC (portPt s o) else if o < 64 then inc s DOWN_DISC_P o else s
  | .completion => if o < 64 then inc s DOWN_DISC_CPL o else s

/-- A request that waits for a return entry, as a packet. -/
def waitPkt (w : RetWait) : QPkt :=
  { seq := w.seq, inp := w.inp, cls := w.cls, cells := cellsOf w.pk, pk := w.pk, pt := w.pt, ovf := 0, pu := none, fresh := false,
    slice := w.slice, xw := w.xw, vl := w.vl }

/-- R108: every packet in the VOQs and in the staging of port `o` is flushed, those that the part formed itself too, with those that
wait at their inputs for it; the credits of those that were not stored yet return. -/
def flushPort (s : State) (o : Nat) (st : CplStatus) (upstream : Bool) : State :=
  let mine := s.shk.voq.filter (fun e => e.1 / 8 % 72 == o)
  let stg := nget s.shk.staging o [] ++ nget s.shk.wait o []
  let hs := s.shk.held.filter (fun h => h.outp == o)
  let ws := s.fab.retWait.filter (fun w => w.outp == o)
  let s := forEach hs s unhold
  let s := forEach ws s (fun s w => holdCount s w.inp)
  let s := fabUpd s (fun x => { x with retWait := x.retWait.filter (fun w => w.outp != o) })
  let s := forEach mine s (fun s e => voqDrop s e.1 (fun _ => true))
  let s := { s with shk := { s.shk with
    staging := ndel s.shk.staging o
    wait := ndel s.shk.wait o
    xbar := s.shk.xbar.filter (fun m => m.o != o)
    window := s.shk.window.filter (· != o) } }
  let s := forEach mine s (fun s e => forEach e.2 s (fun s q => lose s o q st upstream))
  let s := forEach stg s (fun s x => lose s o x.q st upstream)
  let s := forEach hs s (fun s h => lose (creditBack s h.q.inp h.q.vl h.q.pk) o h.q st upstream)
  overBudget (forEach ws s (fun s w => lose (creditBack s w.inp w.vl w.pk) o (waitPkt w) st upstream))

/-- The packets of VOQ `k` that `gone` names are lost at their output, non-posted ones answered with `st` (R108, R111). -/
def voqLose (s : State) (k : Nat) (st : CplStatus) (gone : QPkt → Bool) : State :=
  forEach ((voq s k).filter gone) (voqDrop s k gone) (fun s p => lose s (k / 8 % 72) p st false)

/-- R111: the cells of overflow group `q` are discarded: each packet that has one counts as lost at its port, a
non-posted request answered with Completer Abort. -/
def dropGroup (s : State) (q : Nat) : State :=
  overBudget (forEach s.shk.voq s (fun s e => voqLose s e.1 .ca (fun p => p.ovf != 0 && p.qtr == q)))

/-- R33: SAFE discards every packet held, each counted by its type at the port it was queued for, or where that is none at the port it
came in on, and sends no completion. -/
def discardAll (s : State) : State :=
  let cnt := fun (s : State) (o i : Nat) (k : PktKind) =>
    let p := if o < 64 then o else i
    if 64 ≤ p then s else match k with
      | .nonPosted => inc s DOWN_UR p
      | .posted => inc s DOWN_DISC_P p
      | .completion => inc s DOWN_DISC_CPL p
  let s := forEach s.shk.held s (fun s h => holdCount s h.q.inp)
  let t := forEach s.shk.voq s (fun t e => forEach e.2 t (fun t q => cnt t (e.1 / 8 % 72) q.inp q.pk.kind))
  let t := forEach s.shk.staging t (fun t e => forEach e.2 t (fun t x => cnt t e.1 x.q.inp x.q.pk.kind))
  let t := forEach s.shk.wait t (fun t e => forEach e.2 t (fun t x => cnt t e.1 x.q.inp x.q.pk.kind))
  let t := forEach s.shk.held t (fun t h => cnt t h.outp h.q.inp h.q.pk.kind)
  let t := forEach s.fab.retWait t (fun t w => cnt t w.outp w.inp w.pk.kind)
  let t := forEach s.fab.stalled t (fun t e => cnt t 72 e.1 e.2.2.1.kind)
  let t := forEach s.plc.pu t (fun t e => forEach e.2.held t (fun t h => cnt t 72 h.inp h.pk.kind))
  let none' : Shank := { t.shk with
    voq := [], spilled := [], spilling := [], xbar := [], staging := [], wait := [], held := [], deficit := [], withheld := [] }
  overBudget { t with
    shk := none'
    fab := { t.fab with retWait := [], stalled := [] }
    plc := { t.plc with pu := t.plc.pu.map (fun e => (e.1, { e.2 with held := [] })) }
    awt := { t.awt with accs := [] } }

/-! ### Matching (R81 to R90) -/

/-- Output `o` takes packets now: a cluster, or a port whose link is up. -/
def outputOpen (s : State) (o : Nat) : Bool := 64 ≤ o || linkUp s o

/-- R81, R83: the packet of VOQ `k` that may be sent next: the oldest, whole on chip and with staging room; or the
oldest Posted one behind a Non-Posted head that lacks staging room, but not at a cluster input (R82). -/
def eligible (s : State) (k : Nat) (l : List QPkt) : Option QPkt :=
  let i := k / 576
  let o := k / 8 % 72
  let room := fun (q : QPkt) => stageRoom s o q.pk.kind q.cells true
  match l with
  | [] => none
  | q :: rest =>
    if q.ovf != 0 then none
    else if room q then some q
    else if q.pk.kind = .nonPosted && i < 64 then
      match rest.find? (fun p => p.pk.kind = .posted) with
      | some p => if p.ovf = 0 && room p then some p else none
      | none => none
    else none

/-- A request of the matching: input, output, class, packet. -/
structure Req where
  i : Nat
  o : Nat
  c : Nat
  q : QPkt
deriving DecidableEq, Repr

/-- What inputs and outputs that are free would request, gates and shapers applied (R87, R113, R117). -/
def wants (s : State) (busyI busyO : List Nat) : List Req :=
  s.shk.voq.filterMap (fun e =>
    let i := e.1 / 576
    let o := e.1 / 8 % 72
    let c := e.1 % 8
    if busyI.contains i || busyO.contains o || !outputOpen s o || !classOpen s o c then none else
    match eligible s e.1 e.2 with
    | some q => if o < 64 && shapersOn s && !tokensCover s o c false q.pk then none else some ⟨i, o, c, q⟩
    | none => none)

/-- R118: the guard of the entry in force withholds a grant. -/
def guarded (s : State) (r : Req) : Bool := r.o < 64 && guardHolds s r.o r.c r.q.pk

/-- The requests of the matching (R87): those that no guard withholds (R118). -/
def requests (s : State) (busyI busyO : List Nat) : List Req := (wants s busyI busyO).filter (fun r => !guarded s r)

/-- The first of `l` at or after `p`, cyclically over 72 (R87). -/
def firstAfter (l : List Nat) (p : Nat) : Option Nat :=
  match l.filter (p ≤ ·) with
  | x :: xs => some (xs.foldl min x)
  | [] => match l with
    | [] => none
    | x :: xs => some (xs.foldl min x)

/-- The grant of output `o` among its requests (R87, R88). -/
def grantOf (s : State) (o : Nat) (rs : List Req) : State × Option Req :=
  let (s, c) := classChoice s o ((rs.map (·.c)).eraseDups)
  match c with
  | none => (s, none)
  | some c =>
    let rs := rs.filter (·.c == c)
    match firstAfter (rs.map (·.i)) (nget s.shk.gptr (o * 8 + c) 0) with
    | some i => (s, rs.find? (·.i == i))
    | none => (s, none)

/-- R118: GUARD_HOLD of an output counts once in a cell slot in which the grant that it would give first is withheld. -/
def guardCount (s : State) (busyI busyO : List Nat) : State :=
  let ws := wants s busyI busyO
  forEach ((ws.map (·.o)).eraseDups) s (fun s o =>
    if (grantOf s o (ws.filter (·.o == o))).2.any (guarded s) then inc s GUARD_HOLD o else s)

/-- R90: the packet is sent cut-through. A packet counts as still arriving at the first matching after its arrival. -/
def cutsThrough (s : State) (r : Req) : Bool :=
  r.o < 64 && r.q.fresh && bit s SHK_CTL_CT_GLOBAL && bit s SHK_PRT_CTL_CT_EN r.o
    && (nget s.shk.staging r.o []).isEmpty && (nget s.shk.wait r.o []).isEmpty
    && (s.shk.voq.all (fun e => e.1 / 576 == r.i || e.1 / 8 % 72 != r.o || e.2.isEmpty))
    && effMbps s r.o ≤ effMbps s r.i

/-- The packets of VOQ `k` without the one numbered `n`. -/
def voqTake (s : State) (k n : Nat) : State := voqSet s k ((voq s k).filter (·.seq != n))

/-- The number of bytes that a write's byte enables select (R153). -/
def enabledBytes (pk : Packet) : Nat :=
  let cnt := fun (b : BitVec 4) => (List.range 4).foldl (fun n i => if b.getLsbD i then n + 1 else n) 0
  let n := payload pk
  if n ≤ 4 then cnt pk.fbe else n - 8 + cnt pk.fbe + cnt pk.lbe

/-- R26, R162: a placed packet handed to an egress counts at its PU, in the life it was counted into. -/
def puEgress (s : State) (q : QPkt) : State :=
  match q.pu with
  | none => s
  | some k =>
    match nget? s.plc.pu (k % 65536) with
    | some e => if e.life == k / 65536 then
        { s with plc := { s.plc with pu := nput s.plc.pu (k % 65536) { e with egr := e.egr + enabledBytes q.pk } } }
      else s
    | none => s

/-- R86, R87: a grant is accepted: pointers move, the packet crosses to the staging of its output (R84). -/
def accept (s : State) (r : Req) : State :=
  let ct := cutsThrough s r
  let s := onAccept s r.o r.c r.q.pk
  let s := voqTake s (voqKey r.i r.o r.c) r.q.seq
  let s := { s with shk := { s.shk with
    gptr := nset 0 s.shk.gptr (r.o * 8 + r.c) ((r.i + 1) % 72)
    aptr := nset 0 s.shk.aptr r.i ((r.o + 1) % 72)
    xbar := s.shk.xbar ++ [⟨r.i, r.o, r.q.cells⟩] } }
  stage (if r.o < 64 then puEgress s r.q else s) r.o ⟨{ r.q with fresh := false }, false, ct⟩

/-- One request, grant and accept round (R87). -/
def matchRound (sb : State × List Nat × List Nat) : State × List Nat × List Nat :=
  let (s, bi, bo) := sb
  let rs := requests s bi bo
  let outs := (rs.map (·.o)).eraseDups
  let (s, gs) := outs.foldl (fun (acc : State × List Req) o =>
    let (s, g) := grantOf acc.1 o (rs.filter (·.o == o))
    (s, acc.2 ++ g.toList)) (s, [])
  ((gs.map (·.i)).eraseDups).foldl (fun (acc : State × List Nat × List Nat) i =>
    let mine := gs.filter (·.i == i)
    match firstAfter (mine.map (·.o)) (nget acc.1.shk.aptr i 0) with
    | some o => match mine.find? (·.o == o) with
      | some r => (accept acc.1 r, i :: acc.2.1, o :: acc.2.2)
      | none => acc
    | none => acc) (s, bi, bo)

/-- A cluster takes from its staging what has crossed in whole. -/
def clusterTake (s : State) (o : Nat) : State :=
  let l := nget s.shk.staging o []
  let gone := if s.shk.xbar.any (fun m => m.o == o) then l.dropLast else l
  forEach gone { s with shk := { s.shk with staging := nset [] s.shk.staging o (l.drop gone.length) } } (fun s x =>
    awtClosePosted (emit s (.toCluster (o - 64) x.q.pk)) x.q.seq)

/-- One cell crosses for every matched pair; those that are done leave (R77, R86). -/
def xbarSlot (s : State) : State :=
  let s := { s with shk := { s.shk with xbar := (s.shk.xbar.map (fun m => { m with left := m.left - 1 })).filter (fun m => m.left != 0) } }
  forEach ((s.shk.staging.map (·.1)).filter (64 ≤ ·)) s clusterTake

/-- The inputs that take no part in a match: matched ones, and those whose packet is being sent cut-through (R86, R92). -/
def busyInputs (s : State) : List Nat :=
  s.shk.xbar.map (·.i) ++ s.shk.staging.flatMap (fun e => (e.2.filter (fun x => x.ct && !x.own)).map (fun x => x.q.inp))

/-- The matching of one cell slot runs in this mode (Table 2-1) and outside a BLOCK reset of the Shank. -/
def forwards (s : State) : Bool :=
  !(mode s == mHOLD || mode s == mTEST || mode s == mSAFE || mode s == mLOOPBACK || mode s == mFACTORY || mode s == mSTANDBY)
    && !inBlockReset s 3

/-- The matching of one cell slot (R86 to R90): three rounds among the free inputs and outputs; what they free lets held inputs store. -/
def packetMatch (s : State) : State :=
  if !forwards s then s else
    let s := xbarSlot s
    let busyO := s.shk.xbar.map (·.o)
    let s := guardCount s (busyInputs s) busyO
    let (s, _, _) := matchRound (matchRound (matchRound (s, busyInputs s, busyO)))
    let s := { s with shk := { s.shk with voq := s.shk.voq.map (fun e => (e.1, e.2.map (fun q => { q with fresh := false }))) } }
    release (overBudget s)

/-! ### Spill and readback -/

/-- SPILL_WRITE_DONE (R101, R102): the oldest cell on its way to overflow is written, to the group of its packet's Quarter; a packet's
credit returns with the last of its cells. -/
def execSpillWriteDone (i o : Fin 72) (c : Fin 8) (s : State) : Res :=
  .next (
    let k := voqKey i o c
    match (unwritten s k).find? (fun e => e.2 != 0) with
    | none => s
    | some (q, n) =>
      let s := { s with shk := { s.shk with spilling := nset 0 s.shk.spilling k (nget s.shk.spilling k 0 - 1) } }
      let s := inc s SHK_Q_SPILL q.qtr
      if n = 1 then creditBack s q.inp q.vl q.pk else s)

/-- The oldest packet of a list with cells in overflow loses one of them to the chip (R103). -/
def readOne : List QPkt → List QPkt
  | [] => []
  | q :: l => if q.ovf = 0 then q :: readOne l else { q with ovf := q.ovf - 1 } :: l

/-- R103: VOQ `k` requests readback: its on-chip count is below SHK_ALLOW minus SHK_REFILL_GAP, or its oldest packet, which alone may be sent
next, is not whole on chip. -/
def wantsBack (s : State) (k : Nat) : Bool :=
  chipCells (voq s k) < rd s SHK_ALLOW (k % 8) - rd s SHK_REFILL_GAP || (voq s k).head?.any (fun q => q.ovf != 0)

/-- R103, R410, R411: where VOQ `k` requests readback, its oldest spilled cell, once written, returns; corrected, it is counted;
uncorrectable, its packet is lost, and with its link the chain is broken. -/
def readBack (s : State) (k : Nat) (r : Readback) : State :=
  match (unwritten s k).find? (fun e => e.1.ovf != 0) with
  | none => s
  | some (q, n) =>
    if q.ovf ≤ n || !wantsBack s k then s else
    let g := q.qtr
    match r with
    | .uncorrectable lost =>
      let s := inc (raise s (0x584 + g)) OFM_GRP_UNCORR g
      let s := if lost then raise s (0x588 + g) else s
      release (overBudget (voqLose s k .ca (fun p => p.seq == q.seq)))
    | _ =>
      let s := inc (voqSet s k (readOne (voq s k))) SHK_Q_READBACK g
      let s := if r = .corrected then raise (inc s OFM_GRP_CORR g) (0x580 + g) else s
      release (unspill s k)

/-! ### Cut-through that goes wrong (R95 to R99) -/

/-- The packet in cut-through at output `o`. -/
def ctAt (s : State) (o : Nat) : Option Staged := (nget s.shk.staging o []).find? (·.ct)

/-- The staging of `o` without that packet. -/
def unstage (s : State) (o : Nat) (n : Nat) : State :=
  unwait { s with shk := { s.shk with staging := nset [] s.shk.staging o ((nget s.shk.staging o []).filter (fun x => x.q.seq != n)) } } o

/-- R97: the part whose ingress found the failure acts towards the requester. CA_SENT is that of the port at which the packet came in, and
counts nothing for a Clicker's; the rule names no port (DESIGN CHOICE). -/
def badAfterHead (s : State) (o : Nat) (q : QPkt) : State :=
  match q.pk.kind with
  | .nonPosted => answerLost (if q.inp < 64 then inc s CA_SENT q.inp else s) o q .ca
  | .posted => raise (awtClosePosted s q.seq) 0x18B q.inp
  | .completion => s

/-! ### Other commands -/

/-- INPUT_HELD_TIMEOUT (R100, Table 4-9): an input held longer than 1 ms raises the Shank source; an input that is not
held raises nothing. -/
def execInputHeldTimeout (a : Fin 72) (s : State) : Res :=
  .next (if inputHeld s a then raise s 0x18F a else s)

/-- R112: the selected VOQ's counts are sampled; an input above 71 reads as 71. So does an output, for which the table names no VOQ, and only
packets wholly on chip count in SHK_VOQ_PKTS (both DESIGN CHOICE). -/
def voqSelect (s : State) (v : Nat) : State :=
    let i := min (v % 128) 71
    let o := min (v / 256 % 128) 71
    let c := v / 65536 % 8
    let s := wr (wr (wr s SHK_VOQ_SEL_IN 0 i) SHK_VOQ_SEL_OUT 0 o) SHK_VOQ_SEL_TC 0 c
    let l := voq s (voqKey i o c)
    let cnt := fun k => min 1023 (l.filter (fun q => q.ovf = 0 && q.pk.kind = k)).length
    let s := wr (wr s SHK_VOQ_CELLS 0 (min 32767 (chipCells l))) SHK_VOQ_OVF 0 (ovfCells l)
    wr (wr (wr s SHK_VOQ_PKTS_P 0 (cnt .posted)) SHK_VOQ_PKTS_NP 0 (cnt .nonPosted)) SHK_VOQ_PKTS_CPL 0 (cnt .completion)

/-- VOQ_SELECT_WRITE (R112). -/
def execVoqSelectWrite (m : Master) (v : BitVec 32) (s : State) : Res :=
  .next (asMaster s m SHK_VOQ_SEL_IN.off (fun s => voqSelect s v.toNat))

/-- R414: the quota of a partition and class is stored; inputs it held may store. -/
def ofmQuotaPut (s : State) (i v : Nat) : State := release (wr s OFM_QUOTA i v)

/-- R415: DUR_TC is stored only in SETUP and QUIESCE. -/
def durTcPut (s : State) (v : Nat) : State :=
  if mode s == mSETUP || mode s == mQUIESCE then release (overBudget (wr s OFM_CTL_DUR_TC 0 v)) else s

end Sys2Proof.Machine
end

