-- ==== Sys2Proof/Machine/Route.lean ====
section
/-! DEFINITION. Where a packet goes: configuration registers that route (09_pcie_ports.md; the registers' places are those
of the base specification), bridges of a partition, remapped functions, fabric next hops and flow hashes
(12_fabric.md), and the storing of a packet for an output. -/

namespace Sys2Proof.Machine

/-! ### Fabric next hops (R333 to R336) -/

/-- The layout in force makes fabric parts of T-link ports (Table 2-4). -/
def fabricOn (s : State) : Bool := s.fab.layout == 2 || s.fab.layout == 3
def leaf (s : State) : Bool := s.fab.layout == 2

/-- R334: port `p` is up as a hop: UP or STEPPING, no ID clash. -/
def hopUp (s : State) (p : Nat) : Bool := isTlink s p && linkUp s p && !bit s FAB_NBR_CLASH p

/-- The pair in which `p` is a member, with its mate, while the pair is ACTIVE (Table 11-6). -/
def activePair (s : State) (p : Nat) : Option (Nat × Nat) :=
  (List.range 32).findSome? (fun k =>
    if rd s WLT_PAIR_STATUS_STATE k != 2 then none
    else if rd s WLT_PAIR_CTL_PORT_A k == p then some (k, rd s WLT_PAIR_CTL_PORT_B k)
    else if rd s WLT_PAIR_CTL_PORT_B k == p then some (k, rd s WLT_PAIR_CTL_PORT_A k)
    else none)

/-- The hops of the entry for device `d` (R334): none where it is OFF. -/
def hopsOf (s : State) (d : Nat) : List Nat :=
  match rd s FAB_DEV_MODE d with
  | 1 => [rd s FAB_DEV_HOP0 d, rd s FAB_DEV_HOP1 d, rd s FAB_DEV_HOP2 d, rd s FAB_DEV_HOP3 d].take (rd s FAB_DEV_NHOPSM1 d + 1)
  | 2 => ((List.range 64).filter (fun p => bit s FAB_NBR_VALID p && bit s FAB_NBR_UP p && rd s FAB_NBR_DEV_ID p == d)).take 4
  | _ => []

/-- MOVED and MOVED_TO of slot `i` (R334, Table 12-7). -/
def movedTo (s : State) (d i : Nat) : Nat :=
  if (rd s FAB_DEV_STAT_MOVED d).testBit i then rd s FAB_DEV_STAT_MOVED_TO d / 4 ^ i % 4 else i

/-- R334: the port for device `d` and flow hash `h`; a slot without a live hop moves, and where the packet's slot had moved already it is
the slot it moved to that moves on, as the rule writes it (DEDUCED). -/
def fabHop (s : State) (d h : Nat) : State × Option Nat :=
  let hops := hopsOf s d
  let n := hops.length
  if n = 0 then (s, none) else
  let i := h % n
  let j := if rd s FAB_DEV_MODE d == 1 then movedTo s d i else i
  let p := hops.getD j 0
  if hopUp s p then (s, some p) else
  match (activePair s p).filter (fun e => hopUp s e.2) with
  | some (_, m) => (s, some m)
  | none =>
    if s.shk.window.contains p || s.prt.retrain.contains p then (s, some p) else
    match ((List.range n).map (fun k => (j + 1 + k) % n)).find? (fun k => hopUp s (hops.getD k 0)) with
    | none => (s, none)
    | some k =>
      let s := if rd s FAB_DEV_MODE d == 1 then
          let s := wr s FAB_DEV_STAT_MOVED d (rd s FAB_DEV_STAT_MOVED d ||| 2 ^ j)
          let mv := rd s FAB_DEV_STAT_MOVED_TO d
          wr s FAB_DEV_STAT_MOVED_TO d (mv - mv / 4 ^ j % 4 * 4 ^ j + k * 4 ^ j)
        else s
      (s, some (hops.getD k 0))

/-- Some hop of the entry for device `d` is up (R142 for remote members, REACH). -/
def devReach (s : State) (d : Nat) : Bool :=
  (hopsOf s d).any (fun p => hopUp s p || (match activePair s p with | some (_, m) => hopUp s m | none => false))

/-- R325: the header that this part adds. -/
def newHdr (s : State) (dst port part tc hash : Nat) (placed : Bool) : FabHdr :=
  { dstDev := BitVec.ofNat 6 dst, dstPort := BitVec.ofNat 6 port, part := BitVec.ofNat 4 part, tc := BitVec.ofNat 3 tc,
    hash := BitVec.ofNat 8 hash, gseq := 0, srcDev := BitVec.ofNat 6 (devId s),
    ttl := BitVec.ofNat 4 (rd s FAB_CTL_TTL_INIT), gseqV := false, placed := placed, notice := false }

/-! ### Storing for an output -/

/-- A packet as its input stage hands it over: input attachment, class, partition whose traffic it is (R104), slice of a
Clicker's own packet, the PU life it counts into, the crossing window whose copy translated it, whether it is an access of
the Awl, the class it arrived in, whether it carries a proxy identity with a return entry (R330), its arrival number if it has waited, and
which attributes no AWT entry gives it: `noRo` Relaxed Ordering (R28), `bare` any (R161). -/
structure Cell where
  inp : Nat
  cls : Nat
  pt : Nat
  pk : Packet
  slice : Option Nat := none
  pu : Option Nat := none
  xw : Option Nat := none
  awl : Bool := false
  vl : Nat := cls
  ret : Bool := false
  seq : Option Nat := none
  noRo : Bool := false
  bare : Bool := false
deriving DecidableEq, Repr

/-- Port `o` is the upstream port of a partition. -/
def isUpstream (s : State) (o : Nat) : Bool := o < 64 && !isTlink s o && bit s PRT_CFG_DIR o

/-- A message packet of the part's own. -/
def msgPkt (h : MsgHdr) (a tc rid : Nat) (data : Bytes) : Packet :=
  { kind := .posted, op := .msg, addr := BitVec.ofNat 64 a, len := data.length, data := data, fbe := 15, lbe := 15, tc := Fin.ofNat 8 tc,
    rid := BitVec.ofNat 16 rid, tag := 0, pasid := none, status := .ok, lastPiece := true, ro := false, ido := false, ns := false,
    tph := none, selIde := false, translated := false, fab := none, notice := none, msg := some h }

/-- The bridge of partition `n` at which port `p` reports its errors: of a remapped function, the shared bridge of the partition that owns it
(R247). -/
def errFn (s : State) (p n : Nat) : Nat := if isUpstream s p then fnUp n else fnDown n p

/-- R247, R235: bridge `f` of port `p` in partition `n` finds uncorrectable error `i` (numbered as the base specification's status register) with
packet `pk`: its status bit sets; where it is not masked, the header log and the first error pointer take the first such error, and the host
is told by the error message of its severity on the partition's upstream port, if the bridge may report it. -/
def aerLog (s : State) (p n i : Nat) (pk : Packet) : State :=
  let f := errFn s p n
  if isTlink s p || 64 ≤ p || partInReset s n then s else
  let st := cfgGet s f 65
  let mask := cfgGet s f 66
  let s := cfgPut s f 65 (st ||| 2 ^ i)
  if mask.testBit i then s else
  let h := Config.tlpHeader (bit s PRT_STATUS_FLIT p) pk
  let s := if st &&& (st ^^^ mask) != 0 then s
    else forEach (List.range 4) (cfgPut s f 70 i) (fun s k => cfgPut s f (71 + k) (h / 2 ^ (32 * k)))
  let fatal := (cfgGet s f 67).testBit i
  let ctl := cfgGet s f 30
  if !((cfgGet s f 1).testBit 8 || ctl.testBit (if fatal then 2 else 1)) then s else
  match upPort s n with
  | some u => if linkUp s u then
      formed s u 0 n (msgPkt { routing := 0, code := if fatal then 0x33 else 0x31 } 0 0 (if isUpstream s p then busOf s f * 256 else bridgeRid s p) [])
    else s
  | none => s

/-- A packet that goes no further: a request with a completion expected is answered, anything else is discarded and its
credit returns. -/
def turnAwayQuiet (s : State) (c : Cell) (st : CplStatus) : State :=
  let s := creditBack s c.inp c.vl c.pk
  if c.pk.kind = .nonPosted then answer s c.inp c.cls c.pt c.pk st else s

/-- The same, the port that took it in reporting an Unsupported Request or a Completer Abort (R247). -/
def turnAway (s : State) (c : Cell) (st : CplStatus) : State :=
  turnAwayQuiet (aerLog s c.inp c.pt (if st = .ca then 15 else 20) c.pk) c st

/-- A packet queued for a port that takes none is treated as flushed (R108, R109, R352). -/
def toDown (s : State) (o : Nat) (c : Cell) (upstream : Bool) : State :=
  let q : QPkt := { seq := 0, inp := c.inp, cls := c.cls, cells := cellsOf c.pk, pk := c.pk, pt := c.pt, ovf := 0,
                    pu := none, fresh := false, slice := c.slice, xw := c.xw, vl := c.vl, ret := c.ret }
  lose (creditBack s c.inp c.vl c.pk) o q .ur upstream

/-- R251: the packet is larger than the Max_Payload_Size at the egress port. -/
def overMps (s : State) (o : Nat) (pk : Packet) : Bool :=
  o < 64 && !isTlink s o && mpsOf s (portFn s o) < payload pk

/-- What the bridge at egress port `o` keeps from leaving (Table 9-1): a poisoned packet where Poisoned TLP Egress Blocking is enabled in a downstream
bridge's DPC Control (error 26), an AtomicOp where AtomicOp Egress Blocking is set (error 24). -/
def egressBlock (s : State) (o : Nat) (pk : Packet) : Option Nat :=
  if 64 ≤ o || isTlink s o then none
  else if pk.status = .poison && !isUpstream s o && (cfgGet s (portFn s o) 89).testBit 21 then some 26
  else if pk.op = .atomic && (cfgGet s (portFn s o) 38).testBit 7 then some 24
  else none

/-- The packet is stored for output `o`: a PCIe port that is down takes none (R109, R110), an upstream port of a partition
in reset neither (R352), nor does a packet leave that is too large (R251); a T-link port in its return window goes on
storing (R106), and so does a port in a training that is no link down (R232). -/
def storeTo (s : State) (o : Nat) (c : Cell) : State :=
  if isUpstream s o && partInReset s (portPt s o) && c.pk.kind != .completion then toDown s o c true
  else if o < 64 && !linkUp s o && !(isTlink s o && s.shk.window.contains o) && !s.prt.retrain.contains o then toDown s o c (isUpstream s o)
  else if overMps s o c.pk then
    if c.pk.kind = .posted then creditBack (inc s MPS_DISC o) c.inp c.vl c.pk else toDown s o c false
  else match egressBlock s o c.pk with
  | some i => turnAwayQuiet (aerLog s o (portPt s o) i c.pk) c .ur
  | none =>
    let (s, n) := match c.seq with
      | some n => (s, n)
      | none => takeSeq s
    store s { seq := n, inp := c.inp, cls := c.cls, cells := cellsOf c.pk, pk := c.pk, pt := c.pt, ovf := 0, pu := c.pu,
              fresh := false, slice := c.slice, xw := c.xw, vl := c.vl, ret := c.ret } o

/-- R336: no route: answered Unsupported Request or discarded, counted, and the source raised once per device and ms. -/
def noRoute (s : State) (d : Nat) (c : Cell) : State :=
  let s := inc s NO_ROUTE
  let quiet := (nget? s.fab.noRoute d).any (fun t => s.now - t < 1000000)
  let s := if quiet then s else
    raise { s with fab := { s.fab with noRoute := nput s.fab.noRoute d s.now } } 0x501 d
  turnAway s c .ur

/-- R318: a flow of class `c` for port `p` stays with the pair's other member. -/
def stayOn (s : State) (p c : Nat) : Nat :=
  if !s.prt.stay.contains (p * 8 + c) then p else
  match (activePair s p).filter (fun e => hopUp s e.2) with
  | some (_, m) => m
  | none => p

/-- A packet with its fabric header leaves for device `d` (R334, R336); while the fabric block is in BLOCK reset it stalls
(Table 17-3). -/
def toDevice (s : State) (d : Nat) (c : Cell) : State :=
  if inBlockReset s 10 then { s with fab := { s.fab with stall := true } } else
  match fabHop s d ((c.pk.fab.map (·.hash.toNat)).getD 0) with
  | (s, some p) => storeTo s (stayOn s p c.cls) c
  | (s, none) => noRoute s d c

end Sys2Proof.Machine
end

