-- ==== Sys2Proof/Machine/Place.lean ====
section
/-! DEFINITION. Placement: windows, members and their failure, decisions, PU states, records that wait
(06_placement.md). What uses the rings is in Rings.lean, what a tick start does in TickStart.lean. -/

namespace Sys2Proof.Machine

/-! ### Windows (R134 to R136) -/

/-- S of window `w` in bytes. -/
def winS (s : State) (w : Nat) : Nat := 2 ^ (12 + rd s PLC_WIN_GEOM_SIZE w)

/-- H and D of window `w`. -/
def winH (s : State) (w : Nat) : Nat := rd s PLC_WIN_GEOM_HM1 w + 1
def winD (s : State) (w : Nat) : Nat := rd s PLC_WIN_GEOM_DM1 w + 1

/-- Window `w`'s length in bytes (R134). -/
def winLen (s : State) (w : Nat) : Nat := winH s w * winD s w * winS s w

/-- The window lies in global space, or in the space of partition `n`. -/
def winSpace (s : State) (w : Nat) (glob : Bool) (n : Nat) : Bool :=
  bit s PLC_WIN_CTL_GLOBAL w == glob && (glob || rd s PLC_WIN_CTL_PARTITION w == n)

/-- The enabled window of a space that holds address `a`, with the offset in it. -/
def windowAt (s : State) (glob : Bool) (n a : Nat) : Option (Nat × Nat) :=
  ((setIdx s PLC_WIN_CTL_EN).find? (fun w =>
    winSpace s w glob n && rd s PLC_WIN_BASE w ≤ a && a < rd s PLC_WIN_BASE w + winLen s w)).map
    (fun w => (w, a - rd s PLC_WIN_BASE w))

/-- The enabled window of a space whose seal page holds address `a`, with the offset in the page (R158). -/
def sealAt (s : State) (glob : Bool) (n a : Nat) : Option (Nat × Nat) :=
  ((setIdx s PLC_WIN_CTL_EN).find? (fun w =>
    winSpace s w glob n && bit s PLC_WIN_SEAL_SEAL_EN w && rd s PLC_WIN_SEAL_PAGE w == a / 4096)).map (fun w => (w, a % 4096))

/-! ### PU entries -/

/-- Placement changed by `f`. -/
def plcUpd (s : State) (f : Plc → Plc) : State := { s with plc := f s.plc }

/-- PU entry `u`. -/
def puAt (s : State) (u : Nat) : Pu := nget s.plc.pu u {}

/-- PU entry `u` set. -/
def puSet (s : State) (u : Nat) (e : Pu) : State := plcUpd s (fun x => { x with pu := nset {} x.pu u e })

/-- The PU entries that window `w` took when it was enabled, while it is ACTIVE (R140): first, and one past the last. -/
def puHeld (s : State) (w : Nat) : Nat × Nat := nget s.plc.range w (0, 0)

/-- PLC_STATUS: the PU entries that enabled windows hold. -/
def plcStatus (s : State) : State :=
  wr s PLC_STATUS 0 ((setIdx s PLC_WIN_CTL_EN).foldl (fun n w => n + ((puHeld s w).2 - (puHeld s w).1)) 0)

/-- ACTIVE of a disabled window clears once every PU of it is FREE (R140). -/
def winIdle (s : State) (w : Nat) : State :=
  if bit s PLC_WIN_CTL_EN w || s.plc.pu.any (fun e => e.2.window == w && e.2.state != 0) then s
  else wr (plcUpd s (fun x => { x with range := ndel x.range w })) PLC_WIN_STATUS_ACTIVE w 0

/-- PU `u` returns to FREE; `keep` keeps MISSED for its next record (R150). -/
def puFree (s : State) (u : Nat) (keep : Bool) : State :=
  let e := puAt s u
  winIdle (puSet s u { life := e.life, missed := keep && e.missed, miss := keep && e.miss,
                       window := if keep then e.window else 0 }) e.window

/-- Live member `m` of pool `p`. -/
def member (s : State) (p m : Nat) : Member := nget s.plc.mbr (p * 64 + m) {}

/-- Live member `m` of pool `p` set. -/
def memberSet (s : State) (p m : Nat) (x : Member) : State := plcUpd s (fun y => { y with mbr := nset {} y.mbr (p * 64 + m) x })

/-- open_pus[m]: the member's PUs in states OPEN to FLUSH (R144). -/
def openPus (s : State) (p m : Nat) : Nat :=
  (s.plc.pu.filter (fun e => e.2.pool == p && e.2.member == m && 2 ≤ e.2.state && e.2.state ≤ 5)).length

/-- AVAIL of a member (Table 6-7). -/
def avail (x : Member) : Nat := if x.kind = 0 then x.bufs.length else x.credits

/-- Buffer size of pool `p`. -/
def poolS (s : State) (p : Nat) : Nat := 2 ^ (12 + rd s PLC_POOL_CTL_BUF_SIZE p)

/-- The cluster that serves the work of cluster `k` (R401), if it is in RUN. -/
def servedBy (s : State) (k : Nat) : Option Nat :=
  let j := rd s CKR_CLU_STATUS_SERVING k
  if rd s CKR_CLU_STATUS_STATE j == 2 then some j else none

/-! ### Records (R169, Table 6-2) -/

/-- A record joins those that wait for their ring, after every earlier one (R163). -/
def recWait (s : State) (r : PRec) : State := plcUpd s (fun x => { x with recs := x.recs ++ [r] })

/-- `r` before the record of PU `u`, where that waits, else last. -/
def recBefore (u : Nat) (r : PRec) : List PRec → List PRec
  | [] => [r]
  | x :: l => if x.pu = some u then r :: x :: l else x :: recBefore u r l

/-- An event that concerns PU `u` is posted before the record of that PU (Table 6-3). -/
def recEvent (s : State) (u : Nat) (r : PRec) : State := plcUpd s (fun x => { x with recs := recBefore u r x.recs })

/-- The flags of a record: 1 REDIRECTED, 2 LATE_RISK, 4 SHORT, 8 COUNT_MISMATCH, 16 MISSED. -/
def puFlags (e : Pu) : Nat :=
  (if e.redirected then 1 else 0) + (if e.lateRisk then 2 else 0) + (if e.ing < e.size then 4 else 0)
    + (if e.mismatch then 8 else 0) + (if e.missed then 16 else 0)

/-- The placement record of a PU. -/
def puRec (u : Nat) (e : Pu) : PRec :=
  { type := 1, status := if e.broken then 1 else 0, sealR := e.sealR, flags := puFlags e,
    cause := if e.broken then e.cause else 0, member := e.member, pool := e.pool, head := e.head, window := e.window,
    slot := e.slot, tick := e.tick, bufTag := e.bufTag, bufAddr := e.bufAddr,
    bytes := if e.broken then e.brk else e.ing, sealTime := e.sealTime, pu := some u }

/-- The record of PU `u` is due, once. -/
def recDue (s : State) (u : Nat) : State :=
  let e := puAt s u
  if e.due then s else recWait (puSet s u { e with due := true }) (puRec u e)

/-- An event of PU `u` (Table 6-3): window, head, slot and pool. -/
def puEvent (s : State) (u type tick bytes : Nat) : State :=
  let e := puAt s u
  recEvent s u { type := type, pool := e.pool, head := e.head, window := e.window, slot := e.slot, tick := tick, bytes := bytes }

/-! ### Sealing (R156, R160) -/

/-- PU `u`, in OPEN or GRACE, is sealed with reason 0 COUNT, 1 WRITE, 2 TICK or 3 DISABLE. A BROKEN one, and one with
nothing counted, has its record due at once (Table 6-1). -/
def sealPu (s : State) (u reason : Nat) : State :=
  let e := puAt s u
  if e.state != 2 && e.state != 3 then s else
  let s := puSet s u { e with state := 4, sealR := reason, sealTime := devTime s % 2 ^ 32 }
  let s := inc s SEALED e.window
  let s := if e.ing < e.size then inc s SHORT e.window else s
  if e.broken || e.ing == 0 then recDue s u else s

/-! ### Member failure (R165 to R168) -/

/-- R166, R174: PU `u` becomes BROKEN with `cause`; in SEALED or FLUSH it is recorded so, its own record taking the place of one that waits. -/
def puBreak (s : State) (u cause : Nat) : State :=
  let e := puAt s u
  let e' := { e with broken := true, cause := cause, brk := e.ing }
  let s := puSet s u e'
  if e.state < 4 then s
  else if e.due then plcUpd s (fun x => { x with recs := x.recs.map (fun r => if r.pu = some u then { puRec u e' with full := r.full } else r) })
  else recDue s u

/-- R166, R167: what the failure of a member with `cause` does to PU `u` of it. -/
def puFail (s : State) (cause u : Nat) : State :=
  let e := puAt s u
  if e.broken then s
  else if e.state == 2 || e.state == 3 then
    if e.ing == 0 then
      inc (puSet s u { e with state := 1, redirected := true, redo := true, noMem := false }) REDIRECT e.pool
    else puBreak s u cause
  else if e.state == 4 || e.state == 5 then puBreak s u cause
  else s

/-- R165: member `m` of pool `p` becomes FAILED: cause, event, source, and its PUs. -/
def memberFail (s : State) (p m cause : Nat) : State :=
  let x := member s p m
  if x.state == 2 || (x.state == 3 && openPus s p m == 0) then s else
  let s := memberSet s p m { x with state := 2, cause := cause }
  let s := raise s 0x284 (p * 64 + m) (some (rd s PLC_POOL_CTL_PARTITION p))
  let s := recWait s { type := 5, pool := p, member := m, cause := cause, tick := rd s LCE_TICK_NOW }
  forEach (s.plc.pu.filter (fun e => e.2.pool == p && e.2.member == m)) s (fun s e => puFail s cause e.1)

/-- R165 code 1: every local member on port `p` fails. -/
def membersOfPort (s : State) (p : Nat) : State :=
  forEach (s.plc.mbr.filter (fun e => !e.2.remote && e.2.port == p)) s (fun s e => memberFail s (e.1 / 64) (e.1 % 64) 1)

/-- The slice that owns global queue pair `g`, with the local number (R361). -/
def sliceOfQp (s : State) (g : Nat) : Option (Nat × Nat) :=
  (s.slices.find? (fun e => e.2.qpBase ≤ g && g < e.2.qpBase + e.2.qpCount)).map (fun e => (e.1, g - e.2.qpBase))

/-- R165 code 5: the members consumed by a slice for which `hit` holds fail: the slice of the pool's record ring or of
the member's POST queue pair. -/
def membersOfSlices (s : State) (hit : Nat → Bool) : State :=
  let owns := fun g => (sliceOfQp s g).any (fun e => hit e.1)
  forEach s.plc.mbr s (fun s e =>
    if owns (rd s PLC_POOL_REC (e.1 / 64)) || owns e.2.db then memberFail s (e.1 / 64) (e.1 % 64) 5 else s)

/-! ### Decisions (R142 to R146) -/

/-- R142: the member's path is up. -/
def pathUp (s : State) (x : Member) : Bool :=
  if x.remote then devReach s x.dev else linkUp s x.port

/-- The eligible members of pool `p` (R142). -/
def eligibleSet (s : State) (p : Nat) : List Nat :=
  (List.range 64).filter (fun m => let x := member s p m; x.state == 0 && pathUp s x && 1 ≤ avail x)

/-- R145: score(pool, m, win, head). -/
def score (p m win head : Nat) : Nat := crcOf [p % 256, p / 256, m, win, head, 0, 0, 0]

/-- The first of `l` at or after `ptr`, in rotation over 64. -/
def firstFrom (l : List Nat) (ptr : Nat) : Option Nat :=
  ((List.range 64).map (fun k => (ptr + k) % 64)).find? (fun m => l.contains m)

/-- The members of `l` at which `f` is lowest. -/
def lowest (l : List Nat) (f : Nat → Nat) : List Nat :=
  match l.map f with
  | [] => []
  | x :: xs => let low := xs.foldl min x; l.filter (fun m => f m == low)

/-- The lowest-numbered member of `l` with the highest score. -/
def bestScore (l : List Nat) (p win head : Nat) : Option Nat :=
  l.foldl (fun acc m => match acc with
    | none => some m
    | some b => if score p b win head < score p m win head then some m else some b) none

/-- What a decision gives: the member, its buffer's address and tag, and whether DEADLINE is at risk. -/
structure Choice where
  m : Nat
  addr : Nat
  tag : Nat
  late : Bool
deriving DecidableEq, Repr

/-- cur[m] of WEIGHTED_ROUND and busy[m] of DEADLINE. -/
def curOf (s : State) (p m : Nat) : Int := nget s.plc.cur (p * 64 + m) 0
def busyOf (s : State) (p m : Nat) : Nat := nget s.plc.busy (p * 64 + m) 0

/-- R144: one buffer entry, or one credit and the next slot index, of member `m`. -/
def takeBuf (s : State) (p m : Nat) : State × Nat × Nat :=
  let x := member s p m
  if x.kind = 0 then
    match x.bufs with
    | b :: l => (memberSet s p m { x with bufs := l }, b / 4096 * 4096, b % 4096)
    | [] => (s, 0, 0)
  else
    (memberSet s p m { x with credits := x.credits - 1, nextSlot := (x.nextSlot + 1) % (x.km1 + 1) },
      (x.addr + x.nextSlot * poolS s p) % 2 ^ 64, x.nextSlot)

/-- The member that each policy of R144 picks from the eligible set `e`, with the policy state it leaves. -/
def pick (s : State) (p win head ready size : Nat) (e : List Nat) : State × Option Nat × Bool :=
  let ptr := rd s PLC_POOL_STATUS_PTR p
  match rd s PLC_POOL_CTL_POLICY p with
  | 1 =>
    let s := e.foldl (fun s m => plcUpd s (fun x => { x with cur := nset 0 x.cur (p * 64 + m) (curOf s p m + (member s p m).weight) })) s
    let high := e.foldl (fun (a : Int) m => max a (curOf s p m)) (match e with | m :: _ => curOf s p m | [] => 0)
    match firstFrom (e.filter (fun m => curOf s p m == high)) ptr with
    | some m =>
      let sum := e.foldl (fun n x => n + (member s p x).weight) 0
      (plcUpd s (fun x => { x with cur := nset 0 x.cur (p * 64 + m) (curOf s p m - sum) }), some m, false)
    | none => (s, none, false)
  | 2 =>
    let up := (List.range 64).filter (fun m => (member s p m).state == 0 && pathUp s (member s p m))
    let m := bestScore e p win head
    (if m = bestScore up p win head then s else inc s AFF_SPILL p, m, false)
  | 3 =>
    let fin := fun m => max (busyOf s p m) ready + size / 1024 * (member s p m).cost
    match firstFrom (lowest e fin) ptr with
    | some m =>
      let risk := ready + rd s PLC_POOL_DEADLINE p < fin m
      let s := plcUpd s (fun x => { x with busy := nset 0 x.busy (p * 64 + m) (fin m) })
      (if risk then inc s LATE_RISK p else s, some m, risk)
    | none => (s, none, false)
  | 4 => (s, e.head?, false)
  | _ => (s, firstFrom (lowest e (openPus s p)) ptr, false)

/-- R144: a decision; none where no member is eligible. -/
def decide' (s : State) (p win head ready size : Nat) : State × Option Choice :=
  let e := eligibleSet s p
  if e.isEmpty || !bit s PLC_POOL_CTL_EN p then (s, none) else
  match pick s p win head ready size e with
  | (s, some m, risk) =>
    let s := inc (wr s PLC_POOL_STATUS_PTR p ((m + 1) % 64)) DECISIONS p
    let (s, a, t) := takeBuf s p m
    (s, some ⟨m, a, t, risk⟩)
  | (s, none, _) => (s, none)

/-! ### Identities and checks of a request (R378) -/

/-- The requester identity of a packet: from another part by its fabric header, else of its partition. -/
def accReq (c : Cell) (addr len owner : Nat) (glob : Bool) (need : Need) : AccReq :=
  { addr := addr, len := len, owner := owner, glob := glob,
    kind := if c.awl then 0x11 else if c.pk.fab.isSome then 0x10 else c.pt, rid := if c.awl then 0 else c.pk.rid.toNat,
    dev := (c.pk.fab.map (·.srcDev.toNat)).getD 0, pasid := c.pk.pasid.map (·.toNat), need := need }

/-- What a memory request needs (R380); a read of one DW with both byte enables 0 is a zero-length read. -/
def needOf (pk : Packet) : Need :=
  match pk.op with
  | .memWrite => .write
  | .atomic => .atomic
  | _ => if pk.fbe = 0 && pk.lbe = 0 then .zero else .read

/-- The bytes a memory request spans. -/
def spanOf (pk : Packet) : Nat := max 1 (max pk.data.length pk.len)

/-- R382: a denied request is logged and answered Completer Abort, or discarded. -/
def awtRefuse (s : State) (c : Cell) (r : AccReq) (reason : Nat) : State := turnAway (awtDeny s r reason) c .ca

/-- R388: a permitted request enters the fence's books. -/
def awtTrack (s : State) (c : Cell) (owner : Nat) : State :=
  awtOpen s { id := s.shk.nextSeq, np := c.pk.kind = .nonPosted, rid := c.pk.rid.toNat, tag := c.pk.tag.toNat,
              job := none, owner := owner, fenced := false, swapped := false }

/-! ### Writes into windows (R148 to R157) -/

/-- The writes of `l` no longer wait; their time goes to CREDIT_HOLD (R112). -/
def heldTimes (s : State) (l : List HeldWr) : State := forEach l s (fun s h => holdCount s h.inp)

/-- The writes held for PU `u` leave it. -/
def puUnhold (s : State) (u : Nat) : State :=
  let s := heldTimes s (puAt s u).held
  puSet s u { (puAt s u) with held := [] }

/-- R150: held writes of PU `u` are discarded as misses, the first of them since its last assignment with an event; a seal write among them
finds the PU in no state for it (R158). -/
def missDiscard (s : State) (u : Nat) (l : List HeldWr) : State :=
  forEach l s (fun s h =>
    let e := puAt s u
    let s := creditBack s h.inp h.cls h.pk
    if h.sealWr then inc s SEAL_IGN e.window else
    let s := inc s MISS_DISC e.window
    let s := raise s 0x287 e.window
    if e.miss then s else
    puEvent (puSet s u { e with miss := true, missed := true }) u 2 (rd s LCE_TICK_NOW) (enabledBytes h.pk))

/-- The PU life that a packet counts into, as QPkt keeps it. -/
def lifeKey (u : Nat) (e : Pu) : Nat := e.life * 65536 + u

/-- R156: the PU is sealed by count once its ingress count reaches S. -/
def sealIfFull (s : State) (u : Nat) : State :=
  let e := puAt s u
  if e.size ≤ e.ing then sealPu s u 0 else s

/-- R155, R452: `n` bytes join the ingress count of a PU, and its residue. -/
def ingAdd (e : Pu) (n : Nat) : Pu := { e with ing := e.ing + n, ingRes := resAdd e.ingRes (residue n) }

/-- The ingress count of PU `u` against its residue. -/
def ingCheck (s : State) (u : Nat) : State := resCheck s (puAt s u).ingRes (puAt s u).ing 0x282 (puAt s u).window

/-- R154: a denied placement write: counted, the PU BROKEN with the count before it, and the member FAILED. -/
def placeDenied (s : State) (u : Nat) (c : Cell) : State :=
  let e := puAt s u
  let s := ingCheck (puSet s u { ingAdd e (enabledBytes c.pk) with broken := true, cause := 6, brk := e.ing, cls := e.cls.or (some c.cls) }) u
  let s := raise (inc s AWT_DENY e.pool) 0x285 (e.pool * 64 + e.member)
  let s := memberFail s e.pool e.member 6
  sealIfFull (creditBack s c.inp c.cls c.pk) u

/-- R153: the write goes to its member's buffer, counted into the PU: to a local port after the check of the rewritten
address, to a remote member with a PLACED header. -/
def placeSend (s : State) (u : Nat) (c : Cell) (off : Nat) : State :=
  let e := puAt s u
  let a := moveAddr (off % e.size) 0 e.bufAddr
  let s := moveCheck s (off % e.size) 0 e.bufAddr 0x282 e.window
  let e' := { ingAdd e (enabledBytes c.pk) with cls := e.cls.or (some c.cls) }
  match e.remote with
  | some d =>
    let h := newHdr s d e.port c.pt c.cls e.hash true
    let s := ingCheck (puSet s u e') u
    sealIfFull (toDevice s d { c with pk := { c.pk with addr := BitVec.ofNat 64 a, fab := some h }, pu := some (lifeKey u e) }) u
  | none =>
    let owner := portPt s e.port
    let r := accReq c a (spanOf c.pk) owner false .write
    match awtCheck s r with
    | .deny d => placeDenied (overlapRaise s d) u c
    | .permit i =>
      let pk := awtAttrs s i { c.pk with addr := BitVec.ofNat 64 a, fab := none }
      let s := awtTrack (ingCheck (puSet s u e') u) c owner
      sealIfFull (storeTo s e.port { c with pk := pk, pu := some (lifeKey u e) }) u

/-- A write to a PU in OPEN or GRACE: to a BROKEN one it is counted and discarded (R166). -/
def placeCount (s : State) (u : Nat) (c : Cell) (off : Nat) : State :=
  let e := puAt s u
  if e.broken then
    let s := inc (ingCheck (puSet s u (ingAdd e (enabledBytes c.pk))) u) BROKEN_DISC e.window
    sealIfFull (creditBack s c.inp c.cls c.pk) u
  else placeSend s u c off

/-- R157: a write to a sealed PU. -/
def placeLate (s : State) (u : Nat) (c : Cell) : State :=
  let e := puAt s u
  let s := raise (creditBack (inc s LATE_DISC e.window) c.inp c.cls c.pk) 0x288 e.window
  if e.late then s else
  recEvent (puSet s u { e with late := true }) u
    { (puRec u e) with type := 3, status := 0, sealR := 0, cause := 0, bytes := enabledBytes c.pk, pu := none }

/-- A write as its PU holds it. -/
def heldWr (s : State) (c : Cell) (off : Nat) (sealWr : Bool) : HeldWr :=
  { inp := c.inp, cls := c.cls, pk := c.pk, pt := c.pt, off := off, slice := c.slice, since := s.now, sealWr := sealWr }

/-- The write waits for its PU, its credit withheld (R148, R150). -/
def placeHold (s : State) (u : Nat) (c : Cell) (off : Nat) (sealWr : Bool) : State :=
  let e := puAt s u
  puSet s u { e with held := e.held ++ [heldWr s c off sealWr] }

/-- A FREE entry `u` takes the place that it has in window `w`, of which it is the `k`-th. -/
def puPlace (s : State) (w u k : Nat) : State :=
  if (puAt s u).state == 0 then
    puSet s u { (puAt s u) with window := w, head := k / winD s w, slot := k % winD s w, pool := rd s PLC_WIN_CTL_POOL w }
  else s

/-- A posted write at offset `x` of enabled window `w` (R135, R148, R150, R153, R157). While the placement block is in
BLOCK reset, or the AWT, or the fabric for a remote member, the write is held (Table 17-3). -/
def placeWrite (s : State) (w x : Nat) (c : Cell) : State :=
  let sz := winS s w
  let k := x / sz
  let u := rd s PLC_WIN_GEOM_PUBASE w + k
  let off := x % sz
  let s := puPlace s w u k
  let e := puAt s u
  if inBlockReset s 5 || inBlockReset s 6 || (inBlockReset s 10 && e.remote.isSome) then placeHold s u c off false else
  let hold := fun (s : State) => if e.drop then missDiscard s u [heldWr s c off false] else placeHold s u c off false
  match e.state with
  | 0 =>
    if bit s PLC_WIN_CTL_TICK_BOUND w then hold s
    else placeHold (puSet s u { e with state := 1, ready := devTime s, noMem := false, redo := false }) u c off false
  | 1 => hold s
  | 2 => placeCount s u c off
  | 3 => placeCount s u c off
  | _ => placeLate s u c

/-! ### Seal writes (R158, R159) -/

/-- R158: PU (head, slot) of window `w` is sealed with expected count `x`; false where it is in no state for it. -/
def sealNamed (s : State) (w head slot x : Nat) : State × Bool :=
  let u := rd s PLC_WIN_GEOM_PUBASE w + head * winD s w + slot
  let e := puAt s u
  if bit s PLC_WIN_CTL_EN w && head < winH s w && slot < winD s w && e.window == w && (e.state == 2 || e.state == 3) then
    (sealPu (puSet s u { e with mismatch := x != 0 && x != e.ing }) u 1, true)
  else (inc s SEAL_IGN w, false)

/-- R158, R159, R425: a posted write at offset `off` of window `w`'s seal page. It waits behind the writes of its port that are still held for
the PU it names, and while the placement block is in BLOCK reset (Table 17-3); in DRAIN every one is discarded. -/
def sealWrite (s : State) (w off : Nat) (c : Cell) : State :=
  let d := c.pk.data
  let head := off / 8
  let slot := leNat (d.take 1) % 64
  let k := head * winD s w + slot
  let u := rd s PLC_WIN_GEOM_PUBASE w + k
  let good := d.length = 8 && c.pk.fbe = 15 && c.pk.lbe = 15 && off % 8 = 0 && mode s != mDRAIN
  if !good then inc (creditBack s c.inp c.vl c.pk) SEAL_IGN w
  else if bit s PLC_WIN_CTL_EN w && head < winH s w && slot < winD s w
      && (inBlockReset s 5 || (puAt s u).held.any (fun h => h.inp == c.inp)) then placeHold (puPlace s w u k) u c off true
  else (sealNamed (creditBack s c.inp c.vl c.pk) w head slot (leNat (d.drop 4))).1

/-- The whole write of `data` at `off` in the seal page of window `w`, in class 0. -/
def sealPkt (s : State) (w off : Nat) (data : Bytes) : Packet :=
  { kind := .posted, op := .memWrite, addr := BitVec.ofNat 64 (rd s PLC_WIN_SEAL_PAGE w * 4096 + off), len := data.length,
    data := data, fbe := 15, lbe := 15, tc := 0, rid := 0, tag := 0, pasid := none, status := .ok, lastPiece := true,
    ro := false, ido := false, ns := false, tph := none, selIde := false, translated := false, fab := none, notice := none }

/-- SEAL_WRITE (R158): nothing where the window has no seal page in force. On a T-link it arrives in virtual lane 0. -/
def execSealWrite (p : Fin 64) (w : Fin 256) (off : BitVec 12) (data : Bytes) (s : State) : Res :=
  .next (if linkUp s p && bit s PLC_WIN_CTL_EN w && bit s PLC_WIN_SEAL_SEAL_EN w then
      let pk := sealPkt s w off.toNat data
      let s := if isTlink s p then
          wr s WLT_VL_STAT2_RX_OCC (p * 8) (rd s WLT_VL_STAT2_RX_OCC (p.val * 8) + stitchesOf pk) else s
      sealWrite s w off.toNat { inp := p, cls := 0, pt := portPt s p, pk := pk }
    else s)

/-- The held writes of PU `u` are looked up again in arrival order. -/
def rehold (s : State) (u : Nat) : State :=
  let e := puAt s u
  forEach e.held (puUnhold s u) (fun s h =>
    let c : Cell := { inp := h.inp, cls := h.cls, pt := h.pt, pk := h.pk, slice := h.slice }
    if h.sealWr then sealWrite s e.window h.off c
    else placeWrite s e.window ((u - rd s PLC_WIN_GEOM_PUBASE e.window) * winS s e.window + h.off) c)

/-- Decisions are made: Clickers run in full (R152, Table 2-1), and the placement block is not in BLOCK reset. -/
def decides (s : State) : Bool := running s && !inBlockReset s 5 && !inBlockReset s 6

/-- R144, R148, R149: the decision for a PU in ASSIGNING; without a member the PU stays, with one its entry is written, OPEN (Table 6-1), and
the held writes are released. Nothing while its pool is not served. -/
def puDecide (s : State) (u : Nat) : State :=
    let e := puAt s u
    if e.state != 1 || !decides s then s else
    let p := if e.redo then rd s PLC_WIN_CTL_POOL e.window else e.pool
    if (servedBy s (rd s PLC_POOL_CTL_CLUSTER p)).isNone then s else
    let sz := winS s e.window
    let tb := bit s PLC_WIN_CTL_TICK_BOUND e.window
    match decide' s p e.window e.head (if tb then e.ready else devTime s) sz with
    | (s, none) =>
      let s := raise (inc (puSet s u { e with pool := p, redo := true }) NO_MEMBER p) 0x286 p
      if e.noMem then s else
      puEvent (puSet s u { (puAt s u) with noMem := true }) u 4 (if tb then e.tick else rd s LCE_TICK_NOW) 0
    | (s, some ch) =>
      let x := member s p ch.m
      let tick := if tb then e.tick else rd s LCE_TICK_NOW
      let e' : Pu := { e with
        state := 2, broken := false, cause := 0, sealR := 0, lateRisk := ch.late, member := ch.m, pool := p,
        hash := crcOf [e.window, e.head, e.slot, tick % 256, 0, 0, 0, 0] % 256, tick := tick, bufTag := ch.tag, bufAddr := ch.addr,
        ing := 0, ingRes := 0, egr := 0, brk := 0, life := e.life + 1, size := sz, cls := none, port := x.port,
        remote := if x.remote then some x.dev else none, mismatch := false, late := false, miss := false,
        drop := false, due := false, redo := false, again := false }
      rehold (puSet s u e') u

/-- PU_DECISION_DONE (R148, R149). -/
def execPuDecisionDone (u : Fin 65536) (s : State) : Res := .next (puDecide s u)

/-- MISS_HOLD_EXPIRY (R150): the writes held for the PU are discarded; outside a tick-bound window the PU returns to
FREE, in one later writes are discarded at once. -/
def execMissHoldExpiry (u : Fin 65536) (s : State) : Res :=
  .next (
    let e := puAt s u
    if e.held.isEmpty || 1 < e.state then s else
    let s := missDiscard (puUnhold s u) u e.held
    if bit s PLC_WIN_CTL_TICK_BOUND e.window then puSet s u { (puAt s u) with drop := true }
    else if e.state == 1 then puFree s u true else s)

/-! ### Grace end -/

/-- GRACE_EXPIRY (R156): a PU in GRACE is sealed with reason TICK; in QUIESCE and DRAIN grace timers stand (R152, R425). -/
def execGraceExpiry (u : Fin 65536) (s : State) : Res :=
  .next (if (puAt s u).state == 3 && mode s != mQUIESCE && mode s != mDRAIN then sealPu s u 2 else s)

/-! ### Enabling windows (R137, R140) -/

/-- PU entries of window `w`: first, and one past the last. -/
def puRange (s : State) (w : Nat) : Nat × Nat :=
  (rd s PLC_WIN_GEOM_PUBASE w, rd s PLC_WIN_GEOM_PUBASE w + winH s w * winD s w)

/-- The address ranges that window `w` takes: its own, and its seal page. -/
def winRanges (s : State) (w : Nat) : List (Nat × Nat) :=
  (rd s PLC_WIN_BASE w, rd s PLC_WIN_BASE w + winLen s w) ::
    (if bit s PLC_WIN_SEAL_SEAL_EN w then [(rd s PLC_WIN_SEAL_PAGE w * 4096, rd s PLC_WIN_SEAL_PAGE w * 4096 + 4096)] else [])

/-- Two ranges share a byte. -/
def meets (a b : Nat × Nat) : Bool := max a.1 b.1 < min a.2 b.2

/-- The first check of R137 that window `w` fails, 0 if none. -/
def windowErr (s : State) (w : Nat) : Nat :=
  let p := rd s PLC_WIN_CTL_POOL w
  let r := puRange s w
  let active := setIdx s PLC_WIN_STATUS_ACTIVE
  if rd s PLC_WIN_BASE w % winS s w != 0 then 1
  else if winS s w != poolS s p then 2
  else if 65536 < r.2 || active.any (fun v => meets r (puHeld s v)) then 3
  else if (setIdx s PLC_WIN_CTL_EN).any (fun v => v != w && bit s PLC_WIN_CTL_GLOBAL v == bit s PLC_WIN_CTL_GLOBAL w
      && (bit s PLC_WIN_CTL_GLOBAL w || rd s PLC_WIN_CTL_PARTITION v == rd s PLC_WIN_CTL_PARTITION w)
      && (winRanges s v).any (fun a => (winRanges s w).any (meets a))) then 4
  else if bit s PLC_WIN_CTL_TICK_BOUND w && (winD s w - 1) * rd s LCE_TICK_MIN ≤ rd s PLC_WIN_TIMING_GRACE w * 1000 then 5
  else if !bit s PLC_POOL_CTL_EN p || (!bit s PLC_WIN_CTL_GLOBAL w && rd s PLC_POOL_CTL_PARTITION p != rd s PLC_WIN_CTL_PARTITION w) then 6
  else 0

/-- R137: EN is written to 1. -/
def windowOn (s : State) (w : Nat) : State :=
  if bit s PLC_WIN_CTL_EN w then s else
  let err := windowErr s w
  let s := wr s PLC_WIN_STATUS_ERR w err
  if err != 0 then s else
  let r := puRange s w
  let s := plcUpd s (fun x => { x with range := nput x.range w r, pu := x.pu.map (fun e =>
    if r.1 ≤ e.1 && e.1 < r.2 then (e.1, { life := e.2.life, window := w }) else e) })
  plcStatus (wr (wr s PLC_WIN_CTL_EN w 1) PLC_WIN_STATUS_ACTIVE w 1)

/-- R140: EN is written to 0. -/
def windowOff (s : State) (w : Nat) : State :=
  if !bit s PLC_WIN_CTL_EN w then s else
  let s := wr s PLC_WIN_CTL_EN w 0
  let s := forEach (s.plc.pu.filter (fun e => e.2.window == w)) s (fun s e =>
    let u := e.1
    if e.2.state == 2 || e.2.state == 3 then sealPu s u 3
    else if e.2.state ≤ 1 then puFree (missDiscard (puUnhold s u) u e.2.held) u true
    else s)
  plcStatus (winIdle s w)

/-- WINDOW_ENABLE (R137). -/
def execWindowEnable (m : Master) (w : Fin 256) (s : State) : Res :=
  .next (asMaster s m PLC_WIN_CTL_EN.off (fun s => windowOn s w))

/-- WINDOW_DISABLE (R140). -/
def execWindowDisable (m : Master) (w : Fin 256) (s : State) : Res :=
  .next (asMaster s m PLC_WIN_CTL_EN.off (fun s => windowOff s w))

/-! ### APPLY and LOAD (R143) -/

/-- R143: the staging copy names a target that APPLY refuses. -/
def applyBad (s : State) : Bool :=
  let p := rd s PLC_MBR_CTL_PORT
  if bit s PLC_MBR_CTL_REMOTE then rd s PLC_MBR_CTL_DEV == devId s || rd s GLB_MODE_REQ_LAYOUT != 2
  else isTlink s p || bit s PRT_CFG_DIR p || !bit s PTN_CFG_EN (portPt s p)

/-- The staging copy as a member. -/
def staged (s : State) : Member :=
  { state := rd s PLC_MBR_CTL_STATE, kind := rd s PLC_MBR_CTL_KIND, remote := bit s PLC_MBR_CTL_REMOTE,
    port := rd s PLC_MBR_CTL_PORT, dev := rd s PLC_MBR_CTL_DEV, weight := rd s PLC_MBR_CTL_WEIGHT, addr := rd s PLC_MBR_ADDR,
    v := rd s PLC_MBR_SIZE_V, km1 := rd s PLC_MBR_SIZE_KM1, cost := rd s PLC_MBR_COST, db := rd s PLC_MBR_DB,
    credits := rd s PLC_MBR_SIZE_KM1 + 1 }

/-- R143, R178: APPLY; STATE = FAILED fails the member with cause 5 (R165). -/
def memberApply (s : State) : State :=
  if applyBad s then wr s PLC_MBR_CMD_STATUS 0 2 else
  let p := rd s PLC_MBR_SEL_POOL
  let m := rd s PLC_MBR_SEL_MEMBER
  let x := staged s
  let was := member s p m
  let s := wr s PLC_MBR_CMD_STATUS 0 0
  let s := memberSet s p m { x with state := if x.state == 2 then (if was.state == 2 then 2 else 0) else x.state,
                                    cause := if x.state == 2 then was.cause else 0 }
  let s := plcUpd s (fun y => { y with
    cur := nset 0 y.cur (p * 64 + m) 0, busy := nset 0 y.busy (p * 64 + m) 0, bound := nput y.bound x.db (p * 64 + m) })
  if x.state == 2 then memberFail s p m 5 else s

/-- R143: LOAD. -/
def memberLoad (s : State) : State :=
  let x := member s (rd s PLC_MBR_SEL_POOL) (rd s PLC_MBR_SEL_MEMBER)
  let s := wr (wr (wrb s PLC_MBR_CTL_REMOTE 0 x.remote) PLC_MBR_CTL_STATE 0 x.state) PLC_MBR_CTL_KIND 0 x.kind
  let s := wr (wr (wr s PLC_MBR_CTL_PORT 0 x.port) PLC_MBR_CTL_DEV 0 x.dev) PLC_MBR_CTL_WEIGHT 0 x.weight
  let s := wr (wr (wr s PLC_MBR_ADDR 0 x.addr) PLC_MBR_SIZE_V 0 x.v) PLC_MBR_SIZE_KM1 0 x.km1
  wr (wr (wr s PLC_MBR_COST 0 x.cost) PLC_MBR_DB 0 x.db) PLC_MBR_CMD_STATUS 0 0

/-- MEMBER_APPLY (R143). -/
def execMemberApply (m : Master) (s : State) : Res := .next (asMaster s m PLC_MBR_CMD_APPLY.off memberApply)

/-- MEMBER_LOAD (R143). -/
def execMemberLoad (m : Master) (s : State) : Res := .next (asMaster s m PLC_MBR_CMD_LOAD.off memberLoad)

/-- REMOTE_PATH_TIMEOUT (R165 code 7): a remote member whose device has no next hop fails. -/
def execRemotePathTimeout (pool : Fin 1024) (mb : Fin 64) (s : State) : Res :=
  .next (let x := member s pool mb
    if x.remote && !devReach s x.dev then memberFail s pool mb 7 else s)

/-- R174: a BLOCK reaction of the placement block: PUs in OPEN to FLUSH become BROKEN with cause 8; those sealed have
their records due. -/
def placeBlock (s : State) : State :=
  forEach (s.plc.pu.filter (fun e => 2 ≤ e.2.state && e.2.state ≤ 5 && !e.2.broken)) s (fun s e => puBreak s e.1 8)

/-- Table 17-3: at the release of the placement block, the AWT or the fabric the writes held during its reset are looked up. -/
def placeRelease (s : State) : State :=
  forEach (s.plc.pu.filter (fun e => e.2.held != [])) s (fun s e => rehold s e.1)

end Sys2Proof.Machine
end

