-- ==== Sys2Proof/Machine/Forward.lean ====
section
/-! DEFINITION. The lookup stage of R25: the path of a request or completion inside its partition, through crossing
windows, apertures, exports and placement windows, with the access checks of Table 14-2 and the proxy identities of R330. -/

namespace Sys2Proof.Machine

/-! ### Return entries (R330 to R332) -/

/-- The number of tag values that the link of port `p` lets a requester use (R332): 14 bits in Flit Mode, else 10 bits
where the bridge's 10-bit Tag Requester Enable is set, else 8. -/
def tagValues (s : State) (p : Nat) : Nat :=
  if bit s PRT_STATUS_FLIT p then 16384 else if cfgGet s (portFn s p) 38 / 4096 % 2 == 1 then 1024 else 256

/-- A free proxy tag of port `p`, if neither the pool nor the port is at its limit; tags of FLRs that are out (R351) are not free. -/
def freeProxy (s : State) (p : Nat) : Option Nat :=
  let n := retUse s p
  if 16384 ≤ s.fab.ret.length || rd s FAB_RET_LIM ≤ n || tagValues s p ≤ n then none
  else (List.range (min (n + 1 + s.fab.vfFlr.length) (tagValues s p))).find? (fun t => (nget? s.fab.ret (p * 16384 + t)).isNone && !s.fab.vfFlr.contains t)

/-- A request takes return entry `t` of port `o` and leaves with that port's proxy identity (R330). -/
def proxyTake (s : State) (o t : Nat) (c : Cell) : State :=
  let e : RetEnt := { part := c.pt, tc := c.cls, rid := c.pk.rid.toNat, tag := c.pk.tag.toNat, inp := c.inp, fab := c.pk.fab,
                      xw := c.xw, at' := s.now, started := false, quar := false }
  let s := retCount (fabUpd s (fun x => { x with ret := nput x.ret (o * 16384 + t) e })) o
  storeTo s o { c with pk := { c.pk with rid := BitVec.ofNat 16 (bridgeRid s o), tag := BitVec.ofNat 14 t, fab := none }, ret := true }

/-- A request leaves on port `o` of another partition, or as delivered from the fabric, with the proxy identity of that
port's bridge; a non-posted one takes a return entry or waits for one (R330). -/
def proxyTo (s : State) (o : Nat) (c : Cell) : State :=
  if c.pk.kind = .nonPosted then
    match freeProxy s o with
    | none =>
      let (s, n) := takeSeq s
      fabUpd s (fun x => { x with retWait := x.retWait ++ [⟨o, c.inp, c.cls, c.pt, c.pk, c.slice, c.xw, s.now, n, c.vl⟩] })
    | some t => proxyTake s o t c
  else storeTo s o { c with pk := { c.pk with rid := BitVec.ofNat 16 (bridgeRid s o), fab := none } }

/-- Requests that wait for a return entry take one, oldest first; the wait counts in RET_FULL. What waited behind them may store. -/
def retRetry (s : State) : State :=
  release (forEach s.fab.retWait s (fun s w =>
    match freeProxy s w.outp with
    | none => s
    | some t =>
      let s := inc (holdCount s w.inp) RET_FULL 0 ((s.now - w.since) / 1000)
      proxyTake (fabUpd s (fun x => { x with retWait := x.retWait.filter (fun y => y.seq != w.seq) })) w.outp t
        { inp := w.inp, cls := w.cls, pt := w.pt, pk := w.pk, slice := w.slice, xw := w.xw, vl := w.vl, seq := some w.seq }))

/-- The return entry of port `p` and tag `t` is freed. -/
def retFree (s : State) (p t : Nat) : State := retRetry (retDel s p t)

/-- R331, R367: a completion for a proxy tag gets its requester back and returns the way the request came: to another part
with a header, to the input otherwise. Completions for entries freed by a PART reset are late (R352). -/
def proxyReturn (s : State) (p : Nat) (pk : Packet) (e : RetEnt) : State :=
  let k := p * 16384 + pk.tag.toNat
  if e.quar then inc s PART_LATE (portPt s p) else
  let s := fabUpd s (fun x => { x with ret := nput x.ret k { e with started := true } })
  let pk' := { pk with rid := BitVec.ofNat 16 e.rid, tag := BitVec.ofNat 14 e.tag }
  let s := match e.fab with
    | some h =>
      let d := h.srcDev.toNat
      let h' := newHdr s d 0 e.part e.tc (flowHash s (devId s) d e.part e.tc e.rid) false
      toDevice s d { inp := p, cls := e.tc, pt := e.part, pk := { pk' with fab := some h' } }
    | none => storeTo s e.inp { inp := p, cls := e.tc, pt := e.part, pk := { pk' with fab := none } }
  if pk.lastPiece then retFree s p pk.tag.toNat else s

/-! ### Global requests (R327 to R329) -/

/-- R383: the attributes that entry `i` gives the packet of a cell, but for those that R28 and R161 keep clear. -/
def cellAttrs (s : State) (i : Nat) (c : Cell) : Packet :=
  if c.bare then c.pk else if c.noRo then { awtAttrs s i c.pk with ro := false } else awtAttrs s i c.pk

/-- The access check of a cross-partition, fabric or remapped request (Table 14-2), and what follows where it passes; while
the AWT is in BLOCK reset the request stalls (Table 17-3). -/
def withAwt (s : State) (c : Cell) (addr owner : Nat) (glob : Bool) (k : State → Cell → State) : State :=
  let r := accReq c addr (spanOf c.pk) owner glob (needOf c.pk)
  if inBlockReset s 6 then fabUpd s (fun x => { x with stall := true }) else
  match awtCheck s r with
  | .deny d => awtRefuse s c r d
  | .permit i => k (awtTrack s c owner) { c with pk := cellAttrs s i c }

/-- A placement window takes a posted write (R139, R253). -/
def intoWindow (s : State) (w x : Nat) (c : Cell) : State :=
  if c.pk.selIde then turnAway (if c.inp < 64 then inc s IDE_REFUSE c.inp else s) c .ur
  else if c.pk.op = .memWrite then placeWrite s w x c
  else turnAway (inc s WIN_NP w) c .ur

/-- A seal page takes a posted write (R139, R158). -/
def intoSeal (s : State) (w off : Nat) (c : Cell) : State :=
  if c.pk.selIde then turnAway (if c.inp < 64 then inc s IDE_REFUSE c.inp else s) c .ur
  else if c.pk.op = .memWrite then
    sealWrite s w off c
  else turnAway (inc s WIN_NP w) c .ur

/-- R329: a global request addressed to this part: placement window, export, or miss. A spine takes none (Table 12-2). -/
def takeGlobal (s : State) (c : Cell) : State :=
  let g := c.pk.addr.toNat
  let p := g / 2 ^ 52 % 64
  let off := g % 2 ^ 52
  if !leaf s then noRoute s (devId s) c else
  match windowAt s true 0 g, sealAt s true 0 g with
  | some (w, x), _ => intoWindow s w x c
  | none, some (w, o) => intoSeal s w o c
  | none, none =>
    if bit s FAB_EXP_EN p && off < 2 ^ rd s FAB_EXP_K p then
      let a := moveAddr off 0 (rd s FAB_EXP_BASE p)
      withAwt (moveCheck s off 0 (rd s FAB_EXP_BASE p) 0x50D p) { c with pk := { c.pk with addr := BitVec.ofNat 64 a } } a (rd s FAB_EXP_PARTITION p) false (fun s c => proxyTo s p c)
    else turnAway (inc s EXP_MISS) c .ur

/-- R328: a request for global address `g` of a requester of this part. -/
def globalReq (s : State) (g : Nat) (c : Cell) : State :=
  let d := g / 2 ^ 58
  let c := { c with pk := { c.pk with addr := BitVec.ofNat 64 g } }
  if d == devId s then takeGlobal s c else
  let h := newHdr s d (g / 2 ^ 52 % 64) c.pt c.cls (flowHash s (devId s) d c.pt c.cls c.pk.rid.toNat) false
  toDevice s d { c with pk := { c.pk with fab := some h } }

/-- R328: the enabled aperture of partition `n` that holds address `a`. -/
def gapIdx (s : State) (n a : Nat) : Option Nat :=
  ((List.range 4).map (n * 4 + ·)).find? (fun i =>
    bit s FAB_GAP_EN i && rd s FAB_GAP_BASE i ≤ a && a < rd s FAB_GAP_BASE i + 2 ^ rd s FAB_GAP_K i)

/-- R328: the global address that an aperture of partition `n` gives address `a`. -/
def gapAt (s : State) (n a : Nat) : Option Nat := (gapIdx s n a).map (fun i => moveAddr a (rd s FAB_GAP_BASE i) (rd s FAB_GAP_GBASE i))

/-- The residue check of that translation. -/
def gapCheck (s : State) (n a : Nat) : State :=
  match gapIdx s n a with
  | some i => moveCheck s a (rd s FAB_GAP_BASE i) (rd s FAB_GAP_GBASE i) 0x50D i
  | none => s

/-- R367: the live crossing window of partition `n` that holds address `a`. -/
def xwAt (s : State) (n a : Nat) : Option (Nat × XWin) :=
  s.fab.xw.find? (fun e => e.2.en && e.2.src == n && e.2.base ≤ a && a < e.2.base + 2 ^ e.2.k)

/-! ### Inside a partition -/

/-- Where a request enters its partition. -/
inductive Origin where
  | up
  | down (p : Nat)
  | vf (p : Nat)
  | clicker
deriving DecidableEq, Repr

/-- The ACS Control bits of the downstream bridge `f` (base specification: bits 22:16 of the double word at 0x14C). -/
def acsBit (s : State) (f i : Nat) : Bool := (cfgGet s f 83).testBit (16 + i)

/-- What ACS at the ingress bridge makes of a peer-to-peer request (Table 9-1): blocked, redirected, or direct. -/
inductive AcsWay where
  | block | redirect | direct
deriving DecidableEq, Repr

/-- ACS at bridge `f` for a peer-to-peer request to port `o`: P2P Request Redirect, P2P Egress Control, Direct Translated
P2P (base specification). A shared bridge has no egress control (R355). -/
def acsP2P (s : State) (f o : Nat) (shared : Bool) (pk : Packet) : AcsWay :=
  if pk.translated && acsBit s f 6 then .direct
  else if !shared && acsBit s f 5 && (cfgGet s f (84 + o / 32)).testBit (o % 32) then
    if acsBit s f 2 then .redirect else .block
  else if acsBit s f 2 then .redirect else .direct

/-- A peer-to-peer transaction that came in at port `p` is routed back to it: with ACS Upstream Forwarding it goes up, else it is turned away. -/
def backOut (s : State) (n p : Nat) : Bool := acsBit s (fnDown n p) 4

/-- ACS Source Validation and Translation Blocking at bridge `f`. -/
def acsBlocks (s : State) (f : Nat) (pk : Packet) : Bool :=
  (acsBit s f 0 && !bridgeBus s f (pk.rid.toNat / 256)) || (acsBit s f 1 && pk.translated && !acsBit s f 6)

/-- The part's own BARs of partition `n`: Clicking BAR0 and BAR2, and the manager's in the manager partition. -/
def ownBar (s : State) (n a : Nat) : Bool :=
  inBar s (fnClick n) 0 (2 ^ 24) a || inBar s (fnClick n) 2 65536 a
    || (rd s PTN_CTL_MGR_PT == n && (inBar s fnMgr 0 (2 ^ 28) a || inBar s fnMgr 2 65536 a))

/-- To the upstream port of partition `n`, or turned away where it has none; a partition in reset answers as R352 says. -/
def toUp (s : State) (n : Nat) (c : Cell) : State :=
  match upPort s n with
  | some u => storeTo s u c
  | none =>
    if partInReset s n && c.pk.kind = .posted then creditBack (inc s PART_DISC n) c.inp c.vl c.pk else turnAway s c .ur

/-- A check under AWT_SCOPE where `on`, else none (Table 14-2). -/
def scopeChk (s : State) (on : Bool) (c : Cell) (n : Nat) (k : State → Cell → State) : State :=
  if on then withAwt s c c.pk.addr.toNat n false k else k s c

/-- The path of a memory request inside partition `n` once no window of it takes it: bridges, own BARs (R533), upstream
port. A shared bridge's port is always checked (Table 14-2). -/
def bridgeReq (s : State) (n : Nat) (fr : Origin) (c : Cell) : State :=
  let a := c.pk.addr.toNat
  match memPort s n a with
  | some o =>
    let shared := portPt s o != n
    match fr with
    | .up => scopeChk s (shared || bit s AWT_SCOPE_DOWN n) c n (fun s c => storeTo s o c)
    | .clicker => scopeChk s shared c n (fun s c => storeTo s o c)
    | .vf _ => withAwt s c a n false (fun s c => storeTo s o c)
    | .down p =>
      if o = p then (if backOut s n p then scopeChk s (bit s AWT_SCOPE_UP n) c n (fun s c => toUp s n c) else turnAway s c .ur) else
      match acsP2P s (fnDown n p) o shared c.pk with
      | .block => turnAwayQuiet (aerLog s p n 21 c.pk) c .ca
      | .redirect => scopeChk s (bit s AWT_SCOPE_UP n) c n (fun s c => toUp s n c)
      | .direct => scopeChk s (shared || bit s AWT_SCOPE_P2P n) c n (fun s c => storeTo s o c)
  | none =>
    if ownBar s n a then turnAway s c .ur else
    match fr with
    | .up => turnAway s c .ur
    | .clicker => toUp s n c
    | .vf _ => withAwt s c a n false (fun s c => toUp s n c)
    | .down _ => scopeChk s (bit s AWT_SCOPE_UP n) c n (fun s c => toUp s n c)

/-- The part of R367 that follows the check: into the target partition by its bridges or its upstream port, with a proxy
identity. -/
def intoPartition (s : State) (n : Nat) (c : Cell) : State :=
  match memPort s n c.pk.addr.toNat with
  | some o => proxyTo s o c
  | none =>
    if ownBar s n c.pk.addr.toNat then turnAway s c .ur else
    match upPort s n with
    | some u => if partInReset s n then toUp s n c else proxyTo s u c
    | none => toUp s n c

/-- A memory request of partition `n` (R135, R158, R253, R328, R367, then the bridges). -/
def memReq (s : State) (n : Nat) (fr : Origin) (c : Cell) : State :=
  let a := c.pk.addr.toNat
  match windowAt s false n a, sealAt s false n a, xwAt s n a, (if leaf s then gapAt s n a else none) with
  | some (w, x), _, _, _ => intoWindow s w x c
  | none, some (w, o), _, _ => intoSeal s w o c
  | none, none, some (x, v), _ =>
    if c.pk.selIde then turnAway (if c.inp < 64 then inc s IDE_REFUSE c.inp else s) c .ur else
    if inBlockReset s 7 then fabUpd s (fun x => { x with stall := true }) else
    let a' := moveAddr a v.base v.addr
    let s := inc (moveCheck s a v.base v.addr 0x383 x) PTN_XW_PKTS x
    let c := { c with pk := { c.pk with addr := BitVec.ofNat 64 a' }, xw := some x }
    withAwt s c a' (if v.glob then n else v.tgt) v.glob (fun s c =>
      if v.glob then globalReq s a' c else intoPartition s v.tgt c)
  | none, none, none, some g =>
    withAwt (gapCheck s n a) { c with pk := { c.pk with addr := BitVec.ofNat 64 g } } g n true (fun s c => globalReq s g c)
  | none, none, none, none => bridgeReq s n fr c

/-- An I/O request of partition `n`: in an aperture it gets Unsupported Request (R326). -/
def ioReq (s : State) (n : Nat) (fr : Origin) (c : Cell) : State :=
  let a := c.pk.addr.toNat
  if leaf s && (gapAt s n a).isSome then turnAway s c .ur else
  match ioPort s n a, fr with
  | some o, .down p =>
    if o = p then (if backOut s n p then toUp s n c else turnAway s c .ur) else
    (match acsP2P s (fnDown n p) o (portPt s o != n) c.pk with
    | .block => turnAwayQuiet (aerLog s p n 21 c.pk) c .ca
    | .redirect => toUp s n c
    | .direct => storeTo s o c)
  | some o, _ => storeTo s o c
  | none, .up => turnAway s c .ur
  | none, _ => toUp s n c

/-- The tag width of the Clicking function of partition `n` (R197): that of its upstream link in Flit Mode, else 10 bits
where 10-bit tags are enabled, else 8. -/
def tagBits (s : State) (n : Nat) : Nat :=
  if (upPort s n).any (fun u => bit s PRT_STATUS_FLIT u) then 14 else if cfgGet s (fnClick n) 38 / 4096 % 2 == 1 then 10 else 8

/-- The cluster whose range holds tag `t` of partition `n` (R197). -/
def tagCluster (s : State) (n t : Nat) : Nat := t / (2 ^ tagBits s n / 8) % 8

/-- The output of a completion of partition `n` for a requester below port `o`: its own port's, or, from another downstream port, upstream where ACS
P2P Completion Redirect is set and Relaxed Ordering is not; back to its own port none, or upstream with Upstream Forwarding. -/
def cplPort (s : State) (n o : Nat) (c : Cell) : Option Nat :=
  if 64 ≤ c.inp || isTlink s c.inp || isUpstream s c.inp || portPt s c.inp != n then some o
  else if o = c.inp then (if backOut s n c.inp then upPort s n else none)
  else if acsBit s (fnDown n c.inp) 3 && !c.pk.ro then upPort s n else some o

/-- A completion that no requester of partition `n` expects is discarded and logged (R247). -/
def cplStray (s : State) (n : Nat) (c : Cell) : State := creditBack (aerLog s c.inp n 16 c.pk) c.inp c.vl c.pk

/-- A completion inside partition `n`, by its requester ID: to a cluster, a remapped VF, a bridge's bus, or upstream. -/
def cplIn (s : State) (n : Nat) (c : Cell) : State :=
  let rid := c.pk.rid.toNat
  if rid == clickRid s n && (nget? s.rng.tags (n * 16384 + c.pk.tag.toNat)).isSome then
    storeTo s (64 + tagCluster s n c.pk.tag.toNat) c
  else match guestAt s n rid with
    | some i => storeTo s (rd s PTN_RID_PORT i) { c with pk := { c.pk with rid := BitVec.ofNat 16 (rd s PTN_RID_RID_REAL i) } }
    | none =>
      match s.fab.ridOld.find? (fun e => e.1 == n && e.2.1 == rid) with
      | some e => storeTo s e.2.2.1 { c with pk := { c.pk with rid := BitVec.ofNat 16 e.2.2.2 } }
      | none =>
      match (match busPort s n (rid / 256) with
        | some o => cplPort s n o c
        | none => (upPort s n).filter (fun u => u != c.inp)) with
      | some o => storeTo s o c
      | none => cplStray s n c

end Sys2Proof.Machine
end

