-- ==== Sys2Proof/Machine/Rings.lean ====
section
/-! DEFINITION. Rings: queue pairs, tags, MSI-X, entries and records, doorbells, descriptor fetches, flush reads of PUs and
reads of members' buffer rings (07_rings_dma.md, 06_placement.md). Jobs are in Jobs.lean. -/

namespace Sys2Proof.Machine

/-- Rings changed by `f`. -/
def rngUpd (s : State) (f : Rings → Rings) : State := { s with rng := f s.rng }

/-! ### Queue pairs (R175 to R178) -/

/-- The key of a slice, and of a queue pair. -/
def sliceKey (pt sl : Nat) : Nat := pt * 1024 + sl
def qpKey (r : QPRef) : Nat := sliceKey r.pt r.sl * 256 + r.q

/-- The slice and the partition of queue pair `k`. -/
def qpSlice (k : Nat) : Nat := k / 256
def qpPart (k : Nat) : Nat := k / 256 / 1024

/-- Queue pair `k` exists in its slice (R361). -/
def qpLive (s : State) (k : Nat) : Bool := (nget? s.slices (qpSlice k)).any (fun x => k % 256 < x.qpCount)

/-- Queue pair `k` beside its registers. -/
def qpAt (s : State) (k : Nat) : Qp := nget s.rng.qp k {}
def qpSet (s : State) (k : Nat) (x : Qp) : State := rngUpd s (fun r => { r with qp := nset {} r.qp k x })

/-- STATE of queue pair `k`: 0 DISABLED, 1 ACTIVE, 2 HALTED, 3 ERROR, 4 STOPPING. -/
def qpState (s : State) (k : Nat) : Nat := rd s QP_STATUS_STATE k

/-- Ring sizes (R177). -/
def sqSize (s : State) (k : Nat) : Nat := 2 ^ (4 + rd s QP_CFG_SQ_SIZE k)
def cqSize (s : State) (k : Nat) : Nat := 2 ^ (4 + rd s QP_CFG_CQ_SIZE k)

/-- (a − b) mod n. -/
def ringDist (a b n : Nat) : Nat := (a % n + n - b % n) % n

/-- The cluster in RUN that serves slice `sk` (R401). -/
def sliceCluster (s : State) (sk : Nat) : Option Nat := (nget? s.slices sk).bind (fun x => servedBy s x.cluster)

/-- The PASID that a slice's requests carry (Table 13-4). -/
def slicePasid (s : State) (sk : Nat) : Option (BitVec 20) :=
  (nget? s.slices sk).bind (fun x => if x.pasidV then some (BitVec.ofNat 20 x.pasid) else none)

/-- Clickers do started work: RUN modes, DEGRADED, QUIESCE and DRAIN (Table 2-1), outside a BLOCK reset of
the blocks that their requests pass: AWT, partitions and fabric (Table 17-3). -/
def clickersOn (s : State) : Bool :=
  (running s || mode s == mQUIESCE || mode s == mDRAIN) && !inBlockReset s 6 && !inBlockReset s 7 && !inBlockReset s 10

/-- Engines fetch and start for partition `n`: not in QUIESCE, DRAIN, nor with the Clicking function in D3hot (R212, R244). -/
def starts (s : State) (n : Nat) : Bool := running s && clickersOn s && !inD3 s (fnClick n)

/-! ### Packets of the Clicking function -/

/-- The byte-enable mask for bytes `lo` to `hi − 1` of a double word. -/
def beMask (lo hi : Nat) : BitVec 4 := BitVec.ofNat 4 (2 ^ hi - 2 ^ lo)

/-- First and last byte enables of `n` bytes from address `a`. -/
def bes (a n : Nat) : BitVec 4 × BitVec 4 :=
  let e := a % 4 + n
  if n = 0 then (0, 0) else if e ≤ 4 then (beMask (a % 4) e, 0) else (beMask (a % 4) 4, beMask 0 ((e - 1) % 4 + 1))

/-- A packet of the Clicking function of partition `n`. -/
def clickPkt (s : State) (n : Nat) (pasid : Option (BitVec 20)) (kind : PktKind) (op : PktOp) (a len tc tag : Nat) (data : Bytes)
    (be : BitVec 4 × BitVec 4) : Packet :=
  { kind := kind, op := op, addr := BitVec.ofNat 64 (a / 4 * 4), len := len, data := data, fbe := be.1, lbe := be.2,
    tc := Fin.ofNat 8 tc, rid := BitVec.ofNat 16 (clickRid s n), tag := BitVec.ofNat 14 tag, pasid := pasid, status := .ok,
    lastPiece := true, ro := false, ido := false, ns := false, tph := none, selIde := false, translated := false, fab := none,
    notice := none }

/-- A posted write of `data` at `a`, its double words filled up with bytes that are not enabled. -/
def clickWr (s : State) (n : Nat) (pasid : Option (BitVec 20)) (a tc : Nat) (data : Bytes) : Packet :=
  let pre := a % 4
  let len := (pre + data.length + 3) / 4 * 4
  clickPkt s n pasid .posted .memWrite a len tc 0
    (List.replicate pre 0 ++ data ++ List.replicate (len - pre - data.length) 0) (bes a data.length)

/-- A read of `len` bytes at `a`; of length 0, one double word with no byte enabled (R161). -/
def clickRd (s : State) (n : Nat) (pasid : Option (BitVec 20)) (a len tc tag : Nat) : Packet :=
  clickPkt s n pasid .nonPosted .memRead a (max 4 ((a % 4 + len + 3) / 4 * 4)) tc tag [] (bes a len)

/-- The access check of a Clicker request of slice `sk` (Table 14-2): its identity is the Clicking function's. -/
def clickAcc (s : State) (n : Nat) (pasid : Option (BitVec 20)) (a len : Nat) (glob : Bool) (need : Need) : AccReq :=
  { addr := a, len := len, owner := n, glob := glob, kind := n, rid := clickRid s n, dev := 0, pasid := pasid.map (·.toNat),
    need := need }

/-- The attributes of the one entry that admits a Clicker request (R195). -/
def clickAttrs (s : State) (r : AccReq) (pk : Packet) : Packet :=
  match awtCheck s r with
  | .permit i => awtAttrs s i pk
  | .deny _ => pk

/-! ### Tags (R197) -/

/-- R100: the attachment of cluster `k` is held, and its engines issue nothing. -/
def clusterHeld (s : State) (k : Nat) : Bool := inputHeld s (64 + k)

/-- A free tag of cluster `k` in partition `n`. -/
def freeTag (s : State) (n k : Nat) : Option Nat :=
  let w := 2 ^ tagBits s n / 8
  ((List.range w).map (fun i => k * w + i)).find? (fun t => (nget? s.rng.tags (n * 16384 + t)).isNone)

/-- Tag `t` of partition `n` freed. -/
def tagFree (s : State) (n t : Nat) : State := rngUpd s (fun r => { r with tags := ndel r.tags (n * 16384 + t) })

/-- A read issued by cluster `k` for partition `n` through its attachment: by address, on a given port, or to another
part; none where no tag is free (R197). -/
inductive Aim where
  | addr | glob | port (p : Nat) | dev (d p hash : Nat)
deriving DecidableEq, Repr

/-- A Clicker's packet goes where it is aimed. -/
def aimed (s : State) (aim : Aim) (n : Nat) (c : Cell) : State :=
  match aim with
  | .addr => memReq s n .clicker c
  | .glob => globalReq s c.pk.addr.toNat c
  | .port p => storeTo s p c
  | .dev d p h => toDevice s d { c with pk := { c.pk with fab := some (newHdr s d p c.pt c.cls h true) } }

/-- A read with a tag, entered in the books; none where no tag is free or the attachment is held. A flush read, of no bytes, carries no
attribute (R161). -/
def issueRead (s : State) (n k sk cls : Nat) (pasid : Option (BitVec 20)) (aim : Aim) (why : Purpose) (a len : Nat)
    (attrs : Packet → Packet) : Option State :=
  match (if clusterHeld s k then none else freeTag s n k) with
  | none => none
  | some t =>
    let use : TagUse := { cluster := k, purpose := why, at' := s.now, len := len, got := 0,
                          port := match aim with | .port p => p | _ => 64, quar := false, silent := false }
    let s := rngUpd s (fun r => { r with tags := nput r.tags (n * 16384 + t) use })
    some (aimed s aim n { inp := 64 + k, cls := cls, pt := n, pk := attrs (clickRd s n pasid a len cls t), slice := some sk,
                           bare := len = 0 })

/-! ### MSI-X (R207 to R210) -/

/-- The configuration function of MSI-X table `f`: 0 to 15 Clicking functions, 16 the manager function. -/
def msixFn (f : Nat) : Nat := if f = 16 then fnMgr else fnClick f

/-- MSI-X Enable and Function Mask: bits 31 and 30 of the double word at 0xB0. -/
def msixOn (s : State) (f : Nat) : Bool := (cfgGet s (msixFn f) 44).testBit 31
def msixFnMask (s : State) (f : Nat) : Bool := (cfgGet s (msixFn f) 44).testBit 30

/-- Word `i` of vector `v` of table `f`: address low and high, data, control; a vector starts masked. -/
def msixWord (s : State) (f v i : Nat) : Nat := nget s.rng.msix ((f * 2048 + v) * 4 + i) (if i = 3 then 1 else 0)

/-- The pending bit of vector `v` of table `f`. -/
def msixPending (s : State) (f v : Nat) : Bool := s.rng.pba.contains (f * 2048 + v)

/-- The function that an MSI-X table belongs to. -/
def fnRefOf (f : Nat) : FnRef := if f = 16 then .manager else .clicking (Fin.ofNat 16 f)

/-- The message of vector `v` goes out in class `cls`: through the cluster that wrote the entry, or formed by the part at
the upstream port (R548). -/
def msixOut (s : State) (f v cls : Nat) (via : Option Nat) : State :=
  let n := if f = 16 then rd s PTN_CTL_MGR_PT else f
  let a := msixWord s f v 0 + msixWord s f v 1 * 2 ^ 32
  let pk := clickWr s n none a cls (leBytes 4 (msixWord s f v 2))
  let pk := if f = 16 then { pk with rid := BitVec.ofNat 16 (busOf s fnMgr * 256 + 1) } else pk
  let s := emit s (.msix (fnRefOf f) v)
  match via with
  | some k => bridgeReq s n .clicker { inp := 64 + k, cls := cls, pt := n, pk := pk, noRo := true }
  | none => match upPort s n with
    | some u => formed s u cls n pk
    | none => s

/-- R210: a signal of vector `v`: sent, made pending under a mask or in D3hot (R244), or nothing while MSI-X is off. -/
def msixSignal (s : State) (f v cls : Nat) (via : Option Nat) : State :=
  if !msixOn s f then s
  else if msixFnMask s f || (msixWord s f v 3).testBit 0 || inD3 s (msixFn f) then
    let i := f * 2048 + v
    rngUpd s (fun r => { r with pba := if r.pba.contains i then r.pba else r.pba ++ [i],
                                pbaVia := match via with | some k => nput r.pbaVia i (k * 8 + cls) | none => r.pbaVia })
  else msixOut s f v cls via

/-- R210: with both masks clear, a pending vector sends one message, through the attachment of the latest entry that it signals and in that
entry's class (R28). -/
def msixRelease (s : State) (f v : Nat) : State :=
  if msixPending s f v && msixOn s f && !msixFnMask s f && !(msixWord s f v 3).testBit 0 && !inD3 s (msixFn f) then
    let i := f * 2048 + v
    let via := nget? s.rng.pbaVia i
    msixOut (rngUpd s (fun r => { r with pba := r.pba.filter (· != i), pbaVia := ndel r.pbaVia i })) f v ((via.map (· % 8)).getD 0) (via.map (· / 8))
  else s

/-- The table of a function named by an event. -/
def fnIdx (f : FnRef) : Nat := match f with | .manager => 16 | .clicking n => n.val

/-- MSIX_UNMASK (R210): the vector's Mask bit, or the Function Mask, clears. -/
def execMsixUnmask (f : FnRef) (vec : Fin 2048) (fnMask : Bool) (s : State) : Res :=
  .next (
    let i := fnIdx f
    if fnMask then
      let dw := cfgGet s (msixFn i) 44
      let s := cfgPut s (msixFn i) 44 (dw - dw / 2 ^ 30 % 2 * 2 ^ 30)
      forEach (s.rng.pba.filter (fun k => k / 2048 == i)) s (fun s k => msixRelease s i (k % 2048))
    else
      let w := msixWord s i vec 3
      msixRelease (rngUpd s (fun r => { r with msix := nset 1 r.msix ((i * 2048 + vec) * 4 + 3) (w / 2 * 2) })) i vec)

/-! ### Entries (R202 to R209) -/

/-- R177, R204: the completion ring has room. -/
def cqRoom (s : State) (k : Nat) : Bool :=
  ringDist (rd s QP_CQ_PTR_TAIL k) (rd s QP_CQ_PTR_HEAD k) (cqSize s k) < cqSize s k - 1

/-- R209: queue pair `k` signals its vector, through the attachment and in the class of its latest entry (R28). -/
def qpSignal (s : State) (k : Nat) : State :=
  let q := qpAt s k
  let via := q.via.or ((sliceCluster s (qpSlice k)).map (fun j => (j, rd s QP_CFG_FETCH_TC k)))
  msixSignal (qpSet s k { q with modCnt := 0, modSince := none }) (qpPart k) (rd s QP_CFG_VEC k)
    ((via.map (·.2)).getD (rd s QP_CFG_FETCH_TC k)) (via.map (·.1))

/-- R203, R206, R209: an entry of `data` with the phase bit set in `phased` is written at the tail, or, denied by the AWT,
moves the pair to ERROR with one signal. True where it was written. -/
def entryPut (s : State) (k cls j : Nat) (phased : Bool → Bytes) (now : Bool) : State × Bool :=
  let n := qpPart k
  let sk := qpSlice k
  let data := phased (bit s QP_STATUS_PHASE k)
  let tail := rd s QP_CQ_PTR_TAIL k
  let a := rd s QP_CQ_BASE k + tail * data.length
  let r := clickAcc s n (slicePasid s sk) a data.length false .write
  match awtCheck s r with
  | .deny d => (qpSignal (wr (wr (overlapRaise s d) QP_STATUS_STATE k 3) QP_STATUS_ERR k 6) k, false)
  | .permit i =>
    let pk := { awtAttrs s i (clickWr s n (slicePasid s sk) a cls data) with ro := false }
    let c : Cell := { inp := 64 + j, cls := cls, pt := n, pk := pk, slice := some sk, noRo := true }
    let s := memReq (awtTrack s c n) n .clicker c
    let t := (tail + 1) % cqSize s k
    let s := wr s QP_CQ_PTR_TAIL k t
    let s := if t = 0 then wrb s QP_STATUS_PHASE k (!bit s QP_STATUS_PHASE k) else s
    let q := qpAt s k
    let s := qpSet s k { q with modCnt := q.modCnt + 1, modSince := q.modSince.or (some s.now), via := some (j, cls) }
    (if now || max 1 (rd s QP_MOD_CNT k) ≤ q.modCnt + 1 then qpSignal s k else s, true)

/-- MSIX_MOD_TIMER (R209): MOD_TIME has passed since the ring's first unsignalled entry. -/
def execMsixModTimer (q : QPRef) (s : State) : Res :=
  .next (let k := qpKey q
    if rd s QP_MOD_TIME k != 0 && (qpAt s k).modSince.isSome && clickersOn s then qpSignal s k else s)

/-! ### Records (R163, R169) -/

/-- The 32 bytes of a record (Table 6-2). -/
def recBytes (r : PRec) (phase : Bool) : Bytes :=
  let f := fun i => r.flags / 2 ^ i % 2
  let b := BitVec.ofNat 8
  [b r.type, b (r.status % 16 + r.sealR % 4 * 16 + f 0 * 64 + f 1 * 128),
   b (f 2 + f 3 * 2 + f 4 * 4 + r.cause % 16 * 16), b (r.member % 64 + if phase then 128 else 0)]
  ++ leBytes 2 (r.pool % 1024 + r.head % 64 * 1024) ++ [b r.window, b (r.slot % 64)] ++ leBytes 6 r.tick
  ++ leBytes 2 (r.bufTag % 4096) ++ leBytes 8 (r.bufAddr / 4096 * 4096) ++ leBytes 4 r.bytes ++ leBytes 4 r.sealTime

/-- The oldest record that waits for global queue pair `g`, with the rest of those that wait. -/
def takeRec (s : State) (g : Nat) : List PRec → Option (PRec × List PRec)
  | [] => none
  | r :: l => if rd s PLC_POOL_REC r.pool == g then some (r, l)
    else (takeRec s g l).map (fun e => (e.1, r :: e.2))

/-- RECORD_POST (R163, R353): the oldest record of the ring is handed over with its PU freed, once the pair is an ACTIVE
RECORD pair with room and the pool is served; until then it waits, and RING_FULL counts the wait for room. -/
def execRecordPost (g : Fin 16384) (s : State) : Res :=
  .next (match takeRec s g s.plc.recs, sliceOfQp s g with
    | some (r, rest), some (sk, q) =>
      let k := sk * 256 + q
      match servedBy s (rd s PLC_POOL_CTL_CLUSTER r.pool) with
      | some j =>
        if qpState s k != 1 || rd s QP_CFG_TYPE k != 1 || !clickersOn s || inBlockReset s 5 || clusterHeld s j then s
        else if !cqRoom s k then
          match r.full with
          | none => plcUpd s (fun x => { x with recs := x.recs.map (fun y => if y = r then { y with full := some s.now } else y) })
          | some t => raiseIf (1000000 < s.now - t) s 0x28A r.pool
        else
          let cls := rd s QP_CFG_FETCH_TC k
          match entryPut s k cls j (recBytes r) (r.status != 0) with
          | (s, false) => s
          | (s, true) =>
            let s := match r.full with | some t => inc s RING_FULL r.pool ((s.now - t) / 1000) | none => s
            let s := plcUpd s (fun x => { x with recs := rest })
            match r.pu with
            | some u => puFree s u false
            | none => s
      | none => s
    | _, _ => s)

/-! ### Flush reads of PUs (R26, R161) -/

/-- The slice whose PASID and timeout a pool's flush reads take (R198, R378): the owner of its record ring. -/
def poolSlice (s : State) (p : Nat) : Option Nat := (sliceOfQp s (rd s PLC_POOL_REC p)).map (·.1)

/-- R165 codes 2 to 4, R28: a flush read of PU `u` ends: its record is due, or its member fails. -/
def flushDone (s : State) (u : Nat) (st : CplStatus) : State :=
  let e := puAt s u
  if e.state != 5 || e.due || e.again then s else
  match st with
  | .ok => recDue s u
  | .poison => recDue s u
  | .ur => memberFail s e.pool e.member 2
  | .ca => memberFail s e.pool e.member 3
  | .timeout => memberFail s e.pool e.member 4

/-- FLUSH_READ_ISSUE (R26, R161): once the egress count equals the ingress count of a sealed PU, and again for one in FLUSH whose cluster has
handed its work off (R164). A read that the AWT denies counts as answered Completer Abort; with no free tag it waits. -/
def execFlushReadIssue (u : Fin 65536) (s : State) : Res :=
  .next (
    let e := puAt s u
    if !(e.state == 4 || (e.state == 5 && e.again && !e.due)) || e.broken || e.ing == 0 || e.egr != e.ing || !clickersOn s || inBlockReset s 5 then s else
    match servedBy s (rd s PLC_POOL_CTL_CLUSTER e.pool) with
    | none => s
    | some k =>
      let n := rd s PLC_POOL_CTL_PARTITION e.pool
      let sk := (poolSlice s e.pool).getD 0
      let pasid := slicePasid s sk
      let r := clickAcc s n pasid e.bufAddr 4 false .zero
      let go := fun (s : State) => puSet s u { (puAt s u) with state := 5, again := false }
      match e.remote with
      | some d =>
        match issueRead s n k sk (e.cls.getD 0) pasid (.dev d e.port e.hash) (.pu u e.life) e.bufAddr 0 id with
        | some s => go s
        | none => s
      | none =>
        match awtCheck s r with
        | .deny d => flushDone (go (overlapRaise s d)) u .ca
        | .permit _ =>
          match issueRead s n k sk (e.cls.getD 0) pasid (.port e.port) (.pu u e.life) e.bufAddr 0 id with
          | some s => go s
          | none => s)

/-- The tags of the reads for which `mine` holds are freed, or quarantined by a timeout (R200). -/
def tagsEnd (s : State) (st : CplStatus) (mine : Purpose → Bool) : State :=
  let hit := fun (x : TagUse) => mine x.purpose && !x.quar
  if st = .timeout then
    rngUpd s (fun r => { r with tags := r.tags.map (fun e => if hit e.2 then (e.1, { e.2 with quar := true }) else e) })
  else rngUpd s (fun r => { r with tags := r.tags.filter (fun e => !hit e.2) })

/-! ### Buffer rings of members (R141) -/

/-- R141: the serving cluster reads the next free-buffer entries of member `m` of pool `p`: up to 64, not past the ring's
end; a denied read fails the member. -/
def ringRead (s : State) (p m : Nat) : State :=
  let x := member s p m
  let n := 2 ^ (4 + x.v)
  let c := min 64 (min (ringDist x.tail x.pos n) (n - x.pos))
  if x.kind != 0 || x.reading != 0 || c == 0 || x.state == 2 || !clickersOn s then s else
  match servedBy s (rd s PLC_POOL_CTL_CLUSTER p) with
  | none => s
  | some k =>
    let n := rd s PLC_POOL_CTL_PARTITION p
    let qk := (sliceOfQp s x.db).map (fun e => e.1 * 256 + e.2)
    let sk := (qk.map qpSlice).getD 0
    let cls := (qk.map (fun k => rd s QP_CFG_FETCH_TC k)).getD 0
    let pasid := slicePasid s sk
    let a := x.addr + x.pos * 8
    let r := clickAcc s n pasid a (c * 8) false .read
    match awtCheck s r with
    | .deny d => memberFail (overlapRaise s d) p m 9
    | .permit _ =>
      match issueRead s n k sk cls pasid .addr (.ring (p * 64 + m)) a (c * 8) (clickAttrs s r) with
      | some s => memberSet s p m { (member s p m) with reading := c }
      | none => s

/-- R141: a read of member `m`'s ring ends with `entries`, or fails the member. -/
def ringDone (s : State) (p m : Nat) (st : CplStatus) (entries : List (BitVec 64)) : State :=
  let x := member s p m
  if x.reading == 0 then s else
  match st with
  | .ok =>
    let got := (List.range x.reading).map (fun i => (entries.getD i 0).toNat)
    ringRead (memberSet s p m { x with bufs := x.bufs ++ got, pos := (x.pos + x.reading) % 2 ^ (4 + x.v), reading := 0 }) p m
  | _ => memberFail (memberSet s p m { x with reading := 0 }) p m 9

/-- Every member's ring with entries to read is read, where nothing forbids it. -/
def ringAll (s : State) : State :=
  forEach (s.plc.mbr.filter (fun e => e.2.kind == 0 && e.2.tail != e.2.pos)) s (fun s e => ringRead s (e.1 / 64) (e.1 % 64))

/-! ### Fetching descriptors (R190) -/

/-- R190: the pair, where it is ACTIVE (Table 7-7), is HALTED with cause FETCH; its FETCH_FAIL entry for the descriptor is due. -/
def fetchFail (s : State) (k : Nat) : State :=
  let s := if qpState s k == 1 then wr (wr s QP_STATUS_STATE k 2) QP_STATUS_ERR k 4 else s
  let q := qpAt s k
  qpSet (inc s FETCH_ERR (qpSlice k)) k { q with fetching := 0, fetchFail := some q.pos }

/-- R190: the next fetch of queue pair `k`, up to the newest tail, not past the ring's end; after a failed one, once its entry is written. -/
def fetchNext (s : State) (k : Nat) : State :=
  let q := qpAt s k
  let n := sqSize s k
  let c := min 8 (min (ringDist (rd s QP_SQ_PTR_TAIL k) q.pos n) (n - q.pos))
  if qpState s k != 1 || rd s QP_CFG_TYPE k != 0 || q.fetching != 0 || q.fetchFail.isSome || c == 0 || !starts s (qpPart k) then s else
  match sliceCluster s (qpSlice k) with
  | none => s
  | some j =>
    let a := rd s QP_SQ_BASE k + q.pos * 64
    let pasid := slicePasid s (qpSlice k)
    let r := clickAcc s (qpPart k) pasid a (c * 64) false .read
    match awtCheck s r with
    | .deny d => fetchFail (overlapRaise s d) k
    | .permit _ =>
      match issueRead s (qpPart k) j (qpSlice k) (rd s QP_CFG_FETCH_TC k) pasid .addr (.fetch k) a (c * 64) (clickAttrs s r) with
      | some s => qpSet s k { (qpAt s k) with fetching := c }
      | none => s

/-- A fetch of queue pair `k` ends; in ERROR and STOPPING it has no effect (R206, R211). -/
def fetchDone (s : State) (k : Nat) (st : CplStatus) (descs : List Bytes) : State :=
  let q := qpAt s k
  if q.fetching == 0 || !(qpState s k == 1 || qpState s k == 2) then s else
  match st with
  | .ok =>
    let got := (List.range q.fetching).map (fun i =>
      ((q.pos + i) % sqSize s k, ((descs.getD i []) ++ List.replicate 64 0).take 64))
    fetchNext (qpSet s k { q with fetched := q.fetched ++ got, pos := (q.pos + q.fetching) % sqSize s k, fetching := 0 }) k
  | _ => fetchFail s k

/-! ### Doorbells (R179 to R184) -/

/-- R141, R181: a doorbell to a POST pair: tail of a buffer ring, or credits of a fixed region. -/
def postBell (s : State) (sk idx : Nat) (pm : Nat) : State :=
  let p := pm / 64
  let m := pm % 64
  let x := member s p m
  if x.kind = 0 then
    let n := 2 ^ (4 + x.v)
    if n ≤ idx || ringDist idx x.pos n < ringDist x.tail x.pos n then inc s DB_BAD sk
    else ringRead (memberSet s p m { x with tail := idx }) p m
  else
    let d := (idx + 65536 - x.ret) % 65536
    if x.km1 + 1 < x.credits + d then inc s DB_BAD sk
    else memberSet s p m { x with credits := x.credits + d, ret := idx }

/-- R181, R182: one doorbell of value `v` at slot `r` of slice `sk`. -/
def bell (s : State) (sk r v : Nat) : State :=
  let k := sk * 256 + r / 2
  let idx := v / 65536 % 65536
  let sub := r % 2 == 0
  let st := qpState s k
  if !qpLive s k || (st != 1 && st != 2) then inc s DB_IGN sk
  else if v % 512 != r || v / 512 % 128 != 0 || v / 2 ^ 32 != 0 then inc s DB_BAD sk
  else match rd s QP_CFG_TYPE k, sub with
    | 0, true =>
      let q := qpAt s k
      if sqSize s k ≤ idx || ringDist idx q.pos (sqSize s k) < ringDist (rd s QP_SQ_PTR_TAIL k) q.pos (sqSize s k) then inc s DB_BAD sk
      else fetchNext (wr s QP_SQ_PTR_TAIL k idx) k
    | 2, true =>
      let g := ((nget? s.slices sk).map (·.qpBase)).getD 0 + r / 2
      match nget? s.plc.bound g with
      | some pm => if (member s (pm / 64) (pm % 64)).db == g then postBell s sk idx pm else inc s DB_IGN sk
      | none => inc s DB_IGN sk
    | 1, true => inc s DB_BAD sk
    | 2, false => inc s DB_BAD sk
    | _, _ =>
      let t := rd s QP_CQ_PTR_TAIL k
      if cqSize s k ≤ idx || ringDist t (rd s QP_CQ_PTR_HEAD k) (cqSize s k) < ringDist t idx (cqSize s k) then inc s DB_BAD sk
      else wr s QP_CQ_PTR_HEAD k idx

/-- R180: the complete 8-byte units of a write at page offset `off`, in ascending order; a unit that the write spans with
a byte enable clear counts in DB_BAD, and bytes outside whole units are ignored. -/
def doorbells (s : State) (sk off : Nat) (data : List (Byte × Bool)) : State :=
  if (nget? s.slices sk).isNone then s else
  let first := (off + 7) / 8
  let last := (off + data.length) / 8
  forEach ((List.range (last - first)).map (fun i => first + i)) s (fun s r =>
    let l := (data.drop (r * 8 - off)).take 8
    if l.all (·.2) then bell s sk (r % 512) (leNat (l.map (·.1))) else inc s DB_BAD sk)

/-- DOORBELL (R180): the doorbell page of a slice is reached in the modes in which the part's own BARs answer, outside a
PART reset of the partition. -/
def execDoorbell (pt : Fin 16) (sl : Fin 1024) (off : BitVec 12) (data : List (Byte × Bool)) (s : State) : Res :=
  .next (if (running s || mode s == mSETUP || mode s == mQUIESCE || mode s == mDRAIN || mode s == mLOOPBACK) && !partInReset s pt then
      doorbells s (sliceKey pt sl) off.toNat data
    else s)

end Sys2Proof.Machine
end

