-- ==== Sys2Proof/Machine/Jobs.lean ====
section
/-! DEFINITION. Jobs of rings: start, the mover, completion entries, completions of the Clicking function's reads, tags, and
queue-pair states (07_rings_dma.md). RESIZE is in Slices.lean. -/

namespace Sys2Proof.Machine

/-! ### Descriptors (Tables 7-3, 7-4, 13-6) -/

/-- Byte `i` of a descriptor, and the `n` bytes from byte `a`. -/
def dB (d : Bytes) (i : Nat) : Nat := (d.getD i 0).toNat
def dF (d : Bytes) (a n : Nat) : Nat := leNat ((d.drop a).take n)

/-- OPCODE, the flags NO_CPL, WAIT_PRIOR and FLUSH, TC, LEN and USER of a descriptor. -/
def dOp (d : Bytes) : Nat := dB d 0
def dNoCpl (d : Bytes) : Bool := (dB d 1).testBit 0
def dWaitPrior (d : Bytes) : Bool := (dB d 1).testBit 1
def dFlush (d : Bytes) : Bool := (dB d 1).testBit 2
def dTc (d : Bytes) : Nat := dB d 2 % 8
def dLen (d : Bytes) : Nat := dF d 24 4
def dUser (d : Bytes) : Nat := dF d 4 4

/-- POOL of a PLACE_COPY. -/
def dPool (d : Bytes) : Nat := dF d 28 2 % 1024

/-- SRC_GLOBAL and DST_GLOBAL. -/
def dSrcGlob (d : Bytes) : Bool := if dOp d = 2 then (dB d 31).testBit 0 else (dB d 28).testBit 0
def dDstGlob (d : Bytes) : Bool := dOp d != 2 && (dB d 28).testBit 1

/-- The bits of byte `i` that an opcode's layout names (Tables 7-3, 7-4, 13-6). -/
def dMask (op i : Nat) : Nat :=
  if i = 0 || (4 ≤ i && i < 8) then 255 else if i = 1 || i = 2 then 7 else if i = 3 then 0 else
  match op with
  | 1 => if i < 28 then 255 else if i = 28 then 3 else 0
  | 2 => if i < 16 || (24 ≤ i && i < 29) || i = 30 then 255 else if i = 29 then 3 else if i = 31 then 1 else 0
  | 3 => if i < 28 then 255 else if i = 28 then 2 else 0
  | 4 => if i = 8 || (24 ≤ i && i < 28) then 255 else if i = 9 || i = 10 then 63 else 0
  | 5 => if (8 ≤ i && i < 14) || (24 ≤ i && i < 28) then 255 else 0
  | 15 =>
    if i = 8 || i = 17 then 15 else if i = 10 then 3 else if i = 11 then 31 else if i = 13 then 1 else if i = 15 then 7
    else if i = 9 || i = 12 || i = 14 || i = 16 || i = 18 || i = 20 || i = 21 || (24 ≤ i && i < 30) || (32 ≤ i && i < 36) then 255
    else 0
  | _ => 0

/-- Some reserved field of the descriptor is not 0 (R188). -/
def dReserved (d : Bytes) : Bool := (List.range 64).any (fun i => dB d i &&& dMask (dOp d) i != dB d i)

/-- The opcodes of Table 7-4. -/
def dKnown (op : Nat) : Bool := op ≤ 7 || op == 15

/-- The pair of queue pair `k` is the manager ring (R364). -/
def mgrRing (s : State) (k : Nat) : Bool :=
  qpPart k == rd s PTN_CTL_MGR_PT
    && ((nget? s.slices (qpSlice k)).any (fun x => x.qpBase + k % 256 == rd s PTN_CTL_MGR_RING))

/-- The status with which a job ends at its start, 0 if it runs (R186, R188, Table 7-6). -/
def startStatus (s : State) (k : Nat) (d : Bytes) : Nat :=
  let n := qpPart k
  if !dKnown (dOp d) || (dOp d == 15 && !mgrRing s k) then 1
  else if dReserved d then 2
  else match dOp d with
    | 2 => if rd s PLC_POOL_CTL_PARTITION (dPool d) != n then 2 else if poolS s (dPool d) < dLen d then 11 else 0
    | 4 => if rd s PLC_WIN_CTL_PARTITION (dB d 8) != n then 2 else 0
    | 5 => if 64000000 < dLen d then 2 else 0
    | 15 => if 64000000 < dF d 32 4 then 2 else 0
    | _ => 0

/-! ### Jobs of a ring -/

/-- Job `id` of queue pair `k`. -/
def jobAt (s : State) (k id : Nat) : Option Job := (qpAt s k).jobs.find? (fun j => j.id == id)

/-- Job `j` of queue pair `k` set. -/
def jobSet (s : State) (k : Nat) (j : Job) : State :=
  let q := qpAt s k
  qpSet s k { q with jobs := q.jobs.map (fun x => if x.id == j.id then j else x) }

/-- The LEN, source and destination that a job moves. -/
def jobLen (j : Job) : Nat := match dOp j.desc with | 1 => dLen j.desc | 2 => dLen j.desc | 3 => dLen j.desc | _ => 0
def jobSrc (j : Job) : Nat := dF j.desc 8 8
def jobDst (j : Job) : Nat := match j.buf with | some (_, a, _) => a | none => dF j.desc 16 8

/-- The cluster in RUN or DRAINING that works on job `id` of a slice: the one it stays with (R402, R403), else the slice's. -/
def jobCluster (s : State) (sk id : Nat) : Option Nat :=
  match nget? s.ckr.stay id with
  | some c => if rd s CKR_CLU_STATUS_STATE c == 2 || rd s CKR_CLU_STATUS_STATE c == 3 then some c else none
  | none => sliceCluster s sk

/-- An ended job needs no completion entry: NOP, or NO_CPL where it ended OK; RECORD_ONLY always has one (R186). -/
def noEntry (j : Job) : Bool :=
  j.status == 0 && (dOp j.desc == 0 || (dNoCpl j.desc && dOp j.desc != 7))

/-- R191: job `j` at the head of queue pair `k` has completed: it leaves, and the submission head moves past it. -/
def retireOne (s : State) (k : Nat) (j : Job) : State :=
  let q := qpAt s k
  let s := qpSet { s with ckr := { s.ckr with stay := ndel s.ckr.stay j.id } } k { q with jobs := q.jobs.drop 1 }
  let s := wr s QP_SQ_PTR_HEAD k ((j.idx + 1) % sqSize s k)
  inc s (if j.status == 0 then JOBS_OK else JOBS_ERR) (qpSlice k)

/-- R205: with no job left, a pair that is to halt is HALTED with cause JOB. -/
def haltIfDone (s : State) (k : Nat) : State :=
  let q := qpAt s k
  if q.halting && q.jobs.isEmpty && qpState s k == 1 then
    qpSet (wr (wr s QP_STATUS_STATE k 2) QP_STATUS_ERR k 5) k { q with halting := false }
  else s

/-- The ended jobs at the head that need no entry complete. -/
def retire (s : State) (k : Nat) : State :=
  haltIfDone ((qpAt s k).jobs.foldl (fun s _ =>
    match (qpAt s k).jobs with
    | j :: _ => if j.st = .ended && noEntry j then retireOne s k j else s
    | [] => s) s) k

/-- DETAIL of a job's entry (Table 7-5): the member that a PLACE_COPY took, the tick at the end of a WAIT_TICK, else 0. -/
def jobDetail (s : State) (j : Job) : Nat :=
  if dOp j.desc = 2 then (j.buf.map (·.1)).getD 0 else if dOp j.desc = 5 then rd s LCE_TICK_NOW % 65536 else 0

/-- Job `id` ends with `status`: its accesses no longer hold a fence (R388), and an error halts where HALT_ON_ERR says so (R205). The first
status stands. -/
def jobEnd (s : State) (k id status : Nat) : State :=
  match jobAt s k id with
  | none => s
  | some j =>
    if j.st = .ended then s else
    let st := if j.status = 0 then status else j.status
    let s := jobSet s k { j with st := .ended, status := st, detail := jobDetail s j, data := [], toFlush := [] }
    let s := awtClose s (fun a => a.job == some id)
    let s := if st != 0 && bit s QP_CFG_HALT_ON_ERR k then qpSet s k { (qpAt s k) with halting := true } else s
    retire s k

/-! ### Where a destination lies (R29) -/

/-- The port by which a global address leaves. -/
def globPort (s : State) (n cls g : Nat) : Option Nat :=
  let d := g / 2 ^ 58
  if d == devId s then some (g / 2 ^ 52 % 64) else (fabHop s d (flowHash s (devId s) d n cls (clickRid s n))).2

/-- The egress port of a Clicker's write to address `a` of partition `n`; none where a window takes it or nothing does. -/
def destPort (s : State) (n cls : Nat) (glob : Bool) (a : Nat) : Option Nat :=
  if glob then globPort s n cls a else
  match windowAt s false n a, sealAt s false n a, xwAt s n a, (if leaf s then gapAt s n a else none) with
  | some _, _, _, _ => none
  | none, some _, _, _ => none
  | none, none, some (_, v), _ =>
    let a' := moveAddr a v.base v.addr
    if v.glob then globPort s n cls a' else (memPort s v.tgt a').or (upPort s v.tgt)
  | none, none, none, some g => globPort s n cls g
  | none, none, none, none => (memPort s n a).or (upPort s n)

/-- R29: an entry in force that matches some of the range prescribes Relaxed Ordering. -/
def roRange (s : State) (r : AccReq) : Bool :=
  (awtValid s).any (fun i => awtSelects s i r && awtTouches s i r.addr r.len && rd s AWT_W3_RO i == 2)

/-- The access check of job `j` of queue pair `k` for `len` bytes at `a`. -/
def jobAcc (s : State) (k : Nat) (glob : Bool) (a len : Nat) (need : Need) : AccReq :=
  clickAcc s (qpPart k) (slicePasid s (qpSlice k)) a len glob need

/-- The way of job `j`'s writes and flush read: its buffer's member for a PLACE_COPY, else by address. -/
def jobAim (s : State) (k : Nat) (j : Job) (glob : Bool) : Aim :=
  match j.buf with
  | some (m, _, _) =>
    let x := member s (dPool j.desc) m
    if x.remote then .dev x.dev x.port (flowHash s (devId s) x.dev (qpPart k) (dTc j.desc) (clickRid s (qpPart k))) else .port x.port
  | none => if glob then .glob else .addr

/-! ### The mover (R192 to R195) -/

/-- The bytes of a job that follow its offset `off` without a gap. -/
def contig : NMap Bytes → Nat → Bytes
  | [], _ => []
  | (k, b) :: m, off => if k = off then b ++ contig m (off + b.length) else []

/-- The received bytes from offset `off` on. -/
def dataFrom : NMap Bytes → Nat → NMap Bytes
  | [], _ => []
  | (k, b) :: m, off =>
    if k + b.length ≤ off then dataFrom m off else if k < off then (off, b.drop (off - k)) :: m else (k, b) :: m

/-- R381: one past the last byte of the entry that covers address `a`, or `e` where none covers it any more. -/
def entryEnd (s : State) (r : AccReq) (e : Nat) : Nat :=
  match awtCheck s { r with len := 1 } with
  | .permit i => min e (awtHi s i)
  | .deny _ => e

/-- The byte at address `a` of a FILL: byte (a mod 8) of PATTERN. -/
def fillByte (d : Bytes) (a : Nat) : Byte := d.getD (8 + a % 8) 0

/-- The bytes that job `j` can write now, from its offset `written`. -/
def jobAvail (j : Job) : Nat := if dOp j.desc = 3 then jobLen j - j.written else (contig j.data j.written).length

/-- The egress port of the byte that job `j` writes next, 64 where none is known, with twice its address, plus 1 if global (R29). -/
def jobPort (s : State) (k : Nat) (j : Job) (a : Nat) : Nat × Nat :=
  let glob := dDstGlob j.desc
  (if dOp j.desc = 2 then 64 else (destPort s (qpPart k) (dTc j.desc) glob a).getD 64, a * 2 + if glob then 1 else 0)

/-- One write of job `j` (R192, R381): to the next multiple of Max_Payload_Size or change of entry; of a job that is to fail, cut
where the received data end (R199). None where not all of its bytes are there. Answers with the bytes written. -/
def writeStep (s : State) (k cl : Nat) (j : Job) : Option (State × Job × Nat) :=
  let n := qpPart k
  let a := jobDst j + j.written
  let mps := mpsOf s (fnClick n)
  let e := min (jobDst j + jobLen j) ((a / mps + 1) * mps)
  let r := jobAcc s k (dDstGlob j.desc) a 1 .write
  let len := entryEnd s r e - a
  let av := jobAvail j
  let len := if j.fail != 0 then min len av else len
  if len = 0 || av < len then none else
  let data := if dOp j.desc = 3 then (List.range len).map (fun i => fillByte j.desc (a + i)) else (contig j.data j.written).take len
  let pk := clickWr s n (slicePasid s (qpSlice k)) a (dTc j.desc) data
  let pk := clickAttrs s { r with len := len } pk
  let c : Cell := { inp := 64 + cl, cls := dTc j.desc, pt := n, pk := pk, slice := some (qpSlice k) }
  let to' := jobPort s k j (a + len - 1)
  let s := aimed (awtTrack s c n) (jobAim s k j (dDstGlob j.desc)) n c
  let s := resCheck s (resAdd j.res (residue len)) (j.written + len) (0x470 + cl) cl
  some (s, { j with written := j.written + len, res := resAdd j.res (residue len), data := dataFrom j.data (j.written + len),
                    ports := j.ports.filter (fun e => e.1 != to'.1) ++ [to'] }, len)

/-- Writes of job `j` as long as its data allow. -/
def writeAll (k cl : Nat) : Nat → State → Job → State
  | 0, s, _ => s
  | f + 1, s, j => match writeStep s k cl j with
    | some (s, j, _) => writeAll k cl f (jobSet s k j) j
    | none => s

/-- R194: read data of queue pair `k` that is outstanding. -/
def inFlight (s : State) (k : Nat) : Nat :=
  s.rng.tags.foldl (fun n e => match e.2.purpose with
    | .job q _ _ => if q == k && !e.2.quar then n + (e.2.len - e.2.got) else n
    | _ => n) 0

/-- R194: reorder space of cluster `cl` in use: bytes asked for and not written. -/
def reorder (s : State) (cl : Nat) : Nat :=
  s.rng.qp.foldl (fun n e => e.2.jobs.foldl (fun n j =>
    if jobCluster s (qpSlice e.1) j.id == some cl then n + (j.asked - j.written) else n) n) 0

/-- One read of job `j` (R192, R194, R381): none where the limits, the reorder space or the tags forbid it. Answers with the bytes asked for. -/
def readStep (s : State) (k cl : Nat) (j : Job) : Option (State × Job × Nat) :=
  let n := qpPart k
  let a := jobSrc j + j.asked
  let e := min (jobSrc j + jobLen j) (min ((a / 4096 + 1) * 4096) (a + mrrsOf s (fnClick n)))
  let r := jobAcc s k (dSrcGlob j.desc) a 1 .read
  let len := entryEnd s r e - a
  if len = 0 || (rd s QP_CFG_INFLIGHTM1 k + 1) * 65536 < inFlight s k + len || 2097152 < reorder s cl + len then none else
  let aim := if dSrcGlob j.desc then Aim.glob else .addr
  (issueRead s n cl (qpSlice k) (dTc j.desc) (slicePasid s (qpSlice k)) aim (.job k j.id j.asked) a len
    (clickAttrs s { r with len := len })).map (fun s => (s, { j with asked := j.asked + len }, len))

/-- The next flush read of job `j` that is still to be issued (R26, R161, R196). -/
def flushStep (s : State) (k cl : Nat) (j : Job) : Option State :=
  match j.toFlush with
  | [] => none
  | f :: l =>
    (issueRead s (qpPart k) cl (qpSlice k) (dTc j.desc) (slicePasid s (qpSlice k)) (jobAim s k j (f.2 % 2 == 1)) (.jobFlush k j.id)
      (f.2 / 2 / 4 * 4) 0 id).map (fun s => jobSet s k { j with flushes := j.flushes + 1, toFlush := l, sent := j.sent ++ [f] })

/-- The destinations of `l` join `m`, one for each port. -/
def joinPorts (m l : List (Nat × Nat)) : List (Nat × Nat) := m.filter (fun e => l.all (fun f => f.1 != e.1)) ++ l

/-- All of a job's data is written, or all that it has received in order before it failed with `status` (R196, R29): what proof its end
needs. Where the job wrote by one port only, the ring's, and no entry prescribes Relaxed Ordering, the order of posted writes is the
proof; else a flush read to the last address written by each port. -/
def jobProve (s : State) (k id status : Nat) : State :=
  match jobAt s k id with
  | none => s
  | some j =>
    let n := qpPart k
    let d := j.desc
    let j := { j with data := [], asked := j.written }
    let s := jobSet s k j
    let wait := fun (l : List (Nat × Nat)) => jobSet s k { j with st := .flushing, status := status, toFlush := l }
    if dOp d = 2 && status = 0 then wait [(64, jobDst j * 2)]
    else if j.written = 0 then jobEnd s k id status
    else if status = 0 && dNoCpl d then
      let q := qpAt s k
      jobEnd (qpSet s k { q with dirty := joinPorts q.dirty j.ports }) k id 0
    else
      let ring := (destPort s n (dTc d) false (rd s QP_CQ_BASE k + rd s QP_CQ_PTR_TAIL k * 16)).getD 65
      let r := jobAcc s k (dDstGlob d) (jobDst j) j.written .write
      if dFlush d || dOp d = 2 || j.ports.any (fun e => e.1 != ring) || roRange s r then wait j.ports
      else jobEnd s k id status

/-- What job `j` of queue pair `k` does next on cluster `cl`: one write, unless an earlier job of the ring has writes to come (`blk`),
the proof of its delivery, one read or one flush read. Answers with the bytes charged (R362). -/
def jobOp (s : State) (k cl : Nat) (blk : Bool) (j : Job) : Option (State × Nat) :=
  match j.st with
  | .running =>
    match (if blk then none else writeStep s k cl j) with
    | some (s, j, n) => some (jobSet s k j, n)
    | none =>
      if !blk && (j.written == jobLen j || j.fail != 0) then some (jobProve s k j.id j.fail, 0)
      else if j.fail = 0 && dOp j.desc != 3 && starts s (qpPart k) then
        (readStep s k cl j).map (fun r => (jobSet r.1 k r.2.1, r.2.2))
      else none
  | .flushing => if starts s (qpPart k) then (flushStep s k cl j).map (fun s => (s, 0)) else none
  | _ => none

/-- Job `j` has writes to come, which those of later jobs of its ring follow (R187). -/
def writesLater (j : Job) : Bool := j.st = .running || (j.st = .ready && 1 ≤ dOp j.desc && dOp j.desc ≤ 3)

/-- The first of the jobs, in ring order, that can do something on cluster `cl` does it. -/
def jobsOp (s : State) (k cl : Nat) : List Job → Bool → Option (State × Nat)
  | [], _ => none
  | j :: l, blk =>
    match (if jobCluster s (qpSlice k) j.id == some cl then jobOp s k cl blk j else none) with
    | some r => some r
    | none => jobsOp s k cl l (blk || writesLater j)

/-- What the ring of queue pair `k` has for cluster `cl` to do: nothing while the attachment is held (R100). -/
def ringOp (s : State) (k cl : Nat) : Option (State × Nat) :=
  if !clickersOn s || !(qpState s k == 1 || qpState s k == 2) || clusterHeld s cl then none
  else jobsOp s k cl (qpAt s k).jobs false

/-! ### The service of rings (R194, R362) -/

/-- The rings that are ready for cluster `cl`. -/
def readyRings (s : State) (cl : Nat) : List Nat := (s.rng.qp.map (·.1)).filter (fun k => (ringOp s k cl).isSome)

/-- The first of `l` after `p`, in rotation. -/
def nextOf (l : List Nat) (p : Nat) : Option Nat := (l.find? (p < ·)).or l.head?

/-- Credit of slice `sk` at cluster `cl`, and the SHARE × 4 KiB of a round (R362). -/
def drrCredit (s : State) (cl sk : Nat) : Nat := nget s.rng.credit (cl * 16384 + sk) 0
def drrShare (s : State) (sk : Nat) : Nat := ((nget? s.slices sk).map (·.share)).getD 1 * 4096

/-- One step of the deficit round robin of cluster `cl` (R362): the slice whose turn it is serves its next ring while its credit covers the
bytes; else the turn passes to the next slice with ready rings, which receives its credit. None where no ring is ready. -/
def drrStep (s : State) (cl : Nat) : Option State :=
  let ready := readyRings s cl
  let slices := (ready.map qpSlice).eraseDups
  let s := rngUpd s (fun r => { r with credit := r.credit.filter (fun e => e.1 / 16384 != cl || slices.contains (e.1 % 16384)) })
  match nget? s.rng.turn cl, nextOf slices (nget s.rng.turn cl 16384) with
  | _, none => none
  | cur, some sk' =>
    let pass := rngUpd s (fun r => { r with turn := nput r.turn cl sk', credit := nput r.credit (cl * 16384 + sk') (drrCredit s cl sk' + drrShare s sk') })
    match cur with
    | none => some pass
    | some sk =>
      match nextOf (ready.filter (fun k => qpSlice k == sk)) (nget s.rng.ringTurn (cl * 16384 + sk) (sk * 256 + 255)) with
      | none => some pass
      | some k =>
        match ringOp s k cl with
        | none => some pass
        | some (t, n) =>
          if drrCredit s cl sk < n then some pass
          else some (rngUpd t (fun r => { r with credit := nset 0 r.credit (cl * 16384 + sk) (drrCredit s cl sk - n),
                                                 ringTurn := nput r.ringTurn (cl * 16384 + sk) k }))

/-- Cluster `cl` serves its rings until none is ready. -/
def serve (cl : Nat) : Nat → State → State
  | 0, s => s
  | f + 1, s => match drrStep s cl with
    | some s => serve cl f s
    | none => rngUpd s (fun r => { r with credit := r.credit.filter (fun e => e.1 / 16384 != cl) })

/-- A bound of the steps that the jobs can take: each serves a ring or passes the turn to a slice that it then serves. -/
def serveFuel (s : State) : Nat := s.rng.qp.foldl (fun n e => e.2.jobs.foldl (fun n j => n + 4 * (2 * jobLen j + j.toFlush.length + 70)) n) 16

/-- The clusters serve their rings, as far as anything is ready. -/
def pump (s : State) : State := forEach (List.range 8) s (fun s cl => serve cl (serveFuel s) s)

/-- R391, R197: an Awl read that waits goes out with a tag of its cluster, once one is free and no block that it passes is in reset (Table 17-3). -/
def awlTry (s : State) : State :=
  let n := rd s AWL_CTL_PARTITION
  let k := rd s AWL_CTL_VIA
  let size := rd s AWL_CTL_SIZEM1 + 1
  let glob := bit s AWL_CTL_GLOBAL
  let a := rd s AWL_ADDR
  match s.awt.awlWait, (if clusterHeld s k || [6, 7, 10].any (inBlockReset s) then none else freeTag s n k) with
  | true, some t =>
    let r : AccReq := { addr := a, len := size, owner := n, glob := glob, kind := 0x11, rid := 0, dev := 0, pasid := none, need := .read }
    let use : TagUse := { cluster := k, purpose := .awl, at' := s.now, len := size, got := 0, port := 64, quar := false, silent := false }
    let c : Cell := { inp := 64 + k, cls := 0, pt := n, pk := clickAttrs s r (clickRd s n none a size 0 t), awl := true }
    let s := rngUpd s (fun x => { x with tags := nput x.tags (n * 16384 + t) use })
    aimed (awtTrack { s with awt := { s.awt with awlWait := false } } c n) (if glob then .glob else .addr) n c
  | _, _ => s

/-- The engines go on: a tag, reorder space or an attachment came free, or a cluster serves again. -/
def pumpAll (s : State) : State :=
  forEach (s.rng.qp.map (·.1)) (ringAll (pump (awlTry s))) fetchNext

/-- R199, R201: a running job fails: once the earlier jobs of its ring have written, the bytes before the first gap are written, and the
rest is discarded. The first failure stands. -/
def jobFail (s : State) (k id status : Nat) : State :=
  match jobAt s k id with
  | some j => if j.st = .running && j.fail = 0 then pump (jobSet s k { j with fail := status }) else s
  | none => s

/-! ### Starting jobs (R187, R188) -/

/-- JOB_START (R187, R188): the next fetched descriptor of the ring starts. Nothing where the order of R187, a halt
(R205), the mode (R212) or an unserved cluster (R404) forbids it. -/
def execJobStart (q : QPRef) (s : State) : Res :=
  .next (
    let k := qpKey q
    let x := qpAt s k
    let on := qpState s k == 1 || (qpState s k == 2 && x.fetchFail.isSome)
    if !on || x.halting || !starts s (qpPart k) || (sliceCluster s (qpSlice k)).isNone then s else
    match x.fetched with
    | [] => s
    | (idx, d) :: rest =>
      let blocked := x.jobs.any (fun j => (dOp j.desc == 5 || dOp j.desc == 15) && j.st != .ended)
      if blocked || ((dWaitPrior d || dOp d == 6 || dOp d == 7) && !x.jobs.isEmpty) then s else
      let j : Job := { idx := idx, desc := d, st := .ready, status := 0, written := 0, asked := 0, data := [], buf := none,
                       detail := 0, flushes := 0, toFlush := [], id := s.rng.nextJob }
      let s := rngUpd s (fun r => { r with nextJob := r.nextJob + 1 })
      let s := qpSet s k { x with fetched := rest, jobs := x.jobs ++ [j] }
      let st := startStatus s k d
      let s := if dOp d = 15 && st = 2 then
          wr (wr (wr s PTN_RESIZE_LAST_RESULT 0 4) PTN_RESIZE_LAST_SLICE 0 (dF d 9 2 % 1024)) PTN_RESIZE_LAST_PARTITION 0 (dB d 8 % 16)
        else s
      if st = 0 then s else jobEnd s k j.id st)

/-- The oldest job of queue pair `k` with opcode `op` that has started and not begun, while engines do work. -/
def readyJob (s : State) (k op : Nat) : Option Job :=
  if starts s (qpPart k) && (qpState s k == 1 || qpState s k == 2) then
    (qpAt s k).jobs.find? (fun j => j.st = .ready && dOp j.desc == op && (jobCluster s (qpSlice k) j.id).isSome)
  else none

/-- The command of opcode `op` acts on that job. -/
def onJob (q : QPRef) (op : Nat) (s : State) (f : State → Nat → Job → State) : State :=
  match readyJob s (qpKey q) op with
  | some j => f s (qpKey q) j
  | none => s

/-- The fence's books take a job's requests as one access (R388). -/
def jobOpen (s : State) (k : Nat) (j : Job) : State :=
  awtOpen s { id := 0, np := false, rid := 0, tag := 0, job := some j.id, owner := qpPart k, fenced := false, swapped := false }

/-- R195: the range of a job is denied. -/
def jobDenied (s : State) (k : Nat) (glob : Bool) (a len : Nat) (need : Need) : Bool :=
  !awtRangeOk s (jobAcc s k glob a len need)

/-- R195: a job whose range is denied ends with status `st`; an overlap raises its source (R386). -/
def jobRefuse (s : State) (k : Nat) (id : Nat) (glob : Bool) (a len : Nat) (need : Need) (st : Nat) : State :=
  jobEnd (overlapRaise s ((awtRangeDeny s (jobAcc s k glob a len need)).getD 0)) k id st

/-- NOP (R186): the descriptor is consumed. -/
def execNop (q : QPRef) (s : State) : Res := .next (onJob q 0 s (fun s k j => jobEnd s k j.id 0))

/-- COPY (R186, R195): the checks of both ranges, then the mover. -/
def execCopy (q : QPRef) (s : State) : Res :=
  .next (onJob q 1 s (fun s k j =>
    let d := j.desc
    if dLen d = 0 then jobEnd s k j.id 0
    else if jobDenied s k (dSrcGlob d) (jobSrc j) (dLen d) .read then jobRefuse s k j.id (dSrcGlob d) (jobSrc j) (dLen d) .read 3
    else if jobDenied s k (dDstGlob d) (jobDst j) (dLen d) .write then jobRefuse s k j.id (dDstGlob d) (jobDst j) (dLen d) .write 4
    else pump (jobOpen (jobSet s k { j with st := .running }) k j)))

/-- PLACE_COPY (R170, R186): a decision takes a buffer, and the mover fills it from offset 0. -/
def execPlaceCopy (q : QPRef) (s : State) : Res :=
  .next (onJob q 2 s (fun s k j =>
    let d := j.desc
    let p := dPool d
    if jobDenied s k (dSrcGlob d) (jobSrc j) (dLen d) .read then jobRefuse s k j.id (dSrcGlob d) (jobSrc j) (dLen d) .read 3 else
    let taken := fun (s : State) => match j.buf with
      | some (m, a, t) => (s, some ({ m := m, addr := a, tag := t, late := false } : Choice))
      | none => decide' s p 0 (dB d 30) (devTime s) (poolS s p)
    match taken s with
    | (s, none) => jobEnd (inc s NO_MEMBER p) k j.id 10
    | (s, some ch) =>
      let s := jobSet s k { j with st := .running, buf := some (ch.m, ch.addr, ch.tag) }
      if !(member s p ch.m).remote && jobDenied s k false ch.addr (dLen d) .write then jobRefuse s k j.id false ch.addr (dLen d) .write 4
      else pump (jobOpen s k j)))

/-- FILL (R186): the check of the destination, then the writes. -/
def execFill (q : QPRef) (s : State) : Res :=
  .next (onJob q 3 s (fun s k j =>
    let d := j.desc
    if dLen d = 0 then jobEnd s k j.id 0
    else if jobDenied s k (dDstGlob d) (jobDst j) (dLen d) .write then jobRefuse s k j.id (dDstGlob d) (jobDst j) (dLen d) .write 4
    else pump (jobOpen (jobSet s k { j with st := .running }) k j)))

/-- SEAL (R186, R158): as a seal write; NOT_OPEN where the PU is in no state for it. -/
def execSeal (q : QPRef) (s : State) : Res :=
  .next (onJob q 4 s (fun s k j =>
    match sealNamed s (dB j.desc 8) (dB j.desc 9) (dB j.desc 10) (dLen j.desc) with
    | (s, true) => jobEnd s k j.id 0
    | (s, false) => jobEnd s k j.id 12))

/-- R186, R365: tick number `n` is at or past target `t`. -/
def tickReached (n t : Nat) : Bool := (n + 2 ^ 48 - t % 2 ^ 48) % 2 ^ 48 < 2 ^ 47

/-- The target of a WAIT_TICK. -/
def waitTarget (j : Job) : Nat := dF j.desc 8 6

/-- WAIT_TICK (R186): complete at once where the target has passed, else it waits for its tick. -/
def execWaitTick (q : QPRef) (s : State) : Res :=
  .next (onJob q 5 s (fun s k j =>
    let n := rd s LCE_TICK_NOW
    if tickReached n (waitTarget j) then jobEnd s k j.id 0 else jobSet s k { j with st := .waiting }))

/-- R186: at a tick start, each WAIT_TICK whose target it reaches completes. -/
def waitTicks (s : State) : State :=
  let n := rd s LCE_TICK_NOW
  forEach s.rng.qp s (fun s e => forEach e.2.jobs s (fun s j =>
    if j.st = .waiting && dOp j.desc == 5 && tickReached n (waitTarget j) then jobEnd s e.1 j.id 0 else s))

/-- WAIT_TICK_TIMEOUT (R186): TIMEOUT µs have passed; a job whose target has come completes OK. -/
def execWaitTickTimeout (q : QPRef) (s : State) : Res :=
  .next (
    let k := qpKey q
    match (qpAt s k).jobs.find? (fun j => j.st = .waiting && dOp j.desc == 5 && dLen j.desc != 0) with
    | some j =>
      if tickReached (rd s LCE_TICK_NOW) (waitTarget j) then jobEnd s k j.id 0 else jobEnd s k j.id 13
    | none => s)

/-- FENCE (R186, R196): every earlier job has completed; a flush read to each egress port that NO_CPL jobs have written
since the previous FENCE. -/
def execFence (q : QPRef) (s : State) : Res :=
  .next (onJob q 6 s (fun s k j =>
    let x := qpAt s k
    if x.dirty.isEmpty then jobEnd s k j.id 0
    else pump (jobSet (qpSet s k { x with dirty := [] }) k { j with st := .flushing, toFlush := x.dirty })))

/-- RECORD_ONLY (R186): it ends at once, and its entry signals the vector without moderation. -/
def execRecordOnly (q : QPRef) (s : State) : Res := .next (onJob q 7 s (fun s k j => jobEnd s k j.id 0))

/-! ### Completions and timeouts (R193, R197 to R201, R404) -/

/-- The slice to which a read belongs. -/
def useSlice (s : State) (n : Nat) (p : Purpose) : Nat :=
  match p with
  | .job q _ _ => qpSlice q
  | .jobFlush q _ => qpSlice q
  | .fetch q => qpSlice q
  | .pu u _ => (poolSlice s (puAt s u).pool).getD (n * 1024)
  | .ring pm => ((sliceOfQp s (member s (pm / 64) (pm % 64)).db).map (·.1)).getD (n * 1024)
  | .awl => n * 1024

/-- The lowest slice of partition `n`, which counts its unexpected completions. -/
def firstSlice (s : State) (n : Nat) : Option Nat := (s.slices.find? (fun e => e.1 / 1024 == n)).map (·.1)

/-- A flush read of job `id` ends with `st` (R161, R170, R199, Table 7-6). -/
def jobFlushed (s : State) (k id : Nat) (st : CplStatus) : State :=
  match jobAt s k id with
  | none => s
  | some j =>
    if j.st != .flushing then s else
    let good := st = .ok || st = .poison
    let m := (j.buf.map (·.1)).getD 0
    let p := dPool j.desc
    if !good then
      let s := if dOp j.desc = 2 && j.status = 0 then
          memberFail s p m (match st with | .ur => 2 | .ca => 3 | _ => 4)
        else s
      pump (jobEnd s k id 9)
    else
      let s := jobSet s k { j with flushes := j.flushes - 1 }
      if 1 < j.flushes || !j.toFlush.isEmpty then s else
      let s := match j.buf with
        | some (m, a, t) =>
          if j.status = 0 then
            recWait s { type := 6, pool := p, member := m, bufTag := t, bufAddr := a, bytes := j.written, tick := rd s LCE_TICK_NOW }
          else s
        | none => s
      pump (jobEnd s k id 0)

/-- R391: the Awl's read ends: its data land in AWL_DATA, or AWL_STATUS says how it failed. -/
def awlDone (s : State) (st : CplStatus) (data : Nat) : State :=
  let s := if st = .ok then wr s AWL_DATA 0 (data % 256 ^ (rd s AWL_CTL_SIZEM1 + 1)) else s
  let s := wr (wr s AWL_STATUS 0 (match st with | .ok => 0 | .ur => 4 | .timeout => 6 | _ => 5)) AWL_CTL_GO 0 0
  { s with awt := { s.awt with awlBusy := false, awlWait := false } }

/-- 8-byte entries of a buffer ring. -/
def ringEntries : Nat → Bytes → List (BitVec 64)
  | 0, _ => []
  | n + 1, l => BitVec.ofNat 64 (leNat (l.take 8)) :: ringEntries n (l.drop 8)

/-- Descriptors of a fetch. -/
def fetchEntries : Nat → Bytes → List Bytes
  | 0, _ => []
  | n + 1, l => l.take 64 :: fetchEntries n (l.drop 64)

/-- A read for `p` ends well or badly. -/
def readEnds (s : State) (p : Purpose) (st : CplStatus) (buf : Bytes) : State :=
  match p with
  | .job q id _ => match st with
    | .ok => pump s
    | .ur => jobFail s q id 5
    | .ca => jobFail s q id 6
    | .timeout => jobFail s q id 7
    | .poison => jobFail s q id 8
  | .jobFlush q id => jobFlushed s q id st
  | .fetch q => fetchDone s q st (fetchEntries 8 buf)
  | .pu u life => if (puAt s u).life == life then flushDone s u st else s
  | .ring pm => ringDone s (pm / 64) (pm % 64) st (ringEntries 64 buf)
  | .awl => if s.awt.awlBusy then awlDone s st (leNat buf) else s

/-- Read data `data` of a piece that came for use `u`: a job takes them in at their offset, while it has not failed. -/
def readData (s : State) (u : TagUse) (data : Bytes) : State :=
  match u.purpose with
  | .job q id off => match jobAt s q id with
    | some j => if j.st = .running && j.fail = 0 then jobSet s q { j with data := nput j.data (off + u.got) data } else s
    | none => s
  | _ => s

/-- A read whose data are kept whole until its last byte: a fetch, a buffer ring, the Awl. -/
def keepsData (p : Purpose) : Bool := match p with
  | .fetch _ => true | .ring _ => true | .awl => true | _ => false

/-- The use of a tag after a piece of `data` with status `st`: poisoned data end what the read is for, but not the request. -/
def usePiece (u : TagUse) (st : CplStatus) (data : Bytes) : TagUse :=
  { u with got := u.got + data.length, buf := if keepsData u.purpose then u.buf ++ data else [], done := u.done || st != .ok }

/-- A piece of a read for use `u` acts: its data, and the end of what the read is for. -/
def pieceActs (s : State) (u : TagUse) (st : CplStatus) (data : Bytes) : State :=
  if u.done then s
  else if st = .ok then
    let s := readData s u data
    if u.len ≤ u.got + data.length then readEnds s u.purpose .ok (usePiece u st data).buf else pump s
  else readEnds s u.purpose st []

/-- DMA_READ_COMPLETION (R193, R199 to R201, R211, R404): a completion reaches the Clicking function of `pt`. The request ends with its
last byte, or with Unsupported Request or Completer Abort; tags that come free let other reads go. -/
def execDmaReadCompletion (pt : Fin 16) (tag : BitVec 14) (st : CplStatus) (data : Bytes) (s : State) : Res :=
  .next (
    let n := pt.val
    let t := tag.toNat
    match nget? s.rng.tags (n * 16384 + t) with
    | none => match firstSlice s n with
      | some sl => inc s UNEXP_CPL sl
      | none => s
    | some u =>
      let last := st = .ur || st = .ca || u.len ≤ u.got + data.length
      let s := if last then awtCloseNp (tagFree s n t) (clickRid s n) t
        else rngUpd s (fun r => { r with tags := nput r.tags (n * 16384 + t) (usePiece u st data) })
      let s := if rd s CKR_CLU_STATUS_STATE u.cluster != 2 && rd s CKR_CLU_STATUS_STATE u.cluster != 3 then inc s CKR_CLU_LATE u.cluster
        else if u.silent then s
        else if u.quar then inc s LATE_CPL (useSlice s n u.purpose)
        else pieceActs s u st data
      if last then pumpAll s else s)

/-- COMPLETION_TIMEOUT (R198, R199): the read's time has passed; its tag is quarantined (R200). -/
def execCompletionTimeout (pt : Fin 16) (tag : BitVec 14) (s : State) : Res :=
  .next (
    let key := pt.val * 16384 + tag.toNat
    match nget? s.rng.tags key with
    | none => s
    | some u =>
      if u.quar then s else
      let s := rngUpd s (fun r => { r with tags := nput r.tags key { u with quar := true } })
      if u.silent || u.done then s else readEnds s u.purpose .timeout [])

/-- TAG_QUARANTINE_EXPIRY (R200): the quarantined tag is free again. -/
def execTagQuarantineExpiry (pt : Fin 16) (tag : BitVec 14) (s : State) : Res :=
  .next (match nget? s.rng.tags (pt.val * 16384 + tag.toNat) with
    | some u => if u.quar then pumpAll (tagFree s pt tag.toNat) else s
    | none => s)

/-- FLUSH_COMPLETE (R28, R165): the flush read of the PU completes; its tag comes free, or is quarantined by a timeout (R200). -/
def execFlushComplete (u : Fin 65536) (st : CplStatus) (s : State) : Res :=
  .next (if (puAt s u).state == 5 && clickersOn s then pumpAll (flushDone (tagsEnd s st (· == .pu u (puAt s u).life)) u st) else s)

/-- BUFFER_RING_READ_DONE (R141): the read of member `mb`'s ring ends. -/
def execBufferRingReadDone (pool : Fin 1024) (mb : Fin 64) (st : CplStatus) (entries : List (BitVec 64)) (s : State) : Res :=
  .next (pumpAll (ringDone (tagsEnd s st (· == .ring (pool * 64 + mb))) pool mb st entries))

/-- FETCH_COMPLETE (R190): the descriptor fetch of a queue pair ends. -/
def execFetchComplete (q : QPRef) (st : CplStatus) (descs : List Bytes) (s : State) : Res :=
  .next (pumpAll (fetchDone (tagsEnd s st (· == .fetch (qpKey q))) (qpKey q) st descs))

/-! ### Completion entries (R202 to R206) -/

/-- A completion entry (Table 7-5). -/
def cplBytes (user bytes head status op detail : Nat) (phase : Bool) : Bytes :=
  leBytes 4 user ++ leBytes 4 bytes ++ leBytes 2 head
    ++ [BitVec.ofNat 8 status, BitVec.ofNat 8 op] ++ leBytes 2 detail ++ [0, if phase then 0x80 else 0]

/-- The time an entry of the pair waited for room goes to CQ_FULL (R204). -/
def cqWaited (s : State) (k : Nat) : State :=
  match (qpAt s k).waits with
  | some t => qpSet (inc s CQ_FULL (qpSlice k) ((s.now - t) / 1000)) k { (qpAt s k) with waits := none }
  | none => s

/-- The bytes, the class and what else is to be known of the next entry of queue pair `k`: of the ended job at the head of the ring, or the
FETCH_FAIL entry once no descriptor fetched earlier is left (R190). -/
def nextEntry (s : State) (k : Nat) : Option (Nat × (Bool → Bytes) × Bool) :=
  let x := qpAt s k
  match x.jobs, x.fetchFail with
  | j :: _, _ =>
    if j.st != .ended then none
    else some (dTc j.desc, cplBytes (dUser j.desc) j.written ((j.idx + 1) % sqSize s k) j.status (dOp j.desc) j.detail,
               j.status != 0 || dOp j.desc == 7)
  | [], some i => if x.fetched.isEmpty then some (rd s QP_CFG_FETCH_TC k, cplBytes 0 0 i 14 0 0, true) else none
  | [], none => none

/-- What an entry written ends: the job at the head leaves the ring; after the FETCH_FAIL entry a pair that has been resumed fetches on. -/
def entryDone (s : State) (k : Nat) : State :=
  let x := qpAt s k
  match x.jobs with
  | j :: _ => pump (retire (retireOne s k j) k)
  | [] => fetchNext (qpSet s k { x with fetchFail := none }) k

/-- COMPLETION_ENTRY_WRITE (R202 to R206, R190): the next entry of the pair goes out; it waits while the ring is full, its work is not served
or the attachment is held (R100). In DRAIN no entry is written (R212). -/
def execCompletionEntryWrite (q : QPRef) (s : State) : Res :=
  .next (
    let k := qpKey q
    let x := qpAt s k
    if !(qpState s k == 1 || qpState s k == 2) || !clickersOn s || mode s == mDRAIN then s else
    match nextEntry s k, (match x.jobs with | j :: _ => jobCluster s (qpSlice k) j.id | [] => sliceCluster s (qpSlice k)) with
    | some (cls, bytes, now), some cl =>
      if clusterHeld s cl then s
      else if !cqRoom s k then qpSet s k { x with waits := x.waits.or (some s.now) }
      else match entryPut (cqWaited s k) k cls cl bytes now with
        | (s, true) => entryDone s k
        | (s, false) => s
    | _, _ => s)

/-! ### Queue-pair states (Table 7-7) -/

/-- The part's own BARs of partition `n` answer (Table 2-1, R352). -/
def ownBarOn (s : State) (n : Nat) : Bool :=
  (running s || mode s == mSETUP || mode s == mQUIESCE || mode s == mDRAIN || mode s == mLOOPBACK) && !partInReset s n

/-- R211: EN is written to 1: the checks, then ACTIVE with pointers 0 and phase 1. -/
def qpEnable (s : State) (k : Nat) : State :=
  if !qpLive s k || qpState s k != 0 then s
  else if rd s QP_CFG_TYPE k = 3 then wr s QP_STATUS_ERR k 1
  else if rd s QP_SQ_BASE k % 4096 != 0 || rd s QP_CQ_BASE k % 4096 != 0 then wr s QP_STATUS_ERR k 2
  else if rd s PTN_CFG_VECM1 (qpPart k) < rd s QP_CFG_VEC k then wr s QP_STATUS_ERR k 3
  else
    let s := wr (wr (wr (wr s QP_SQ_PTR_HEAD k 0) QP_SQ_PTR_TAIL k 0) QP_CQ_PTR_HEAD k 0) QP_CQ_PTR_TAIL k 0
    let s := wr (wr s QP_STATUS_ERR k 0) QP_STATUS_PHASE k 1
    wr (wr (qpSet s k {}) QP_CTL_EN k 1) QP_STATUS_STATE k 1

/-- R211: EN is written to 0, or a reset stops the pair: no further fetch, job start or entry; what its reads still bring
is discarded. -/
def qpStop (s : State) (k : Nat) : State :=
  let st := qpState s k
  if st == 0 || st == 4 then s else
  let mine := fun (p : Purpose) => match p with
    | .job q _ _ => q == k | .jobFlush q _ => q == k | .fetch q => q == k | _ => false
  let s := forEach (qpAt s k).jobs s (fun s j => awtClose s (fun a => a.job == some j.id))
  let s := rngUpd s (fun r => { r with tags := r.tags.map (fun e => if mine e.2.purpose then (e.1, { e.2 with silent := true }) else e) })
  wr (wr (qpSet s k {}) QP_CTL_EN k 0) QP_STATUS_STATE k 4

/-- RESUME (R205, Table 7-7): HALTED returns to ACTIVE, and fetching goes on. A halt whose jobs have all completed is over. -/
def qpResume (s : State) (k : Nat) : State :=
  if qpState s k == 2 then
    let q := qpAt s k
    fetchNext (pump (qpSet (wr s QP_STATUS_STATE k 1) k { q with halting := q.halting && !q.jobs.isEmpty })) k
  else s

/-- QP_ENABLE (R211). -/
def execQpEnable (q : QPRef) (s : State) : Res := .next (if ownBarOn s q.pt then qpEnable s (qpKey q) else s)

/-- QP_DISABLE (R211). -/
def execQpDisable (q : QPRef) (s : State) : Res :=
  .next (if ownBarOn s q.pt && qpLive s (qpKey q) then qpStop s (qpKey q) else s)

/-- QP_RESUME (R205). -/
def execQpResume (q : QPRef) (s : State) : Res :=
  .next (if ownBarOn s q.pt && qpLive s (qpKey q) then qpResume s (qpKey q) else s)

/-- QP_STOPPED (R211): every outstanding read of a STOPPING pair is resolved, or quarantined. -/
def execQpStopped (q : QPRef) (s : State) : Res :=
  .next (
    let k := qpKey q
    let open' := s.rng.tags.any (fun e => !e.2.quar && match e.2.purpose with
      | .job q _ _ => q == k | .jobFlush q _ => q == k | .fetch q => q == k | _ => false)
    if qpState s k == 4 && !open' then wr s QP_STATUS_STATE k 0 else s)

/-! ### DRAIN (R212) -/

/-- R212: job `id` of queue pair `k` is in progress as DRAIN is entered: it writes the data that it has received in order and leaves with no
entry; its outstanding reads bring nothing more. -/
def jobCut (s : State) (k id : Nat) : State :=
  match jobAt s k id with
  | none => s
  | some j =>
    if j.st = .ended then s else
    let s := jobSet s k { j with fail := if j.fail = 0 then 1 else j.fail }
    let s := match jobCluster s (qpSlice k) id, jobAt s k id with
      | some cl, some j => if j.st = .running && !clusterHeld s cl then writeAll k cl (jobAvail j) s j else s
      | _, _ => s
    let mine := fun (p : Purpose) => match p with
      | .job q i _ => q == k && i == id | .jobFlush q i => q == k && i == id | _ => false
    let s := rngUpd s (fun r => { r with tags := r.tags.map (fun e => if mine e.2.purpose then (e.1, { e.2 with silent := true }) else e) })
    let s := { s with ckr := { s.ckr with stay := ndel s.ckr.stay id } }
    let s := awtClose s (fun a => a.job == some id)
    let q := qpAt s k
    qpSet s k { q with jobs := q.jobs.filter (fun x => x.id != id) }

/-- R212: DRAIN is entered. -/
def jobsCut (s : State) : State :=
  forEach s.rng.qp s (fun s e => forEach e.2.jobs s (fun s j => jobCut s e.1 j.id))

/-! ### Commands of the Shank after which engines may issue again (R100) -/

/-- From `s` to `t` some cluster's attachment is no longer held: the engines go on. -/
def pumpFreed (s t : State) : State :=
  if (List.range 8).any (fun k => clusterHeld s k && !clusterHeld t k) then pumpAll t else t

/-- PACKET_MATCH (R86 to R90). -/
def execPacketMatch (s : State) : Res := .next (pumpFreed s (packetMatch s))

/-- READBACK_COMPLETE (R103, R410, R411). -/
def execReadbackComplete (i o : Fin 72) (c : Fin 8) (r : Readback) (s : State) : Res := .next (pumpFreed s (readBack s (voqKey i o c) r))

/-- R414: a quota is written. -/
def ofmQuotaSet (s : State) (i v : Nat) : State := pumpFreed s (ofmQuotaPut s i v)

/-- R415: DUR_TC is written. -/
def durTcSet (s : State) (v : Nat) : State := pumpFreed s (durTcPut s v)

/-- OFM_QUOTA_WRITE (R414). -/
def execOfmQuotaWrite (m : Master) (n : Fin 16) (c : Fin 8) (v : BitVec 16) (s : State) : Res :=
  .next (asMaster s m OFM_QUOTA.off (fun s => ofmQuotaSet s (n.val * 8 + c.val) v.toNat))

/-- DUR_TC_WRITE (R415). -/
def execDurTcWrite (m : Master) (v : BitVec 8) (s : State) : Res :=
  .next (asMaster s m OFM_CTL_DUR_TC.off (fun s => durTcSet s v.toNat))

end Sys2Proof.Machine
end

