-- ==== Sys2Proof/Machine/Slices.lean ====
section
/-! DEFINITION. Slices and their commands, RESIZE, remapped VFs, crossing windows (13_partitions_sharing.md), and the Awl's
memory accesses (14_access_control.md). Partition resets are in Resets.lean. -/

namespace Sys2Proof.Machine

/-! ### Control pages -/

/-- The page offset from which the registers of the selected queue pair run, and where the slice-wide counters begin. -/
def qpOffset (off : Nat) : Bool := 0x20000018 ≤ off && off < 0x20000040

/-- The fields of [SLICE] reach whose slice `hit` names, and whose local queue pair `pair` names, take their reset values;
STATE goes by Table 7-7. -/
def pageReset (s : State) (hit : Nat → Bool) (pair : Nat → Bool) (wide : Bool) : State :=
  { s with regs := rreset s.regs (fun k =>
      keyReach k == reachCode .slice && k - keyIdx k != fkey QP_STATUS_STATE 0
        && (if qpOffset (keyOff k) then hit (keyIdx k / 256) && pair (keyIdx k % 256) else wide && hit (keyIdx k))) }

/-- A SLICE reset of every slice that `hit` names: queue pairs to STOPPING, the control page to its [SLICE] values
(Tables 13-2, 13-5). -/
def slicesStop (s : State) (hit : Nat → Bool) : State :=
  let s := forEach (s.slices.filter (fun e => hit e.1)) s (fun s e =>
    forEach (List.range e.2.qpCount) s (fun s q => qpStop s (e.1 * 256 + q)))
  pageReset s hit (fun _ => true) true

/-! ### PTN_STAT -/

/-- The enabled upstream PCIe ports of partition `n`, ascending (R348). -/
def upPorts (s : State) (n : Nat) : List Nat :=
  (List.range 64).filter (fun p => pcieOn s p && bit s PRT_CFG_DIR p && portPt s p == n)

/-- PTN_STAT of every partition follows its ports and slices; a new conflict raises its source (R348). -/
def ptnStat (s : State) : State :=
  forEach (List.range 16) s (fun s n =>
    let ups := upPorts s n
    let clash := 1 < ups.length
    let s := raiseIf (clash && !bit s PTN_STAT_UP_CONFLICT n) s 0x385 n
    let s := wrb (wr (wrb s PTN_STAT_UP_VALID n (!ups.isEmpty)) PTN_STAT_UPORT n (ups.headD 0)) PTN_STAT_UP_CONFLICT n clash
    wrb (wr s PTN_STAT_SLICES n (s.slices.filter (fun e => e.1 / 1024 == n)).length) PTN_STAT_ACTIVE n (bit s PTN_CFG_EN n))

/-! ### Slice commands (R363, Table 13-5) -/

/-- The slice that PTN_SLC_SEL names. -/
def slcSel (s : State) : Nat := sliceKey (rd s PTN_SLC_SEL_PARTITION) (rd s PTN_SLC_SEL_SLICE)

/-- The staging copy as a slice. -/
def slcStaged (s : State) : Slice :=
  { pasid := rd s PTN_SLC_PASID_PASID, pasidV := bit s PTN_SLC_PASID_PASID_V, qpBase := rd s PTN_SLC_QP_QP_BASE,
    qpCount := rd s PTN_SLC_QP_QP_COUNT, vecBase := rd s PTN_SLC_VEC_VEC_BASE, vecCount := rd s PTN_SLC_VEC_VEC_COUNT,
    share := rd s PTN_SLC_DMA_SHARE, cluster := rd s PTN_SLC_DMA_CLUSTER, ovfQuota := rd s PTN_SLC_OVF_OVF_QUOTA, resetting := false }

/-- RANGE: a value of slice `x` of partition `n` lies outside Table 13-4. -/
def slcRange (s : State) (n : Nat) (x : Slice) : Bool :=
  256 < x.qpCount || 16384 < x.qpBase + x.qpCount || rd s PTN_CFG_VECM1 n + 1 < x.vecBase + x.vecCount || x.share = 0

/-- Slice `x`, as number `k`, shares a global queue pair with another slice. -/
def slcQpClash (s : State) (k : Nat) (x : Slice) : Bool :=
  s.slices.any (fun e => e.1 != k && meets (x.qpBase, x.qpBase + x.qpCount) (e.2.qpBase, e.2.qpBase + e.2.qpCount))

/-- Slice `x`, as number `k`, shares a vector with another slice of its partition. -/
def slcVecClash (s : State) (k : Nat) (x : Slice) : Bool :=
  s.slices.any (fun e => e.1 != k && e.1 / 1024 == k / 1024
    && meets (x.vecBase, x.vecBase + x.vecCount) (e.2.vecBase, e.2.vecBase + e.2.vecCount))

/-- Another slice of the partition has the PASID, or also carries none. -/
def slcPasidClash (s : State) (k : Nat) (x : Slice) : Bool :=
  s.slices.any (fun e => e.1 != k && e.1 / 1024 == k / 1024 && e.2.pasidV == x.pasidV && (!x.pasidV || e.2.pasid == x.pasid))

/-- Some queue pair of slice `k` is not DISABLED. -/
def slcBusy (s : State) (k : Nat) : Bool :=
  (nget? s.slices k).any (fun x => (List.range x.qpCount).any (fun q => qpState s (k * 256 + q) != 0))

/-- The command's RESULT, and the state that follows where it is DONE. -/
def slcResult (s : State) (r : Nat) : State := wr s PTN_SLC_CMD_RESULT 0 r

/-- CREATE. -/
def slcCreate (s : State) : State :=
  let k := slcSel s
  let n := k / 1024
  let x := slcStaged s
  if !bit s PTN_CFG_EN n then slcResult s 10
  else if (nget? s.slices k).isSome then slcResult s 3
  else if 4096 ≤ s.slices.length then slcResult s 8
  else if slcRange s n x then slcResult s 4
  else if slcQpClash s k x || slcVecClash s k x || slcPasidClash s k x then slcResult s 5
  else
    let s := pageReset { s with slices := nput s.slices k x } (· == k) (fun _ => true) true
    ptnStat (slcResult s 0)

/-- Some PLC_POOL_REC or live PLC_MBR_DB of an enabled pool names a queue pair of `x`. -/
def slcNamed (s : State) (x : Slice) : Bool :=
  let mine := fun (g : Nat) => x.qpBase ≤ g && g < x.qpBase + x.qpCount
  (setIdx s PLC_POOL_CTL_EN).any (fun p => mine (rd s PLC_POOL_REC p))
    || s.plc.mbr.any (fun e => bit s PLC_POOL_CTL_EN (e.1 / 64) && mine e.2.db)

/-- DELETE. -/
def slcDelete (s : State) : State :=
  let k := slcSel s
  match nget? s.slices k with
  | none => slcResult s 2
  | some x =>
    if slcBusy s k then slcResult s 7
    else if slcNamed s x then slcResult s 1
    else ptnStat (slcResult { s with slices := ndel s.slices k } 0)

/-- RECREATE (R366): the block moves to the staged base, and every register that named a pair of it follows. -/
def slcRecreate (s : State) : State :=
  let k := slcSel s
  let y := slcStaged s
  match nget? s.slices k with
  | none => slcResult s 2
  | some x =>
    let old := fun (g : Nat) => x.qpBase ≤ g && g < x.qpBase + x.qpCount
    let gone := fun (g : Nat) => old g && y.qpCount ≤ g - x.qpBase
    if slcBusy s k then slcResult s 7
    else if slcRange s (k / 1024) y || y.pasid != x.pasid || y.pasidV != x.pasidV then slcResult s 4
    else if slcQpClash s k y || slcVecClash s k y then slcResult s 5
    else if (List.range 1024).any (fun p => gone (rd s PLC_POOL_REC p)) || gone (rd s PLC_MBR_DB)
        || s.plc.mbr.any (fun e => gone e.2.db) then slcResult s 1
    else
      let new := fun (g : Nat) => if old g then y.qpBase + (g - x.qpBase) else g
      let s := forEach (List.range 1024) s (fun s p => wr s PLC_POOL_REC p (new (rd s PLC_POOL_REC p)))
      let s := wr s PLC_MBR_DB 0 (new (rd s PLC_MBR_DB))
      let moved := s.plc.bound.filter (fun e => old e.1)
      let s := plcUpd s (fun p => { p with
        mbr := p.mbr.map (fun e => (e.1, { e.2 with db := new e.2.db }))
        bound := moved.foldl (fun b e => nput b (new e.1) e.2) (p.bound.filter (fun e => !old e.1)) })
      let s := pageReset s (· == k) (fun q => x.qpCount ≤ q) false
      slcResult { s with slices := nput s.slices k { y with cluster := x.cluster, resetting := x.resetting } } 0

/-- RESET: a SLICE reset; the members that the slice consumes fail with cause 5 (R165). -/
def slcReset (s : State) : State :=
  let k := slcSel s
  match nget? s.slices k with
  | none => slcResult s 2
  | some x =>
    let s := membersOfSlices (wr s RST_CAUSE_SLICE 0 1) (· == k)
    let s := slicesStop s (· == k)
    slcResult { s with slices := nput s.slices k { x with resetting := true } } 0

/-- LOAD: the live slice in the staging copy. -/
def slcLoad (s : State) : State :=
  match nget? s.slices (slcSel s) with
  | none => slcResult s 2
  | some x =>
    let s := wrb (wr s PTN_SLC_PASID_PASID 0 x.pasid) PTN_SLC_PASID_PASID_V 0 x.pasidV
    let s := wr (wr s PTN_SLC_QP_QP_BASE 0 x.qpBase) PTN_SLC_QP_QP_COUNT 0 x.qpCount
    let s := wr (wr s PTN_SLC_VEC_VEC_BASE 0 x.vecBase) PTN_SLC_VEC_VEC_COUNT 0 x.vecCount
    let s := wr (wr s PTN_SLC_DMA_SHARE 0 x.share) PTN_SLC_DMA_CLUSTER 0 x.cluster
    slcResult (wr s PTN_SLC_OVF_OVF_QUOTA 0 x.ovfQuota) 0

/-- SLICE_CREATE (R363). -/
def execSliceCreate (m : Master) (s : State) : Res := .next (asMaster s m PTN_SLC_CMD_CREATE.off slcCreate)

/-- SLICE_DELETE (R363). -/
def execSliceDelete (m : Master) (s : State) : Res := .next (asMaster s m PTN_SLC_CMD_DELETE.off slcDelete)

/-- SLICE_RECREATE (R366). -/
def execSliceRecreate (m : Master) (s : State) : Res := .next (asMaster s m PTN_SLC_CMD_RECREATE.off slcRecreate)

/-- SLICE_RESET (R363). -/
def execSliceReset (m : Master) (s : State) : Res := .next (asMaster s m PTN_SLC_CMD_RESET.off slcReset)

/-- SLICE_LOAD (R363). -/
def execSliceLoad (m : Master) (s : State) : Res := .next (asMaster s m PTN_SLC_CMD_LOAD.off slcLoad)

/-! ### RESIZE (R364, R365) -/

/-- The slice, WHEN, T and TIMEOUT of a RESIZE descriptor (Table 13-6). -/
def rszSlice (d : Bytes) : Nat := sliceKey (dB d 8 % 16) (dF d 9 2 % 1024)
def rszNow (d : Bytes) : Bool := (dB d 11).testBit 0
def rszTick (d : Bytes) : Nat := dF d 24 6
def rszTimeout (d : Bytes) : Nat := dF d 32 4

/-- The slice as a RESIZE descriptor changes it: CHG names what changes. -/
def rszNew (d : Bytes) (x : Slice) : Slice :=
  let chg := dB d 11
  { x with
    qpCount := if chg.testBit 1 then dF d 12 2 % 512 else x.qpCount
    vecBase := if chg.testBit 2 then dF d 14 2 % 2048 else x.vecBase
    vecCount := if chg.testBit 2 then dF d 16 2 % 4096 else x.vecCount
    share := if chg.testBit 3 then dB d 18 else x.share
    ovfQuota := if chg.testBit 4 then dF d 20 2 else x.ovfQuota }

/-- PTN_RESIZE_LAST takes a result for the slice named. -/
def rszLast (s : State) (d : Bytes) (r : Nat) : State :=
  wr (wr (wr s PTN_RESIZE_LAST_RESULT 0 r) PTN_RESIZE_LAST_SLICE 0 (dF d 9 2 % 1024)) PTN_RESIZE_LAST_PARTITION 0 (dB d 8 % 16)

/-- The check at the start of a RESIZE (R364): the slice exists, its new values lie within Table 13-4, and its vectors
are nobody else's. 0 where it passes, else the RESULT. -/
def rszCheck (s : State) (d : Bytes) : Nat :=
  let k := rszSlice d
  match nget? s.slices k with
  | none => 2
  | some x => let y := rszNew d x
    if slcRange s (k / 1024) y then 4 else if slcVecClash s k y then 5 else 0

/-- R365: the application: 0 where it passes, else the RESULT of the step refused. While a PART reset holds the pairs in STOPPING, that is no ground
to refuse (13_partitions_sharing.md, "RESIZE due at a tick"). -/
def rszRefused (s : State) (d : Bytes) : Nat :=
  match rszCheck s d, nget? s.slices (rszSlice d) with
  | 0, some x =>
    let y := rszNew d x
    let k := rszSlice d
    if slcQpClash s k y then 6
    else if (List.range (x.qpCount - y.qpCount)).any (fun i =>
      let st := qpState s (k * 256 + y.qpCount + i)
      st != 0 && !(st == 4 && partInReset s (k / 1024))) then 7 else 0
  | r, _ => r

/-- R365: the RESIZE of job `j` is applied in one cell slot, or refused, and the job ends. -/
def rszApply (s : State) (k : Nat) (j : Job) : State :=
  let d := j.desc
  match rszRefused s d, nget? s.slices (rszSlice d) with
  | 0, some x =>
    let y := rszNew d x
    let s := forEach (List.range (x.qpCount - y.qpCount)) s (fun s i => wr s QP_STATUS_STATE (rszSlice d * 256 + y.qpCount + i) 0)
    let s := pageReset { s with slices := nput s.slices (rszSlice d) y } (· == rszSlice d) (fun q => x.qpCount ≤ q) false
    jobEnd (rszLast s d 0) k j.id 0
  | r, _ => jobEnd (rszLast s d r) k j.id 2

/-- RESIZE (R364, R365): the check at its start; applied at once where WHEN = 1 or its tick has passed, else it waits. -/
def execResize (q : QPRef) (s : State) : Res :=
  .next (onJob q 15 s (fun s k j =>
    let d := j.desc
    match rszCheck s d with
    | 0 => if rszNow d || tickReached (rd s LCE_TICK_NOW) (rszTick d) then rszApply s k j else jobSet s k { j with st := .waiting }
    | r => jobEnd (rszLast s d r) k j.id 2))

/-- R365: at a tick start, each RESIZE whose tick it reaches is applied. -/
def resizeTicks (s : State) : State :=
  forEach s.rng.qp s (fun s e => forEach e.2.jobs s (fun s j =>
    if j.st = .waiting && dOp j.desc == 15 && tickReached (rd s LCE_TICK_NOW) (rszTick j.desc) then rszApply s e.1 j else s))

/-- RESIZE_TIMEOUT (R365): TIMEOUT µs have passed before the RESIZE was applied. -/
def execResizeTimeout (q : QPRef) (s : State) : Res :=
  .next (
    let k := qpKey q
    match (qpAt s k).jobs.find? (fun j => j.st = .waiting && dOp j.desc == 15 && rszTimeout j.desc != 0) with
    | some j => jobEnd (rszLast s j.desc 9) k j.id 13
    | none => s)

/-! ### Bridge places (R239) and remapped VFs (R355 to R357) -/

/-- R239: a bridge assigned after the partition's latest PART reset takes the lowest free place. -/
def placeTake (s : State) (n p : Nat) : State :=
  let used := (s.fab.places.filter (fun e => e.1 / 64 == n)).map (·.2)
  match nget? s.fab.places (n * 64 + p), (List.range 63).find? (fun k => !used.contains k) with
  | none, some k => fabUpd s (fun x => { x with places := nput x.places (n * 64 + p) k })
  | _, _ => s

/-- R239: at a PART reset of partition `n` its bridges take their places in ascending port order. -/
def placesFix (s : State) (n : Nat) : State :=
  let s := fabUpd s (fun x => { x with places := x.places.filter (fun e => e.1 / 64 != n) })
  forEach (bridgePorts s n) s (fun s p => placeTake s n p)

/-- R357: setting VALID of entry `i` is refused. -/
def remapRefused (s : State) (i : Nat) : Bool :=
  let p := rd s PTN_RID_PORT i
  let n := rd s PTN_RID_PARTITION i
  let clash := fun (f : Nat → Bool) => (remapValid s).any (fun j => j != i && rd s PTN_RID_PORT j == p && f j)
  n == portPt s p
    || clash (fun j => rd s PTN_RID_RID_REAL j == rd s PTN_RID_RID_REAL i)
    || clash (fun j => rd s PTN_RID_PARTITION j == n && rd s PTN_RID_RID_GUEST j == rd s PTN_RID_RID_GUEST i)
    || (bit s PTN_RID_XWIN_V i && rd s PTN_XW_CTL_SRC_PT (rd s PTN_RID_XWIN i) != n)

/-- R356, R357: entry `i` is written whole: its fields while VALID = 0, then VALID. A cleared entry keeps its translation
for the completions of its reads. -/
def remapWrite (s : State) (i v : Nat) : State :=
  let put := fun (s : State) (f : Fld) => wr s f i (v / 2 ^ f.lsb)
  if bit s PTN_RID_VALID i then
    if v % 2 = 1 then s else
    let old := (rd s PTN_RID_PARTITION i, guestRid s i, rd s PTN_RID_PORT i, rd s PTN_RID_RID_REAL i)
    fabUpd (wr s PTN_RID_VALID i 0) (fun x => { x with ridOld := old :: x.ridOld.filter (fun e => !(e.1 == old.1 && e.2.1 == old.2.1)) })
  else
    let s := put (put (put s PTN_RID_PORT) PTN_RID_PARTITION) PTN_RID_RID_REAL
    let s := put (put (put s PTN_RID_RID_GUEST) PTN_RID_XWIN) PTN_RID_XWIN_V
    if v % 2 = 0 || remapRefused s i then s else
    placeTake (wr s PTN_RID_VALID i 1) (rd s PTN_RID_PARTITION i) (rd s PTN_RID_PORT i)

/-- REMAP_VALID_WRITE (R357). -/
def execRemapValidWrite (m : Master) (i : Fin 4096) (v : BitVec 64) (s : State) : Res :=
  .next (asMaster s m PTN_RID_VALID.off (fun s => remapWrite s i v.toNat))

/-! ### Crossing windows (R368, R369) -/

/-- The shadow copy of crossing window `x`. -/
def xwShadow (s : State) (x : Nat) : XWin :=
  { en := bit s PTN_XW_CTL_EN x, src := rd s PTN_XW_CTL_SRC_PT x, tgt := rd s PTN_XW_CTL_TGT_PT x,
    glob := bit s PTN_XW_CTL_TGT_GLOBAL x, k := rd s PTN_XW_CTL_K x, base := rd s PTN_XW_BASE x, addr := rd s PTN_XW_TGT x }

/-- A crossing window after a WARM reset. -/
def xwOff : XWin := { en := false, src := 0, tgt := 0, glob := false, k := 12, base := 0, addr := 0 }

/-- The live copy of crossing window `x`. -/
def xwLive (s : State) (x : Nat) : XWin := nget s.fab.xw x xwOff

/-- PENDING: the shadow of window `x` differs from its live copy. -/
def xwPending (s : State) (x : Nat) : Bool := xwShadow s x != xwLive s x

/-- The range of a crossing window. -/
def xwRange (v : XWin) : Nat × Nat := (v.base, v.base + 2 ^ v.k)

/-- The first check of R368 that window `x` fails as `v`, among the windows `all` that will be live: a STATUS code. -/
def xwFail (s : State) (all : NMap XWin) (x : Nat) (v : XWin) : Nat :=
  let r := xwRange v
  if !v.en then 0
  else if v.base % 2 ^ v.k != 0 || v.addr % 2 ^ v.k != 0 then 2
  else if all.any (fun e => e.1 != x && e.2.en && e.2.src == v.src && meets r (xwRange e.2))
      || (setIdx s PLC_WIN_CTL_EN).any (fun w => winSpace s w false v.src && (winRanges s w).any (meets r))
      || (List.range 4).any (fun j => let i := v.src * 4 + j
          bit s FAB_GAP_EN i && meets r (rd s FAB_GAP_BASE i, rd s FAB_GAP_BASE i + 2 ^ rd s FAB_GAP_K i)) then 3
  else if !v.glob && v.src == v.tgt then 4
  else if !bit s PTN_CFG_EN v.src || (!v.glob && !bit s PTN_CFG_EN v.tgt) then 5
  else 0

/-- A translation by a window in `xs` is marked as made by a copy that has been replaced (R369). -/
def xwMark (xs : List Nat) (x : Option Nat) : Option Nat :=
  match x with
  | some i => if xs.contains i then some (i + 512) else some i
  | none => none

/-- R369: what the windows `xs` have translated so far is marked. -/
def xwRetire (s : State) (xs : List Nat) : State :=
  let q := fun (p : QPkt) => { p with xw := xwMark xs p.xw }
  let st := fun (p : Staged) => { p with q := q p.q }
  { s with
    shk := { s.shk with
      voq := s.shk.voq.map (fun e => (e.1, e.2.map q))
      staging := s.shk.staging.map (fun e => (e.1, e.2.map st))
      wait := s.shk.wait.map (fun e => (e.1, e.2.map st))
      held := s.shk.held.map (fun h => { h with q := q h.q }) }
    fab := { s.fab with
      ret := s.fab.ret.map (fun e => (e.1, { e.2 with xw := xwMark xs e.2.xw }))
      retWait := s.fab.retWait.map (fun w => { w with xw := xwMark xs w.xw }) } }

/-- R368: GO commits window WIN, or with ALL every window whose shadow differs; all change together or none does. -/
def xwCommit (s : State) (win : Nat) (all : Bool) : State :=
  let xs := if all then (List.range 512).filter (xwPending s) else [win]
  let next := xs.foldl (fun m x => nset xwOff m x (xwShadow s x)) s.fab.xw
  let s := wr (wrb (wr s PTN_XW_COMMIT_WIN 0 win) PTN_XW_COMMIT_ALL 0 all) PTN_XW_COMMIT_GO 0 0
  match xs.find? (fun x => xwFail s next x (xwShadow s x) != 0) with
  | some x => wr (wr s PTN_XW_COMMIT_STATUS 0 (xwFail s next x (xwShadow s x))) PTN_XW_COMMIT_FAIL_WIN 0 x
  | none =>
    let s := fabUpd (xwRetire s xs) (fun f => { f with xw := next })
    wr (wr s PTN_XW_COMMIT_STATUS 0 0) PTN_XW_COMMIT_DRAINED 0 0

/-- XW_COMMIT (R368). -/
def execXwCommit (m : Master) (win : Fin 512) (all : Bool) (s : State) : Res :=
  .next (asMaster s m PTN_XW_COMMIT_GO.off (fun s => xwCommit s win all))

/-- Something translated by a replaced copy is still inside the part. -/
def xwLeft (s : State) : Bool :=
  let old := fun (x : Option Nat) => x.any (512 ≤ ·)
  s.shk.voq.any (fun e => e.2.any (fun p => old p.xw)) || s.shk.staging.any (fun e => e.2.any (fun p => old p.q.xw))
    || s.shk.wait.any (fun e => e.2.any (fun p => old p.q.xw)) || s.shk.held.any (fun h => old h.q.xw)
    || s.fab.ret.any (fun e => old e.2.xw) || s.fab.retWait.any (fun w => old w.xw)

/-- XW_DRAINED (R369): DRAINED sets once nothing translated by a replaced copy is left. -/
def execXwDrained (s : State) : Res := .next (if xwLeft s then s else wr s PTN_XW_COMMIT_DRAINED 0 1)

/-! ### The Awl's memory accesses (R391, R393) -/

/-- The access ends with `code`. -/
def awlEnd (s : State) (code : Nat) : State :=
  wr (wr { s with awt := { s.awt with awlBusy := false, awlWait := false } } AWL_STATUS 0 code) AWL_CTL_GO 0 0

/-- R393: an access denied with LOCKED. -/
def awlLocked (s : State) (r : AccReq) : State := awlEnd (raise (awtLog (inc s AWT_LOCKED) r 5) 0x305) 3

/-- R391, R393, R404: GO starts the access described in AWL_ADDR, AWL_DATA and AWL_CTL; while one runs, nothing. -/
def awlGo (s : State) : State :=
  if s.awt.awlBusy then s else
  let a := rd s AWL_ADDR
  let n := rd s AWL_CTL_PARTITION
  let k := rd s AWL_CTL_VIA
  let size := rd s AWL_CTL_SIZEM1 + 1
  let w := bit s AWL_CTL_WRITE
  let glob := bit s AWL_CTL_GLOBAL
  let r : AccReq := { addr := a, len := size, owner := n, glob := glob, kind := 0x11, rid := 0, dev := 0, pasid := none,
                      need := if w then .write else .read }
  if 8 < a % 8 + size then awlEnd s 7
  else if rd s CKR_CLU_STATUS_STATE k != 2 then awlEnd s 5
  else if s.awt.awlShut || awtLockedRange s r then awlLocked s r
  else match awtCheck s r with
  | .deny d => awlEnd (awtDeny s r d) 2
  | .permit i =>
    let aim : Aim := if glob then .glob else .addr
    if w then
      let c : Cell := { inp := 64 + k, cls := 0, pt := n, pk := awtAttrs s i (clickWr s n none a 0 (leBytes size (rd s AWL_DATA))),
                        awl := true }
      awlEnd (aimed (awtTrack s c n) aim n c) 0
    else
      awlTry (wr (wr { s with awt := { s.awt with awlBusy := true, awlWait := true } } AWL_STATUS 0 1) AWL_CTL_GO 0 1)

/-- AWL_ACCESS (R391). -/
def execAwlAccess (m : Master) (s : State) : Res := .next (asMaster s m AWL_CTL_GO.off awlGo)

/-- AWL_READ_COMPLETE (R391): the read's completion arrives; its tag is free. -/
def execAwlReadComplete (st : CplStatus) (data : BitVec 64) (s : State) : Res :=
  .next (if !s.awt.awlBusy then s else
    pumpAll (awlDone (rngUpd s (fun r => { r with tags := r.tags.filter (fun e => !(e.2.purpose = .awl && !e.2.quar)) })) st data.toNat))

/-- AWL_READ_TIMEOUT (R391): 1 ms has passed; the tag is quarantined (R200). -/
def execAwlReadTimeout (s : State) : Res :=
  .next (if !s.awt.awlBusy then s else
    awlEnd (rngUpd s (fun r => { r with tags := r.tags.map (fun e =>
      if e.2.purpose = .awl then (e.1, { e.2 with quar := true }) else e) })) 6)

end Sys2Proof.Machine
end

