-- ==== Sys2Proof/Machine/Clickers.lean ====
section
/-! DEFINITION. Clicker clusters and their firmware (15_clickers.md): the image check, installation, cluster states
(Table 15-4), hand-off of work, engines and mailboxes. -/

namespace Sys2Proof.Machine

/-- Clusters changed by `f`. -/
def ckrUpd (s : State) (f : Ckr → Ckr) : State := { s with ckr := f s.ckr }

/-- STATE of cluster `k`: 0 EMPTY, 1 READY, 2 RUN, 3 DRAINING, 4 LOADING, 5 FENCED. -/
def cluState (s : State) (k : Nat) : Nat := rd s CKR_CLU_STATUS_STATE k
def cluTo (s : State) (k v : Nat) : State := wr s CKR_CLU_STATUS_STATE k v

/-! ### The staged image (R397 to R400) -/

/-- `n` bytes of the staging buffer from `a`. -/
def stg (s : State) (a n : Nat) : Bytes := cgets s.ckr.stg a n
def stgWord (s : State) (a : Nat) : Nat := leNat (stg s a 4)

/-- All of `n` bytes from `a` are 0. -/
def stgZero (s : State) (a n : Nat) : Bool := (stg s a n).all (· == 0)

/-- R399: RESULT of the image check: 0, or the first failure of 1 MAGIC, 2 LENGTH, 3 RESERVED, 4 KEY, 5 SIG. -/
def imageCheck (s : State) : Nat :=
  let len := stgWord s 12
  if stgWord s 0 != 0x4B435241 || stgWord s 4 != 1 then 1
  else if len % 512 != 0 || 2096640 < len then 2
  else if !(stgZero s 20 12 && stgZero s 129 127 && stgZero s 352 160) then 3
  else if !Config.keyHashOk (stg s 32 97) then 4
  else if !Config.imageSigOk (stg s 32 97) (stg s 256 96) (stg s 0 256 ++ stg s 512 len) then 5
  else 0

/-- The image that a copy takes: header and body of the staging buffer. -/
def stagedImage (s : State) : List Host.Cell := s.ckr.stg.filter (fun c => c.1 < 512 + stgWord s 12)

/-- R399: bytes written to the staging buffer: VERIFIED clears, and a check that runs ends CHANGED. -/
def stagingPut (s : State) (off : Nat) (data : Bytes) : State :=
  if data.isEmpty then s else
  ckrUpd (wr s CKR_IMG_STATUS_VERIFIED 0 0) (fun c =>
    { c with stg := cputs c.stg off (data.take (0x200000 - off)), changed := c.changed || c.verifying })

/-- STAGING_WRITE (R399). -/
def execStagingWrite (m : Master) (off : BitVec 21) (data : Bytes) (s : State) : Res :=
  .next (asMaster s m (0x4000000 + off.toNat) (fun s => stagingPut s off.toNat data))

/-- R399: VERIFY starts a check. -/
def imageVerify (s : State) : State :=
  if bit s CKR_IMG_STATUS_BUSY then s else
  ckrUpd (wr s CKR_IMG_STATUS_BUSY 0 1) (fun c => { c with verifying := true, changed := false })

/-- IMAGE_VERIFY (R399). -/
def execImageVerify (m : Master) (s : State) : Res := .next (asMaster s m CKR_IMG_CMD_VERIFY.off imageVerify)

/-- IMAGE_VERIFY_DONE (R399): VERIFIED, or the first failure and its source; CHANGED is 6. -/
def execImageVerifyDone (s : State) : Res :=
  .next (if !s.ckr.verifying then s else
    let r := if s.ckr.changed then 6 else imageCheck s
    let s := wr (wr s CKR_IMG_STATUS_BUSY 0 0) CKR_IMG_STATUS_RESULT 0 r
    let s := ckrUpd s (fun c => { c with verifying := false, changed := false })
    let s := if r = 0 then wr s CKR_IMG_VERSION 0 (stgWord s 8) else s
    raiseIf (r != 0 && r != 6) (wrb s CKR_IMG_STATUS_VERIFIED 0 (r == 0)) 0x478)

/-- The staged image is copied into cluster `k`'s shared memory, and its version taken. -/
def imageCopy (s : State) (k : Nat) : State :=
  wr (ckrUpd s (fun c => { c with img := nput c.img k (stagedImage s), ran := c.ran.filter (· != k) })) CKR_CLU_VERSION k (stgWord s 8)

/-- The clusters that INSTALL with `mask` takes: EMPTY or FENCED (R400). -/
def installable (s : State) (mask : Nat) : List Nat :=
  (List.range 8).filter (fun k => mask.testBit k && (cluState s k == 0 || cluState s k == 5))

/-- R400: INSTALL, refused unless VERIFIED. -/
def imageInstall (s : State) : State :=
  let mask := rd s CKR_IMG_CMD_MASK
  if bit s CKR_IMG_STATUS_BUSY then s
  else if !bit s CKR_IMG_STATUS_VERIFIED then wr s CKR_IMG_STATUS_RESULT 0 7
  else
    let s := wr (wr s CKR_IMG_STATUS_BUSY 0 1) CKR_IMG_STATUS_RESULT 0 0
    ckrUpd (forEach (installable s mask) s imageCopy) (fun c => { c with installing := some mask })

/-- IMAGE_INSTALL (R400). -/
def execImageInstall (m : Master) (mask : BitVec 8) (s : State) : Res :=
  .next (asMaster s m CKR_IMG_CMD_INSTALL.off (fun s => imageInstall (wr s CKR_IMG_CMD_MASK 0 mask.toNat)))

/-- The twelve engines of cluster `k`, with those that hold. -/
def engines (k : Nat) : List Nat := (List.range 12).map (k * 12 + ·)

/-- STATE of engine `e`: 0 OFF, 1 RUN, 2 FENCED. -/
def engState (s : State) (e : Nat) : Nat := rd s CKR_ENG_STATUS_STATE e

/-- The engines of cluster `k` in state `a` go to state `b`. -/
def enginesFrom (s : State) (k a b : Nat) : State :=
  forEach (engines k) s (fun s e => if engState s e == a then wr (wr s CKR_ENG_STATUS_STATE e b) CKR_ENG_STATUS_CAUSE e 0 else s)

/-- Every engine of cluster `k` is held in reset. -/
def enginesHeld (s : State) (k : Nat) : State := enginesFrom (enginesFrom s k 1 0) k 2 0

/-- A cluster that is FENCED no longer holds its fences or those of its engines (R438). -/
def cluUnfence (s : State) (k : Nat) : State :=
  fenceFree s (fun n => (0x460 ≤ n && n < 0x478 && n % 8 == k) || (0x400 ≤ n && n < 0x460 && (n - 0x400) / 12 == k))

/-- IMAGE_INSTALL_DONE (R400): the clusters copied become READY, their engines held in reset. -/
def execImageInstallDone (s : State) : Res :=
  .next (match s.ckr.installing with
    | none => s
    | some mask =>
      let s := ckrUpd (wr s CKR_IMG_STATUS_BUSY 0 0) (fun c => { c with installing := none })
      forEach (installable s mask) s (fun s k =>
        let was := cluState s k == 5
        let s := cluTo (enginesHeld s k) k 1
        if was then cluUnfence s k else s))

/-! ### Work of a cluster and its hand-off (R401 to R404) -/

/-- Job `j` of queue pair `k` begins again on another cluster (R401): from its first byte, a PLACE_COPY with its member
and buffer; a FENCE issues its flush reads again; the others have nothing to repeat. -/
def jobAgain (s : State) (k : Nat) (j : Job) : State :=
  let s := ckrUpd s (fun c => { c with stay := ndel c.stay j.id })
  let op := dOp j.desc
  if (op == 1 || op == 2 || op == 3) && j.st != .ready then
    jobSet (awtClose s (fun a => a.job == some j.id)) k
      { j with st := .ready, status := 0, written := 0, asked := 0, data := [], detail := 0, flushes := 0, toFlush := [], sent := [],
               ports := [], fail := 0 }
  else if op == 6 && j.st == .flushing then jobSet s k { j with flushes := 0, toFlush := j.toFlush ++ j.sent, sent := [] }
  else s

/-- What the reads of cluster `k` were for is to be asked again; their tags are quarantined (R200, R402). -/
def tagsCut (s : State) (k : Nat) : State :=
  forEach s.rng.tags s (fun s e =>
    if e.2.cluster != k || e.2.quar then s else
    let s := rngUpd s (fun r => { r with tags := nput r.tags e.1 { e.2 with quar := true } })
    match e.2.purpose with
    | .pu u life => let x := puAt s u
      if x.life == life && x.state == 5 && !x.due then puSet s u { x with again := true } else s
    | .fetch q => if e.2.silent then s else qpSet s q { (qpAt s q) with fetching := 0 }
    | .ring pm => memberSet s (pm / 64) (pm % 64) { (member s (pm / 64) (pm % 64)) with reading := 0 }
    | _ => s)

/-- The started jobs that cluster `c` works on, with their queue pairs. -/
def jobsOn (s : State) (c : Nat) : List (Nat × Job) :=
  s.rng.qp.flatMap (fun e => (e.2.jobs.filter (fun j => jobCluster s (qpSlice e.1) j.id == some c)).map (fun j => (e.1, j)))

/-- The started jobs of slices whose CLUSTER is `k` stay on the cluster that works on them. -/
def jobsStay (s : State) (k : Nat) : State :=
  forEach s.rng.qp s (fun s e =>
    if !(nget? s.slices (qpSlice e.1)).any (fun x => x.cluster == k) then s else
    forEach e.2.jobs s (fun s j =>
      match nget? s.ckr.stay j.id, sliceCluster s (qpSlice e.1) with
      | none, some c => ckrUpd s (fun x => { x with stay := nput x.stay j.id c })
      | _, _ => s))

/-- R404: the work of cluster `k` cannot be served. -/
def unserved (s : State) (k : Nat) : State := raise (wr s CKR_CLU_STATUS_UNSERVED k 1) 0x479 k

/-- R401: the work of cluster `k` is to go to cluster `t`, or is unserved where `t` is not in RUN. -/
def handGo (s : State) (k t : Nat) : State :=
  if cluState s t != 2 then unserved (ckrUpd s (fun c => { c with hand := ndel c.hand k })) k
  else ckrUpd s (fun c => { c with hand := nput c.hand k t })

/-- Cluster `k` has left RUN: Awl accesses through it end CA (R404), and a mailbox request open is aborted (R407). -/
def cluStops (s : State) (k : Nat) : State :=
  let s := if s.awt.awlBusy && rd s AWL_CTL_VIA == k then awlEnd s 5 else s
  if bit s CKR_MBX_CTL_REQ k then wr (wr s CKR_MBX_CTL_ACK k 1) CKR_MBX_CTL_ABORT k 1 else s

/-- Cluster `k` ends its work at once and goes to state `to'`: its jobs begin again elsewhere, its tags are quarantined, and
the work that it served goes to the sibling of its own cluster (R401), or home where that is in RUN. -/
def cluLeaves (s : State) (k to' : Nat) : State :=
  let served := (List.range 8).filter (fun j => rd s CKR_CLU_STATUS_SERVING j == k && cluState s k == 2)
  let s := forEach (jobsOn s k) s (fun s e => jobAgain s e.1 e.2)
  let s := cluStops (tagsCut (cluTo s k to') k) k
  forEach served s (fun s j => if j = k then handGo s k (rd s CKR_CLU_CTL_SIB k) else handGo s j j)

/-- WORK_HANDOFF_DONE (R401): the cluster's pools, slices and rings are served by the target; jobs that another cluster in RUN
had started finish there (R403). -/
def execWorkHandoffDone (k : Fin 8) (s : State) : Res :=
  .next (match nget? s.ckr.hand k with
    | none => s
    | some t =>
      if cluState s t != 2 then handGo s k t else
      let s := ckrUpd (jobsStay s k) (fun c => { c with hand := ndel c.hand k })
      pumpAll (wr (wr s CKR_CLU_STATUS_SERVING k t) CKR_CLU_STATUS_UNSERVED k 0))

/-- R402: the result of SWAP: 0 DONE, 1 NO_SIB, 2 NOT_VERIFIED. -/
def swapResult (s : State) (k : Nat) : Nat :=
  let j := rd s CKR_CLU_CTL_SIB k
  if j == k || cluState s j != 2 then 1 else if !bit s CKR_IMG_STATUS_VERIFIED then 2 else 0

/-- R402: SWAP hands cluster `k`'s work to its sibling; what it has started runs to its end. -/
def cluSwap (s : State) (k : Nat) : State :=
  if cluState s k != 2 then s else
  let r := swapResult s k
  let s := wr s CKR_CLU_CMD_RESULT k r
  if r != 0 then s else
  let served := (List.range 8).filter (fun j => rd s CKR_CLU_STATUS_SERVING j == k)
  let s := forEach served s jobsStay
  let s := cluStops (cluTo s k 3) k
  forEach served s (fun s j => if j = k then handGo s k (rd s CKR_CLU_CTL_SIB k) else handGo s j j)

/-- CLUSTER_SWAP (R402). -/
def execClusterSwap (m : Master) (k : Fin 8) (s : State) : Res :=
  .next (asMaster s m (CKR_CLU_CMD_SWAP.off + 0x20 * k) (fun s => cluSwap s k))

/-- Cluster `k` enters LOADING: the staging image is copied in (Table 15-4). -/
def cluLoading (s : State) (k : Nat) : State := cluTo (imageCopy (enginesFrom s k 1 0) k) k 4

/-- CLUSTER_DRAIN_END (R402): what DRAINING cluster `k` had started is done, or DRAIN_TO has passed, and what is open begins again
on the sibling. -/
def execClusterDrainEnd (k : Fin 8) (timedOut : Bool) (s : State) : Res :=
  .next (
    if cluState s k != 3 then s else
    let jobs := jobsOn s k
    if timedOut then cluLoading (tagsCut (forEach jobs s (fun s e => jobAgain s e.1 e.2)) k) k
    else if jobs.isEmpty && !s.rng.tags.any (fun e => e.2.cluster == k.val && !e.2.quar) then cluLoading s k
    else s)

/-- Cluster `k` is in RUN: its engines run; its work returns to it where RETURN says so or nothing serves it, and so does
unserved work of a cluster whose sibling it is (R403, R404). -/
def cluRuns (s : State) (k : Nat) : State :=
  let s := enginesFrom (cluTo s k 2) k 0 1
  let s := ckrUpd s (fun c => { c with ran := k :: c.ran.filter (· != k) })
  let s := if bit s CKR_CLU_CTL_RETURN k || bit s CKR_CLU_STATUS_UNSERVED k then handGo s k k else s
  forEach ((List.range 8).filter (fun j => j != k && bit s CKR_CLU_STATUS_UNSERVED j && rd s CKR_CLU_CTL_SIB j == k)) s
    (fun s j => handGo s j k)

/-- CLUSTER_LOAD_DONE (R403): the copy is done and the engine self-check passed. -/
def execClusterLoadDone (k : Fin 8) (s : State) : Res :=
  .next (if cluState s k == 4 && !s.ckr.reset.contains k.val then cluRuns s k else s)

/-- The device reaches RUN-FREE or RUN-LOCKED: READY clusters start, and each cluster serves its own work (Table 15-4). -/
def clustersStart (s : State) : State :=
  forEach ((List.range 8).filter (fun k => cluState s k == 1)) s (fun s k =>
    wr (cluRuns (wr s CKR_CLU_STATUS_SERVING k k) k) CKR_CLU_STATUS_SERVING k k)

/-- Table 15-4: the BLOCK reaction of cluster `k`. -/
def cluBlock (s : State) (k : Nat) : State :=
  let st := cluState s k
  let s := ckrUpd s (fun c => { c with reset := k :: c.reset.filter (· != k) })
  if st == 2 || st == 3 || st == 4 then
    if bit s CKR_IMG_STATUS_VERIFIED && rd s CKR_IMG_VERSION == rd s CKR_CLU_VERSION k then
      cluLoading (cluLeaves s k 4) k
    else ckrUpd (enginesHeld (cluLeaves s k 0) k) (fun c => { c with img := ndel c.img k })
  else s

/-- Table 15-4: cluster `k` is FENCED by a reaction, or because no engine of it is left in RUN. -/
def cluFence (s : State) (k : Nat) : State :=
  if cluState s k == 0 || cluState s k == 5 then s else enginesFrom (cluLeaves s k 5) k 1 0

/-- Table 15-4: RESTORE of a FENCED cluster, with VERIFIED = 1 only. -/
def cluRestore (s : State) (k : Nat) : State :=
  if cluState s k != 5 then s
  else if !bit s CKR_IMG_STATUS_VERIFIED then wr s CKR_CLU_CMD_RESULT k 2
  else cluUnfence (wr (cluLoading (enginesHeld s k) k) CKR_CLU_CMD_RESULT k 0) k

/-- CLUSTER_RESTORE (R401). -/
def execClusterRestore (m : Master) (k : Fin 8) (s : State) : Res :=
  .next (asMaster s m (CKR_CLU_CMD_RESTORE.off + 0x20 * k) (fun s => cluRestore s k))

/-- R403: RECLAIM returns the work of a cluster in RUN to it. -/
def cluReclaim (s : State) (k : Nat) : State :=
  if cluState s k == 2 && rd s CKR_CLU_STATUS_SERVING k != k then wr (handGo s k k) CKR_CLU_CMD_RESULT k 0 else s

/-- CLUSTER_RECLAIM (R403). -/
def execClusterReclaim (m : Master) (k : Fin 8) (s : State) : Res :=
  .next (asMaster s m (CKR_CLU_CMD_RECLAIM.off + 0x20 * k) (fun s => cluReclaim s k))

/-! ### Engines (R405) -/

/-- Engine `e` is fenced: a cause that no watchdog set is RESIDUE or MEMORY, whichever the detector found; with no engine in RUN the
cluster is FENCED. -/
def engFence (s : State) (e : Nat) : State :=
  if engState s e != 1 then s else
  let s := if rd s CKR_ENG_STATUS_CAUSE e != 0 then s else
    { wr s CKR_ENG_STATUS_CAUSE e (1 + Config.freeValue s.free % 2) with free := s.free + 1 }
  let s := wr s CKR_ENG_STATUS_STATE e 2
  if (engines (e / 12)).any (fun x => engState s x == 1) then s else cluFence s (e / 12)

/-- ENGINE_WATCHDOG (R405). -/
def execEngineWatchdog (e : Fin 96) (s : State) : Res :=
  .next (if engState s e == 1 then raise (wr s CKR_ENG_STATUS_CAUSE e 3) (0x400 + e) e else s)

/-- R405: RESTORE of a fenced engine whose self-check passes. -/
def engRestore (s : State) (e : Nat) (pass : Bool) : State :=
  if engState s e == 2 && pass then
    (fun s => fenceFree s (· == 0x400 + e)) <| wr (wr s CKR_ENG_STATUS_STATE e (if cluState s (e / 12) == 2 || cluState s (e / 12) == 3 then 1 else 0)) CKR_ENG_STATUS_CAUSE e 0
  else s

/-- ENGINE_RESTORE (R405). -/
def execEngineRestore (m : Master) (e : Fin 96) (pass : Bool) (s : State) : Res :=
  .next (asMaster s m (CKR_ENG_CTL_RESTORE.off + 0x10 * e) (fun s => engRestore s e pass))

/-! ### Mailboxes (R407) -/

/-- R407: REQ is set; while one is open it sets BUSY instead; a cluster outside RUN answers ABORT (R404). -/
def mbxReq (s : State) (k : Nat) : State :=
  if bit s CKR_MBX_CTL_REQ k then wr s CKR_MBX_CTL_BUSY k 1 else
  let s := wr (wr s CKR_MBX_CTL_REQ k 1) CKR_MBX_CTL_ABORT k 0
  if cluState s k == 2 then s else wr (wr s CKR_MBX_CTL_ACK k 1) CKR_MBX_CTL_ABORT k 1

/-- MAILBOX_REQUEST (R407). -/
def execMailboxRequest (m : Master) (k : Fin 8) (s : State) : Res :=
  .next (asMaster s m (CKR_MBX_CTL_REQ.off + 0x100 * k) (fun s => mbxReq s k))

/-- MAILBOX_RESPONSE (R407): the firmware's words, ACK, and the manager's vector where IRQ_EN is set. -/
def execMailboxResponse (k : Fin 8) (words : List (BitVec 32)) (s : State) : Res :=
  .next (
    if !bit s CKR_MBX_CTL_REQ k || bit s CKR_MBX_CTL_ACK k || cluState s k != 2 then s else
    let s := forEach (List.range 16) s (fun s i => wr s CKR_MBX_RSP (k * 16 + i) (words.getD i 0).toNat)
    let s := wr s CKR_MBX_CTL_ACK k 1
    if bit s CKR_MBX_CTL_IRQ_EN k then msixSignal s 16 (rd s CKR_MBX_VEC) 0 none else s)

/-- R407: a write of 1 to ACK clears ACK and REQ. -/
def mbxClear (s : State) (k : Nat) : State :=
  if bit s CKR_MBX_CTL_ACK k then wr (wr s CKR_MBX_CTL_ACK k 0) CKR_MBX_CTL_REQ k 0 else s

/-- MAILBOX_ACK_CLEAR (R407). -/
def execMailboxAckClear (m : Master) (k : Fin 8) (s : State) : Res :=
  .next (asMaster s m (CKR_MBX_CTL_ACK.off + 0x100 * k) (fun s => mbxClear s k))

/-! ### The image window (R398) -/

/-- The byte at offset `a` of the image window. While a cluster is in RUN, DRAINING or LOADING its regions read 0; what engines that
have run left in a memory is free. -/
def imageByte (s : State) (a : Nat) : Byte :=
  let left := fun (k : Nat) (b : Byte) =>
    if cluState s k == 2 || cluState s k == 3 || cluState s k == 4 then 0
    else if s.ckr.ran.contains k then BitVec.ofNat 8 (Config.freeValue (s.free + a)) else b
  if a < 0x200000 then cget s.ckr.stg a
  else if 0x800000 ≤ a && a < 0x2800000 then
    let k := (a - 0x800000) / 0x400000
    left k (cget (nget s.ckr.img k []) ((a - 0x800000) % 0x400000))
  else if 0x2800000 ≤ a && a < 0x2800000 + 96 * 0x40000 then left ((a - 0x2800000) / 0x40000 / 12) 0
  else 0

end Sys2Proof.Machine
end

