-- ==== Sys2Proof/Machine/Fabric.lean ====
section
/-! DEFINITION. Fabric: notices, neighbours, device entries, apertures, completions for proxy tags (12_fabric.md). -/

namespace Sys2Proof.Machine

/-! ### Neighbours (R323, R338) -/

/-- FAB_STATUS: T-link ports that are up, and any ID clash. -/
def fabStatus (s : State) : State :=
  let ups := ((List.range 64).filter (fun p => isTlink s p && linkUp s p)).length
  wrb (wr s FAB_STATUS_UP_PORTS 0 ups) FAB_STATUS_CLASH 0 (!(setIdx s FAB_NBR_CLASH).isEmpty)

/-- FAB_NBR of T-link port `p` follows its link and the partner that training learnt; a change of UP or identity counts
and raises its source (R338). -/
def nbrUpdate (s : State) (p : Nat) : State :=
  let up := linkUp s p
  let changed := bit s FAB_NBR_UP p != up || (bit s TL_PARTNER_VALID p
    && (rd s FAB_NBR_DEV_ID p != rd s TL_PARTNER_DEV_ID p || rd s FAB_NBR_PORT p != rd s TL_PARTNER_PORT p))
  let s := wr (wr s FAB_NBR_DEV_ID p (rd s TL_PARTNER_DEV_ID p)) FAB_NBR_PORT p (rd s TL_PARTNER_PORT p)
  let s := wrb (wrb s FAB_NBR_VALID p (bit s TL_PARTNER_VALID p)) FAB_NBR_UP p up
  fabStatus (if changed then raise (inc s NBR_CHANGE) 0x503 p else s)

/-- R323: at START, the partner's ID against this part's; a port that faces itself has no clash. -/
def clashCheck (s : State) (p : Nat) : State :=
  let clash := rd s TL_PARTNER_DEV_ID p == devId s && rd s TL_PARTNER_PORT p != p
  let s := raiseIf (clash && !bit s FAB_NBR_CLASH p) s 0x500 p
  fabStatus (wrb s FAB_NBR_CLASH p clash)

/-! ### Notices (R341 to R343) -/

/-- The 32 bytes of a notice (Table 12-3). -/
def noticeBytes (n : Notice) : Bytes :=
  [n.kind, n.origin.setWidth 8] ++ leBytes 2 n.nseq.toNat ++ leBytes 2 n.source.toNat
    ++ [n.part.setWidth 8, n.sev.setWidth 8] ++ leBytes 8 n.time.toNat ++ List.replicate 16 0

/-- A notice as a packet for port `p`'s partner. -/
def noticePkt (s : State) (p : Nat) (n : Notice) (ttl : Nat) : Packet :=
  let h : FabHdr := { (newHdr s (rd s FAB_NBR_DEV_ID p) 0 0 7 (flowHash s (devId s) (rd s FAB_NBR_DEV_ID p) 0 7 0) false) with ttl := BitVec.ofNat 4 ttl, notice := true }
  { kind := .posted, op := .notice, addr := 0, len := 32, data := noticeBytes n, fbe := 15, lbe := 15, tc := 7, rid := 0, tag := 0,
    pasid := none, status := .ok, lastPiece := true, ro := false, ido := false, ns := false, tph := none, selIde := false,
    translated := false, fab := some h, notice := some n }

/-- The notice leaves on every up T-link port but `not`. -/
def noticeOut (s : State) (n : Notice) (ttl : Nat) (except : Option Nat) : State :=
  forEach ((List.range 64).filter (fun p => hopUp s p && some p != except)) s (fun s p =>
    formed s p 7 0 (noticePkt s p n ttl))

/-- R341, R342: an event at this part sends a notice; beyond eight in 10 ms it is counted and not sent. -/
def noticeSend (s : State) (kind source part sev : Nat) : State :=
  if !bit s FAB_CTL_NOTICE_EN || !fabricOn s then s else
  let recent := s.fab.sent.filter (fun t => s.now < t + 10000000)
  if 8 ≤ recent.length then inc s NOTICE_SUPP else
  let n : Notice := { kind := BitVec.ofNat 8 kind, origin := BitVec.ofNat 6 (devId s), nseq := BitVec.ofNat 16 s.fab.nseq,
                      source := BitVec.ofNat 12 source, part := BitVec.ofNat 4 part, sev := BitVec.ofNat 3 sev,
                      time := BitVec.ofNat 64 (devTime s) }
  noticeOut (fabUpd s (fun x => { x with sent := s.now :: recent, nseq := (x.nseq + 1) % 65536 })) n (rd s FAB_CTL_TTL_INIT) none

/-- R343: the notice is written into FAB_NOTICE_LOG. -/
def noticeLog (s : State) (n : Notice) : State :=
  let i := rd s FAB_NOTICE_NEXT
  let b := noticeBytes n
  let s := forEach (List.range 8) s (fun s w => wr s FAB_NOTICE_LOG (i * 8 + w) (leNat ((b.drop (w * 4)).take 4)))
  wr s FAB_NOTICE_NEXT 0 ((i + 1) % 16)

/-- R341 to R343: a notice arrives on port `p` with `ttl`: a copy seen within 10 ms is discarded and counted; another is
logged, raised by its kind, and forwarded on every other up T-link port while its TTL lasts. -/
def noticeTake (s : State) (p : Nat) (n : Notice) (ttl : Nat) : State :=
  let o := n.origin.toNat
  let seen := nget s.fab.seen o []
  if seen.any (fun e => e.1 == n.nseq.toNat && s.now ≤ e.2 + 10000000) then inc s NOTICE_DUP else
  let s := fabUpd s (fun x => { x with seen := nput x.seen o (((n.nseq.toNat, s.now) :: seen).take 8) })
  let k := n.kind.toNat
  let s := raiseIf (1 ≤ k && k ≤ 7) (noticeLog s n) (0x503 + k) o
  if ttl = 0 then s else noticeOut s n (ttl - 1) (some p)

/-- NOTICE_RECEIVE (R343): on a T-link port that is up in a fabric layout. -/
def execNoticeReceive (p : Fin 64) (n : Notice) (ttl : BitVec 4) (s : State) : Res :=
  .next (if fabricOn s && hopUp s p then noticeTake s p n ttl.toNat else s)

/-! ### Device entries, apertures (R328, R335) -/

/-- R335: an entry is written whole, and its moved slots return. -/
def devWrite (s : State) (d v : Nat) : State :=
  let put := fun (s : State) (f : Fld) => wr s f d (v / 2 ^ f.lsb)
  let s := put (put (put s FAB_DEV_MODE) FAB_DEV_NHOPSM1) FAB_DEV_HOP0
  let s := put (put (put s FAB_DEV_HOP1) FAB_DEV_HOP2) FAB_DEV_HOP3
  wr (wr s FAB_DEV_STAT_MOVED d 0) FAB_DEV_STAT_MOVED_TO d 0

/-- FAB_DEV_WRITE (R335). -/
def execFabDevWrite (m : Master) (d : Fin 64) (v : BitVec 32) (s : State) : Res :=
  .next (asMaster s m FAB_DEV_MODE.off (fun s => devWrite s d v.toNat))

/-- R328: aperture `j` of partition `n` is enabled, with BASE and GBASE cut to multiples of its size, unless it would
overlap another enabled one. -/
def gapEnable (s : State) (n j : Nat) : State :=
  let i := n * 4 + j
  let z := 2 ^ rd s FAB_GAP_K i
  let r := (rd s FAB_GAP_BASE i / z * z, rd s FAB_GAP_BASE i / z * z + z)
  let clash := (List.range 4).any (fun h => h != j && bit s FAB_GAP_EN (n * 4 + h)
    && meets r (rd s FAB_GAP_BASE (n * 4 + h), rd s FAB_GAP_BASE (n * 4 + h) + 2 ^ rd s FAB_GAP_K (n * 4 + h)))
  if bit s FAB_GAP_EN i || clash then s else
  wr (wr (wr s FAB_GAP_BASE i r.1) FAB_GAP_GBASE i (rd s FAB_GAP_GBASE i / z * z)) FAB_GAP_EN i 1

/-- APERTURE_ENABLE (R328). -/
def execApertureEnable (m : Master) (n : Fin 16) (j : Fin 4) (s : State) : Res :=
  .next (asMaster s m FAB_GAP_EN.off (fun s => gapEnable s n j))

/-! ### Proxy tags (R331) -/

/-- The return entry that a completion arriving on PCIe port `p` names by the bridge's requester ID and its tag. -/
def retEntry (s : State) (p : Nat) (pk : Packet) : Option RetEnt :=
  if pk.rid.toNat == bridgeRid s p then nget? s.fab.ret (p * 16384 + pk.tag.toNat) else none

/-- PROXY_COMPLETION (R331): the completion for a proxy tag returns the way its request came. -/
def execProxyCompletion (p : Fin 64) (pk : Packet) (s : State) : Res :=
  .next (match retEntry s p { pk with kind := .completion, op := .cpl } with
    | some e => if linkUp s p && (running s || mode s == mDRAIN) then
        proxyReturn s p { pk with kind := .completion, op := .cpl } e else s
    | none => s)

/-- RETURN_ENTRY_STALE (R331, R352): 128 ms after its request an entry is freed; one whose read was already answered ends
its quarantine. -/
def execReturnEntryStale (p : Fin 64) (tag : BitVec 14) (s : State) : Res :=
  .next (match nget? s.fab.ret (p.val * 16384 + tag.toNat) with
    | some e =>
      let s := if e.quar then s else awtCloseNp (inc s RET_STALE) e.rid e.tag
      retFree s p tag.toNat
    | none => s)

end Sys2Proof.Machine
end

