-- ==== Sys2Proof/Machine/Ports.lean ====
section
/-! DEFINITION. Lanes and ports: the checks of ENABLE, lanes of a port, the conditions that hold a port in DETECT, presets, receiver
detection, and the part of a link's fall that every kind of port shares (08_lanes_ports.md). -/

namespace Sys2Proof.Machine

/-- Ports changed by `f`. -/
def prtUpd (s : State) (f : Ports → Ports) : State := { s with prt := f s.prt }

/-- The state code of port `p` set (Table 8-13). -/
def portState (s : State) (p st : Nat) : State := wr s PRT_STATUS_STATE p st

/-! ### Lanes of a port (R216) -/

/-- Data lanes of port `p`. -/
def dataLanes (s : State) (p : Nat) : Nat := widthOf (rd s PRT_CFG_WIDTH p)

/-- Port `p` has a spare lane; the spare of a PCIe port is refused at ENABLE. -/
def hasSpare (s : State) (p : Nat) : Bool := isTlink s p && bit s PRT_CFG_SPARE p

/-- The lanes of port `p`, its spare last. -/
def lanesOf (s : State) (p : Nat) : List Nat :=
  (List.range (dataLanes s p + if bit s PRT_CFG_SPARE p then 1 else 0)).map (rd s PRT_CFG_FIRST_LANE p + ·)

/-- Ports that are not DISABLED. -/
def portsOn (s : State) : List Nat := (List.range 64).filter (fun p => rd s PRT_STATUS_STATE p != 0)

/-- R217: T-link lanes of ports that are not DISABLED and of `p` itself, in Quarter `q` or in all. -/
def tLanes (s : State) (p : Nat) (q : Option Nat) : Nat :=
  ((((portsOn s).filter (fun x => isTlink s x && x != p)) ++ [p]).flatMap (lanesOf s)).foldl
    (fun n l => if q.all (· == l / 48) then n + 1 else n) 0

/-- Two ports bind one slot channel (R257). -/
def slotBound (s : State) (p : Nat) : Bool := !isTlink s p && !bit s PRT_CFG_DIR p && bit s PCI_SLOT_BOUND p

/-- The RESULT of an ENABLE (Table 8-1, R257); 0 if every check passes. -/
def enableResult (s : State) (p : Nat) : Nat :=
  let first := rd s PRT_CFG_FIRST_LANE p
  let w := dataLanes s p
  let ls := lanesOf s p
  let t := isTlink s p
  let q := first / 48
  let md := mode s
  let others := (portsOn s).filter (· != p)
  if rd s PRT_STATUS_STATE p != 0 then 1
  else if [mHOLD, mTEST, mDRAIN, mSAFE, mLOOPBACK, mFACTORY, mSTANDBY].contains md then 2
  else if ls.any (fun l => 191 < l || l / 48 != q) then 3
  else if (t && 4 < w) || (!t && bit s PRT_CFG_SPARE p) then 4
  else if !t && first % 48 % w != 0 then 5
  else if others.any (fun o => (lanesOf s o).any (fun l => ls.contains l)) then 6
  else if ls.any (fun l => bit s LAN_CTL_DIS l) then 7
  else if t && 24 < tLanes s p (some q) then 8
  else if t && 96 < tLanes s p none then 9
  else if slotBound s p && others.any (fun o => slotBound s o && rd s PCI_SLOT_CHANNEL o == rd s PCI_SLOT_CHANNEL p) then 6
  else 0

/-- A lane joins port `p` as number `i` of it, not tested yet (Table 8-11). -/
def laneJoin (s : State) (p l i : Nat) : State :=
  let s := wr (wr (wr s LAN_STATUS_PORT l p) LAN_STATUS_IN_PORT l 1) LAN_STATUS_PERS l (rd s PRT_CFG_PERS p)
  wr (wr s LAN_STATUS_LOGICAL l (if isTlink s p && i = dataLanes s p then 4 else i)) LAN_STATUS_ELEC l 6

/-- A lane leaves its port. -/
def laneLeave (s : State) (l : Nat) : State :=
  let s := wr (wr (wr s LAN_STATUS_PORT l 0) LAN_STATUS_IN_PORT l 0) LAN_STATUS_PERS l 0
  let s := wr (wr (wr s LAN_STATUS_LOGICAL l 0) LAN_STATUS_RX_INV l 0) LAN_STATUS_LOCK l 0
  wr s LAN_STATUS_ELEC l 6

/-- The lanes of port `p` join it. -/
def lanesJoin (s : State) (p : Nat) : State :=
  forEach ((lanesOf s p).zipIdx) s (fun s e => laneJoin s p e.1 e.2)

/-- R218: ENABLE is processed: a failed check is reported, an accepted one takes the port to DETECT. A downstream port takes its
bridge's place (R239). -/
def portEnable (s : State) (p : Nat) : State :=
  let r := enableResult s p
  let s := wr s PRT_CMD_RESULT p r
  if r != 0 then s else
  let s := lanesJoin (wr (portState s p 1) PRT_STATUS_EN p 1) p
  let s := if isTlink s p || bit s PRT_CFG_DIR p then s else placeTake s (portPt s p) p
  ptnStat s

/-- The ENABLE command: while block 1 is in BLOCK reset it waits (Table 17-3). -/
def portEnableCmd (s : State) (p : Nat) : State :=
  if inBlockReset s 1 then prtUpd s (fun x => { x with enWait := x.enWait ++ [p] }) else portEnable s p

/-- PORT_ENABLE (R218). -/
def execPortEnable (m : Master) (p : Fin 64) (s : State) : Res :=
  .next (asMaster s m (PRT_CMD_ENABLE.off + 0x4000 * p.val) (fun s => portEnableCmd s p))

/-! ### What holds a port in DETECT -/

/-- The fence of a source isolates port `p` (Table 17-2). -/
def portFenced (s : State) (p : Nat) : Bool :=
  let q := rd s PRT_CFG_FIRST_LANE p / 48
  let f := fun n => bit s FLT_SEV_FENCED n
  f (0x100 + p) || f (0x140 + p) || f (0x8C + q) || f ((if isTlink s p then 0x84 else 0x80) + q)
    || (f (0x88 + q) && (lanesOf s p).any (fun l => [2, 3, 4, 5].contains (rd s LAN_STATUS_ELEC l)))

/-- The reference clock of port `p` is good (R223). -/
def portClock (s : State) (p : Nat) : Bool :=
  bit s (if isTlink s p then LAN_REFCLK_TLINK_OK else LAN_REFCLK_PCIE_OK) (rd s PRT_CFG_FIRST_LANE p / 48)

/-- A PCIe port that R348 or the spine layout (Table 12-2) holds: an upstream port that is not its partition's, any
port of a spine but PT0's upstream port. -/
def portBarred (s : State) (p : Nat) : Bool :=
  !isTlink s p && (if bit s PRT_CFG_DIR p then (upPorts s (portPt s p)).headD p != p else s.fab.layout == 3)

/-- Port `p` stays in DETECT and runs no receiver detection (R221, R223, R245, R250, R348, R351, R438, Tables 2-4,
8-6, 18-3). A T-link port is held down in the layouts without a fabric. -/
def portHeld (s : State) (p : Nat) : Bool :=
  !s.prt.bring || [mHOLD, mTEST, mSAFE, mLOOPBACK, mFACTORY, mSTANDBY].contains (mode s) || portFenced s p
    || !portClock s p || s.prt.dpc.contains p || portBarred s p || inBlockReset s 1
    || (!isTlink s p && partInReset s (portPt s p)) || !(nget s.prt.portRst p []).isEmpty
    || (isTlink s p && (inBlockReset s 9 || !(s.fab.layout == 2 || s.fab.layout == 3)))
    || (slotBound s p && !bit s PWD_SLOT_STATUS_PG (rd s PCI_SLOT_CHANNEL p))

/-! ### Slot Status of a bound port (R248, R250; the register's place is the base specification's) -/

/-- The double word of Slot Control and Slot Status. -/
def slotDw : Nat := 34

/-- Bridge `f` of partition `n` interrupts its host: by its MSI vector where MSI is enabled, else by INTA (Table 9-3). The class is the model's
choice: the rules name none. -/
def bridgeIrq (s : State) (n f : Nat) (on : Bool) : State :=
  match upPort s n with
  | none => s
  | some u =>
    if !linkUp s u || partInReset s n then s
    else if (cfgGet s f 20).testBit 16 then
      (if on && (cfgGet s f 1).testBit 2 then
        let pk := clickWr s n none (cfgGet s f 21 / 4 * 4 + cfgGet s f 22 * 2 ^ 32) 0 (leBytes 4 (cfgGet s f 23 % 65536))
        formed s u 0 n { pk with rid := BitVec.ofNat 16 (bridgeRid s (f % 64)) }
      else s)
    else if (cfgGet s f 1).testBit 10 then s
    else formed s u 0 n (msgPkt { routing := 4, code := if on then 0x20 else 0x24 } 0 0 (bridgeRid s (f % 64)) [])

/-- A change in Slot Status of port `p` interrupts the host where Slot Control enables it: 2 Power Fault Detected, 8 Presence Detect Changed,
0x100 Data Link Layer State Changed (R248: hot-plug capable). -/
def slotTell (s : State) (p what : Nat) : State :=
  let f := fnDown (portPt s p) p
  let c := cfgGet s f slotDw
  if c.testBit 5 && (c &&& (if what = 0x100 then 0x1000 else what)) != 0 then bridgeIrq s (portPt s p) f true else s

/-- Bits of Slot Status of port `p` set and cleared, where the port reports a slot. -/
def slotStat (s : State) (p on off : Nat) : State :=
  if !slotBound s p then s else
  let f := fnDown (portPt s p) p
  slotTell (cfgPut s f slotDw (((cfgGet s f slotDw ||| (on * 65536)) ^^^ (cfgGet s f slotDw &&& (off * 65536))))) p
    (if on &&& 0x100 != 0 then 0x100 else on &&& 8)

/-- Presence Detect State follows receiver detection. -/
def slotPresence (s : State) (p : Nat) (b : Bool) : State := if b then slotStat s p 0x48 0 else slotStat s p 0x08 0x40

/-! ### Receiver detection (R224, R225) -/

/-- A lane class that keeps the lane out of training (R225). -/
def laneBad (s : State) (l : Nat) : Bool := [2, 3, 4, 5].contains (rd s LAN_STATUS_ELEC l)

/-- R225: a lane is classed; a faulty class stays until the port is disabled, and raises the Quarter's source. -/
def laneClass (s : State) (l c : Nat) : State :=
  if laneBad s l then s else
  let s := wr s LAN_STATUS_ELEC l c
  raiseIf (2 ≤ c && c ≤ 5) s (0x88 + l / 48) l

/-- The lane number that the operands of detection use: data lane `i`, or 16 for the spare. -/
def detBit (s : State) (p i : Nat) : Nat := if hasSpare s p && i = dataLanes s p then 16 else i

/-- What receiver detection finds on the lanes of port `p` (Table 8-4), by lane number. -/
def lanesFound (s : State) (p : Nat) (found shorted rxShort : Nat) : State :=
  let any := (List.range (dataLanes s p)).any (fun i => found.testBit i)
  forEach ((lanesOf s p).zipIdx) s (fun s e =>
    let b := detBit s p e.2
    laneClass s e.1 (if shorted.testBit b then 3 else if rxShort.testBit b then 5 else if found.testBit b then 0 else if any then 2 else 1))

/-- R225: the receive pairs that a training of port `p` finds open or shorted, by lane number. -/
def lanesRx (s : State) (p : Nat) (rx : List (Fin 17 × Bool)) : State :=
  forEach rx s (fun s x => forEach (((lanesOf s p).zipIdx).filter (fun e => detBit s p e.2 == x.1.val)) s
    (fun s e => laneClass s e.1 (if x.2 then 5 else 4)))

/-! ### Training and rates -/

/-- The highest rate code of port `p`'s personality, and MAX_RATE as it acts (R226). -/
def topRate (s : State) (p : Nat) : Nat := if isTlink s p then 4 else 6
def maxRate (s : State) (p : Nat) : Nat :=
  let r := rd s PRT_CFG_MAX_RATE p
  if r = 0 || topRate s p < r then topRate s p else r

/-- R229: the target of port `p`, given the partner's highest rate. -/
def targetRate (s : State) (p partnerMax : Nat) : Nat :=
  let pm := if partnerMax = 0 || topRate s p < partnerMax then topRate s p else partnerMax
  let t := min (maxRate s p) pm
  if isTlink s p || bit s PRT_STATUS_FLIT p then t else min t 5

/-- DEGRADED_LINK (R230): settled below the target, or narrower than WIDTH. -/
def degradedLink (s : State) (p target : Nat) : State :=
  wrb s PRT_STATUS_DEGRADED_LINK p (rd s PRT_STATUS_RATE p < target
    || widthOf (rd s PRT_STATUS_CUR_WIDTH p) < dataLanes s p)

/-- R230: the port settles at `rate` with `target` in view: STEP_DONE, back to UP, the degrade source below the target. -/
def settle (s : State) (p rate target : Nat) : State :=
  let s := wr (wr (portState s p 3) PRT_STATUS_RATE p rate) PRT_STATUS_STEP_DONE p 1
  let s := degradedLink s p target
  raiseIf (bit s PRT_STATUS_DEGRADED_LINK p) s (0x140 + p) p (some (portPt s p))

/-- The T-link state of port `p`, and a change of it. -/
def tlAt (s : State) (p : Nat) : Tl := nget s.prt.tl p {}
def tlSet (s : State) (p : Nat) (t : Tl) : State := prtUpd s (fun x => { x with tl := nset {} x.tl p t })
def tlUpd (s : State) (p : Nat) (f : Tl → Tl) : State := tlSet s p (f (tlAt s p))

/-! ### Presets (R221, Table 8-3) -/

/-- One port of a preset: offset in its Quarter, WIDTH code, T-link, spare. -/
structure PresetPort where
  lane : Nat
  width : Nat
  tl : Bool := false
  spare : Bool := false
deriving DecidableEq, Repr

/-- The ports of a preset in one Quarter, ascending (Table 8-3). -/
def presetQuarter (k : Nat) : List PresetPort :=
  match k with
  | 0 => [0, 16, 32].map (⟨·, 4, false, false⟩)
  | 1 => (List.range 6).map (fun i => ⟨8 * i, 3, false, false⟩)
  | 2 => (List.range 12).map (fun i => ⟨4 * i, 2, false, false⟩)
  | 3 => ⟨0, 4, false, false⟩ :: [16, 24, 32, 40].map (⟨·, 3, false, false⟩)
  | 4 => [0, 16].map (⟨·, 4, false, false⟩) ++ [32, 37, 42].map (⟨·, 2, true, true⟩)
  | 5 => [⟨0, 4, false, false⟩] ++ [16, 21, 26, 31].map (⟨·, 2, true, true⟩) ++ [⟨36, 2, false, false⟩, ⟨40, 3, false, false⟩]
  | 6 => [⟨0, 4, false, false⟩, ⟨16, 3, false, false⟩] ++ [24, 28, 32, 36, 40, 44].map (⟨·, 2, true, false⟩)
  | _ => (List.range 8).map (fun i => ⟨4 * i, 2, false, false⟩) ++ (List.range 8).map (fun i => ⟨32 + 2 * i, 1, false, false⟩)

/-- The ports of preset `k`, in lane order over the Quarters. -/
def presetPorts (k : Nat) : List PresetPort :=
  (List.range 4).flatMap (fun q => (presetQuarter k).map (fun x => { x with lane := x.lane + 48 * q }))

/-- R221: every port of the selected preset is configured, enabled and in DETECT; P0 is upstream. The caller has reset the
registers, so every other port is DISABLED. -/
def presetLoad (s : State) : State :=
  let s := forEach ((presetPorts (rd s GLB_STRAP_PRESET)).zipIdx) s (fun s e =>
    let p := e.2
    let s := wr (wr s PRT_CFG_FIRST_LANE p e.1.lane) PRT_CFG_WIDTH p e.1.width
    let s := wrb (wrb s PRT_CFG_PERS p e.1.tl) PRT_CFG_SPARE p e.1.spare
    let s := wr (wrb s PRT_CFG_DIR p (p == 0)) PRT_STATUS_EN p 1
    lanesJoin (portState s p 1) p)
  placesFix (ptnStat s) 0

/-! ### A link's fall -/

/-- The symbol and receive errors that port `p` has counted while it was not in DETECT: the rules name no event that counts them, so how many is a
free value. -/
def errsTake (s : State) (p : Nat) : State :=
  let s := forEach (lanesOf s p) s (fun s l => { inc s LAN_SYM_ERR l (Config.freeValue s.free) with free := s.free + 1 })
  { inc s RX_ERR p (Config.freeValue s.free) with free := s.free + 1 }

/-- What every fall of a link leaves: the state, no rate, STEP_DONE as told, receivers as found; Data Link Layer State Changed where the link was up
or retraining (R250). -/
def linkOff (s : State) (p : Nat) (receivers keepStep : Bool) : State :=
  let was := linkUp s p || s.prt.retrain.contains p
  let s := errsTake s p
  let s := wr (wrb (portState s p (if receivers then 2 else 1)) PRT_STATUS_PARTNER p receivers) PRT_STATUS_RATE p 0
  let s := if keepStep then s else wr s PRT_STATUS_STEP_DONE p 0
  forEach (lanesOf s p) (if was then slotStat s p 0x100 0 else s) (fun s l => wr s LAN_STATUS_LOCK l 0)

/-- LINK_DOWN and the port's down source (Table 8-6), charged to the port's owner. -/
def countDown (s : State) (p : Nat) : State := raise (inc s LINK_DOWN p) (0x100 + p) p (some (portPt s p))

/-- The credits withheld from the partner of PCIe port `p` are void with its link. -/
def creditsDrop (s : State) (p : Nat) : State := { s with shk := { s.shk with withheld := s.shk.withheld.filter (fun e => e.1 != p) } }

/-- A PCIe downstream port falls: queued packets are flushed (R109), members behind it fail (R165); a port with DPC enabled is
held down (R109, R245; Trigger Enable at its place in the base specification). -/
def pcieDrop (s : State) (p : Nat) : State := membersOfPort (creditsDrop (retRetry (flushPort s p .ur false)) p) p

/-- DPC Trigger Enable of port `p` is set. -/
def dpcEnabled (s : State) (p : Nat) : Bool := cfgGet s (fnDown (portPt s p) p) 89 / 65536 % 4 != 0

/-- DPC Trigger Status of port `p` (base specification: DPC Status, bit 0). -/
def dpcStatus (s : State) (p : Nat) (b : Bool) : State :=
  let f := fnDown (portPt s p) p
  let v := cfgGet s f 90
  cfgPut s f 90 (if b then v ||| 1 else v - v % 2)

/-- R245: the part holds the link of port `p` down. -/
def dpcHold (s : State) (p : Nat) : State :=
  dpcStatus (prtUpd s (fun x => { x with dpc := p :: x.dpc.filter (· != p) })) p true

/-! ### Training fails, retrain, detect -/

/-- Packets of port `p` have somewhere to wait no longer: R109 or R110 for PCIe; the T-link's own way is `tlFall`. -/
def noPackets (s : State) (p : Nat) : Bool :=
  s.shk.voq.all (fun e => e.1 / 8 % 72 != p || e.2.isEmpty) && (nget s.shk.staging p []).isEmpty && (nget s.shk.wait p []).isEmpty
    && s.shk.held.all (fun h => h.outp != p)

/-- DETECT_RETRY (R224): receiver detection runs again on every lane of the port. -/
def execDetectRetry (p : Fin 64) (s : State) : Res :=
  .next (if rd s PRT_STATUS_STATE p == 1 && !portHeld s p && !bit s PRT_STATUS_PARTNER p then emit s (.link p "receiver detection")
    else s)

end Sys2Proof.Machine
end

