-- ==== Sys2Proof/Machine/Stitch.lean ====
section
/-! DEFINITION. The stitch of a T-link: its layout, CRC-64 and interleaved FEC (10_tlink_phy.md R266 to R273). -/

namespace Sys2Proof.Machine

/-! ### CRC-64 (R270) -/

/-- One bit of the CRC, least significant bit first: the polynomial 0x42F0_E1EB_A9EA_3693 with its bits reversed. -/
def crc64Bit (c : BitVec 64) : BitVec 64 := if c.getLsbD 0 then (c >>> 1) ^^^ 0xC96C5795D7870F42#64 else c >>> 1

/-- One byte of the CRC. -/
def crc64Byte (c : BitVec 64) (b : Byte) : BitVec 64 :=
  crc64Bit (crc64Bit (crc64Bit (crc64Bit (crc64Bit (crc64Bit (crc64Bit (crc64Bit (c ^^^ b.setWidth 64))))))))

/-- R270: initial value and final XOR all ones. -/
def crc64 (l : Bytes) : Nat := ((l.foldl crc64Byte 0xFFFFFFFFFFFFFFFF#64) ^^^ 0xFFFFFFFFFFFFFFFF#64).toNat

/-! ### FEC (R271, R272) -/

/-- Multiplication by 0x02 in the field of R271. -/
def gfDouble (b : Byte) : Byte := if b.getLsbD 7 then (b <<< 1) ^^^ 0x1D#8 else b <<< 1

/-- The check bytes of one interleave, high coefficient first: the remainder by (x + 1)(x + 2) = x² + 3x + 2. -/
def fecCheck (l : Bytes) : Byte × Byte :=
  l.foldl (fun r d =>
    let f := d ^^^ r.1
    (r.2 ^^^ gfDouble f ^^^ f, gfDouble f)) (0#8, 0#8)

/-- The bytes of interleave `j`, ascending. -/
def interleave (raw : Bytes) (j : Nat) : Bytes := ((List.range 43).filter (fun k => 3 * k + j < 128)).map (fun k => raw.getD (3 * k + j) 0)

/-- The values of a codeword at 1 and at 2, high coefficient first. -/
def syndromes (l : Bytes) : Byte × Byte := l.foldl (fun r d => (r.1 ^^^ d, gfDouble r.2 ^^^ d)) (0#8, 0#8)

/-- `n` doublings of `b`. -/
def gfShift (b : Byte) : Nat → Byte
  | 0 => b
  | n + 1 => gfShift (gfDouble b) n

/-- What the FEC finds in one interleave: nothing, one wrong byte (index in the interleave, error value), or more. -/
inductive FecFound where
  | clean
  | one (k : Nat) (e : Byte)
  | many
deriving DecidableEq, Repr

/-- R272: up to one byte is corrected. -/
def fecFind (l : Bytes) : FecFound :=
  let (a, b) := syndromes l
  if a = 0#8 && b = 0#8 then .clean
  else if a = 0#8 || b = 0#8 then .many
  else match (List.range l.length).find? (fun k => gfShift a (l.length - 1 - k) = b) with
    | some k => .one k a
    | none => .many

/-- R272: a stitch with what each interleave could correct, the stitch indices of the corrected bytes, and whether an interleave is
uncorrectable. -/
def fecScan (raw : Bytes) : Bytes × List Nat × Bool :=
  [0, 1, 2].foldl (fun x j =>
    match fecFind (interleave raw j) with
    | .clean => x
    | .many => (x.1, x.2.1, true)
    | .one k e => (x.1.modify (3 * k + j) (· ^^^ e), x.2.1 ++ [3 * k + j], x.2.2)) (raw, [], false)

/-- A stitch after correction with the stitch indices of the corrected bytes; none if an interleave is uncorrectable. -/
def fecCorrect (raw : Bytes) : Option (Bytes × List Nat) :=
  let f := fecScan raw
  if f.2.2 then none else some (f.1, f.2.1)

/-! ### The stitch (R266) -/

/-- The header: TYPE, VL, CREDIT_RET. -/
def stitchHdr (type vl cr : Nat) : Nat := type + vl * 16 + cr * 128

/-- `l` cut or filled with zeros to `n` bytes. -/
def padTo (n : Nat) (l : Bytes) : Bytes := (l ++ List.replicate n 0#8).take n

/-- A stitch of 128 bytes checked with sequence number `seq` (Table 10-2, R270, R271). -/
def stitchBytes (hdr : Nat) (payload : Bytes) (seq : Nat) : Bytes :=
  let body := leBytes 2 hdr ++ padTo 112 payload
  let l := body ++ leBytes 8 (crc64 (leBytes 2 seq ++ body))
  let il := fun j => fecCheck (((List.range 41).filter (fun k => 3 * k + j < 122)).map (fun k => l.getD (3 * k + j) 0))
  l ++ [(il 2).1, (il 0).1, (il 1).1, (il 2).2, (il 0).2, (il 1).2]

/-- A stitch as the receiver sees it after its checks. -/
structure Stitch where
  type : Nat
  vl : Nat
  cr : Nat
  payload : Bytes
  fixed : List Nat
deriving DecidableEq, Repr

/-- Why a stitch is bad (R273). -/
inductive StitchBad where
  | fec | crc | type
deriving DecidableEq, Repr

/-- R273: the checks of a received stitch against number `seq`. -/
def stitchRead (raw : Bytes) (seq : Nat) : Except StitchBad Stitch :=
  match fecCorrect (padTo 128 raw) with
  | none => .error .fec
  | some (b, fixed) =>
    if leNat ((b.drop 114).take 8) != crc64 (leBytes 2 seq ++ b.take 114) then .error .crc else
    let h := leNat (b.take 2)
    if 12 ≤ h % 16 then .error .type
    else .ok { type := h % 16, vl := h / 16 % 8, cr := h / 128 % 64, payload := (b.drop 2).take 112, fixed := fixed }

/-- R269: the training marker. -/
def marker : Bytes := [0xA5, 0x3C, 0xC3, 0x5A, 0xA5, 0x3C, 0xC3, 0x5A]

/-! ### The generator of R262 -/

/-- One bit of PRBS31 and the next state. -/
def prbsStep (g : BitVec 31) : Bool × BitVec 31 :=
  let n := g.getLsbD 30 != g.getLsbD 27
  (n, (g <<< 1) ||| (if n then 1#31 else 0#31))

/-- `n` bits of the generator as bytes, bit 0 first. -/
def prbsBits : Nat → BitVec 31 → List Bool
  | 0, _ => []
  | n + 1, g => let (b, g) := prbsStep g; b :: prbsBits n g

/-- Bits to bytes. -/
def bitsToBytes : Nat → List Bool → Bytes
  | 0, _ => []
  | n + 1, l => BitVec.ofNat 8 ((l.take 8).foldr (fun b v => 2 * v + b.toNat) 0) :: bitsToBytes n (l.drop 8)

/-- FILL of a training stitch: the first 96 bytes of the generator of logical lane 0 (R263, Table 10-5). -/
def trainingFill : Bytes := bitsToBytes 96 (prbsBits 768 (BitVec.ofNat 31 0x7FFFFFFF))

end Sys2Proof.Machine
end

