-- ==== Sys2Proof/Machine/Line.lean ====
section
/-! DEFINITION. The line of a T-link: symbols, scrambling, stuff symbols, lanes, and stitches on their way onto the lanes and off them
(10_tlink_phy.md R258 to R265, R268, R274, R280; 11_welt_layer.md R293, R302). -/

namespace Sys2Proof.Machine

/-! ### Symbols (R259) -/

/-- The bits of a byte, bit 0 first. -/
def byteBits (b : Byte) : List Bool := (List.range 8).map b.getLsbD

/-- The level of a PAM4 pair, its first bit first: Gray code. -/
def pamLevel : Bool → Bool → Nat
  | false, false => 0
  | false, true => 1
  | true, true => 2
  | true, false => 3

/-- The symbols of a lane's bits: one bit each in NRZ, pairs of bits 2k + 1 and 2k in PAM4. -/
def levelsOf (nrz : Bool) : List Bool → List Nat
  | [] => []
  | [a] => if nrz then [a.toNat] else [pamLevel false a]
  | a :: b :: l => if nrz then a.toNat :: b.toNat :: levelsOf nrz l else pamLevel b a :: levelsOf nrz l

/-- The bits of a symbol in the order in which they leave. -/
def bitsOfLevel (nrz : Bool) (l : Nat) : List Bool :=
  if nrz then [l != 0] else match l with | 0 => [false, false] | 1 => [true, false] | 2 => [true, true] | _ => [false, true]

/-- A level as a mirrored lane gives it (R269). -/
def mirrorLevel (nrz : Bool) (l : Nat) : Nat := if nrz then 1 - l else 3 - l

/-! ### Scrambling (R262, R263) -/

/-- The bits scrambled or descrambled by generator state `g`. -/
def scramble : List Bool → BitVec 31 → List Bool
  | [], _ => []
  | b :: l, g => (b != (prbsStep g).1) :: scramble l (prbsStep g).2

/-- The generator after `n` data bits. -/
def prbsRun : Nat → BitVec 31 → BitVec 31
  | 0, g => g
  | n + 1, g => prbsRun n (prbsStep g).2

/-- R263: the seed of logical lane `l`. -/
def laneSeed (l : Nat) : BitVec 31 := BitVec.ofNat 31 (0x7FFFFFFF - 0x01010101 * l)

/-! ### Stuff symbols (R264, R265) -/

/-- The run after one more symbol. -/
def runNext (r : Run) (x : Nat) : Run := if 0 < r.cnt && r.lvl == x then { r with cnt := r.cnt + 1 } else { lvl := x, cnt := 1 }

/-- The stuff symbol after a run at level `l`. -/
def stuffLevel (nrz : Bool) (l : Nat) : Nat := if nrz then 1 - l else if l ≤ 1 then 3 else 0

/-- The symbols with a stuff symbol after every 31 of one level, and the run in which they end. -/
def stuff (nrz : Bool) : List Nat → Run → List Nat × Run
  | [], r => ([], r)
  | x :: l, r =>
    if r.cnt = 31 then
      let t := stuff nrz l (runNext { lvl := stuffLevel nrz r.lvl, cnt := 1 } x)
      (stuffLevel nrz r.lvl :: x :: t.1, t.2)
    else
      let t := stuff nrz l (runNext r x)
      (x :: t.1, t.2)

/-- What a receiver finds in a lane's symbols: those that carry data, how many stuff symbols it took out, how many runs became
violations, and whether one touches these symbols. -/
structure Heard where
  data : List Nat := []
  removed : Nat := 0
  viols : Nat := 0
  touched : Bool := false
deriving DecidableEq, Repr

/-- R264, R265: the symbol after a run of 31 is a stuff symbol; a run is a violation from its 33rd symbol on. That symbol is taken out
whatever its level (DESIGN CHOICE: the rule does not say what a receiver does where an error changed it). -/
def hear : List Nat → Run → Heard × Run
  | [], r => ({}, r)
  | x :: l, r =>
    let r' := runNext r x
    let v := decide (33 ≤ r'.cnt)
    let t := hear l { r' with told := r'.told || v }
    ({ data := if r.cnt = 31 then t.1.data else x :: t.1.data
       removed := t.1.removed + if r.cnt = 31 then 1 else 0
       viols := t.1.viols + if v && !r'.told then 1 else 0
       touched := t.1.touched || v }, t.2)

/-! ### Training states (Table 10-6, 10-11) -/

def tIDLE : Nat := 0
def tLOCK : Nat := 1
def tCONFIG : Nat := 2
def tSTART : Nat := 3
def tRUN : Nat := 4
def tPAUSE : Nat := 5
def tEQ : Nat := 6
def tSOAK : Nat := 7

/-- TSTATE of port `p`. -/
def tstate (s : State) (p : Nat) : Nat := rd s TL_PHY_STATUS_TSTATE p
def tstateSet (s : State) (p t : Nat) : State := wr s TL_PHY_STATUS_TSTATE p t

/-- Port `p` is a T-link in striped mode with its link up. -/
def striped (s : State) (p : Nat) : Bool := isTlink s p && linkUp s p && (tstate s p == tRUN || tstate s p == tSOAK)

/-- Port `p` is a T-link in the pause of a rate change (R280). -/
def paused (s : State) (p : Nat) : Bool := isTlink s p && linkUp s p && (tstate s p == tPAUSE || tstate s p == tEQ)

/-- The rate code of the lanes of port `p` (Tables 10-6 and 10-7). -/
def lineRate (s : State) (p : Nat) : Nat :=
  let t := tstate s p
  if t == tLOCK then 1
  else if t == tCONFIG || t == tSTART then (if (tlAt s p).fast then (tlAt s p).lastRate else 1)
  else if t == tPAUSE || t == tEQ then (tlAt s p).code
  else rd s PRT_STATUS_RATE p

/-- The lanes of port `p` use NRZ (Table 10-1). -/
def isNrz (s : State) (p : Nat) : Bool := lineRate s p ≤ 1

/-! ### Lanes -/

/-- The line of physical lane `n`, and a change of it. -/
def lineAt (s : State) (n : Nat) : Line := nget s.prt.line n {}
def lineSet (s : State) (n : Nat) (x : Line) : State := prtUpd s (fun y => { y with line := nset {} y.line n x })

/-- The physical lane of port `p` with logical number `l`. -/
def laneAt (s : State) (p l : Nat) : Option Nat := (lanesOf s p).find? (fun n => rd s LAN_STATUS_LOGICAL n == l)

/-- The spare lane of port `p`. -/
def spareLane (s : State) (p : Nat) : Option Nat := if hasSpare s p then laneAt s p 4 else none

/-- The lane that carries logical lane `l` of the transmitter of port `p`: the spare where it stands in for it (R303). -/
def txLane (s : State) (p l : Nat) : Option Nat :=
  if rd s WLT_STATUS_SPARE p == 2 && rd s WLT_STATUS_SPARE_FOR p == l then spareLane s p else laneAt s p l

/-- The lanes that carry the transmitter's logical lanes 0 upward. -/
def txLanes (s : State) (p : Nat) : List Nat := (List.range (widthOf (rd s PRT_STATUS_CUR_WIDTH p))).filterMap (txLane s p)

/-- R263: the generators of every lane of port `p` are loaded at entry to striped mode. -/
def linesSeed (s : State) (p : Nat) : State :=
  forEach (lanesOf s p) s (fun s n =>
    lineSet s n { lineAt s n with tx := laneSeed (rd s LAN_STATUS_LOGICAL n), rx := laneSeed (rd s LAN_STATUS_LOGICAL n) })

/-- No run stands on the lanes of port `p`: after electrical idle and where training begins (DESIGN CHOICE: R264 counts symbols, and does
not say how a count begins). -/
def linesIdle (s : State) (p : Nat) : State :=
  forEach (lanesOf s p) s (fun s n => lineSet s n { lineAt s n with txRun := {}, rxRun := {} })

/-! ### Sending -/

/-- `k` bytes leave on lane `n` of port `p`, scrambled where `scr`. -/
def laneOut (s : State) (p n k : Nat) (scr : Bool) (bytes : Bytes) : State :=
  let x := lineAt s n
  let bits := bytes.flatMap byteBits
  let r := stuff (isNrz s p) (levelsOf (isNrz s p) (if scr then scramble bits x.tx else bits)) x.txRun
  emit (lineSet s n { x with tx := if scr then prbsRun (8 * k) x.tx else x.tx, txRun := r.2 }) (.line n r.1)

/-- A stitch of the sideband that carries nothing (R302). -/
def sideFiller : Bytes := stitchBytes 0 [] 0

/-- R260, R302: the spare lane that is not in service carries its FILLER beside `k` bytes of each data lane. -/
def sideSlot (s : State) (p k : Nat) : State :=
  match spareLane s p with
  | none => s
  | some n =>
    if rd s WLT_STATUS_SPARE p == 2 then s else
    let i := (tlAt s p).sbTx
    tlUpd (laneOut s p n k true ((sideFiller.drop i).take k)) p (fun t => { t with sbTx := (i + k) % 128 })

/-- R260: the bytes of a stitch leave striped over the lanes of port `p`. -/
def slotOut (s : State) (p : Nat) (raw : Bytes) : State :=
  let w := widthOf (rd s PRT_STATUS_CUR_WIDTH p)
  let s := forEach ((txLanes s p).zipIdx) s (fun s e => laneOut s p e.1 (128 / w) true ((List.range (128 / w)).map (fun j => raw.getD (w * j + e.2) 0)))
  sideSlot s p (128 / w)

/-- R293: the credit return that the next stitch carries: the lowest VL with freed credits, up to 7 of them. -/
def takeCredit (s : State) (p : Nat) : State × Nat :=
  match (List.range 8).find? (fun v => nget s.shk.freed (p * 8 + v) 0 != 0) with
  | none => (s, 0)
  | some v =>
    let n := nget s.shk.freed (p * 8 + v) 0
    let c := min 7 n
    let s := { s with shk := { s.shk with freed := nset 0 s.shk.freed (p * 8 + v) (n - c) } }
    (tlUpd s p (fun t => { t with cum := nset 0 t.cum v ((nget t.cum v 0 + c) % 2 ^ 32) }), c + 8 * v)

/-- An unsequenced stitch leaves port `p`, checked against the number of the next sequenced one (R268). -/
def stitchOut (s : State) (p type subtype : Nat) (payload : Bytes) : State :=
  let (s, cr) := takeCredit s p
  let raw := stitchBytes (stitchHdr type 0 cr) payload (rd s WLT_SEQ_N p)
  slotOut (emit s (.stitch p type subtype raw)) p raw

/-- The payload of a CONTROL stitch (Table 11-3). -/
def ctlBody (s : State) (p sub arg : Nat) (body : Bytes) : Bytes :=
  [BitVec.ofNat 8 sub, BitVec.ofNat 8 arg, BitVec.ofNat 8 (devId s), BitVec.ofNat 8 p] ++ body

/-- A CONTROL stitch (Table 11-3). -/
def ctlOut (s : State) (p sub arg : Nat) (body : Bytes) : State := stitchOut s p 11 sub (ctlBody s p sub arg body)

/-- R302, R304: a CONTROL stitch goes whole on the sideband, after the FILLER under way, checked with number 0; the part puts no credit
return into it (DESIGN CHOICE). -/
def sideOut (s : State) (p sub arg : Nat) : State :=
  match spareLane s p with
  | none => s
  | some n =>
    let raw := stitchBytes (stitchHdr 11 0 0) (ctlBody s p sub arg []) 0
    let i := (tlAt s p).sbTx
    let s := if i = 0 then s else laneOut s p n (128 - i) true (sideFiller.drop i)
    tlUpd (laneOut (emit s (.stitch p 11 sub raw)) p n 128 true raw) p (fun t => { t with sbTx := 0 })

/-- R280: a TICK stitch leaves, or waits where a rate change has stopped the port. -/
def tickOut (s : State) (p : Nat) (rec : Bytes) : State :=
  if striped s p then stitchOut s p 10 0 rec
  else if paused s p then tlUpd s p (fun t => { t with tickDue := some rec })
  else s

/-- R280: the TICK that waited goes out in the first stitch slot of striped mode. -/
def tickHeld (s : State) (p : Nat) : State :=
  match (tlAt s p).tickDue with
  | none => s
  | some b => stitchOut (tlUpd s p (fun t => { t with tickDue := none })) p 10 0 b

/-! ### Receiving -/

/-- A stitch passed its checks: RECOVER ends (Table 11-2). -/
def goodStitch (s : State) (p : Nat) : State := wr s WLT_STATUS_RECOVER p 0

/-- Bytes of the sideband arrive; a whole stitch stands once 128 have come (R302). -/
def sideBytes (s : State) (p : Nat) (b : Bytes) (viol : Bool) : State :=
  tlUpd s p (fun t => { t with sbRx := t.sbRx ++ b, sbViol := t.sbViol || viol })

/-- The sideband stitch under way is done with. -/
def sideNext (s : State) (p : Nat) : State := tlUpd s p (fun t => { t with sbRx := t.sbRx.drop 128, sbViol := false })

/-- `n` stitch slots pass whose stitches a command names by what they say: the generators of the receiver go on over their bits, the sideband
brings FILLER, and no stuff symbols are taken to stand among them (DESIGN CHOICE: such a command gives no symbols). -/
def slotsIn (s : State) (p n : Nat) : State :=
  let k := 128 / widthOf (tlAt s p).rxw * n
  let go := fun (s : State) (m : Nat) => lineSet s m { lineAt s m with rx := prbsRun (8 * k) (lineAt s m).rx, rxRun := {} }
  let s := forEach (tlAt s p).rxLanes s go
  match spareLane s p with
  | none => s
  | some m =>
    if (tlAt s p).rxLanes.contains m then s else
    let i := (tlAt s p).sbRx.length
    let b := (tlAt s p).sbRx ++ (List.range k).map (fun j => sideFiller.getD ((i + j) % 128) 0)
    tlUpd (go s m) p (fun t => { t with sbRx := b.drop ((i + k) / 128 * 128) })

/-- A good sideband stitch passes whose content a command names: the rest of the FILLER before it and its own 128 bytes. -/
def sideIn (s : State) (p : Nat) : State :=
  match spareLane s p with
  | none => s
  | some m =>
    let k := 128 + (128 - (tlAt s p).sbRx.length) % 128
    tlUpd (lineSet s m { lineAt s m with rx := prbsRun (8 * k) (lineAt s m).rx, rxRun := {} }) p (fun t => { t with sbRx := [] })

/-- A stitch named by what it says passed its checks. -/
def slotIn (s : State) (p : Nat) : State := goodStitch (slotsIn s p 1) p

/-- The levels of one slot on lane `n` of port `p` become `k` bytes, with whether a run violation touches them (R259 to R265, R269). A lane that
brings fewer symbols is filled up with zeros. -/
def laneIn (s : State) (p n k : Nat) (levels after : List Nat) : State × Bytes × Bool :=
  let x := lineAt s n
  let h := hear levels x.rxRun
  let goes := h.2.cnt < 33 && 33 ≤ h.2.cnt + (after.takeWhile (· == h.2.lvl)).length
  let data := if bit s LAN_STATUS_RX_INV n then h.1.data.map (mirrorLevel (isNrz s p)) else h.1.data
  let bits := (data.flatMap (bitsOfLevel (isNrz s p)) ++ List.replicate (8 * k) false).take (8 * k)
  let s' := lineSet s n { x with rx := prbsRun (8 * k) x.rx, rxRun := { h.2 with told := h.2.told || goes } }
  let s' := inc (inc s' TLN_STUFF n h.1.removed) TLN_RUNVIOL n (h.1.viols + if goes && !h.2.told then 1 else 0)
  (s', bitsToBytes k (scramble bits x.rx), h.1.touched || goes)

/-- The lanes of a slot: the stitch's bytes, and whether a run violation touches it; the sideband goes its own way. -/
def slotRead (s : State) (p : Nat) (levels after : List (List Nat)) : State × Bytes × Bool :=
  let w := widthOf (tlAt s p).rxw
  let k := 128 / w
  let of := fun (l : List (List Nat)) (n : Nat) => l.getD (n - rd s PRT_CFG_FIRST_LANE p) []
  let r := ((tlAt s p).rxLanes).foldl (fun (acc : State × List Bytes × Bool) n =>
    let x := laneIn acc.1 p n k (of levels n) (of after n)
    (x.1, acc.2.1 ++ [x.2.1], acc.2.2 || x.2.2)) (s, [], false)
  let raw := (List.range 128).map (fun i => (r.2.1.getD (i % w) []).getD (i / w) 0)
  match spareLane s p with
  | none => (r.1, raw, r.2.2)
  | some n =>
    if (tlAt s p).rxLanes.contains n then (r.1, raw, r.2.2) else
    let x := laneIn r.1 p n k (of levels n) (of after n)
    (sideBytes x.1 p x.2.1 x.2.2, raw, r.2.2)

end Sys2Proof.Machine
end

