-- ==== Sys2Proof/Machine/Tlink.lean ====
section
/-! DEFINITION. T-link ports: the fall of a link and the return window, pair failover, stitches sent, training, step-up
(10_tlink_phy.md; R106, R107, R309 to R318). -/

namespace Sys2Proof.Machine

/-! ### Requests (R299, R300) -/

/-- A request leaves: SPARE_REQ on the sideband (R304). -/
def requestOut (s : State) (p sub arg : Nat) : State := if sub = 0x15 then sideOut s p sub arg else ctlOut s p sub arg []

/-- R299: a request is sent and stays outstanding. -/
def request (s : State) (p sub arg : Nat) : State :=
  tlUpd (requestOut s p sub arg) p (fun t => { t with req := some (sub, arg, 1) })

/-- R299: no request is outstanding any more. -/
def reqDone (s : State) (p : Nat) : State := tlUpd s p (fun t => { t with req := none })

/-- The rank of a request's kind (R300): RETRAIN, SPARE, WIDTH, RATE. -/
def reqRank (sub : Nat) : Nat := if sub / 16 == 2 then 0 else if sub == 0x12 then 1 else if sub == 0x15 then 2 else 3

/-- R300: the leader of the link: the end whose DEV_ID × 64 + PORT is higher. -/
def leads (s : State) (p : Nat) : Bool :=
  rd s TL_PARTNER_DEV_ID p * 64 + rd s TL_PARTNER_PORT p ≤ devId s * 64 + p

/-- The port faces itself (R300). -/
def selfLoop (s : State) (p : Nat) : Bool := rd s TL_PARTNER_DEV_ID p == devId s && rd s TL_PARTNER_PORT p == p

/-- R300: a request of kind `sub` is accepted against one of this end's own. -/
def yields (s : State) (p sub : Nat) : Bool :=
  match (tlAt s p).req with
  | none => true
  | some (own, _, _) => selfLoop s p || reqRank own < reqRank sub || (reqRank own == reqRank sub && !leads s p)

/-! ### Moving and flushing packets (R106, R107, R310, R317) -/

/-- WLT_OLDEST.HELD follows the held stitches. -/
def heldCount (s : State) (p : Nat) : State :=
  wr s WLT_OLDEST_HELD p ((tlAt s p).flights.foldl (fun n f => n + f.left) 0)

/-- The replay buffer of port `p` empties (R310). -/
def replayEmpty (s : State) (p : Nat) : State :=
  heldCount (tlUpd s p (fun t => { t with flights := [], noReplay := true })) p

/-- The packets whose good end the partner has not acknowledged: one that ended DATA_END_BAD waits in staging to be sent again (R315), or has
been given up. -/
def unacked (s : State) (p : Nat) : List Flight := (tlAt s p).flights.filter (fun f => !f.bad)

/-- Everything queued for port `p` is queued for its mate `m`: first the packets not acknowledged at group level, then staged
packets, then the VOQs in order per class, then packets that wait at their inputs (R107, R317). -/
def movePackets (s : State) (p m : Nat) : State :=
  let fl := (unacked s p).map (fun f => (⟨f.q, f.own, false⟩ : Staged))
  let st := fl ++ (nget s.shk.staging p []).map (fun x => { x with ct := false }) ++ nget s.shk.wait p []
  let key := fun k => (k / 576 * 72 + m) * 8 + k % 8
  let mine := s.shk.voq.filter (fun e => e.1 / 8 % 72 == p)
  let s := forEach mine s (fun s e => voqSet (voqSet s (key e.1) (voq s (key e.1) ++ e.2)) e.1 [])
  let s := forEach (s.shk.spilling.filter (fun e => e.1 / 8 % 72 == p)) s (fun s e =>
    { s with shk := { s.shk with spilling := nset 0 (nset 0 s.shk.spilling e.1 0) (key e.1) (nget s.shk.spilling (key e.1) 0 + e.2) } })
  let s := { s with shk := { s.shk with
    spilled := (s.shk.spilled.map (fun k => if k / 8 % 72 == p then key k else k)).eraseDups
    staging := nset [] (ndel s.shk.staging p) m (nget s.shk.staging m [] ++ st)
    wait := ndel s.shk.wait p
    xbar := s.shk.xbar.filter (fun x => x.o != p)
    held := s.shk.held.map (fun h => if h.outp == p then { h with outp := m } else h)
    window := s.shk.window.filter (· != p) } }
  replayEmpty s p

/-- The mate of port `p` in an ACTIVE pair while that mate is up, with the pair's number. -/
def mateUp (s : State) (p : Nat) : Option (Nat × Nat) := (activePair s p).filter (fun e => hopUp s e.2)

/-- R106: what waits for port `p` goes to the pair partner if one is up, else it is flushed and counted. -/
def windowEnd (s : State) (p : Nat) : State :=
  match mateUp s p with
  | some (_, m) => movePackets s p m
  | none =>
    let fl := unacked s p
    let any := !fl.isEmpty || !noPackets s p
    let s := flushPort s p .ur false
    let s := forEach (fl.filter (fun f => !f.own)) s (fun s f => lose s p f.q .ur false)
    let s := replayEmpty s p
    if any then raise (inc s RET_FLUSH p) 0x18E p else s

/-- R107, R317: a member of an ACTIVE pair fell while the other is up. -/
def failover (s : State) (p k m : Nat) : State :=
  let n := (unacked s p).length
  let s := inc (inc (inc s FAILOVERS p) PAIR_FAILOVERS k) RESENT_PKTS k n
  raise (movePackets s p m) 0x48D k

/-- Pair status of the pairs that port `p` is a member of: which members are up. -/
def pairUps (s : State) (p : Nat) : State :=
  forEach (List.range 32) s (fun s k =>
    let a := rd s WLT_PAIR_CTL_PORT_A k
    let b := rd s WLT_PAIR_CTL_PORT_B k
    if !bit s WLT_PAIR_CTL_EN k || (a != p && b != p) then s else
    wrb (wrb s WLT_PAIR_STATUS_UP_A k (linkUp s a)) WLT_PAIR_STATUS_UP_B k (linkUp s b))

/-- A replay under way ends (R289). -/
def replayStop (s : State) (p : Nat) : State :=
  tlUpd (wr s WLT_STATUS_REPLAYING p 0) p (fun t => { t with replayAt := none })

/-- What a T-link's fall does to its link layer and its packets: E and O are kept for RESUME, requests and timers end; packets go to
the pair's other member, or wait for the return window, or, where `window` is not allowed or 0, are flushed (R106, R107, R310). -/
def tlFall (s : State) (p cause : Nat) (window : Bool) : State :=
  let rate := rd s PRT_STATUS_RATE p
  let s := if cause = 0 then s else wr s WLT_STATUS_DOWN_CAUSE p cause
  let e := rd s WLT_SEQ_E p
  let o := rd s WLT_OLDEST_O p
  let s := tlUpd (tstateSet s p tIDLE) p (fun t => { t with
    lastRate := if rate = 0 then t.lastRate else rate, eDown := e, oDown := o, req := none, resume := false,
    resumeGot := false, tll := false, delay := none, code := 0, lost := [], corr := [], since := 0, uncovered := false,
    noReplay := false, spareGo := false, tickDue := none })
  let s := wr (wr (replayStop s p) WLT_STATUS_RECOVER p 0) WLT_STATUS_LEAK_LOW p 0
  let s := prtUpd s (fun x => { x with stay := x.stay.filter (fun k => k / 8 != p) })
  match mateUp s p with
  | some (k, m) => failover s p k m
  | none =>
    if window && rd s SHK_PRT_CTL_RET_WIN p != 0 then
      { s with shk := { s.shk with window := p :: s.shk.window.filter (· != p) } }
    else windowEnd s p

/-! ### Training (R277) -/

/-- The lanes of port `p` that train: no faulty one (R225), nor one that is out of service until the next full training (R305, R307). -/
def trainLanes (s : State) (p : Nat) : List Nat :=
  (lanesOf s p).filter (fun n => !laneBad s n
    && (rd s LAN_STATUS_LOGICAL n == 4 || !(rd s WLT_STATUS_OUT_LANES p).testBit (rd s LAN_STATUS_LOGICAL n)))

/-- Table 10-5: the training stitch that port `p` sends on lane `n` now. -/
def trainBytes (s : State) (p n : Nat) : Bytes :=
  let t := tlAt s p
  let b := BitVec.ofNat 8
  stitchBytes (stitchHdr 11 0 0) (marker ++ [b (if t.sendTs2 then 2 else 1), b (devId s), b p,
    b (rd s LAN_STATUS_LOGICAL n + (if hasSpare s p then 8 else 0) + rd s PRT_CFG_WIDTH p % 4 * 16),
    b (min 4 (maxRate s p) + if t.sendTs2 then t.agreed * 16 else 0), b (rd s TL_PHY_STATUS_RX_OK p),
    b (rd s TLN_EQ_PRESET_REQ n + rd s TLN_EQ_PRESET_USE n * 8 + rd s TLN_EQ_EQ_DONE n * 64), b t.fast.toNat] ++ trainingFill) 0

/-- A training stitch leaves on lane `n`, not scrambled (R276); TS2 are counted from the first that has come in (Table 10-6). -/
def trainOut (s : State) (p n : Nat) : State :=
  let raw := trainBytes s p n
  let s := laneOut (emit s (.stitch p 11 (if (tlAt s p).sendTs2 then 2 else 1) raw)) p n 128 false raw
  tlUpd s p (fun t => if t.sendTs2 && !t.ts2.isEmpty && (trainLanes s p).head? == some n then { t with after := t.after + 1 } else t)

/-- A training stitch leaves on every lane that trains (Table 10-6). -/
def trainOuts (s : State) (p : Nat) : State := forEach (trainLanes s p) s (fun s n => trainOut s p n)

/-- Training begins: fast at CONFIG with the last settings, else at LOCK with presets 0, every lane on trial and in straight order. -/
def trainStart (s : State) (p : Nat) (fast : Bool) : State :=
  let s := replayStop s p
  let s := tlSet s p { tlAt s p with fast := fast, ts1 := [], ts2 := [], after := 0, sendTs2 := false, eqP := [], code := 0, req := none, tll := false, lost := [] }
  let s := tlUpd s p (fun t => { t with heardAt := none, heard := [] })
  let s := wr (wr (wrb (tstateSet s p (if fast then tCONFIG else tLOCK)) TL_PHY_STATUS_FAST_USED p fast)
    TL_PHY_STATUS_RX_OK p 0) TL_PHY_STATUS_PARTNER_RX_OK p 0
  let s := if fast then s else
    let s := wr (wr (wr s PRT_STATUS_STEP_DONE p 0) WLT_STATUS_OUT_LANES p 0) WLT_STATUS_SPARE p 0
    forEach ((lanesOf s p).zipIdx) (wr s PRT_STATUS_REVERSED p 0) (fun s e =>
      wr (wr (wr (laneJoinLogical s p e.1 e.2) TLN_EQ_PRESET_USE e.1 0) TLN_EQ_PRESET_REQ e.1 0) TLN_EQ_EQ_DONE e.1 0)
  trainOuts (emit (linesIdle s p) (.link p (if fast then "TS1 FAST" else "TS1"))) p
where
  /-- The lane takes its logical number again. -/
  laneJoinLogical (s : State) (p l i : Nat) : State :=
    wr s LAN_STATUS_LOGICAL l (if hasSpare s p && i = dataLanes s p then 4 else i)

/-- Training of T-link port `p` fails (Table 8-6): back to DETECT; after a RETRAIN that is the link's fall (R232). -/
def tlTrainFail (s : State) (p : Nat) : State :=
  let was := s.prt.retrain.contains p
  let s := prtUpd s (fun x => { x with retrain := x.retrain.filter (· != p) })
  let s := tstateSet (linkOff (inc s TRAIN_FAIL p) p false false) p tIDLE
  if was then nbrUpdate (membersOfPort (tlFall (countDown s p) p 0 true) p) p else s

/-- The widest of x4, x2, x1 whose lanes all lie in the mask `ok` (bit l: logical lane l; bit 4 the spare) within the configured
width code `cfg`, and the data lane that the spare stands in for (R225, Table 10-6, R307 for the groups of x2). -/
def widest (ok cfg : Nat) : Option (Nat × Option Nat × List Nat) :=
  let has := fun l => ok.testBit l
  let w := widthOf cfg
  let missing := (List.range w).filter (fun l => !has l)
  if missing.isEmpty then some (cfg, none, List.range w)
  else if missing.length = 1 && has 4 then some (cfg, missing.head?, List.range w)
  else if 2 < w && has 0 && has 1 then some (1, none, [0, 1])
  else if 2 < w && has 2 && has 3 then some (1, none, [2, 3])
  else ((List.range w).find? has).map (fun l => (0, none, [l]))

/-- CREDITS at striped entry (R290): VL7 first, each its WLT_VL_CRED until 2,048 are used. -/
def grantCredits (s : State) (p : Nat) : State :=
  ((List.range 8).reverse.foldl (fun (acc : State × Nat) v =>
    let g := min (rd acc.1 WLT_VL_CRED (p * 8 + v)) acc.2
    (wr (wr (wr acc.1 WLT_VL_STAT2_GRANTED (p * 8 + v) g) WLT_VL_STAT_AVAIL (p * 8 + v) g) WLT_VL_STAT_LEAKED (p * 8 + v) 0, acc.2 - g))
    (s, 2048)).1

/-- The lanes of the receiver at entry to striped mode: those of the transmitter (R260, R303). -/
def rxLanesSet (s : State) (p : Nat) : State := tlUpd s p (fun t => { t with rxLanes := txLanes s p })

/-- R311: RESUME with what this end's receiver had at the fall. -/
def resumeOut (s : State) (p : Nat) : State :=
  let t := tlAt s p
  let flags := (if t.noReplay then 1 else 0) + (if t.resumeGot then 2 else 0) + (if t.part.isSome then 4 else 0)
  let free := (List.range 8).flatMap (fun v =>
    leBytes 2 (rd s WLT_VL_STAT2_GRANTED (p * 8 + v) - rd s WLT_VL_STAT2_RX_OCC (p * 8 + v)))
  ctlOut s p 0x33 flags (leBytes 2 t.eDown ++ free)

/-- Entry to striped mode: generators loaded (R263), E = 0 and numbers from 0 (R268, Table 11-2), credits granted anew and none waiting to be
returned (R290, R293); a TICK that waited goes first (R280); with the partner known before, RESUME begins (R311); with another, held packets
end their window (R106). -/
def stripeEntry (s : State) (p : Nat) : State :=
  let t := tlAt s p
  let s := wr (wr (wr (wr s WLT_SEQ_N p 0) WLT_SEQ_E p 0) WLT_OLDEST_O p 0) WLT_STATUS_RECOVER p 0
  let s := grantCredits s p
  let s := tlSet s p { t with since := 0, uncovered := false, tries := 0, cum := [], recvd := [], soak := [], corr := [], lost := [],
                              resume := t.same, resumeGot := false, rxw := t.agreed, sbTx := 0, sbRx := [], sbViol := false,
                              sbBad := none, part := if t.same then t.part else none }
  let s := { s with shk := { s.shk with freed := s.shk.freed.filter (fun e => e.1 / 8 != p) } }
  let s := tickHeld (rxLanesSet (linesSeed s p) p) p
  if t.same then resumeOut { s with shk := { s.shk with window := s.shk.window.filter (· != p) } } p
  else windowEnd s p

/-- R307: the data lanes of port `p` named in `kept` become logical lanes 0 upward, the rest the numbers after them, which are out of
service; so is the lane that the spare stands in for. At START the lanes of a narrower width are numbered alike, since R260 stripes over
lanes 0 to w − 1 (DEDUCED). -/
def renumber (s : State) (p : Nat) (kept : List Nat) : State :=
  let lanes := (lanesOf s p).filter (fun n => rd s LAN_STATUS_LOGICAL n != 4)
  let old := kept ++ (List.range (dataLanes s p)).filter (fun l => !kept.contains l)
  let new := fun l => (old.idxOf? l).getD l
  let stands := if rd s WLT_STATUS_SPARE p == 2 then some (rd s WLT_STATUS_SPARE_FOR p) else none
  let out := (List.range (dataLanes s p)).foldl (fun m i => if kept.length ≤ i || stands.any (fun l => new l == i) then m + 2 ^ i else m) 0
  let s' := forEach lanes s (fun s' n => wr s' LAN_STATUS_LOGICAL n (new (rd s LAN_STATUS_LOGICAL n)))
  let s' := match stands with | some l => wr s' WLT_STATUS_SPARE_FOR p (new l) | none => s'
  wr s' WLT_STATUS_OUT_LANES p out

/-- START (Table 10-6): partner identity is stored and compared, the agreed width taken; the ID clash is checked (R323). -/
def startReached (s : State) (p dev port rate : Nat) (spare : Bool) (w : Nat) (standIn : Option Nat) (ls : List Nat) : State :=
  let same := bit s TL_PARTNER_VALID p && rd s TL_PARTNER_DEV_ID p == dev && rd s TL_PARTNER_PORT p == port
  let s := wr (wr (wr s TL_PARTNER_DEV_ID p dev) TL_PARTNER_PORT p port) TL_PARTNER_MAX_RATE p rate
  let s := wr (wrb s TL_PARTNER_SPARE p spare) TL_PARTNER_VALID p 1
  let s := wrb (wr s PRT_STATUS_CUR_WIDTH p w) TL_PHY_STATUS_LEADER p (leads s p)
  let s := if widthOf w < dataLanes s p then inc s WIDTH_FALL p else s
  let s := match standIn with
    | some l => wr (wr s WLT_STATUS_SPARE p 2) WLT_STATUS_SPARE_FOR p l
    | none => wr s WLT_STATUS_SPARE p (if !hasSpare s p then 0 else if (rd s TL_PHY_STATUS_RX_OK p).testBit 4 then 1 else 3)
  let s := tlUpd (renumber s p ls) p (fun t => { t with same := same, agreed := w })
  nbrUpdate (clashCheck s p) p

/-- R318: when a member of an ACTIVE pair returns, the flows of the classes that the other member holds packets of stay there. -/
def staySet (s : State) (p : Nat) : State :=
  match mateUp s p with
  | none => s
  | some (_, m) =>
    let busy := fun c => s.shk.voq.any (fun e => e.1 / 8 % 72 == m && e.1 % 8 == c && !e.2.isEmpty)
      || (nget s.shk.staging m []).any (fun x => x.q.cls == c) || (tlAt s m).flights.any (fun f => f.q.cls == c)
    let ks := ((List.range 8).filter busy).map (p * 8 + ·)
    prtUpd s (fun x => { x with stay := ks ++ x.stay.filter (fun k => k / 8 != p) })

/-- A pair mismatch may be tried again once a member has trained (Table 11-6). -/
def pairRetrained (s : State) (p : Nat) : State :=
  forEach (List.range 32) s (fun s k =>
    if bit s WLT_PAIR_CTL_EN k && (rd s WLT_PAIR_CTL_PORT_A k == p || rd s WLT_PAIR_CTL_PORT_B k == p) then
      prtUpd s (fun x => { x with pairs := nset {} x.pairs k { (nget x.pairs k {}) with again := true } })
    else s)

/-- R298: a delay measurement begins: T1 is the device time in ps. -/
def delayStart (s : State) (p : Nat) : State :=
  let t := tlAt s p
  let t1 := devTime s * 1000 % 2 ^ 64
  let s := ctlOut s p 0x30 t.delayId (leBytes 8 t1)
  tlUpd s p (fun t => { t with delay := some (t.delayId, t1), delayId := (t.delayId + 1) % 256 })

/-- START ends at the stitch boundary (Table 10-6): the port is UP at its training rate, striped (R227, R232, R233). -/
def tlinkUp (s : State) (p : Nat) : State :=
  let t := tlAt s p
  let rate := if t.fast then t.lastRate else 1
  let s := prtUpd s (fun x => { x with retrain := x.retrain.filter (· != p) })
  let s := inc (wr (portState (tstateSet s p tRUN) p 3) PRT_STATUS_RATE p rate) LINK_UP p
  let s := degradedLink s p (if bit s PRT_STATUS_STEP_DONE p then t.target else 0)
  let s := pairRetrained (pairUps (stripeEntry s p) p) p
  delayStart (staySet (nbrUpdate s p) p) p

/-! ### Step-up (R279, Table 10-7) -/

/-- The attempt at `code` begins: no new stitches, electrical idle. -/
def pauseAt (s : State) (p code : Nat) : State :=
  let s := emit (linesIdle (replayStop (portState (tstateSet s p tPAUSE) p 4) p) p) (.link p "pause")
  tlUpd s p (fun t => { t with code := code, req := none, tll := false, lost := [] })

/-- An attempt fails: the next lower code (Table 10-7); at code 0x1 the port trains in full (R280). -/
def attemptFail (s : State) (p : Nat) : State :=
  let c := (tlAt s p).code
  let s := inc s RATE_FALL p
  if c ≤ 1 then
    let s := prtUpd (portState s p 2) (fun x => { x with retrain := p :: x.retrain.filter (· != p) })
    let e := rd s WLT_SEQ_E p
    let o := rd s WLT_OLDEST_O p
    trainStart (wr (tlUpd s p (fun t => { t with eDown := e, oDown := o })) PRT_STATUS_RATE p 0) p false
  else pauseAt s p (c - 1)

/-- SOAK fails (Table 10-7). -/
def soakFail (s : State) (p : Nat) : State := attemptFail (raise (inc s SOAK_FAIL p) 0x483 p) p

/-- A stitch that a command names by what it says passes its checks on a striped port, and `f` is what it does (R286). -/
def onStitch (p : Nat) (s : State) (f : State → State) : State :=
  if striped s p && !inBlockReset s 9 then f (slotIn s p) else s

/-- RATE_PAUSE_END (Table 10-7): TS1 per lane at the new rate. -/
def execRatePauseEnd (p : Fin 64) (s : State) : Res :=
  .next (if isTlink s p && tstate s p == tPAUSE then
      let e := rd s WLT_SEQ_E p
      let o := rd s WLT_OLDEST_O p
      let s := tlUpd (tstateSet s p tEQ) p (fun t => { t with ts1 := [], ts2 := [], after := 0, sendTs2 := false, eqP := [],
                                                                eDown := e, oDown := o, noReplay := false, fast := false })
      trainOuts (forEach (lanesOf s p) (wr s TL_PHY_STATUS_RX_OK p 0) (fun s l => wr s TLN_EQ_EQ_DONE l 0)) p
    else s)

/-- EQ_TIMEOUT (Table 10-7). -/
def execEqTimeout (p : Fin 64) (s : State) : Res :=
  .next (if isTlink s p && tstate s p == tEQ then attemptFail s p else s)

/-- SOAK_PASS (Table 10-7, R230). -/
def execSoakPass (p : Fin 64) (s : State) : Res :=
  .next (if isTlink s p && tstate s p == tSOAK then
      settle (tstateSet s p tRUN) p (tlAt s p).code (tlAt s p).target
    else s)

/-- R279, R300: RATE_REQ: the lower of the proposed code and this end's target is accepted, and PAUSE begins; a target that is already
reached settles the port. Where R229 does not let a step-up begin here, the request is not accepted (R233). -/
def rateReq (s : State) (p code : Nat) : State :=
  if !(striped s p && tstate s p == tRUN) || inBlockReset s 1 then s else
  if !running s || bit s PRT_STATUS_STEP_DONE p || !yields s p 0x20 then s else
  let t := targetRate s p (rd s TL_PARTNER_MAX_RATE p)
  let c := max 1 (min code t)
  let s := tlUpd (ctlOut s p 0x21 c []) p (fun x => { x with target := t })
  if c ≤ rd s PRT_STATUS_RATE p then settle (reqDone s p) p (rd s PRT_STATUS_RATE p) t else pauseAt s p c

/-- RATE_REQ_RECEIVE (R279). -/
def execRateReqReceive (p : Fin 64) (code : BitVec 4) (s : State) : Res := .next (onStitch p s (fun s => rateReq s p code.toNat))

/-- R279: RATE_ACK of the request outstanding. -/
def rateAck (s : State) (p c : Nat) : State :=
  if !striped s p then s else
  match (tlAt s p).req with
  | some (0x20, _, _) =>
    if c ≤ rd s PRT_STATUS_RATE p then settle (reqDone s p) p (rd s PRT_STATUS_RATE p) (tlAt s p).target else pauseAt s p c
  | _ => s

/-- RATE_ACK_RECEIVE (R279). -/
def execRateAckReceive (p : Fin 64) (code : BitVec 4) (s : State) : Res := .next (onStitch p s (fun s => rateAck s p code.toNat))

/-! ### Training stitches (R276 to R278) -/

/-- The fields of a training stitch (Table 10-5). -/
structure TrainSt where
  sub : Nat
  dev : Nat
  port : Nat
  logical : Nat
  spare : Bool
  width : Nat
  maxRate : Nat
  rxOk : Nat
  presetReq : Nat
  eqDone : Bool
deriving DecidableEq, Repr

/-- R276, R278: a good training stitch: its checks with number 0, header and marker. -/
def trainRead (raw : Bytes) : Option TrainSt :=
  match stitchRead raw 0 with
  | .error _ => none
  | .ok x =>
    let b := fun i => (x.payload.getD (i - 2) 0).toNat
    if x.type != 11 || x.vl != 0 || x.cr != 0 || x.payload.take 8 != marker || !(b 10 == 1 || b 10 == 2) then none else
    some { sub := b 10, dev := b 11 % 64, port := b 12 % 64, logical := b 13 % 8, spare := b 13 / 8 % 2 == 1,
           width := b 13 / 16 % 4, maxRate := b 14 % 16, rxOk := b 15 % 32, presetReq := b 16 % 8, eqDone := b 16 / 64 % 2 == 1 }

/-- The logical lane that lane number `i` of port `p` has in the reversed order (R228). -/
def revLogical (s : State) (p i : Nat) : Nat :=
  let w := dataLanes s p
  if hasSpare s p then (if i = 0 then 4 else w - i) else w - 1 - i

/-- R227, R228: the lane order of port `p` is reversed: every lane takes its logical number from the other end. -/
def reverseLanes (s : State) (p : Nat) : State :=
  forEach ((lanesOf s p).zipIdx) (wr s PRT_STATUS_REVERSED p 1) (fun s e => wr s LAN_STATUS_LOGICAL e.1 (revLogical s p e.2))

/-- The count of good stitches of logical lane `l` in a row starts again. -/
def laneRestart (s : State) (p l : Nat) : State :=
  let ok := rd s TL_PHY_STATUS_RX_OK p
  tlUpd (wr s TL_PHY_STATUS_RX_OK p (ok - (if ok.testBit l then 2 ^ l else 0))) p
    (fun t => { t with ts1 := nset 0 t.ts1 l 0, ts2 := nset 0 t.ts2 l 0 })

/-- The lanes in use for the width of logical lanes `ls` and a spare that stands in. -/
def usedLanes (ls : List Nat) (standIn : Option Nat) : List Nat :=
  (ls.filter (fun l => standIn != some l)) ++ (if standIn.isSome then [4] else [])

/-- LOCK ends when 16 good TS1 came in a row on every detected data lane (Table 10-6). -/
def lockStep (s : State) (p : Nat) : State :=
  let t := tlAt s p
  let det := (lanesOf s p).filter (fun n => rd s LAN_STATUS_LOGICAL n != 4 && rd s LAN_STATUS_ELEC n == 0)
  if !det.isEmpty && det.all (fun n => 16 ≤ nget t.ts1 (rd s LAN_STATUS_LOGICAL n) 0) then
    tlUpd (tstateSet s p tCONFIG) p (fun t => { t with ts1 := [], ts2 := [], after := 0, sendTs2 := false })
  else s

/-- The CONFIG exchange (Table 10-6), in CONFIG or at a new rate in EQ: 8 stitches that agree on the width, then 8 TS2, 16 sent since the
first. -/
def configStep (s : State) (p l : Nat) (x : TrainSt) : State :=
  let mine := rd s TL_PHY_STATUS_RX_OK p
  let cfg := min (rd s PRT_CFG_WIDTH p) x.width
  match widest (Nat.land mine x.rxOk) cfg, widest x.rxOk cfg, widest mine cfg with
  | some (w, si, ls), some (w1, _, _), some (w2, _, _) =>
    let t := tlAt s p
    let agree := w1 == w2 && w == w1
    let t := { t with ts1 := nset 0 t.ts1 l (if agree then nget t.ts1 l 0 + 1 else 0)
                      ts2 := nset 0 t.ts2 l (if x.sub == 2 then nget t.ts2 l 0 + 1 else 0) }
    let used := usedLanes ls si
    let t := { t with sendTs2 := t.sendTs2 || (agree && used.all (fun u => 8 ≤ nget t.ts1 u 0)), agreed := w }
    let s := tlSet s p t
    if t.sendTs2 && used.all (fun u => 8 ≤ nget t.ts2 u 0) && 16 ≤ t.after then
      let s := startReached s p x.dev x.port x.maxRate x.spare w si ls
      if tstate s p != tEQ then tstateSet s p tSTART
      else
        let s := wr s PRT_STATUS_RATE p t.code
        let s := stripeEntry (tstateSet s p (if t.code ≤ 1 then tRUN else tSOAK)) p
        if t.code ≤ 1 then settle s p 1 t.target else s
    else s
  | _, _, _ => s

/-- FAST retrain meets another partner: it fails, and full training follows (Table 10-6, R232). -/
def fastFail (s : State) (p : Nat) (identity : Bool) : State :=
  let s := inc s FAST_FAIL p
  trainStart (if identity then raise s 0x482 p else s) p false

/-- A good training stitch on lane `n` (number `l` of port `p`, logical `g`). -/
def trainGood (s : State) (p n g : Nat) (x : TrainSt) (eq : EqReport) : State :=
  let s := wr s LAN_STATUS_LOCK n 1
  let s := wr (wr s TL_PHY_STATUS_RX_OK p (Nat.lor (rd s TL_PHY_STATUS_RX_OK p) (2 ^ g))) TL_PHY_STATUS_PARTNER_RX_OK p x.rxOk
  if tstate s p == tLOCK then
    lockStep (if x.sub == 1 then tlUpd s p (fun t => { t with ts1 := nset 0 t.ts1 g (nget t.ts1 g 0 + 1) }) else s) p
  else if tstate s p == tCONFIG then
    if (tlAt s p).fast && (x.dev != rd s TL_PARTNER_DEV_ID p || x.port != rd s TL_PARTNER_PORT p) then fastFail s p true
    else configStep s p g x
  else
    -- EQ: presets and adaptation, then the exchange at the new rate
    let s := wr (wr s TLN_EQ_PRESET_USE n x.presetReq) TLN_EQ_PRESET_REQ n eq.preset.toNat
    let s := if eq.adapted then wr s TLN_EQ_EQ_DONE n 1 else s
    let s := if x.eqDone then tlUpd s p (fun t => { t with eqP := if t.eqP.contains g then t.eqP else g :: t.eqP }) else s
    let inUse := ((lanesOf s p).filter (fun l => !laneBad s l && !(rd s WLT_STATUS_OUT_LANES p).testBit (rd s LAN_STATUS_LOGICAL l)
      && (rd s LAN_STATUS_LOGICAL l != 4 || rd s WLT_STATUS_SPARE p == 2)))
    if inUse.all (fun l => bit s TLN_EQ_EQ_DONE l && (tlAt s p).eqP.contains (rd s LAN_STATUS_LOGICAL l)) then configStep s p g x
    else s

/-- The 128 bytes that the levels of lane `n` spell in training, and the lane with its stuff symbols taken out and counted (R264, R276);
`m`: mirrored once more than RX_INV says. -/
def trainLane (s : State) (p n : Nat) (levels : List Nat) : State × (Bool → Bytes) :=
  let x := lineAt s n
  let h := hear levels x.rxRun
  let bytes := fun m => bitsToBytes 128 (((if bit s LAN_STATUS_RX_INV n != m then h.1.data.map (mirrorLevel (isNrz s p)) else h.1.data).flatMap
    (bitsOfLevel (isNrz s p)) ++ List.replicate 1024 false).take 1024)
  (inc (lineSet s n { x with rxRun := { h.2 with told := false } }) TLN_STUFF n h.1.removed, bytes)

/-- R272: the corrected bytes of a stitch that one lane carried whole. -/
def trainFixed (s : State) (p n : Nat) (raw : Bytes) : State :=
  let f := fecScan raw
  let s := if f.2.1.isEmpty then s else inc (inc s FEC_CORR p) LAN_FEC_CORR n f.2.1.length
  if f.2.2 then inc s FEC_UNCORR p else s

/-- R269: the marker stands in these bytes, corrected where they can be. -/
def hasMarker (raw : Bytes) : Bool := ((fecScan raw).1.drop 2).take 8 == marker

/-- What a training stitch does that lane `n`, number `l` of port `p`, brought (R276 to R278, R227, R228, R269). One that shows the marker
mirrored sets RX_INV for good and counts as not good; an end that does not lead takes the reversed lane order where the partner's numbers run
the other way. -/
def trainTake (s : State) (p n l : Nat) (raw mirrored : Bytes) (eq : EqReport) : State :=
  let g := rd s LAN_STATUS_LOGICAL n
  let bad := laneRestart (inc s TS_BAD p) p g
  match trainRead raw with
  | none => if !hasMarker raw && hasMarker mirrored then wr bad LAN_STATUS_RX_INV n 1 else bad
  | some x =>
    if x.logical == g then trainGood s p n g x eq
    else if x.logical == revLogical s p l && !bit s PRT_STATUS_REVERSED p && tstate s p == tLOCK
        && devId s * 64 + p < x.dev * 64 + x.port then
      trainGood (reverseLanes s p) p n (revLogical s p l) x eq
    else bad

/-- Table 8-4: lane `n` brings a training stitch; in LOCK a lane that has brought none for 1 ms since the first came has an open receive pair
(R225). -/
def laneHeard (s : State) (p n : Nat) : State :=
  let t := tlAt s p
  let t := { t with heardAt := some (t.heardAt.getD s.now), heard := if t.heard.contains n then t.heard else n :: t.heard }
  let s := tlSet s p t
  if tstate s p == tLOCK && t.heardAt.any (fun a => a + 1000000 ≤ s.now) then
    forEach ((lanesOf s p).filter (fun l => !t.heard.contains l && rd s LAN_STATUS_ELEC l == 0)) s (fun s l => laneClass s l 4)
  else s

/-- The port trains, so that training stitches come and go on its lanes (Tables 10-6 and 10-7). -/
def training (s : State) (p : Nat) : Bool := isTlink s p && (tstate s p == tLOCK || tstate s p == tCONFIG || tstate s p == tEQ)

/-- TRAINING_STITCH_RECEIVE (R276 to R278). While the port trains on, it sends a training stitch on the lane in its turn (DESIGN CHOICE: the
rules give the stitches that must be sent and no command for their slots). -/
def execTrainingStitchReceive (p : Fin 64) (l : Fin 5) (levels : List (Fin 4)) (eq : EqReport) (s : State) : Res :=
  .next (
    if !training s p || inBlockReset s 1 then s else
    match (lanesOf s p)[l.val]? with
    | none => s
    | some n =>
      if laneBad s n then s else
      let r := trainLane (laneHeard s p n) p n (levels.map (·.val))
      let raw := r.2 false
      let s := trainTake (trainFixed r.1 p n raw) p n l raw (r.2 true) eq
      if training s p then trainOut s p n else s)

/-- TRAINING_LOCK_TIMEOUT (Table 10-6). -/
def execTrainingLockTimeout (p : Fin 64) (s : State) : Res :=
  .next (if isTlink s p && tstate s p == tLOCK then tlTrainFail s p else s)

/-- TRAINING_CONFIG_TIMEOUT (Table 10-6, R232): after a fast retrain the port trains in full. -/
def execTrainingConfigTimeout (p : Fin 64) (s : State) : Res :=
  .next (if isTlink s p && tstate s p == tCONFIG then
      if (tlAt s p).fast then fastFail s p false else tlTrainFail s p
    else s)

end Sys2Proof.Machine
end

