-- ==== Sys2Proof/Machine/Links.lean ====
section
/-! DEFINITION. Links that fall and ports that stop, PART and PORT resets, and the commands of a port's course
(08_lanes_ports.md R218 to R233; 13_partitions_sharing.md R351 to R353; 18_reset_boot_clocks.md R459 to R465). -/

namespace Sys2Proof.Machine

/-! ### T-links -/

/-- A T-link goes down (R309, Table 8-6): counted unless it is a DISABLE; a fast retrain follows where receivers are still detected, the partner
is known and FAST_EN is set (R232), else a full training. -/
def tlDown (s : State) (p cause : Nat) (receivers fastOk : Bool) : State :=
  let fast := receivers && fastOk && bit s TL_PHY_CTL_FAST_EN p && bit s TL_PARTNER_VALID p
  let s := raiseIf (cause == 2 || cause == 3) (countDown s p) 0x485 p
  let s := linkOff (tlFall s p cause true) p receivers fast
  let s := pairUps (nbrUpdate (membersOfPort s p) p) p
  let s := prtUpd s (fun x => { x with retrain := x.retrain.filter (· != p) })
  if receivers then trainStart s p fast else s

/-- A training that is no link down (R232, R297): packets wait, E, O and the last settings are kept. In SOAK the step-up ends as a failed attempt,
and the training is a full one ("When events meet" of 10_tlink_phy.md). -/
def retrainGo (s : State) (p : Nat) (full : Bool) : State :=
  let soaking := isTlink s p && tstate s p == tSOAK
  let fast := !full && !soaking && bit s TL_PHY_CTL_FAST_EN p
  let s := if soaking then inc s RATE_FALL p else s
  let rate := rd s PRT_STATUS_RATE p
  let e := rd s WLT_SEQ_E p
  let o := rd s WLT_OLDEST_O p
  let s := prtUpd s (fun x => { x with retrain := p :: x.retrain.filter (· != p) })
  let s := wr (wr (portState s p 2) PRT_STATUS_RATE p 0) WLT_STATUS_LEAK_LOW p 0
  let s := if isTlink s p then
      let s := tlUpd s p (fun t => { t with lastRate := rate, eDown := e, oDown := o, noReplay := false, delay := none,
                                            spareGo := false })
      nbrUpdate (trainStart (wr s WLT_STATUS_RECOVER p 0) p fast) p
    else emit s (.link p "full training")
  if fast then s else wr s PRT_STATUS_STEP_DONE p 0

/-! ### PART resets (R351, R352, Table 13-2) -/

/-- A cause joins those that hold the PART reset of partition `n`: 0 the pin, 1 its timer, 2 a hot reset not ended, 3 EN = 0, 4 the
wait of R460 for the reference clock. -/
def partCause (s : State) (n c : Nat) : State :=
  let l := nget s.fab.resets n []
  fabUpd s (fun x => { x with resets := nset [] x.resets n (if l.contains c then l else l ++ [c]) })

/-- A cause ends; with the last one recovery no longer waits for the partition (R465). -/
def partUncause (s : State) (n c : Nat) : State :=
  let l := (nget s.fab.resets n []).filter (· != c)
  let s := fabUpd s (fun x => { x with resets := nset [] x.resets n l })
  if l.isEmpty then waitEnd s n else s

/-- The functions of partition `n`. -/
def fnsOf (n : Nat) : List Nat := [fnUp n, fnClick n] ++ (List.range 64).map (fnDown n)

/-- Configuration space of functions returns to its reset values. -/
def cfgReset (s : State) (fs : List Nat) : State :=
  prtUpd { s with cfg := s.cfg.filter (fun e => !fs.contains (e.1 / 2048)) } (fun x => { x with doe := x.doe.filter (fun e => !fs.contains e.1) })

/-- The MSI-X table of function `f` (16: the manager's) is masked and empty, nothing pending. -/
def msixReset (s : State) (f : Nat) : State :=
  rngUpd s (fun r => { r with msix := r.msix.filter (fun e => e.1 / 8192 != f), pba := r.pba.filter (fun k => k / 2048 != f) })

/-- R351, R359: FLR goes to the VF of remap entry `i` as a configuration write with the requester ID of its port's bridge and the entry's
number as its tag. -/
def vfFlr (s : State) (i : Nat) : State :=
  let p := rd s PTN_RID_PORT i
  let s := fabUpd s (fun x => { x with vfFlr := i :: x.vfFlr.filter (· != i), vfHold := i :: x.vfHold.filter (· != i) })
  if !linkUp s p then s else
  let pk : Packet := { kind := .nonPosted, op := .cfg, addr := BitVec.ofNat 64 (rd s PTN_RID_RID_REAL i * 65536 + Config.vfDevCtl i), len := 4,
                       data := [0, 0x80, 0, 0], fbe := 3, lbe := 0, tc := 0, rid := BitVec.ofNat 16 (bridgeRid s p), tag := BitVec.ofNat 14 i,
                       pasid := none, status := .ok, lastPiece := true, ro := false, ido := false, ns := false, tph := none, selIde := false,
                       translated := false, fab := none, notice := none }
  formed s p 0 (portPt s p) pk

/-- FLR to every VF that partition `n` borrows, below the shared bridge of one port or of all (R351, R359). -/
def vfFlrs (s : State) (n : Nat) (port : Option Nat) : State :=
  forEach ((remapValid s).filter (fun i => rd s PTN_RID_PARTITION i == n && port.all (· == rd s PTN_RID_PORT i))) s vfFlr

/-- R352: crossing-window reads into partition `n` that wait for their first completion are answered Unsupported Request, their proxy tags
quarantined. -/
def xwAnswers (s : State) (n : Nat) : State :=
  forEach (s.fab.ret.filter (fun e => portPt s (e.1 / 16384) == n && e.2.xw.isSome && !e.2.started && !e.2.quar)) s (fun s e =>
    let pk : Packet := { kind := .nonPosted, op := .memRead, addr := 0, len := 0, data := [], fbe := 0, lbe := 0, tc := Fin.ofNat 8 e.2.tc,
                         rid := BitVec.ofNat 16 e.2.rid, tag := BitVec.ofNat 14 e.2.tag, pasid := none, status := .ur, lastPiece := true,
                         ro := false, ido := false, ns := false, tph := none, selIde := false, translated := false, fab := e.2.fab, notice := none }
    let s := fabUpd s (fun x => { x with ret := nput x.ret e.1 { e.2 with quar := true } })
    answer s e.2.inp e.2.tc e.2.part pk .ur)

/-- A PCIe port takes a hot reset or falls with one: packets flushed (R109), back to DETECT. -/
def hotReset (s : State) (p : Nat) : State :=
  let up := linkUp s p
  let s := emit (pcieDrop s p) (.link p "hot reset")
  if rd s PRT_STATUS_STATE p == 0 || rd s PRT_STATUS_STATE p == 5 then s
  else linkOff (if up then countDown s p else s) p false false

/-- The PART reset of partition `n` is asserted by cause `c` (R243, R351, R461, R466); one of a partition in reset, or under a wider reset, is
only recorded (R465). -/
def partAssert (s : State) (n c : Nat) : State :=
  let was := partInReset s n
  let s := partCause (wr s RST_CAUSE_PART 0 (Nat.lor (rd s RST_CAUSE_PART) (2 ^ n))) n c
  if was then s else if wideReset s then wr s PTN_STAT_IN_RESET n 1 else
  let s := raise (wr s PTN_STAT_IN_RESET n 1) 0x384 n (some n)
  let s := fabUpd s (fun x => { x with ptResets := nset 0 x.ptResets n (nget x.ptResets n 0 + 1) })
  let exported := (List.range 4).any (fun j => bit s FAB_GAP_EN (n * 4 + j))
    || (List.range 64).any (fun p => bit s FAB_EXP_EN p && rd s FAB_EXP_PARTITION p == n)
  let s := if exported then noticeSend s 5 0 n 0 else s
  let s := membersOfSlices (slicesStop s (fun k => k / 1024 == n)) (fun k => k / 1024 == n)
  let s := msixReset (cfgReset s (fnsOf n)) n
  let mine := (portsOn s).filter (fun p => !isTlink s p && portPt s p == n)
  let s := prtUpd { s with regs := rreset s.regs (fun k => keyReach k == reachCode .part && mine.contains (keyIdx k)) }
    (fun x => { x with ptm := x.ptm.filter (fun e => !mine.contains e.1) })
  let s := forEach (mine.filter (fun p => !bit s PRT_CFG_DIR p)) s hotReset
  xwAnswers (vfFlrs s n none) n

/-- The reset of partition `n` ends where nothing asserts it any more and no wider reset stands (R351, R465): its bridges take their
places (R239). -/
def partRelease (s : State) (n : Nat) : State :=
  if !bit s PTN_STAT_IN_RESET n || !(nget s.fab.resets n []).isEmpty || !bit s PTN_CFG_EN n || wideReset s then s
  else ptnStat (placesFix (wr s PTN_STAT_IN_RESET n 0) n)

/-- The upstream port of its partition (R348). -/
def isHead (s : State) (p : Nat) : Bool := isUpstream s p && (upPorts s (portPt s p)).headD p == p

/-! ### A link goes down -/

/-- What the fall of a PCIe link means for packets and partition: an upstream port's partition is reset (R110, R243), a downstream port's packets
are flushed, and DPC holds it where enabled (R109, R245). -/
def pcieFall (s : State) (p : Nat) : State :=
  if bit s PRT_CFG_DIR p then
    let head := isHead s p
    let s := membersOfPort (creditsDrop (retRetry (flushPort s p .ur true)) p) p
    if head then partAssert s (portPt s p) 1 else s
  else
    let s := pcieDrop s p
    if dpcEnabled s p then dpcHold s p else s

/-- The link of a port that is UP or STEPPING goes down (Table 8-6, R223, R232). An upstream port waits in DETECT for its PART reset (R243). -/
def linkDown (s : State) (p cause : Nat) (receivers fastOk : Bool) : State :=
  let s := wr s RST_CAUSE_PORT 0 1
  if isTlink s p then tlDown s p cause receivers fastOk else
  let s := pcieFall (countDown s p) p
  let s := prtUpd s (fun x => { x with retrain := x.retrain.filter (· != p) })
  linkOff s p (receivers && !bit s PRT_CFG_DIR p && !s.prt.dpc.contains p) false

/-- Port `p` leaves whatever it does for DETECT, where it is held (Table 8-6: modes, fences, R348): a link that is up falls. -/
def portHold (s : State) (p : Nat) : State :=
  if linkUp s p then linkDown s p 0 false false
  else if rd s PRT_STATUS_STATE p == 2 then
    let was := s.prt.retrain.contains p
    let s := if was then (if isTlink s p then tlFall (countDown s p) p 0 true else pcieFall (countDown s p) p) else s
    let s := prtUpd (linkOff s p false false) (fun x => { x with retrain := x.retrain.filter (· != p) })
    if isTlink s p then tstateSet s p tIDLE else s
  else s

/-- Every port that is held and not in DETECT falls (Tables 2-4, 12-2, R348, R438). -/
def holdPorts (s : State) : State :=
  forEach ((List.range 64).filter (fun p => portHeld s p)) s portHold

/-- Table 8-6: the device enters a mode in which links are electrically idle: every port but STOPPING ones goes to DETECT, held, uncounted. -/
def portsIdle (s : State) : State :=
  forEach (portsOn s) s (fun s p =>
    if rd s PRT_STATUS_STATE p == 5 then s else
    let s := membersOfPort (if isTlink s p then tstateSet s p tIDLE else s) p
    let s := prtUpd s (fun x => { x with retrain := x.retrain.filter (· != p) })
    let s := linkOff s p false false
    if isTlink s p then pairUps (nbrUpdate s p) p else s)

/-! ### PORT resets (Table 18-1) -/

/-- A PORT reset of port `p` by cause `c` (0 its timer, 1 Secondary Bus Reset); of an upstream port it is a PART reset (R461). -/
def portReset (s : State) (p c : Nat) : State :=
  if isUpstream s p then partAssert s (portPt s p) 1 else
  let s := wr s RST_CAUSE_PORT 0 1
  let l := nget s.prt.portRst p []
  let s := prtUpd s (fun x => { x with portRst := nset [] x.portRst p (if l.contains c then l else l ++ [c]) })
  if isTlink s p then portHold s p else hotReset s p

/-- A cause of a PORT reset ends; with the last one recovery no longer waits for the port (R465). -/
def portUnreset (s : State) (p c : Nat) : State :=
  let l := (nget s.prt.portRst p []).filter (· != c)
  let s := prtUpd s (fun x => { x with portRst := nset [] x.portRst p l })
  if l.isEmpty then waitEnd s (16 + p) else s

/-! ### Commands of a port's course (Table 8-6) -/

/-- R219: DISABLE takes the port to STOPPING; its packets go at once to a pair partner that is up, or are flushed. -/
def portDisableAt (s : State) (p : Nat) : State :=
  if rd s PRT_STATUS_STATE p == 0 || rd s PRT_STATUS_STATE p == 5 then s else
  let up := linkUp s p || s.prt.retrain.contains p
  let s := if isTlink s p then wr (tlFall s p 5 false) WLT_STATUS_DOWN_CAUSE p 5
    else if up then
      (if bit s PRT_CFG_DIR p then
        let head := isHead s p
        let s := creditsDrop (retRetry (flushPort s p .ur true)) p
        if head then partAssert s (portPt s p) 1 else s
      else creditsDrop (retRetry (flushPort s p .ur false)) p)
    else s
  let s := prtUpd (membersOfPort s p) (fun x => { x with retrain := x.retrain.filter (· != p), dpc := x.dpc.filter (· != p) })
  let s := portState (linkOff s p false false) p 5
  ptnStat (if isTlink s p then pairUps (nbrUpdate s p) p else s)

/-- PORT_DISABLE (R219). -/
def execPortDisable (m : Master) (p : Fin 64) (s : State) : Res :=
  .next (asMaster s m (PRT_CMD_DISABLE.off + 0x4000 * p.val) (fun s => portDisableAt s p))

/-- PORT_STOPPED (R219): transmitters idle, and no packet for the port in the Shank. -/
def execPortStopped (p : Fin 64) (s : State) : Res :=
  .next (if rd s PRT_STATUS_STATE p != 5 || !noPackets s p then s else
    let s := forEach (lanesOf s p) s laneLeave
    let s := wr (wr (wr (portState s p 0) PRT_STATUS_EN p 0) PRT_STATUS_CUR_WIDTH p 0) PRT_STATUS_FLIT p 0
    let s := wr (wr s PRT_STATUS_REVERSED p 0) PRT_STATUS_DEGRADED_LINK p 0
    let s := wr (wr s PRT_STATUS_PARTNER p 0) PRT_STATUS_STEP_DONE p 0
    let s := if isTlink s p then
        let s := tlSet (wr (wr s TL_PARTNER_VALID p 0) FAB_NBR_CLASH p 0) p {}
        nbrUpdate (wr (wr (tstateSet s p tIDLE) WLT_STATUS_SPARE p 0) WLT_STATUS_OUT_LANES p 0) p
      else s
    ptnStat s)

/-- R232: RETRAIN: a full training that is no link down; a T-link tells its partner by RETRAIN_REQ with FULL = 1. -/
def portRetrainAt (s : State) (p : Nat) : State :=
  if !linkUp s p then s else
  retrainGo (if striped s p then ctlOut s p 0x10 1 [] else s) p true

/-- PORT_RETRAIN (R232). -/
def execPortRetrain (m : Master) (p : Fin 64) (s : State) : Res :=
  .next (asMaster s m (PRT_CMD_RETRAIN.off + 0x4000 * p.val) (fun s => portRetrainAt s p))

/-- DETECT_DONE (R224, R225). -/
def execDetectDone (p : Fin 64) (found : BitVec 17) (shorted : Shorts) (s : State) : Res :=
  .next (if rd s PRT_STATUS_STATE p != 1 || portHeld s p then s else
    let s := lanesFound s p found.toNat shorted.tx.toNat shorted.rx.toNat
    let any := (List.range (dataLanes s p)).any (fun i => found.toNat.testBit i)
    let s := slotPresence (wrb s PRT_STATUS_PARTNER p any) p any
    if !any then s else
    let s := portState s p 2
    if isTlink s p then trainStart s p false else s)

/-- The lane numbers of a PCIe port in the order of their logical numbers as training finds them (R225, R227). -/
def logicalOrder (n : Nat) (reversed : Bool) : List Nat := if reversed then (List.range n).reverse else List.range n

/-- R225: the widest width up to code `most` at which a PCIe port may train on the lanes that are not faulty, and the group: that of logical lane 0, or
else the one at the other end, which then begins the numbering. -/
def pcieGroup (s : State) (p most : Nat) (reversed : Bool) : Option (Nat × Bool) :=
  let n := dataLanes s p
  let bad := fun i => laneBad s (rd s PRT_CFG_FIRST_LANE p + i)
  [4, 3, 2, 1, 0].findSome? (fun c =>
    if n < widthOf c || widthOf most < widthOf c then none
    else if ((logicalOrder n reversed).take (widthOf c)).all (fun i => !bad i) then some (c, reversed)
    else if ((logicalOrder n (!reversed)).take (widthOf c)).all (fun i => !bad i) then some (c, !reversed)
    else none)

/-- LINK_UP of a PCIe port (R225, R227, R233): what its training found; with no lane left it does not come up. -/
def pcieUp (s : State) (p width : Nat) (flit reversed : Bool) (rxInv : Nat) : State :=
  match pcieGroup s p width reversed with
  | none => s
  | some (w, reversed) =>
  let s := prtUpd s (fun x => { x with retrain := x.retrain.filter (· != p) })
  let s := inc (wr (wr (portState s p 3) PRT_STATUS_RATE p 1) PRT_STATUS_CUR_WIDTH p w) LINK_UP p
  let s := wrb (wrb s PRT_STATUS_FLIT p (flit && bit s PCI_CTL_FLIT_LOW p)) PRT_STATUS_REVERSED p reversed
  let n := dataLanes s p
  let s := forEach ((lanesOf s p).zipIdx) s (fun s e =>
    let i := if reversed then n - 1 - e.2 else e.2
    let s := wr (wrb s LAN_STATUS_RX_INV e.1 (rxInv.testBit e.2)) LAN_STATUS_LOCK e.1 (if laneBad s e.1 || widthOf w ≤ i then 0 else 1)
    wr s LAN_STATUS_LOGICAL e.1 i)
  let s := if widthOf w < n then inc s WIDTH_FALL p else s
  slotStat (degradedLink s p 1) p 0x100 0

/-- LINK_UP (R233): a PCIe port's training succeeds, or a T-link's START ends. -/
def execLinkUp (p : Fin 64) (width : Fin 5) (flit reversed : Bool) (rx : RxLanes) (s : State) : Res :=
  .next (if rd s PRT_STATUS_STATE p != 2 || inBlockReset s 1 then s
    else if isTlink s p then (if tstate s p == tSTART then tlinkUp s p else s)
    else pcieUp (lanesRx s p rx.bad) p width flit reversed rx.inv.toNat)

/-- STEP_UP_START (R229, R279): the port enters STEPPING; the leader of a T-link proposes its target, once no other request of its own is
outstanding (R299). -/
def execStepUpStart (p : Fin 64) (partnerMax : BitVec 3) (s : State) : Res :=
  .next (
    let pm := if isTlink s p then rd s TL_PARTNER_MAX_RATE p else partnerMax.toNat
    let t := targetRate s p pm
    if rd s PRT_STATUS_STATE p != 3 || !running s || bit s PRT_STATUS_STEP_DONE p || t ≤ rd s PRT_STATUS_RATE p || inBlockReset s 1
      || (isTlink s p && (tstate s p != tRUN || (leads s p && (tlAt s p).req.isSome))) then s
    else
      let s := tlUpd (portState s p 4) p (fun x => { x with target := t })
      if isTlink s p && leads s p then request s p 0x20 t else s)

/-- STEP_DONE (R230): of a PCIe port; a T-link settles by its own states (Table 10-7). -/
def execStepDone (p : Fin 64) (rate : BitVec 3) (width : Fin 5) (s : State) : Res :=
  .next (if rd s PRT_STATUS_STATE p != 4 || isTlink s p then s else
    let t := (tlAt s p).target
    let r := max 1 (min rate.toNat t)
    let s := inc s RATE_FALL p (t - r)
    let s := if widthOf width < widthOf (rd s PRT_STATUS_CUR_WIDTH p) then inc (wr s PRT_STATUS_CUR_WIDTH p width) WIDTH_FALL p else s
    settle s p r t)

/-- PORT_LINK_DOWN (R233). -/
def execPortLinkDown (p : Fin 64) (receivers : Bool) (s : State) : Res :=
  .next (if linkUp s p then linkDown s p 0 receivers true else s)

/-- PCIE_TRAINING_FAIL (R233): back to DETECT; after a RETRAIN that is the link's fall (R232). -/
def execPcieTrainingFail (r : RxFail) (s : State) : Res :=
  let p := r.port
  .next (if isTlink s p || rd s PRT_STATUS_STATE p != 2 then s else
    let was := s.prt.retrain.contains p.val
    let s := inc (lanesRx s p r.bad) TRAIN_FAIL p
    let s := if was then pcieFall (wr (countDown s p) RST_CAUSE_PORT 0 1) p else s
    prtUpd (linkOff s p false false) (fun x => { x with retrain := x.retrain.filter (· != p.val) }))

/-- REFCLK_LOST (R223): the loss bit, the source, and every port of that personality in the Quarter goes down to DETECT. -/
def execRefclkLost (q : Fin 4) (tl : Bool) (s : State) : Res :=
  .next (
    let s := if tl then wr (wr s LAN_REFCLK_TLINK_OK q 0) LAN_REFCLK_TLINK_LOSS q 1
      else wr (wr s LAN_REFCLK_PCIE_OK q 0) LAN_REFCLK_PCIE_LOSS q 1
    let s := raise s ((if tl then 0x84 else 0x80) + q.val) q
    forEach ((portsOn s).filter (fun p => isTlink s p == tl && rd s PRT_CFG_FIRST_LANE p / 48 == q.val)) s portHold)

/-- REFCLK_GOOD (R223, R460): the clock has been good for 100 µs; a PERSTn_N release that waited for it takes effect. -/
def execRefclkGood (q : Fin 4) (tl : Bool) (s : State) : Res :=
  .next (
    let s := if tl then wr s LAN_REFCLK_TLINK_OK q 1 else wr s LAN_REFCLK_PCIE_OK q 1
    if tl then s else
    forEach (List.range 16) s (fun s n =>
      if (upPort s n).any (fun u => rd s PRT_CFG_FIRST_LANE u / 48 == q.val) then partUncause s n 4 else s))

/-- T_LL_EXPIRY (R309). -/
def execTLlExpiry (p : Fin 64) (s : State) : Res :=
  .next (if striped s p && (tlAt s p).tll then linkDown s p 1 (bit s PRT_STATUS_PARTNER p) true else s)

/-- DEAD_TIMEOUT (R309). -/
def execDeadTimeout (p : Fin 64) (s : State) : Res :=
  .next (if striped s p then linkDown s p 2 (bit s PRT_STATUS_PARTNER p) true else s)

/-- RESUME_TIMEOUT (R311): the port goes down with cause RESUME and trains in full. -/
def execResumeTimeout (p : Fin 64) (s : State) : Res :=
  .next (if striped s p && (tlAt s p).resume then
      linkDown (inc s RESUME_FAIL p) p 4 (bit s PRT_STATUS_PARTNER p) false
    else s)

/-- RETURN_WINDOW_EXPIRY (R106). -/
def execReturnWindowExpiry (p : Fin 64) (s : State) : Res :=
  .next (if s.shk.window.contains p.val then windowEnd s p else s)

/-! ### DPC and slots (R245, R250) -/

/-- R245, R359: DPC triggers on a downstream port; a step-up ends, the link is held down, packets are flushed. -/
def dpcGo (s : State) (p : Nat) : State :=
  if isTlink s p || bit s PRT_CFG_DIR p || rd s PRT_STATUS_STATE p == 0 || rd s PRT_STATUS_STATE p == 5 || s.prt.dpc.contains p then s
  else
    let up := linkUp s p || s.prt.retrain.contains p
    let s := pcieDrop (dpcHold (if up then countDown s p else s) p) p
    prtUpd (linkOff s p false false) (fun x => { x with retrain := x.retrain.filter (· != p) })

/-- DPC_TRIGGER (R245): an error found on the port triggers DPC under its Trigger Enable setting. -/
def execDpcTrigger (p : Fin 64) (s : State) : Res := .next (if dpcEnabled s p then dpcGo s p else s)

/-- R245: DPC Trigger Status is cleared; the port retrains from 2.5 GT/s. -/
def dpcClear (s : State) (p : Nat) : State :=
  if s.prt.dpc.contains p then dpcStatus (prtUpd s (fun x => { x with dpc := x.dpc.filter (· != p) })) p false else s

/-- DPC_STATUS_CLEAR (R245). -/
def execDpcStatusClear (p : Fin 64) (s : State) : Res := .next (dpcClear s p)

/-- The ports bound to slot channel `n` (R248). -/
def boundTo (s : State) (n : Nat) : List Nat := (portsOn s).filter (fun p => slotBound s p && rd s PCI_SLOT_CHANNEL p == n)

/-- SLOT_PG_RISE (R250): the pin has risen (R492), and a bound port starts receiver detection. -/
def execSlotPgRise (n : Fin 16) (s : State) : Res :=
  .next (if !bit s PWD_SLOT_STATUS_PG n then s else
    forEach ((boundTo s n).filter (fun p => rd s PRT_STATUS_STATE p == 1 && !portHeld s p)) s
      (fun s p => emit s (.link p "receiver detection")))

/-- SLOT_PG_FALL (R250): the pin has fallen (R489 to R493), and a bound port whose link is up goes down under R245. -/
def execSlotPgFall (n : Fin 16) (s : State) : Res :=
  .next (if bit s PWD_SLOT_STATUS_PG n then s else forEach (boundTo s n) s portHold)

/-! ### Partition commands and pins (R349, R351, R460) -/

/-- R349, R351: EN = 1; in a layout of one partition it has no effect for another; the part's 16,384 vectors bound the sum. -/
def partEnable (s : State) (n : Nat) : State :=
  let vecs := (List.range 16).foldl (fun a k => if bit s PTN_CFG_EN k || k == n then a + rd s PTN_CFG_VECM1 k + 1 else a) 0
  if bit s PTN_CFG_EN n || (oneLayout s && n != 0) || 16384 < vecs then s else
  ptnStat (partUncause (wr (wr s PTN_CFG_EN n 1) PTN_STAT_IN_RESET n 1) n 3)

/-- PARTITION_ENABLE (R349). -/
def execPartitionEnable (m : Master) (n : Fin 16) (s : State) : Res :=
  .next (asMaster s m (PTN_CFG_EN.off + 0x10 * n.val) (fun s => partEnable s n))

/-- R351: EN = 0 asserts the PART reset. -/
def partDisable (s : State) (n : Nat) : State :=
  if !bit s PTN_CFG_EN n then s else ptnStat (wr (partAssert s n 3) PTN_CFG_EN n 0)

/-- PARTITION_DISABLE (R351). -/
def execPartitionDisable (m : Master) (n : Fin 16) (s : State) : Res :=
  .next (asMaster s m (PTN_CFG_EN.off + 0x10 * n.val) (fun s => partDisable s n))

/-- PERST_ASSERT (R460): the pin is low for 1 µs; the upstream port goes with its partition. -/
def execPerstAssert (pt : Fin 16) (s : State) : Res :=
  .next (
    let s := wr s RST_CAUSE_PIN_PERST 0 1
    let s := { s with rst := { s.rst with perst := pt.val :: s.rst.perst.filter (· != pt.val) } }
    partAssert s pt 0)

/-- PERST_RELEASE (R460): a pulse of 1 µs or more ends its cause, once the reference clock of the upstream port's Quarter has been good; a pulse
between 100 ns and 1 µs raises its source; a shorter one is ignored. -/
def execPerstRelease (pt : Fin 16) (w : PulseLen) (s : State) : Res :=
  .next (match w with
    | .short => s
    | .between => raise s 0x688 pt
    | .qualified =>
      let s := { s with rst := { s.rst with perst := s.rst.perst.filter (· != pt.val) } }
      let s := partUncause s pt 0
      if (upPort s pt).any (fun u => !bit s LAN_REFCLK_PCIE_OK (rd s PRT_CFG_FIRST_LANE u / 48)) then partCause s pt 4 else s)

/-- PART_RESET_RELEASE (R351, R465). -/
def execPartResetRelease (pt : Fin 16) (s : State) : Res := .next (partRelease s pt)

/-- HOT_RESET_RECEIVED (R243, R359): on a partition's upstream port. -/
def execHotResetReceived (p : Fin 64) (s : State) : Res :=
  .next (if isHead s p && linkUp s p then
      let n := portPt s p
      let s := prtUpd s (fun x => { x with hot := p.val :: x.hot.filter (· != p.val) })
      partCause (partAssert s n 1) n 2
    else s)

/-- HOT_RESET_END (R243). -/
def execHotResetEnd (p : Fin 64) (s : State) : Res :=
  .next (if s.prt.hot.contains p.val then
      partUncause (prtUpd s (fun x => { x with hot := x.hot.filter (· != p.val) })) (portPt s p) 2
    else s)

/-- SECONDARY_BUS_RESET (R243, R359, Table 18-1): in the upstream bridge, in a downstream bridge, in a shared bridge. -/
def sbr (s : State) (b : BridgeRef) (on : Bool) : State :=
  match b with
  | .upstream n => if on then partAssert s n 1 else s
  | .downstream p =>
    if isTlink s p || bit s PRT_CFG_DIR p || rd s PRT_STATUS_STATE p == 0 then s
    else if on then portReset s p 1 else portUnreset s p 1
  | .shared n p => if on && portPt s p != n.val then vfFlrs s n (some p) else s

/-- SECONDARY_BUS_RESET (R243). -/
def execSecondaryBusReset (b : BridgeRef) (on : Bool) (s : State) : Res := .next (sbr s b on)

/-- RST_CMD_PART (R461): with the key, for an enabled partition. -/
def execRstCmdPart (m : Master) (key : BitVec 8) (pt : Fin 16) (s : State) : Res :=
  .next (asMaster s m RST_CMD_PART.off (fun s => if key == 0xA5 && bit s PTN_CFG_EN pt then partAssert s pt 1 else s))

/-- RST_CMD_PORT (R461): with the key, for a port that is not DISABLED. -/
def execRstCmdPort (m : Master) (key : BitVec 8) (p : Fin 64) (s : State) : Res :=
  .next (asMaster s m RST_CMD_PORT.off (fun s => if key == 0xA5 && rd s PRT_STATUS_STATE p != 0 then portReset s p 0 else s))

/-- VF_FLR_TIMEOUT (R351): the VF did not answer its FLR. -/
def execVfFlrTimeout (i : Fin 4096) (s : State) : Res :=
  .next (if s.fab.vfFlr.contains i.val then
      raise (fabUpd s (fun x => { x with vfFlr := x.vfFlr.filter (· != i.val) })) 0x386 i (some (rd s PTN_RID_PARTITION i))
    else s)

/-- VF_CONFIG_HOLD_END (R351): 100 ms after its FLR the VF may be configured; requests held for it go on. -/
def execVfConfigHoldEnd (i : Fin 4096) (s : State) : Res :=
  .next (
    let mine := s.fab.cfgWait.filter (fun e => e.1 == i.val)
    let s := fabUpd s (fun x => { x with vfHold := x.vfHold.filter (· != i.val), cfgWait := x.cfgWait.filter (fun e => e.1 != i.val) })
    forEach mine s (fun s e =>
      if !bit s PTN_RID_VALID i then s else
      proxyTo s (rd s PTN_RID_PORT i) { inp := e.2.1, cls := e.2.2.tc.val, pt := rd s PTN_RID_PARTITION i, pk := e.2.2 }))

end Sys2Proof.Machine
end

