-- ==== Sys2Proof/Machine/Power.lean ====
section
/-! DEFINITION. The power die: feeds, slot channels and their protections, temperatures and supplies (19_power_slots.md;
22_electrical_package.md R536, R537, R544). Its state is untouched by every reset of the switch die (R34, R463). -/

namespace Sys2Proof.Machine

/-- The power die changed by `f`. -/
def pwrUpd (s : State) (f : Pwr → Pwr) : State := { s with pwr := f s.pwr }

/-- The power die runs (R536). -/
def pdOn (s : State) (f : State → State) : State := if s.pwr.on then f s else s

/-! ### Feeds (R483, R484) -/

/-- STATE and CONDUCT of feed `f` (0 A, 1 B). -/
def feedState (s : State) (f : Nat) : Nat := rd s (if f = 0 then PWD_FEED_STATUS_STATE_A else PWD_FEED_STATUS_STATE_B)
def feedSet (s : State) (f v : Nat) : State := wr s (if f = 0 then PWD_FEED_STATUS_STATE_A else PWD_FEED_STATUS_STATE_B) 0 v
def conduct (s : State) (f : Nat) (b : Bool) : State :=
  wrb s (if f = 0 then PWD_FEED_STATUS_CONDUCT_A else PWD_FEED_STATUS_CONDUCT_B) 0 b

/-- Feed `f` is enabled. -/
def feedOn (s : State) (f : Nat) : Bool := bit s PWD_FEED_CTL_EN f

/-- R484: feed `f` is low: below its threshold, REVERSED or OV. -/
def feedIsLow (s : State) (f : Nat) : Bool := s.pwr.low.contains f || feedState s f == 3 || feedState s f == 4

/-- R484: the warning wire: every enabled feed is low, or none is enabled. -/
def warnWire (s : State) : Bool := (List.range 2).all (fun f => !feedOn s f || feedIsLow s f)

/-- The wire has fallen: the 10 ms of R38 run. -/
def warnFall (s : State) : State :=
  if warnWire s || !bit s PWD_FEED_STATUS_WARN then s else wr (wr s PWD_FEED_STATUS_WARN 0 0) PWD_FEED_STATUS_RECOVERING 0 1

/-- The feed's state code once nothing holds it: LOW or GOOD; its gate is controlled again (R483). -/
def feedControl (s : State) (f : Nat) : State :=
  warnFall (if s.pwr.low.contains f then feedSet s f 2 else conduct (feedSet s f 1) f true)

/-- FEED_LOW (R484): the feed has been below its threshold for 100 ns. -/
def execFeedLow (f : Fin 2) (s : State) : Res :=
  .next (pdOn s (fun s => if !feedOn s f || s.pwr.low.contains f.val then s else
    let s := pwrUpd s (fun x => { x with low := f.val :: x.low })
    raise (if feedState s f == 3 || feedState s f == 4 then s else feedSet s f 2) (0x750 + f.val) f))

/-- FEED_NOT_LOW (R484). -/
def execFeedNotLow (f : Fin 2) (s : State) : Res :=
  .next (pdOn s (fun s => if !feedOn s f then s else
    let s := pwrUpd s (fun x => { x with low := x.low.filter (· != f.val) })
    if feedState s f == 3 || feedState s f == 4 then s else feedControl s f))

/-- FEED_REVERSE_CURRENT (R483): the gate is pulled off; with the gate off already, current flows through a shorted FET (Table 19-10). -/
def execFeedReverseCurrent (f : Fin 2) (s : State) : Res :=
  .next (pdOn s (fun s => if !feedOn s f then s
    else if bit s (if f = 0 then PWD_FEED_STATUS_CONDUCT_A else PWD_FEED_STATUS_CONDUCT_B) then conduct s f false
    else raise s (0x756 + f.val) f))

/-- FEED_REVERSED (R483). -/
def execFeedReversed (f : Fin 2) (s : State) : Res :=
  .next (pdOn s (fun s => if !feedOn s f then s else raise (conduct (feedSet s f 3) f false) (0x752 + f.val) f))

/-- FEED_REVERSED_CLEAR (R483). -/
def execFeedReversedClear (f : Fin 2) (s : State) : Res :=
  .next (pdOn s (fun s => if feedState s f == 3 then feedControl s f else s))

/-- FEED_OVERVOLTAGE (R483): with OV_CUT the gate is held off and OV reported. -/
def execFeedOvervoltage (f : Fin 2) (s : State) : Res :=
  .next (pdOn s (fun s => if !feedOn s f || feedState s f == 3 then s else
    let s := raise s (0x754 + f.val) f
    if bit s PWD_FEED_CTL_OV_CUT f then conduct (feedSet s f 4) f false else s))

/-- FEED_OV_CLEAR (R483). -/
def execFeedOvClear (f : Fin 2) (s : State) : Res :=
  .next (pdOn s (fun s => if feedState s f == 4 then feedControl s f else s))

/-- PWD_FEED_CTL is written: a feed with EN = 0 is held off and reads OFF (R483); the wire follows (R484). -/
def feedCtlSet (s : State) (f v : Nat) : State :=
  let was := feedOn s f
  let s := wr (wr s PWD_FEED_CTL_EN f v) PWD_FEED_CTL_OV_CUT f (v / 2)
  if !feedOn s f then warnFall (conduct (feedSet s f 0) f false)
  else if was then s
  else pwrUpd s (fun x => { x with low := x.low.filter (· != f) })

/-- PWRFAIL_READBACK (R485): driven low and read high. -/
def execPwrfailReadback (s : State) : Res :=
  .next (pdOn s (fun s => raiseIf (bit s PWD_FEED_STATUS_PWRFAIL) s 0x75A))

/-! ### Slot channels (R487 to R496) -/

/-- STATE of channel `n` (Table 19-9). -/
def slotState (s : State) (n : Nat) : Nat := rd s PWD_SLOT_STATUS_STATE n
def slotTo (s : State) (n st : Nat) : State := wr s PWD_SLOT_STATUS_STATE n st

/-- The channel drives its gate: RAMP, QUAL or GOOD. -/
def slotDriven (s : State) (n : Nat) : Bool := 1 ≤ slotState s n && slotState s n ≤ 3

/-- SLOTn_PG is lowered. -/
def pgLow (s : State) (n : Nat) : State :=
  if bit s PWD_SLOT_STATUS_PG n then emit (wr s PWD_SLOT_STATUS_PG n 0) (.pin "SLOT_PG" n false) else s

/-- SLOTn_GATE is pulled: PG falls first (R489, R493). -/
def gatePull (s : State) (n : Nat) : State := emit (pgLow s n) (.pin "SLOT_GATE" n false)

/-- The channel ramps with its full retry count (R488, R491). -/
def slotRamp (s : State) (n : Nat) (full : Bool) : State :=
  let s := if full then wr s PWD_SLOT_STATUS_RETRIES_LEFT n (rd s PWD_SLOT_CTL_RETRY n) else s
  emit (slotTo s n 1) (.pin "SLOT_GATE" n true)

/-- The bus is in undervoltage (R486). -/
def busUv (s : State) : Bool := bit s PWD_FEED_STATUS_UVLO

/-- ON of channel `n` is written 1 (R488, R491, R494, R495). -/
def slotOn (s : State) (n : Nat) : State :=
  let st := slotState s n
  if bit s PWD_SLOT_CTL_ON n || bit s PWD_SLOT_STATUS_FENCED n || st == 6 || (st == 5 && busUv s) then s else
  let s := wr s PWD_SLOT_CTL_ON n 1
  if (st == 0 && !busUv s) || st == 5 then slotRamp s n true else s

/-- ON of channel `n` is written 0 (R493, R249). -/
def slotOff (s : State) (n : Nat) : State :=
  let s := wr s PWD_SLOT_CTL_ON n 0
  let s := pwrUpd s (fun x => { x with cooled := x.cooled.filter (· != n) })
  if slotDriven s n then slotTo (gatePull s n) n 0 else if slotState s n == 4 then slotTo s n 0 else s

/-- ON of channel `n` is written. -/
def slotPower (s : State) (n : Nat) (on : Bool) : State := pdOn s (fun s => if on then slotOn s n else slotOff s n)

/-- SLOT_POWER_CONTROL_WRITE (R249): the host's write reaches a bound port of a partition whose configuration space answers; a
manager's write is a register write. -/
def execSlotPowerControlWrite (host : Bool) (n : Fin 16) (on : Bool) (s : State) : Res :=
  .next (
    if host then (if (boundTo s n).any (fun p => !partInReset s (portPt s p)) then slotPower s n on else s)
    else asMaster s (if mode s == mSAFE then .mgmt else .inband) (PWD_SLOT_CTL_ON.off + 0x20 * n.val) (fun s => slotPower s n on))

/-- R250: a channel trip or FET fault sets Power Fault Detected, one state with PFD (Table 19-9), and the ports bound to the channel tell
their hosts. -/
def powerFault (s : State) (n : Nat) : State :=
  forEach (boundTo s n) (wr s PWD_SLOT_STATUS_PFD n 1) (fun s p => slotTell s p 2)

/-- A trip of channel `n` (R489 to R491): counted, one retry used, COOL or LATCHED. -/
def slotTrip (s : State) (n : Nat) (fast : Bool) : State :=
  if !slotDriven s n then s else
  let s := powerFault (wrb (inc (gatePull s n) SLOT_TRIPS n) PWD_SLOT_STATUS_LAST_FAST n fast) n
  let s := raise (if fast then inc s SLOT_FAST n else s) (0x700 + 5 * n) n
  let left := rd s PWD_SLOT_STATUS_RETRIES_LEFT n
  if left != 0 then slotTo (wr s PWD_SLOT_STATUS_RETRIES_LEFT n (left - 1)) n 4
  else raise (wr (slotTo s n 5) PWD_SLOT_CTL_ON n 0) (0x700 + 5 * n + 1) n

/-- SLOT_TIMER_TRIP (R489). -/
def execSlotTimerTrip (n : Fin 16) (s : State) : Res := .next (pdOn s (fun s => slotTrip s n false))

/-- SLOT_FAST_TRIP (R490). -/
def execSlotFastTrip (n : Fin 16) (s : State) : Res := .next (pdOn s (fun s => slotTrip s n true))

/-- SLOT_RAMP_COMPLETE (R488): the run limit is in force. -/
def execSlotRampComplete (n : Fin 16) (s : State) : Res :=
  .next (pdOn s (fun s => if slotState s n == 1 then slotTo s n 2 else s))

/-- SLOT_QUALIFIED (R492): PG rises. -/
def execSlotQualified (n : Fin 16) (s : State) : Res :=
  .next (pdOn s (fun s => if slotState s n == 2 then
      emit (wr (slotTo s n 3) PWD_SLOT_STATUS_PG n 1) (.pin "SLOT_PG" n true)
    else s))

/-- SLOT_COOL_END (R491): the channel ramps again; in undervoltage the retry is held (R486). -/
def execSlotCoolEnd (n : Fin 16) (s : State) : Res :=
  .next (pdOn s (fun s => if slotState s n != 4 then s
    else if busUv s then pwrUpd s (fun x => { x with cooled := n.val :: x.cooled.filter (· != n.val) })
    else slotRamp s n false))

/-- SLOT_FET_FAULT (R496, Table 19-3): 0 DAMAGED in RAMP, 1 OPEN in RAMP and QUAL, 2 SHORTED in OFF, COOL and LATCHED. -/
def execSlotFetFault (n : Fin 16) (kind : Fin 3) (s : State) : Res :=
  .next (pdOn s (fun s =>
    let st := slotState s n
    let ok := if kind = 0 then st == 1 else if kind = 1 then st == 1 || st == 2 else st == 0 || st == 4 || st == 5
    if !ok then s else
    let s := if slotDriven s n then gatePull s n else s
    let s := pwrUpd s (fun x => { x with cooled := x.cooled.filter (· != n.val) })
    let s := wr (powerFault (wr (slotTo s n 6) PWD_SLOT_CTL_ON n 0) n) PWD_SLOT_STATUS_FET n (kind.val + 1)
    raise s (0x700 + 5 * n.val + 2 + kind.val) n))

/-- CLR_FET: FET_FAULT returns to OFF (Table 19-2, R495). -/
def slotClrFet (s : State) (n : Nat) : State :=
  pdOn s (fun s => if slotState s n == 6 then wr (slotTo s n 0) PWD_SLOT_STATUS_FET n 0 else s)

/-- SLOT_CLR_FET (R495). -/
def execSlotClrFet (m : Master) (n : Fin 16) (s : State) : Res :=
  .next (asMaster s m (PWD_SLOT_CTL_CLR_FET.off + 0x20 * n.val) (fun s => slotClrFet s n))

/-- R494: a FENCE acts as ON = 0 and sets FENCED; a latched channel is OFF. -/
def slotFence (s : State) (n : Nat) : State :=
  let s := wr (slotOff s n) PWD_SLOT_STATUS_FENCED n 1
  if slotState s n == 5 then slotTo s n 0 else s

/-- R438, R494: the fence of channel `n` is lifted; it stays OFF. -/
def slotUnfence (s : State) (n : Nat) : State := wr s PWD_SLOT_STATUS_FENCED n 0

/-- BUS_UNDERVOLTAGE (R486): every channel that drives its gate turns off; ON keeps its value and no retry is used. -/
def execBusUndervoltage (s : State) : Res :=
  .next (pdOn s (fun s =>
    let s := wr s PWD_FEED_STATUS_UVLO 0 1
    forEach (List.range 16) s (fun s n => if slotDriven s n then slotTo (gatePull s n) n 0 else s)))

/-- BUS_UV_RECOVERED (R486): channels with ON = 1 ramp again from OFF with their full retry count; a cool-down that ended meanwhile
ramps. -/
def execBusUvRecovered (s : State) : Res :=
  .next (pdOn s (fun s => if !busUv s then s else
    let s := wr s PWD_FEED_STATUS_UVLO 0 0
    let ends := s.pwr.cooled
    let s := forEach (List.range 16) (pwrUpd s (fun x => { x with cooled := [] })) (fun s n =>
      if slotState s n == 0 && bit s PWD_SLOT_CTL_ON n then slotRamp s n true
      else if slotState s n == 4 && ends.contains n then slotRamp s n false else s)
    s))

/-! ### Temperatures, supplies, the power die itself (R536, R537, R544) -/

/-- TEMP_WARN (R544): not for a sensor that has failed. -/
def execTempWarn (i : Fin 10) (s : State) : Res :=
  .next (pdOn s (fun s => if i.val < 9 then raiseIf (!s.pwr.failed.contains i.val) s (0x880 + i.val) i
    else raiseIf (!s.pwr.failed.contains i.val) s 0x810 i))

/-- TEMP_CRIT (R544): a failed sensor asserts none. -/
def execTempCrit (i : Fin 10) (s : State) : Res :=
  .next (pdOn s (fun s => if i.val < 9 then raiseIf (!s.pwr.failed.contains i.val) s (0x889 + i.val) i
    else raiseIf (!s.pwr.failed.contains i.val) s 0x811 i))

/-- TEMP_SENSOR_FAIL (R544): VALID reads 0, FAILED 1. -/
def execTempSensorFail (i : Fin 10) (s : State) : Res :=
  .next (pdOn s (fun s =>
    let s := pwrUpd s (fun x => { x with failed := i.val :: x.failed.filter (· != i.val) })
    if i.val < 9 then raise s (0x892 + i.val) i else raise s 0x810 i))

/-- SUPPLY_OUT_OF_RANGE (R537). -/
def execSupplyOutOfRange (i : Fin 8) (s : State) : Res := .next (pdOn s (fun s => raise s (0x880 + 27 + i.val) i))

/-- POWER_DIE_START (R536, R463, R481, R485): every PD-ON field at its reset value: channels OFF, PWRFAIL_N low. -/
def execPowerDieStart (s : State) : Res :=
  .next (if s.pwr.on then s else
    let s := { s with regs := rreset s.regs (fun k => keyReach k == reachCode .pdOn) }
    emit { s with pwr := {} } (.pin "PWRFAIL_N" 0 false))

/-- POWER_DIE_STOP (R536): the power die stops; no gate is driven any more. -/
def execPowerDieStop (s : State) : Res :=
  .next (if !s.pwr.on then s else
    let s := forEach (List.range 16) s (fun s n => if slotDriven s n then gatePull s n else s)
    pwrUpd s (fun x => { x with on := false }))

end Sys2Proof.Machine
end

