-- ==== Sys2Proof/Machine/Heel.lean ====
section
/-! DEFINITION. The Heel: the hold-up test, its budget and DUR_ON (R415 to R422), and the restoring of fenced overflow groups
(R412). -/

namespace Sys2Proof.Machine

/-- The Heel changed by `f`. -/
def heelUpd (s : State) (f : Heel → Heel) : State := { s with heel := f s.heel }

/-! ### Budget and judgement (R419, R420) -/

/-- V0² − Vmin² of the latest valid test, in mV²; negative counts as 0. -/
def heelX (s : State) (v0 : Nat) : Nat := v0 * v0 - rd s PWD_HU_VMIN * rd s PWD_HU_VMIN

/-- η, P_drain and drain_rate are all above 0 (R420). -/
def heelParams (s : State) : Bool := rd s PWD_HU_ETA != 0 && rd s PWD_HU_PDRAIN != 0 && rd s PWD_HU_RATE != 0

/-- R419: E in mJ for V0 in mV and ΔV in 10 µV; a ΔV below 0.5 mV counts as 0.5 mV, which gives 400 mF. -/
def heelEnergy (s : State) (v0 dv : Nat) : Nat := 10 * heelX s v0 / (1000 * max 50 dv)

/-- R419: the budget in whole cells of 256 B, rounded down, with P_drain above 0. -/
def heelCells (s : State) (v0 dv : Nat) : Nat :=
  let p := rd s PWD_HU_PDRAIN
  let d := max 50 dv
  rd s PWD_HU_RATE * (10 * rd s PWD_HU_ETA * heelX s v0 - 1000 * d * p * rd s PWD_HU_TFIXED) / (256000 * d * p)

/-- R417: DUR_ON follows its four conditions; clearing raises its source, and inputs held by the budget are looked at again. -/
def durEval (s : State) : State :=
  let on := bit s PWD_HU_CTL_EN && bit s PWD_HU_STATUS_PASS && s.heel.valid.isSome && !s.heel.bad && !s.heel.old && !s.heel.drained
  let was := bit s OFM_STATUS_DUR_ON
  release (overBudget (raiseIf (was && !on) (wrb s OFM_STATUS_DUR_ON 0 on) 0x763))

/-- R419: energy and budget from the latest valid test with the parameters as they stand. With P_drain = 0 the formula has no
value, and the budget is free. -/
def heelBudget (s : State) : State :=
  match s.heel.valid with
  | none => s
  | some (v0, dv, _) =>
    let s := wr s PWD_HU_ENERGY 0 (heelEnergy s v0 dv)
    if rd s PWD_HU_PDRAIN = 0 then { wr s PWD_HU_BUDGET 0 (Config.freeValue s.free) with free := s.free + 1 }
    else wr s PWD_HU_BUDGET 0 (min (heelCells s v0 dv) 0xFFFFFFFF)

/-- R420: RESULT of the latest valid test: 0 OK or 3 DV_LOW where it passes, 5 PARAM, 7 BELOW_MIN. -/
def heelResult (s : State) (dv : Nat) : Nat :=
  let b := rd s PWD_HU_BUDGET
  if !heelParams s then 5 else if b = 0 || b < rd s PWD_HU_MIN then 7 else if dv < 50 then 3 else 0

/-- R420: PASS and RESULT of the latest valid test. -/
def heelJudge (s : State) : State :=
  match s.heel.valid with
  | none => s
  | some (_, dv, _) =>
    let r := heelResult s dv
    wrb (wr s PWD_HU_STATUS_RESULT 0 r) PWD_HU_STATUS_PASS 0 (r == 0 || r == 3)

/-! ### The test (R418, R421) -/

/-- HEEL_ENABLE (R421): EN = 1; a result still in force counts again. -/
def heelEnable (s : State) : State := durEval (wr s PWD_HU_CTL_EN 0 1)
def execHeelEnable (m : Master) (s : State) : Res := .next (asMaster s m PWD_HU_CTL_EN.off heelEnable)

/-- HEEL_MEASURE (R421): a test is due within 1 ms. -/
def heelMeasure (s : State) : State := heelUpd s (fun h => { h with asked := true })
def execHeelMeasure (m : Master) (s : State) : Res := .next (asMaster s m PWD_HU_CTL_MEASURE.off heelMeasure)

/-- HEEL_TEST_TIMER (R418, R421): a test that is due starts with V0 read and the sink on, or is skipped. -/
def execHeelTestTimer (v0 : BitVec 16) (charging : Bool) (s : State) : Res :=
  .next (
    let dueNow := (bit s PWD_HU_CTL_EN && s.heel.setup) || s.heel.asked
    if !s.pwr.on || s.heel.v0.isSome || !dueNow then s else
    let s := heelUpd s (fun h => { h with asked := false })
    if warnWire s || mode s == mDRAIN || charging then wr (inc s HU_SKIPS) PWD_HU_STATUS_RESULT 0 1
    else heelUpd (wr s PWD_HU_STATUS_BUSY 0 1) (fun h => { h with v0 := some v0.toNat, v1 := none }))

/-- HEEL_V1_SAMPLE (R418). -/
def execHeelV1Sample (v1 : BitVec 32) (s : State) : Res :=
  .next (if s.heel.v0.isSome && s.heel.v1.isNone then heelUpd s (fun h => { h with v1 := some v1.toNat }) else s)

/-- A test has ended: the sink is off. -/
def heelEnd (s : State) : State :=
  heelUpd (inc (wr s PWD_HU_STATUS_BUSY 0 0) HU_TESTS) (fun h => { h with v0 := none, v1 := none })

/-- A test that is not valid (Table 16-1) ends with RESULT `r`. -/
def heelInvalid (s : State) (r : Nat) : State :=
  let s := heelUpd s (fun h => { h with bad := true, drained := false })
  durEval (raise (wr (wr s PWD_HU_STATUS_RESULT 0 r) PWD_HU_STATUS_PASS 0 0) 0x760)

/-- HEEL_TEST_DONE (R418 to R421, Table 16-1). -/
def execHeelTestDone (v2 : BitVec 32) (s : State) : Res :=
  .next (match s.heel.v0, s.heel.v1 with
    | some v0, some v1 =>
      let dv := v1 - v2.toNat
      let s := wr (wr (heelEnd s) PWD_HU_V0 0 v0) PWD_HU_DV 0 (min dv 65535)
      if v0 ≤ rd s PWD_HU_VMIN then heelInvalid s 4
      else if 8000 < dv then heelInvalid s 2
      else
        let c := 20000000 / max 50 dv
        let s := heelUpd (wr s PWD_HU_CAP 0 c) (fun h =>
          { h with valid := some (v0, dv, c), validAt := s.now, old := false, bad := false, drained := false })
        let s := heelJudge (heelBudget s)
        let ok := bit s PWD_HU_STATUS_PASS
        durEval (raiseIf (!ok) (heelUpd s (fun h => { h with retry := h.retry && !ok })) 0x761)
    | _, _ => s)

/-- Table 16-1: a feed warning ends a test that runs; the previous result and budget stay in force. -/
def heelAbort (s : State) : State :=
  if s.heel.v0.isNone then s else raise (wr (heelEnd s) PWD_HU_STATUS_RESULT 0 6) 0x760

/-- The parameter registers: their offset, and what a write stores. -/
def heelParam (s : State) (which v : Nat) : State :=
  let s := match which with
    | 0 => wr s PWD_HU_ETA 0 (min (v % 1024) 1000)
    | 1 => wr s PWD_HU_VMIN 0 v
    | 2 => wr s PWD_HU_PDRAIN 0 v
    | 3 => wr s PWD_HU_TFIXED 0 v
    | 4 => wr s PWD_HU_RATE 0 v
    | _ => wr s PWD_HU_MIN 0 v
  let s := heelBudget s
  durEval (if s.heel.bad then s else heelJudge s)

/-- HEEL_PARAM_WRITE (R419): the budget is computed anew, and the latest valid test judged again. -/
def execHeelParamWrite (m : Master) (which : Fin 6) (v : BitVec 32) (s : State) : Res :=
  .next (asMaster s m (PWD_HU_ETA.off + 4 * which) (fun s => heelParam s which v.toNat))

/-- HEEL_RESULT_EXPIRY (R417): the latest valid test is 30 s old. -/
def execHeelResultExpiry (s : State) : Res :=
  .next (if s.heel.valid.isNone || s.heel.old then s
    else durEval (raise (heelUpd s (fun h => { h with old := true })) 0x762))

/-- PWD_HU_STATUS.AGE: seconds since the latest valid test, saturating. -/
def heelAge (s : State) : Nat := if s.heel.valid.isSome then min 0xFFFF ((s.now - s.heel.validAt) / 1000000000) else 0xFFFF

/-- R417, R421: DRAIN is entered. -/
def heelDrain (s : State) : State := durEval (heelUpd s (fun h => { h with drained := true }))

/-- R421, R427: DRAIN is left: tests follow every second until one passes; DUR_DONE clears. -/
def heelUndrain (s : State) : State :=
  wr (heelUpd s (fun h => { h with retry := bit s PWD_HU_CTL_EN })) OFM_STATUS_DUR_DONE 0 0

/-! ### Overflow groups (R412) -/

/-- Bit `q` of a four-bit field set or cleared. -/
def grpBit (s : State) (f : Fld) (q : Nat) (on : Bool) : State :=
  let v := rd s f
  wr s f 0 (if on then v ||| 2 ^ q else v - if v.testBit q then 2 ^ q else 0)

/-- A group's free list is built: READY, unless its retirement limit was exceeded (R503). -/
def grpReady (s : State) (q : Nat) : State := if bit s TST_OVF_RES_LIMIT q then s else grpBit s OFM_STATUS_READY q true

/-- OFM_CMD.RESTORE: the fenced groups of the mask are retrained and rebuilt. -/
def ofmRestore (s : State) (mask : Nat) : State :=
  if s.heel.rebuild.any (· < 4) then s else
  let qs := (List.range 4).filter (fun q => mask.testBit q && (rd s OFM_STATUS_FENCED).testBit q)
  let odd := (List.range 4).any (fun q => mask.testBit q && !(rd s OFM_STATUS_FENCED).testBit q)
  if qs.isEmpty then (if odd then wr s OFM_CMD_RESULT 0 2 else s) else
  heelUpd (wr (forEach qs s (fun s q => grpBit s OFM_STATUS_READY q false)) OFM_CMD_RESULT 0 1)
    (fun h => { h with rebuild := h.rebuild ++ qs, notFenced := odd })

/-- OFM_RESTORE (R412). -/
def execOfmRestore (m : Master) (mask : BitVec 4) (s : State) : Res :=
  .next (asMaster s m OFM_CMD_RESTORE.off (fun s => ofmRestore s mask.toNat))

/-- OFM_RESTORE_DONE (R412): the group's free list is rebuilt; a restored group leaves the fence, and after the last one RESULT says
whether all of the mask were fenced. -/
def execOfmRestoreDone (q : Fin 4) (s : State) : Res :=
  .next (
    let drop := fun (s : State) (x : Nat) => heelUpd s (fun h => { h with rebuild := h.rebuild.filter (· != x) })
    if s.heel.rebuild.contains q.val then
      let s := drop (grpReady (grpBit s OFM_STATUS_FENCED q false) q) q
      let s := fenceFree s (fun n => (0x580 ≤ n && n < 0x590 && n % 4 == q) || (0x800 ≤ n && n < 0x810 && (n - 0x800) / 4 == q))
      release (if s.heel.rebuild.any (· < 4) then s else wr s OFM_CMD_RESULT 0 (if s.heel.notFenced then 2 else 0))
    else if s.heel.rebuild.contains (4 + q.val) then release (drop (grpReady s q) (4 + q.val))
    else s)

end Sys2Proof.Machine
end

