-- ==== Sys2Proof/Machine/Lace.lean ====
section
/-! DEFINITION. Lace: encoders, tick candidates, the tick source and its lock, fabric records, triggers
(03_tick_lace.md). What a tick start does in the other blocks is in TickStart.lean. -/

namespace Sys2Proof.Machine

/-- `s` with Lace changed by `f`. -/
def lceUpd (s : State) (f : Lace → Lace) : State := { s with lce := f s.lce }

/-! ### Lock (R51, Table 3-1) -/

/-- LCE_CTL.SRC. -/
def tickSrc (s : State) : Nat := rd s LCE_CTL_SRC

/-- LOCK takes `b`; where it falls with SRC unchanged its source is raised (R51). -/
def setLock (s : State) (b : Bool) : State :=
  let s1 := wrb s LCE_STATUS_LOCK 0 b
  if bit s LCE_STATUS_LOCK && !b then raise s1 0x209 else s1

/-- Encoder `n` loses its lock condition. -/
def encUnlock (s : State) (n : Nat) : State :=
  let s := wr s ENC_STATUS_ENC_LOCK n 0
  if tickSrc s == n + 1 then setLock s false else s

/-- The pairs of encoder `n` are all reported OK. -/
def pairsOk (s : State) (n : Nat) : Bool :=
  rd s ENC_STATUS_PAIR_A n == 0 && rd s ENC_STATUS_PAIR_B n == 0 && rd s ENC_STATUS_PAIR_Z n == 0

/-- A FENCE reaction on encoder `n` has its pins ignored (the LCE row of Table 17-2). -/
def encFenced (s : State) (n : Nat) : Bool := bit s FLT_SEV_FENCED (0x200 + n) || bit s FLT_SEV_FENCED (0x204 + n)

/-- Encoder `n` is decoded now: Lace runs in this mode, EN = 1, no fence. -/
def encOn (s : State) (n : Nat) : Bool := laceRuns s && bit s ENC_CTL_EN n && !encFenced s n

/-! ### Triggers (R72, R73) -/

/-- A due time joins a list of due times, earliest first. -/
def dueInsert (t : Nat) : List Nat → List Nat
  | [] => [t]
  | x :: l => if t < x then t :: x :: l else x :: dueInsert t l

/-- R72, R73: a firing of trigger `m`, its DELAY (at least 64 ns) after `t`; a fifth pending one is discarded. -/
def schedule (s : State) (m t : Nat) : State :=
  let l := nget s.lce.fires m []
  if 4 ≤ l.length then raise (inc s TRIG_STAT_OVERRUN m) 0x20D m
  else lceUpd s (fun x => { x with fires := nset [] x.fires m (dueInsert (t + max 64 (rd s TRIG_DELAY m)) l) })

/-- R55, R72: a new-ground count of encoder `n`, stamped `t`, steps the triggers in count mode. The reserved MODE 0b11 never fires, and the
count toward M goes on over writes of TRIGm_CTL (both DESIGN CHOICE). -/
def countTriggers (s : State) (n t : Nat) : State :=
  forEach (List.range 16) s (fun s m =>
    if bit s TRIG_CTL_EN m && rd s TRIG_CTL_MODE m == 1 && rd s TRIG_CTL_ENC m == n then
      let k := nget s.lce.trigCnt m 0 + 1
      if rd s TRIG_CTL_M m ≤ k then schedule (lceUpd s (fun x => { x with trigCnt := nset 0 x.trigCnt m 0 })) m t
      else lceUpd s (fun x => { x with trigCnt := nset 0 x.trigCnt m k })
    else s)

/-- The level of trigger `m`'s pin: active, or not. -/
def trigPin (s : State) (m : Nat) (active : Bool) : Emit := .pin "LACE_TRIG" m (active != bit s TRIG_CTL_POL m)

/-- TRIGGER_FIRE (R72, R73): the earliest pending firing falls due; an active pulse ends before it and is counted. Firings stay pending while
EN = 0, count toward the four, and are dropped where they fall due then (DESIGN CHOICE). -/
def execTriggerFire (m : Fin 16) (s : State) : Res :=
  .next (match nget s.lce.fires m [] with
    | [] => s
    | _ :: l =>
      let s := lceUpd s (fun x => { x with fires := nset [] x.fires m l })
      if !laceRuns s || !bit s TRIG_CTL_EN m then s else
      emit (if s.lce.active.contains m.val then emit (inc s TRIG_STAT_TRUNC m) (trigPin s m false)
        else lceUpd s (fun x => { x with active := x.active ++ [m.val] })) (trigPin s m true))

/-- TRIGGER_PULSE_END (R72): the pulse of trigger `m` ends after WIDTH. -/
def execTriggerPulseEnd (m : Fin 16) (s : State) : Res :=
  .next (if s.lce.active.contains m.val then
      emit (lceUpd s (fun x => { x with active := x.active.filter (· != m.val) })) (trigPin s m false)
    else s)

/-- R72: FIRE of trigger `m` in software mode; WO otherwise without effect. -/
def softFire (s : State) (m : Nat) : State :=
  if laceRuns s && bit s TRIG_CTL_EN m && rd s TRIG_CTL_MODE m == 2 then schedule s m (devTime s) else s

/-- TRIGGER_FIRE_WRITE (R72). -/
def execTriggerFireWrite (by' : Master) (m : Fin 16) (s : State) : Res :=
  .next (asMaster s by' TRIG_CTL_FIRE.off (fun s => softFire s m))

/-! ### Tick candidates (R60, R61) -/

/-- The interval of device time from `a` to `b`, modulo 2^64. -/
def timeSince (a b : Nat) : Nat := (b + 2 ^ 64 - a) % 2 ^ 64

/-- The record of a stamped tick (Table 3-3). -/
def recordOf (t : TickPend) : TickRec :=
  { tickNum := BitVec.ofNat 48 t.num, src := BitVec.ofNat 4 t.src, hops := BitVec.ofNat 3 t.hops, early := t.early,
    masterId := BitVec.ofNat 6 t.master, latePrior := t.late, resync := t.resync,
    masterTime := BitVec.ofNat 64 t.stamp, pathDelay := BitVec.ofNat 32 t.delay,
    position := BitVec.ofNat 32 t.pos, interval := BitVec.ofNat 32 (min t.interval 0xFFFFFFFF) }

/-- The 32 bytes of a tick record (Table 3-3). -/
def recordBytes (r : TickRec) : Bytes :=
  leBytes 6 r.tickNum.toNat
    ++ [BitVec.ofNat 8 (r.src.toNat + 16 * r.hops.toNat + if r.early then 128 else 0),
        BitVec.ofNat 8 (r.masterId.toNat + (if r.latePrior then 64 else 0) + if r.resync then 128 else 0)]
    ++ leBytes 8 r.masterTime.toNat ++ leBytes 4 r.pathDelay.toNat ++ leBytes 4 r.position.toNat
    ++ leBytes 4 r.interval.toNat ++ leBytes 4 0

/-- R65, R280: the record goes out in a TICK stitch on every up T-link port of LCE_FAB_DOWN. -/
def sendRecord (s : State) (r : TickRec) : State :=
  forEach (List.range 64) s (fun s p =>
    if (rd s LCE_FAB_DOWN).testBit p && isTlink s p && linkUp s p then tickOut s p (recordBytes r) else s)

/-- R60: the preset that a tick stamped `t` takes: not one written in the same Lace clock, whose edges the model takes at whole nanoseconds
(DESIGN CHOICE: the clock has 1 ns interpolation, R59, and no other period in the spec). -/
def presetFor (s : State) (t : Nat) : Option Nat := if s.lce.presetAt = t then none else s.lce.preset

/-- A tick is stamped: it waits for its start, and later candidates count from it. -/
def stampTick (s : State) (t : TickPend) : State :=
  lceUpd s (fun x => { x with
    pend := x.pend ++ [t], prevStamp := some t.stamp, prevNum := t.num, resync := false
    preset := if (presetFor s t.stamp).isSome then none else x.preset })

/-- R61 for a candidate stamped `t` with position `pos` of the selected source: skipped within 10 µs of the previous
tick, else issued, EARLY below LCE_TICK_MIN; after a source change the interval is unknown and nothing is counted.
The master sends the record at the stamp (R65). -/
def issueTick (s : State) (t pos : Nat) : State :=
  let iv := s.lce.prevStamp.map (fun p => timeSince p t)
  if iv.any (· < 10000) then inc s TICK_SKIP else
  let iv := if s.lce.resync then none else iv
  let early := iv.any (· < rd s LCE_TICK_MIN)
  let s := if early then inc s TICK_EARLY else s
  let armed := presetFor s t
  let k : TickPend := {
    stamp := t, start := t + rd s LCE_LEAD, num := armed.getD ((s.lce.prevNum + 1) % 2 ^ 48), early := early,
    late := bit s LCE_STATUS_LATE, resync := s.lce.resync || armed.isSome,
    interval := iv.getD 0xFFFFFFFF, pos := pos, src := tickSrc s, master := rd s FAB_CTL_DEV_ID }
  let s := stampTick s k
  if rd s LCE_CTL_ROLE == 1 then sendRecord s (recordOf k) else s

/-- A candidate of the selected source; a follower takes its ticks from records (R65). One stamped while Lace is in
BLOCK reset is issued at release (Table 17-3). -/
def candidate (s : State) (t pos : Nat) : State :=
  if !laceRuns s || rd s LCE_CTL_ROLE == 2 then s
  else if inBlockReset s 4 then lceUpd s (fun x => { x with held := x.held ++ [(t, pos)] })
  else issueTick s t pos

/-! ### Encoders (R52 to R58) -/

/-- The signed difference of two 32-bit positions (R55). -/
def posDiff (a b : Nat) : Int := (BitVec.ofNat 32 a - BitVec.ofNat 32 b).toInt

/-- R55: one decoded count of encoder `n`, forward or reverse. -/
def encStep (s : State) (n : Nat) (fwd : Bool) : State :=
  let t := devTime s
  let s := lceUpd s (fun x => { x with boundary := x.boundary.filter (· != n) })
  let pos := (rd s ENC_POS n + if fwd then 1 else 2 ^ 32 - 1) % 2 ^ 32
  let s := wrb (wr s ENC_POS n pos) ENC_STATUS_DIR n (!fwd)
  let d := posDiff pos (rd s ENC_HIGH n)
  let s := wrb s ENC_STATUS_IN_REVERSE n (d < 0)
  if d ≤ 0 then s else
  let s := wr s ENC_HIGH n pos
  let acc := rd s ENC_ACC n + 1
  let s := if rd s ENC_CTL_DIV n ≤ acc then
      let s := wr s ENC_ACC n 0
      if tickSrc s == n + 1 then candidate (lceUpd s (fun x => { x with boundary := some n })) t pos else s
    else wr s ENC_ACC n acc
  if inBlockReset s 4 then s else countTriggers s n t

/-- The pin levels of A and B of encoder `n` are now `a` and `b`. -/
def setAB (s : State) (n : Nat) (a b : Bool) : State :=
  lceUpd s (fun x => { x with aLvl := nset false x.aLvl n a, bLvl := nset false x.bLvl n b })

/-- ENCODER_COUNT (R52, R53, R55): a filtered edge of A or of B is one count; both at once are a phase error, which
leaves the position and ends the lock. A leads where A before equals B after. -/
def execEncoderCount (n : Fin 4) (a b : Bool) (s : State) : Res :=
  .next (
    let a0 := nget s.lce.aLvl n false
    let b0 := nget s.lce.bLvl n false
    let on := encOn s n
    let s := setAB s n a b
    if !on then s
    else if a != a0 && b != b0 then encUnlock (raise (inc s ENC_PHASE_ERR n) (0x204 + n)) n
    else if a == a0 && b == b0 then s
    else encStep s n (((a0 == b) == Config.leadForward) != bit s ENC_CTL_INVERT n))

/-- ENCODER_PAIR_CLASS_CHANGE (R54): the class of a pair is reported; any but OK raises its source and ends the lock. -/
def execEncoderPairClassChange (n : Fin 4) (pair : Fin 3) (cls : Fin 4) (s : State) : Res :=
  .next (if !laceRuns s then s else
    let f := match pair with
      | 0 => ENC_STATUS_PAIR_A | 1 => ENC_STATUS_PAIR_B | 2 => ENC_STATUS_PAIR_Z
    let s := wr s f n cls
    if cls = 0 then s else encUnlock (raise s (0x200 + n) pair) n)

/-- ENC_LOCK_CHANGE (Table 3-1): the lock condition of encoder `n` is met, or is met no more. -/
def execEncLockChange (n : Fin 4) (held : Bool) (s : State) : Res :=
  .next (
    if held && encOn s n && pairsOk s n then
      let s := wr s ENC_STATUS_ENC_LOCK n 1
      if tickSrc s == n.val + 1 then setLock s true else s
    else encUnlock s n)

/-- R57: the Z edge of encoder `n` is qualified. -/
def zQualified (s : State) (n : Nat) : Bool :=
  !bit s ENC_CTL_ZQEN n ||
    rd s ENC_CTL_ZQUAL n == (if nget s.lce.bLvl n false then 2 else 0) + (if nget s.lce.aLvl n false then 1 else 0)

/-- R57: ZMODE acts on the position; the reserved code 0b11 acts as 0b00, and a Z load sets POS_VALID, as R58 has software restore POS by it (both
DESIGN CHOICE). -/
def zMode (s : State) (n : Nat) : State :=
  let pos := rd s ENC_POS n
  match rd s ENC_CTL_ZMODE n with
  | 1 => wr s ENC_ZPOS n pos
  | 2 =>
    let v := rd s ENC_ZVAL n
    let s := wr s ENC_ZPOS n pos
    let s := wr s ENC_HIGH n (rd s ENC_HIGH n + v + 2 ^ 32 - pos)
    wr (wr s ENC_POS n v) ENC_STATUS_POS_VALID n 1
  | _ => s

/-- Z_EDGE (R57): a qualified Z acts by ZMODE, and with Z_TICK forms a candidate and clears ACC; on the count that has formed a candidate already,
whatever became of that, no second one forms. -/
def execZEdge (n : Fin 4) (s : State) : Res :=
  .next (if !encOn s n || !zQualified s n then s else
    let t := devTime s
    let pos := rd s ENC_POS n
    let s := zMode s n
    if !bit s ENC_CTL_Z_TICK n then s else
    let s := wr s ENC_ACC n 0
    if tickSrc s != n.val + 1 || s.lce.boundary = some n.val then s else candidate s t pos)

/-- R58: POS and HIGH take the value; POS_VALID sets; ACC stays. -/
def encPosSet (s : State) (n v : Nat) : State :=
  wr (wr (wr (wr s ENC_POS n v) ENC_HIGH n v) ENC_STATUS_POS_VALID n 1) ENC_STATUS_IN_REVERSE n 0

/-- ENC_POS_WRITE (R58). -/
def execEncPosWrite (m : Master) (n : Fin 4) (v : BitVec 32) (s : State) : Res :=
  .next (asMaster s m ENC_POS.off (fun s => encPosSet s n v.toNat))

/-- R74: at a reset of WARM reach or wider every trigger output takes the inactive level of POL = 0. -/
def trigReset (s : State) : State :=
  lceUpd (forEach ((List.range 16).filter (fun m => s.lce.active.contains m != bit s TRIG_CTL_POL m)) s
    (fun s m => emit s (.pin "LACE_TRIG" m false))) (fun x => { x with active := [] })

/-- R58, R74: Lace stops counting at SAFE, FACTORY or STANDBY entry: positions are valid no more, pending ticks and
firings end, trigger outputs and LACE_TOUT take their inactive level. -/
def laceStop (s : State) : State :=
  let s := forEach (List.range 4) s (fun s n => wr s ENC_STATUS_POS_VALID n 0)
  let s := forEach s.lce.active s (fun s m => emit s (trigPin s m false))
  lceUpd s (fun x => { x with pend := [], fires := [], active := [], held := [] })

/-! ### The other sources -/

/-- LACE_TIN_EDGE (R50, Table 3-1): the edge is a candidate; LOCK follows the interval from the previous edge. -/
def execLaceTinEdge (s : State) : Res :=
  .next (if tickSrc s != 5 || !laceRuns s then s else
    let t := devTime s
    let iv := s.lce.tinPrev.map (fun p => timeSince p t)
    let skip := s.lce.prevStamp.any (fun p => timeSince p t < 10000)
    let s := match iv with
      | none => if skip then setLock s false else s
      | some d => setLock s (!skip && rd s LCE_TICK_MIN ≤ d && d ≤ rd s LCE_TICK_MAX)
    candidate (lceUpd s (fun x => { x with tinPrev := some t })) t 0)

/-- TIMER_SOURCE_EXPIRY (R50): LCE_TIMER ns of device time have passed. -/
def execTimerSourceExpiry (s : State) : Res := .next (if tickSrc s == 7 then candidate s (devTime s) 0 else s)

/-- TIMER_SOURCE_LOCK (Table 3-1): 1 µs after the timer was selected. -/
def execTimerSourceLock (s : State) : Res :=
  .next (if tickSrc s == 7 && laceRuns s then setLock s true else s)

/-- TICK_LATE (R61): LCE_TICK_MAX has passed since the tick start, or a further LCE_TICK_MAX; before the first tick start
nothing is late. The first tick after a source change is not counted. LACE_TIN loses its lock. -/
def execTickLate (s : State) : Res :=
  .next (if s.lce.prevStart.isNone || !laceRuns s then s else
    let s := raise (wr s LCE_STATUS_LATE 0 1) 0x208
    let s := if s.lce.resync then s else inc s TICK_LATE
    if tickSrc s == 5 then setLock s false else s)

/-! ### Writes -/

/-- R59: device time changes by the difference of the offsets; locked while ROLE is follower. -/
def timeOfsSet (s : State) (v : Nat) : State := if rd s LCE_CTL_ROLE == 2 then s else wr s LCE_TIME_OFS 0 v

/-- TIME_OFFSET_WRITE (R59). -/
def execTimeOffsetWrite (m : Master) (v : BitVec 64) (s : State) : Res :=
  .next (asMaster s m LCE_TIME_OFS.off (fun s => timeOfsSet s v.toNat))

/-- R60: the preset is armed for the first tick stamped after the write; no effect in a follower. -/
def presetSet (s : State) (v : Nat) : State :=
  if rd s LCE_CTL_ROLE == 2 then s else
  lceUpd (wr s LCE_TICK_PRESET 0 v) (fun x => { x with preset := some (v % 2 ^ 48), presetAt := devTime s })

/-- TICK_PRESET_WRITE (R60). -/
def execTickPresetWrite (m : Master) (v : BitVec 48) (s : State) : Res :=
  .next (asMaster s m LCE_TICK_PRESET.off (fun s => presetSet s v.toNat))

/-- The lock condition that a newly selected source meets already (Table 3-1). The reserved codes 0x8 to 0xF form no candidate and never lock
(DESIGN CHOICE). -/
def lockedAlready (s : State) (src : Nat) : Bool :=
  match src with
  | 1 => bit s ENC_STATUS_ENC_LOCK 0
  | 2 => bit s ENC_STATUS_ENC_LOCK 1
  | 3 => bit s ENC_STATUS_ENC_LOCK 2
  | 4 => bit s ENC_STATUS_ENC_LOCK 3
  | 6 => bit s LCE_STATUS_ALIGNED
  | _ => false

/-- R51: LCE_CTL takes `v`, SRC and ROLE only while LOCKED = 0; a change of SRC clears LOCK and raises nothing. -/
def tickSourceSet (s : State) (v : Nat) : State :=
  let old := tickSrc s
  let s := wr s LCE_CTL_TOUT_EN 0 (v / 64)
  if bit s GLB_MODE_LOCKED then s else
  let s := wr (wr s LCE_CTL_SRC 0 v) LCE_CTL_ROLE 0 (v / 16)
  if tickSrc s == old then s else
  wrb (lceUpd s (fun x => { x with resync := true, tinPrev := none })) LCE_STATUS_LOCK 0 (lockedAlready s (tickSrc s))

/-- TICK_SOURCE_WRITE (R51). -/
def execTickSourceWrite (m : Master) (v : BitVec 32) (s : State) : Res :=
  .next (asMaster s m LCE_CTL_SRC.off (fun s => tickSourceSet s v.toNat))

/-! ### Fabric alignment (R65 to R70) -/

/-- R67: the error `e` in ns is slewed up to 1 µs and stepped above it. -/
def correct (s : State) (e : Int) : State :=
  if -1000 ≤ e && e ≤ 1000 then lceUpd s (fun x => { x with slew := e })
  else wr (lceUpd s (fun x => { x with adj := x.adj + e, slew := 0 })) LCE_STATUS_STEPPED 0 1

/-- R69: the follower loses its alignment. -/
def alignLost (s : State) : State :=
  let s := lceUpd (wr s LCE_STATUS_ALIGNED 0 0) (fun x => { x with goodCorr := 0 })
  raise (setLock s false) 0x20A

/-- R69: ALIGNED sets after two successive corrections below 3 ns, and LOCK with it for the fabric source. -/
def alignCheck (s : State) : State :=
  if s.lce.goodCorr < 2 then s else
  let s := wr s LCE_STATUS_ALIGNED 0 1
  if tickSrc s == 6 then setLock s true else s

/-- R67, R69: the follower sees its error, whose value the spec does not state, and corrects it; one above 10 ns ends the alignment that it has. At
a record (`rec`) corrections below 3 ns count toward alignment. -/
def followErr (s : State) (rec : Bool) : State :=
  let e := Config.recordError s.free
  let s := correct { s with free := s.free + 1 } e
  if (e < -10 || 10 < e) && bit s LCE_STATUS_ALIGNED then alignLost s
  else if !rec then s
  else alignCheck (lceUpd s (fun x => { x with goodCorr := if -3 < e && e < 3 then x.goodCorr + 1 else 0 }))

/-- R65: the port from which records are accepted: lowest HOPS, then lowest number, among the ports that are up. A port whose link went down and
came up again counts with the HOPS that it last delivered (DESIGN CHOICE). -/
def acceptPort (s : State) : Option Nat :=
  (s.lce.recHops.filter (fun e => linkUp s e.1)).foldl (fun (acc : Option (Nat × Nat)) e =>
    match acc with
    | some a => if e.2 < a.2 then some e else acc
    | none => some e) none |>.map (·.1)

/-- R67: a link-delay refresh of port `p`: a follower corrects its device time where it accepts records from there. -/
def delayRefresh (s : State) (p : Nat) : State :=
  if rd s LCE_CTL_ROLE == 2 && laceRuns s && acceptPort s == some p then followErr s false else s

/-- R65: `num` is after `last`, modulo 2^48. -/
def tickAfter (num last : Nat) : Bool :=
  0 < (num + 2 ^ 48 - last) % 2 ^ 48 && (num + 2 ^ 48 - last) % 2 ^ 48 < 2 ^ 47

/-- R65, R68, R70: an accepted record is forwarded, corrects device time, and forms the tick at MASTER_TIME plus LEAD;
one whose start has passed starts at once and is counted. -/
def takeRecord (s : State) (p : Nat) (r : TickRec) : State :=
  let s := wr (wr s LCE_STATUS_HOPS 0 r.hops.toNat) LCE_STATUS_MASTER_SEEN 0 r.masterId.toNat
  let s := wrb s LCE_STATUS_ALIGN_FAR 0 (4 < r.hops.toNat)
  let s := lceUpd s (fun x => { x with lastRec := some r.tickNum.toNat })
  let s := followErr s true
  let start := r.masterTime.toNat + rd s LCE_LEAD
  let late := start < devTime s
  let s := if late then raise (inc s TICK_LATE_ARRIVE) 0x20C p else s
  let s := if r.early then inc s TICK_EARLY else s
  let t : TickPend := {
    stamp := if late then devTime s else r.masterTime.toNat, start := if late then devTime s else start,
    num := r.tickNum.toNat, early := r.early, late := r.latePrior, resync := r.resync, interval := r.interval.toNat,
    pos := r.position.toNat, src := r.src.toNat, master := r.masterId.toNat,
    hops := r.hops.toNat, delay := r.pathDelay.toNat }
  let s := stampTick s t
  if r.hops = 7 then s else
  sendRecord s { r with hops := r.hops + 1, pathDelay := r.pathDelay + BitVec.ofNat 32 (rd s WLT_LINK_DELAY p) }

/-- R65, R66: a record arrives on port `p`: a follower accepts, ignores or passes over it; a master or a standalone part discards
and counts it. -/
def recordIn (s : State) (p : Nat) (r : TickRec) : State :=
  if !laceRuns s || inBlockReset s 4 then s
  else if rd s LCE_CTL_ROLE != 2 then
    raiseIf (rd s LCE_CTL_ROLE == 1 && r.masterId.toNat != rd s FAB_CTL_DEV_ID) (inc s REC_IGNORED) 0x20B p
  else if r.masterId.toNat != rd s LCE_FAB_MASTER_ID then raise (inc s REC_IGNORED) 0x20B p
  else
    let s := lceUpd s (fun x => { x with recHops := nput x.recHops p r.hops.toNat })
    if s.lce.lastRec.any (fun n => !tickAfter r.tickNum.toNat n) then inc s REC_IGNORED
    else if acceptPort s != some p then s
    else takeRecord s p r

/-- TICK_RECORD_RECEIVE (R65, R66). -/
def execTickRecordReceive (p : Fin 64) (r : TickRec) (s : State) : Res :=
  .next (recordIn (if striped s p && !inBlockReset s 9 then slotIn s p else s) p r)

/-- ALIGNMENT_LOST (R69): in a follower, for each of its three causes alike. -/
def execAlignmentLost (_cause : Fin 3) (s : State) : Res :=
  .next (if rd s LCE_CTL_ROLE == 2 && laceRuns s then alignLost s else s)

/-- R67: slewing at ±200 ppm, 1 ns in 5,000 ns of device time. -/
def slewStep (s : State) : State :=
  if s.now % 5000 != 0 then s
  else if 0 < s.lce.slew then lceUpd s (fun x => { x with adj := x.adj + 1, slew := x.slew - 1 })
  else if s.lce.slew < 0 then lceUpd s (fun x => { x with adj := x.adj - 1, slew := x.slew + 1 })
  else s

end Sys2Proof.Machine
end

