-- ==== Sys2Proof/Machine/Pcie.lean ====
section
/-! DEFINITION. Configuration space and configuration requests, FLR, DOE mailboxes, PTM, IDE keys (09_pcie_ports.md;
R350, R355 to R359, R462). Where the manual leaves a register's bits to the base specification, they lie where it puts them. -/

namespace Sys2Proof.Machine

/-! ### Functions (R238, Table 9-3) -/

/-- What a function is. -/
inductive FnKind where
  | up | down | clicking | manager
deriving DecidableEq, Repr

/-- The kind, the partition and the port of function `f`. -/
def fnKind (f : Nat) : FnKind := if f < 16 then .up else if f < 32 then .clicking else if f = 32 then .manager else .down
def fnPt (s : State) (f : Nat) : Nat := if f < 32 then f % 16 else if f = 32 then rd s PTN_CTL_MGR_PT else (f - 64) / 64
def fnPort (s : State) (f : Nat) : Option Nat :=
  match fnKind f with
  | .up => upPort s f
  | .down => some ((f - 64) % 64)
  | _ => none

/-- A bridge, an endpoint. -/
def isBridge (f : Nat) : Bool := fnKind f = .up || fnKind f = .down

/-- The downstream bridge whose place in partition `n` is `k` (R239). -/
def placeFn (s : State) (n k : Nat) : Option Nat :=
  ((bridgePorts s n).find? (fun p => nget? s.fab.places (n * 64 + p) = some k)).map (fnDown n)

/-- The downstream bridge at device `dev`, function `fn` of the internal bus of partition `n` (R239): places 0 to 62. -/
def devFnPlace (s : State) (n dev fn : Nat) : Option Nat :=
  if dev = 0 || 62 < dev - 1 + 31 * fn then none else placeFn s n (dev - 1 + 31 * fn)

/-- Function `f`'s device holds a second function (R238, R239). -/
def multiFn (s : State) (f : Nat) : Bool :=
  let n := fnPt s f
  match fnKind f with
  | .up => false
  | .manager => true
  | .clicking => rd s PTN_CTL_MGR_PT == n
  | .down => match nget? s.fab.places (f - 64) with
    | some k => (List.range 3).any (fun fn => fn != k / 31 && (devFnPlace s n (k % 31 + 1) fn).isSome)
    | none => false

/-- The next-capability links of Table 9-4, in double words; DESIGN CHOICE: a bridge's Subsystem Vendor ID capability, which Table 9-3 needs
and Table 9-4 does not place, stands at 0xB0. -/
def capNext (f dw : Nat) : Nat :=
  if isBridge f then (if dw = 16 then 0x50 else if dw = 20 then 0x70 else if dw = 28 then 0xB0 else 0)
  else if dw = 16 then 0x70 else if dw = 28 then 0xB0 else 0

/-- The capabilities of every bridge from 0x400 on (R241): Physical Layer 16, 32 and 64 GT/s, Lane Margining at the Receiver, Data Link Feature,
Flit Logging. DESIGN CHOICE: R241 gives their range and not their places. -/
def linkCaps : List (Nat × Nat × Nat) :=
  [(0x400, 0x26, 1), (0x430, 0x2A, 1), (0x460, 0x31, 1), (0x480, 0x27, 1), (0x4C8, 0x25, 1), (0x4D4, 0x32, 1)]

/-- The extended capabilities of function `f` (Table 9-4, R241): offset, ID, version. -/
def extCaps (f : Nat) : List (Nat × Nat × Nat) :=
  match fnKind f with
  | .up => [(0x100, 1, 2), (0x1A0, 0x1F, 1), (0x200, 0x2E, 1), (0x240, 0x30, 1)] ++ linkCaps
  | .down => [(0x100, 1, 2), (0x148, 0xD, 1), (0x160, 0x1D, 1), (0x1A0, 0x1F, 1), (0x200, 0x2E, 1), (0x240, 0x30, 1)] ++ linkCaps
  | .clicking => [(0x100, 1, 2), (0x1C0, 0x1B, 1), (0x200, 0x2E, 1), (0x240, 0x30, 1)]
  | .manager => [(0x100, 1, 2)]

/-- The header of the extended capability at double word `dw`, if one stands there. -/
def extHdr (f dw : Nat) : Option Nat :=
  let l := extCaps f
  (l.zipIdx.find? (fun e => e.1.1 = dw * 4)).map (fun e =>
    e.1.2.1 + e.1.2.2 * 2 ^ 16 + ((l.getD (e.2 + 1) (0, 0, 0)).1) * 2 ^ 20)

/-- The bits of double word `dw` that a write stores. -/
def cfgRw (f dw : Nat) : Nat :=
  let b := isBridge f
  match dw with
  | 1 => 0x0547
  | 3 => 0xFF
  | 4 => if b then 0 else if fnKind f = .manager then 0xF0000000 else 0xFF000000
  | 5 => if b then 0 else 0xFFFFFFFF
  | 6 => if b then 0x00FFFFFF else 0xFFFF0000
  | 7 => if b then 0xF0F0 else 0xFFFFFFFF
  | 8 => if b then 0xFFF0FFF0 else 0
  | 9 => if b then 0xFFF0FFF0 else 0
  | 10 => if b then 0xFFFFFFFF else 0
  | 11 => if b then 0xFFFFFFFF else 0
  | 12 => if b then 0xFFFFFFFF else 0
  | 15 => if b then 0x007F00FF else 0xFF
  | 17 => 3
  | 20 => if b then 0x10000 else 0
  | 21 => if b then 0xFFFFFFFC else 0
  | 22 => if b then 0xFFFFFFFF else 0
  | 23 => if b then 0xFFFF else 0
  | 30 => 0x7FFF
  | 32 => 0x0FFF
  | 34 => if fnKind f = .down then 0x102A else 0
  | 38 => 0xFFFF
  | 40 => 0xFFFF
  | 44 => if b then 0 else 0xC0000000
  | 66 => 0xFFFFFFFF
  | 67 => 0xFFFFFFFF
  | 69 => 0xFFFFFFFF
  | 83 => if fnKind f = .down then 0x007F0000 else 0
  | 84 => if fnKind f = .down then 0xFFFFFFFF else 0
  | 85 => if fnKind f = .down then 0xFFFFFFFF else 0
  | 89 => if fnKind f = .down then 0x00BF0000 else 0
  | 106 => if b then 0xFF03 else 0
  | 113 => if fnKind f = .clicking then 0x00010000 else 0
  | 130 => if fnKind f = .manager then 0 else 2
  | 146 => if b then 4 else 0
  | 147 => if b then 0xFF380001 else 0
  | _ => if fnKind f = .clicking then selIdeRw dw else 0
where
  /-- The blocks of the 8 selective IDE streams of the Clicking function (R253): five double words each. -/
  selIdeRw (dw : Nat) : Nat :=
    if dw < 147 || 187 ≤ dw then 0 else
    match (dw - 147) % 5 with
    | 1 => 0xFF780001
    | 3 => 0x00FFFF00
    | 4 => 0x00FFFF01
    | _ => 0

/-- The bits of double word `dw` that the part stores and no write changes: the first error pointer and the header log of AER. -/
def cfgHw (dw : Nat) : Nat := if dw = 70 then 0x1F else if 71 ≤ dw && dw ≤ 74 then 0xFFFFFFFF else 0

/-- The bits of double word `dw` that a write of 1 clears. -/
def cfgW1c (f dw : Nat) : Nat :=
  match dw with
  | 34 => if fnKind f = .down then 0x01080000 else 0
  | 65 => 0xFFFFFFFF
  | 68 => 0xFFFFFFFF
  | 90 => if fnKind f = .down then 1 else 0
  | _ => 0

/-- Link Status of port `p`: rate, width, Data Link Layer active (R355: a shared bridge mirrors the port). -/
def linkStatus (s : State) (p : Nat) : Nat :=
  (rd s PRT_STATUS_RATE p + widthOf (rd s PRT_STATUS_CUR_WIDTH p) * 16 + (if linkUp s p then 0x2000 else 0)) * 65536

/-- Key sets that direction `tx` of the link or stream number `o` holds (R252). -/
def ideSets (s : State) (o : Nat) (tx : Bool) : Nat := nget s.prt.ide (o * 2 + if tx then 1 else 0) 0

/-- The state of the stream that owner `o` holds: secure where it is enabled and both directions have keys. -/
def ideSecure (s : State) (o : Nat) (en : Bool) : Nat := if en && 0 < ideSets s o true && 0 < ideSets s o false then 2 else 0

/-- The DOE mailbox of function `f` as its registers at double words 129 to 133 read. -/
def doeRead (s : State) (f dw : Nat) : Nat :=
  let d := nget s.prt.doe f {}
  match dw with
  | 131 => (if d.busy then 1 else 0) + (if d.err then 4 else 0) + (if d.rd.isEmpty then 0 else 2 ^ 31)
  | 133 => d.rd.headD 0
  | _ => 0

/-- Constants and live bits of double word `dw` of function `f` (Tables 9-1, 9-3, 9-4, R242, R248, R249). -/
def cfgRo (s : State) (f dw : Nat) : Nat :=
  let n := fnPt s f
  let k := fnKind f
  let b := isBridge f
  let p := (fnPort s f).getD 0
  let slot := k = .down && slotBound s p && portPt s p == n
  match extHdr f dw with
  | some h => h
  | none =>
  match dw with
  | 0 => if b then 0x61923E4C else 0x61933E4C
  | 1 => 0x00100000
  | 2 => (if b then 0x060400 else if k = .clicking then 0x088000 else 0x088001) * 256 + 0xB1
  | 3 => (if b then 0x10000 else 0) + if multiFn s f then 0x800000 else 0
  | 4 => if b then 0 else 4
  | 6 => if b then 0 else 4
  | 7 => if b then 0x0101 else 0
  | 9 => if b then 0x00010001 else 0
  | 11 => if b then 0 else 0x3E4C + rd s PTN_CFG_SSID n * 65536
  | 13 => 0x40
  | 44 => if b then 0x0D else 0x11 + (if k = .manager then 31 else rd s PTN_CFG_VECM1 n) * 65536
  | 45 => if b then 0x3E4C + rd s PTN_CFG_SSID n * 65536 else 2
  | 15 => if b then 0x0100 else 0
  | 16 => 1 + capNext f 16 * 256 + 0x30000
  | 17 => 8
  | 20 => if b then 5 + capNext f 20 * 256 + 0x800000 else 0
  | 28 => 0x10 + capNext f 28 * 256 + ((match k with | .up => 0x52 | .down => 0x62 | _ => 0x02) + if slot then 0x100 else 0) * 65536
  | 29 => 5 + 0x20 + 0x8000 + if k = .clicking then 0x10000000 else 0
  | 31 => if b then 6 + dataLanes s p * 16 + (if k = .down then 0x800 else 0) + p * 2 ^ 24 else 6
  | 32 => if b then linkStatus s p else 0
  | 33 => if slot then 2 + 0x40 + 0x40000 + rd s PCI_SLOT_PSN p * 2 ^ 19 else 0
  | 34 => if slot then
      (if bit s PWD_SLOT_CTL_ON (rd s PCI_SLOT_CHANNEL p) then 0 else 0x400)
        + (if bit s PWD_SLOT_STATUS_PFD (rd s PCI_SLOT_CHANNEL p) then 0x20000 else 0)
        + (if bit s PRT_STATUS_PARTNER p then 0x400000 else 0)
    else 0
  | 37 => 0x30000 + if k = .down then 0x1E0 else if k = .up then 0x1C0 else 0
  | 41 => if slot then 1 else 0
  | 46 => if b then 0 else 0x8002
  | 83 => if k = .down then (if portPt s p == n then 0x407F else 0x005F) else 0
  | 89 => if k = .down && portPt s p == n then 0x00C0 else 0
  | 105 => if k = .up then 0x0101 else if k = .down then 0x0102 else 0
  | 113 => if k = .clicking then 0x1400 else 0
  | 145 => if b then 0x45 else if k = .clicking then 0x70042 else 0
  | 148 => if b then ideSecure s (if k = .up then n else 16 + p) ((cfgGet s f 147).testBit 0) else selIdeRo dw
  | 259 => if b then rateDone 4 else 0
  | 271 => if b then rateDone 5 else 0
  | 283 => if b then rateDone 6 else 0
  | 307 => if b then 0x80000001 else 0
  | _ => if 129 ≤ dw && dw ≤ 133 && k != .manager then doeRead s f dw else selIdeRo dw
where
  /-- Equalization at rate code `r` is complete: the link has reached it. -/
  rateDone (r : Nat) : Nat := if (fnPort s f).any (fun p => linkUp s p && r ≤ rd s PRT_STATUS_RATE p) then 0xF else 0
  /-- The status words of the Clicking function's selective IDE streams. -/
  selIdeRo (dw : Nat) : Nat :=
    if fnKind f != .clicking || dw < 147 || 187 ≤ dw || (dw - 147) % 5 != 2 then 0
    else ideSecure s (128 + (f - 16) * 8 + (dw - 147) / 5) ((cfgGet s f (dw - 1)).testBit 0)

/-- The bits of double word `dw` of function `f` that a write stores now: of Slot Control none where the port reports no slot (R248). -/
def cfgMask (s : State) (f dw : Nat) : Nat :=
  if dw = 34 && !(fnPort s f).any (fun p => slotBound s p && portPt s p == fnPt s f) then 0 else cfgRw f dw

/-- Double word `dw` of function `f` as a configuration read returns it. -/
def cfgRead (s : State) (f dw : Nat) : Nat :=
  Nat.lor (cfgRo s f dw) (Nat.land (cfgGet s f dw) (Nat.lor (Nat.lor (cfgMask s f dw) (cfgHw dw)) (cfgW1c f dw)))

/-! ### The DOE mailboxes (Table 9-1) -/

/-- The mailbox of function `f` changed. -/
def doeSet (s : State) (f : Nat) (d : Doe) : State := prtUpd s (fun x => { x with doe := nset {} x.doe f d })

/-- The function whose mailbox carries SPDM by `via`. -/
def doeFn (s : State) : SpdmVia → Option Nat
  | .doeUpstream n => some (fnUp n)
  | .doeDownstream p => some (fnDown (portPt s p) p)
  | .doeClicking n => some (fnClick n)
  | .mctp => none

/-- A data object of type `t` with content `l`, in double words. -/
def doeObject (t : Nat) (l : Bytes) : List Nat :=
  [1 + t * 65536, 2 + (l.length + 3) / 4] ++ (List.range ((l.length + 3) / 4)).map (fun i => leNat ((l.drop (4 * i)).take 4))

/-- An SPDM or IDE_KM message leaves by `via` (R512): from a DOE mailbox, the host reads it there, in an object of the type that it sent. -/
def spdmSay (s : State) (via : SpdmVia) (what : String) (d : Bytes) : State :=
  let s := emit s (.spdm via what d)
  match doeFn s via with
  | none => s
  | some f =>
    let m := nget s.prt.doe f {}
    doeSet s f { m with busy := false, rd := doeObject (if what.startsWith "K" then 2 else 1) (Config.spdmBytes what d) }

/-- The object written to the mailbox of function `f` is handed over: Discovery is answered at once, in the order of its index; an SPDM
message awaits its responder (SPDM_REQUEST, IDE_KEY_PROG). An object that is none of the three types, or whose length is not what was
written, is an error. -/
def doeGo (s : State) (f : Nat) : State :=
  let d := nget s.prt.doe f {}
  let h := d.wr.getD 0 0
  let n := d.wr.getD 1 0 % 2 ^ 18
  if d.wr.length < 2 || (if n = 0 then 2 ^ 18 else n) != d.wr.length || h % 65536 != 1 then doeSet s f { d with wr := [], err := true }
  else match h / 65536 % 256 with
    | 0 =>
      let i := d.wr.getD 2 0 % 256
      doeSet s f { d with wr := [], rd := [1, 3, if i ≤ 2 then 1 + i * 65536 + (if i < 2 then (i + 1) * 2 ^ 24 else 0) else 0xFFFF] }
    | 1 => doeSet s f { d with wr := [], busy := true }
    | 2 => doeSet s f { d with wr := [], busy := true }
    | _ => doeSet s f { d with wr := [], err := true }

/-- A write of `v` to double word `dw` of a DOE capability: abort, go, a word of the object (16 KiB at most), or the next word of the response. -/
def doeWrite (s : State) (f dw v : Nat) : State :=
  let d := nget s.prt.doe f {}
  match dw with
  | 130 => if v.testBit 0 then doeSet s f {} else if v.testBit 31 && !d.busy && !d.err then doeGo s f else s
  | 132 => if d.busy || d.err then s else if 4096 ≤ d.wr.length then doeSet s f { d with err := true } else doeSet s f { d with wr := d.wr ++ [v] }
  | 133 => doeSet s f { d with rd := d.rd.drop 1 }
  | _ => s

/-! ### FLR (Table 18-2) -/

/-- A FUNC reset of partition `n`'s Clicking function: its configuration state and MSI-X table, every slice's queue pairs to STOPPING with
their pages at the SLICE-reach values, members consumed by its slices FAILED with cause 5. -/
def funcReset (s : State) (n : Nat) : State :=
  let s := wr s RST_CAUSE_FUNC 0 1
  let mine := fun k => k / 1024 == n
  let s := slicesStop (membersOfSlices s mine) mine
  let s := { s with rst := { s.rst with func := n :: s.rst.func.filter (· != n) } }
  msixReset (cfgReset s [fnClick n]) n

/-- FLR (R462): nothing while a wider reset covers the function. -/
def execFlr (pt : Fin 16) (s : State) : Res := .next (if partInReset s pt then s else funcReset s pt)

/-! ### Writes of configuration space -/

/-- What a write of `v` to double word `dw` of function `f` does beside storing it. -/
def cfgAct (s : State) (f dw old v : Nat) : State :=
  let n := fnPt s f
  let p := (fnPort s f).getD 0
  let k := fnKind f
  match dw with
  | 15 =>
    if !isBridge f || v.testBit 22 == old.testBit 22 then s
    else sbr s (match k with
      | .up => .upstream (Fin.ofNat 16 n)
      | _ => if portPt s p == n then .downstream (Fin.ofNat 64 p) else .shared (Fin.ofNat 16 n) (Fin.ofNat 64 p)) (v.testBit 22)
  | 17 =>
    if isBridge f || v % 4 == 3 || old % 4 != 3 then s else
    let t := if k = .manager then 16 else n
    let s := forEach (s.rng.pba.filter (fun e => e / 2048 == t)) s (fun s e => msixRelease s t (e % 2048))
    if k = .clicking then pumpAll s else s
  | 30 => if k = .clicking && v.testBit 15 then funcReset s n else s
  | 34 =>
    if k = .down && slotBound s p && portPt s p == n then
      let c := rd s PCI_SLOT_CHANNEL p
      let s := if v.testBit 17 then wr s PWD_SLOT_STATUS_PFD c 0 else s
      let s := if (cfgGet s f 34 / 65536 &&& 0x108) = 0 && !bit s PWD_SLOT_STATUS_PFD c && !(cfgGet s f 20).testBit 16 then bridgeIrq s n f false else s
      if v.testBit 10 == bit s PWD_SLOT_CTL_ON c then slotPower s c (!v.testBit 10) else s
    else s
  | 44 =>
    let t := if k = .manager then 16 else n
    if isBridge f then s else forEach (s.rng.pba.filter (fun e => e / 2048 == t)) s (fun s e => msixRelease s t (e % 2048))
  | 89 => if k = .down && v.testBit 22 && portPt s p == n then dpcGo s p else s
  | 90 => if k = .down && v.testBit 0 && portPt s p == n then dpcClear s p else s
  | _ => if 130 ≤ dw && dw ≤ 133 && k != .manager then doeWrite s f dw v else s

/-- A configuration write of `v` to double word `dw` of function `f`. -/
def cfgWrite (s : State) (f dw v : Nat) : State :=
  let old := cfgGet s f dw
  let rw := cfgMask s f dw
  let keep := Nat.land old (Nat.xor (Nat.land old (cfgW1c f dw)) (Nat.land (Nat.land old (cfgW1c f dw)) v))
  let s := cfgPut s f dw (Nat.lor (Nat.land v rw) (Nat.lor keep (Nat.land old (cfgHw dw))))
  cfgAct s f dw old v

/-! ### Routing of configuration requests (R240, R358) -/

/-- A completion for a configuration request, with data where it read; one that no function takes is an Unsupported Request (R247). -/
def cfgAnswer (s : State) (p : Nat) (n : Nat) (pk : Packet) (st : CplStatus) (v : Option Nat) : State :=
  let s := if st = .ur then aerLog s p n 20 pk else s
  let c := cplFor s pk st
  formed s p pk.tc n { c with data := match v with | some x => leBytes 4 x | none => [], len := if v.isSome then 4 else 0 }

/-- The part's own function `f` takes the request: its bus number is captured by a write, and it answers. -/
def cfgOwn (s : State) (p n f bus dw : Nat) (w : Option Nat) (pk : Packet) : State :=
  match w with
  | some v =>
    let s := cfgAnswer { s with cfg := nset 0 s.cfg (f * 2048 + 1024) bus } p n pk .ok none
    cfgWrite s f dw v
  | none => cfgAnswer s p n pk .ok (some (cfgRead s f dw))

/-- R358: double word `reg` of the BARs of the VF of remap entry `i`, translated through its window; the VF's own address is the device's. -/
def vfBarRead (s : State) (i reg : Nat) : Nat :=
  let a := Config.vfBar i ((reg - 4) / 2)
  let x := xwLive s (rd s PTN_RID_XWIN i)
  if !bit s PTN_RID_XWIN_V i || !(x.addr ≤ a && a < x.addr + 2 ^ x.k) then 0 else
  let t := x.base + (a - x.addr)
  if reg % 2 == 0 then t % 2 ^ 32 else t / 2 ^ 32 % 2 ^ 32

/-- R358: partition `n` addresses a remapped VF: forwarded with the real ID and with a proxy identity, by which its completion returns; its
BARs answered by the part; held for 100 ms after an FLR (R351). -/
def cfgVf (s : State) (p n i reg : Nat) (w : Option Nat) (pk : Packet) : State :=
  if 4 ≤ reg && reg ≤ 9 then
    match w with
    | some _ => cfgAnswer s p n pk .ok none
    | none => cfgAnswer s p n pk .ok (some (vfBarRead s i reg))
  else
    let pk := { pk with addr := BitVec.ofNat 64 (rd s PTN_RID_RID_REAL i * 65536 + reg * 4) }
    if s.fab.vfHold.contains i then fabUpd s (fun x => { x with cfgWait := x.cfgWait ++ [(i, p, pk)] })
    else proxyTo s (rd s PTN_RID_PORT i) { inp := p, cls := pk.tc, pt := n, pk := pk }

/-- A configuration request on the upstream port `p` of partition `n` (R240): the upstream bridge, the internal bus, or a bus below a
downstream bridge, where without ARI Forwarding only device 0 stands (Table 9-1); anything else is answered Unsupported Request. -/
def cfgRoute (s : State) (p n : Nat) (type1 : Bool) (bus dev fn reg : Nat) (w : Option Nat) (pk : Packet) : State :=
  let no := cfgAnswer s p n pk .ur none
  if partInReset s n then no else
  if !type1 then (if dev == 0 && fn == 0 then cfgOwn s p n (fnUp n) bus reg w pk else no) else
  if bus != 0 && bus == secBus s (fnUp n) then
    if dev == 0 then
      if fn == 0 then cfgOwn s p n (fnClick n) bus reg w pk
      else if fn == 1 && rd s PTN_CTL_MGR_PT == n then cfgOwn s p n fnMgr bus reg w pk else no
    else match devFnPlace s n dev fn with
      | some f => cfgOwn s p n f bus reg w pk
      | none => no
  else match busPort s n bus with
    | none => no
    | some o =>
      if portPt s o != n then
        (match guestAt s n (bus * 256 + dev * 8 + fn) with
        | some i => cfgVf s p n i reg w pk
        | none => no)
      else if bus == secBus s (fnDown n o) && dev != 0 && !(cfgGet s (fnDown n o) 38).testBit 5 then no
      else storeTo s o { inp := p, cls := pk.tc, pt := n, pk := pk }

/-- A configuration request as a packet; bit 0 of its address tells Type 1. -/
def cfgPkt (type1 : Bool) (bus dev fn reg : Nat) (w : Option (BitVec 32)) (rid : BitVec 16) (tag : BitVec 14) : Packet :=
  { kind := .nonPosted, op := .cfg,
    addr := BitVec.ofNat 64 ((bus * 256 + dev * 8 + fn) * 65536 + reg * 4 + if type1 then 1 else 0), len := 4,
    data := match w with | some v => leBytes 4 v.toNat | none => [], fbe := 15, lbe := 0, tc := 0, rid := rid, tag := tag, pasid := none,
    status := .ok, lastPiece := true, ro := false, ido := false, ns := false, tph := none, selIde := false, translated := false,
    fab := none, notice := none }

/-- CONFIG_REQUEST (R240). -/
def execConfigRequest (p : Fin 64) (type1 : Bool) (bus : BitVec 8) (dev : BitVec 5) (fn : BitVec 3) (reg : BitVec 10)
    (w : Option (BitVec 32)) (rid : BitVec 16) (tag : BitVec 14) (s : State) : Res :=
  .next (if isHead s p && linkUp s p then
      cfgRoute s p (portPt s p) type1 bus.toNat dev.toNat fn.toNat reg.toNat (w.map (·.toNat))
        (cfgPkt type1 bus.toNat dev.toNat fn.toNat reg.toNat w rid tag)
    else s)

/-! ### Link power (Table 9-1, R255) -/

/-- Port `p` may rest in L1: a PCIe downstream port that is UP, allowed by PCI_CTL.L1_ALLOW and by ASPM Control of its bridge, with nothing to send. -/
def l1May (s : State) (p : Nat) : Bool :=
  !isTlink s p && !bit s PRT_CFG_DIR p && linkUp s p && bit s PCI_CTL_L1_ALLOW p && (cfgGet s (portFn s p) 32).testBit 1
    && (nget s.shk.staging p []).isEmpty && (nget s.shk.wait p []).isEmpty

/-- DESIGN CHOICE: a port that may rest in L1 does so whenever the block idles; the manual leaves the time to ASPM. -/
def l1Rest (s : State) : State := prtUpd s (fun x => { x with l1 := (List.range 64).filter (l1May s) })

/-! ### PTM (R254) -/

/-- PTM is enabled by the host in the upstream bridge of port `p`. -/
def ptmOn (s : State) (p : Nat) : Bool := isHead s p && linkUp s p && (cfgGet s (fnUp (portPt s p)) 106).testBit 0

/-- PTM_REQUEST_TIMER (R254). -/
def execPtmRequestTimer (p : Fin 64) (s : State) : Res := .next (if ptmOn s p then emit s (.link p "PTM request") else s)

/-- PTM_EXCHANGE (R254): the host's time minus device time. -/
def execPtmExchange (p : Fin 64) (host : BitVec 64) (s : State) : Res :=
  .next (if ptmOn s p then
      prtUpd (wr s PCI_PTM_OFS p (host.toNat + 2 ^ 64 - devTime s)) (fun x => { x with ptm := nput x.ptm p s.now })
    else s)

/-! ### IDE keys (R252) -/

/-- The number of an owner's link or stream. -/
def ideOwner : IdeOwner → Nat
  | .upstream n => n
  | .downstream p => 16 + p
  | .clicking n i => 128 + n * 8 + i

/-- The DOE mailbox by which an owner's keys come. -/
def ideVia : IdeOwner → SpdmVia
  | .upstream n => .doeUpstream n
  | .downstream p => .doeDownstream p
  | .clicking n _ => .doeClicking n

/-- Key slots in use. -/
def ideUsed (s : State) : Nat := s.prt.ide.foldl (fun n e => n + e.2) 0

/-- IDE_KEY_PROG (R252, R508): a slot is taken, or the request fails with all keys as they were. At the end of a refresh the refreshed set takes
over and the slot of the old one is free; keys that stop free their slots. -/
def execIdeKeyProg (o : IdeOwner) (tx : Bool) (km : IdeKm) (s : State) : Res :=
  .next (
    let k := ideOwner o * 2 + if tx then 1 else 0
    let cur := nget s.prt.ide k 0
    let hold := fun (s : State) (m : Nat) => prtUpd s (fun x => { x with ide := nset 0 x.ide k m })
    let key := fun (m : Nat) =>
      if bit s TST_SEC_STATUS_CLEARED || 256 < ideUsed s - cur + m then spdmSay s (ideVia o) "KP_ACK failure" []
      else
        let s := hold s m
        spdmSay { wr s TST_SEC_STATUS_CLEARED_OK 0 0 with tst := { s.tst with keys := true, changed := s.tst.changed || s.tst.verifying } } (ideVia o) "KP_ACK" []
    match km with
    | .first => key (max 1 cur)
    | .refresh => key (if cur = 0 then 1 else 2)
    | .takeOver => spdmSay (hold s (min 1 cur)) (ideVia o) "K_GOSTOP_ACK" []
    | .stop => spdmSay (hold s 0) (ideVia o) "K_GOSTOP_ACK" [])

end Sys2Proof.Machine
end

