-- ==== Sys2Proof/Machine/Modes.lean ====
section
/-! DEFINITION. Operating modes and their transitions (02_modes.md), and the feed warning (R22, R423). -/

namespace Sys2Proof.Machine

/-! ### Self-tests of a TEST (R498) -/

/-- The tests that TST_BIST_SEL selects. -/
def bistSelected (s : State) : List Bist :=
  (if bit s TST_BIST_SEL_LBIST then [Bist.lbist] else []) ++ (if bit s TST_BIST_SEL_MBIST then [Bist.mbist] else [])
    ++ (if bit s TST_BIST_SEL_OVF then [Bist.ovf] else []) ++ (if bit s TST_BIST_SEL_SERDES then [Bist.serdes] else [])

/-- The tests that run: LBIST first, then the others together (R498). -/
def bistRunning (s : State) : List Bist :=
  if mode s != mTEST || !bit s TST_BIST_STATUS_RUNNING then [] else if s.tst.left.contains .lbist then [.lbist] else s.tst.left

/-- A test's result: 0 NOT_RUN, 1 PASS, 2 FAIL, 3 ABORTED. -/
def bistResult (s : State) (t : Bist) (v : Nat) : State :=
  match t with
  | .lbist => wr s TST_BIST_STATUS_LBIST 0 v
  | .mbist => wr s TST_BIST_STATUS_MBIST 0 v
  | .ovf => wr s TST_BIST_STATUS_OVF 0 v
  | .serdes => wr s TST_BIST_STATUS_SERDES 0 v

/-- Running tests end ABORTED for cause `c` (Table 20-7), and no other begins. -/
def bistAbort (s : State) (c : Nat) : State :=
  if (bistRunning s).isEmpty then s else
  let s := wr (forEach (bistRunning s) s (fun s t => bistResult s t 3)) TST_BIST_STATUS_ABORT 0 c
  { wr s TST_BIST_STATUS_RUNNING 0 0 with tst := { s.tst with left := [] } }

/-! ### Requests (Table 2-2, R547) -/

/-- R114, Table 2-2: the Lace lock status is set, and every port with gates enabled has a committed bank. -/
def lockReady (s : State) : Bool :=
  bit s LCE_STATUS_LOCK && (List.range 64).all (fun p => !bit s SHK_GATE_CTL_GATE_EN p || bit s SHK_GATE_STATUS_VALID p)

/-- Every enabled cluster holds an authenticated image. -/
def imagesReady (s : State) : Bool :=
  (List.range 8).all (fun k => !bit s CKR_CLU_CTL_EN k || (nget? s.ckr.img k).isSome)

/-- Table 2-2 has a request from mode `m` to mode `t`. -/
def requestLegal (s : State) (m t : Nat) : Bool :=
  if t == mSAFE then m != mHOLD && m != mFACTORY
  else if m == mSETUP then [mTEST, mFREE, mLOCKED, mLOOPBACK, mFACTORY, mSTANDBY].contains t
  else if m == mFREE then t == mLOCKED || t == mQUIESCE
  else if m == mLOCKED then t == mFREE || t == mQUIESCE
  else if m == mDEGRADED then t == mFREE || t == mLOCKED || t == mQUIESCE
  else if m == mQUIESCE then t == rd s GLB_MODE_PREV
  else (m == mLOOPBACK || m == mSTANDBY) && t == mSETUP

/-- The STATUS with which a GO for mode `t` is refused, in the order of R547; 0 where it is accepted. -/
def requestStatus (s : State) (t : Nat) : Nat :=
  let m := mode s
  let run := t == mFREE || t == mLOCKED
  if (bit s GLB_MODE_BUSY || s.rst.warmWait) && !(t == mSAFE && requestLegal s m t) then 1
  else if !requestLegal s m t then 2
  else if t == mFACTORY && !(s.rst.testEn && bit s TST_SEC_STATUS_CLEARED_OK) then 6
  else if m == mDEGRADED && run && bit s GLB_MODE_FENCED then 5
  else if m == mSETUP && run && !imagesReady s then 3
  else if t == mLOCKED && m != mQUIESCE && !lockReady s then 4
  else 0

/-- The transition that an accepted request begins: to DEGRADED where a resource is fenced (R40). -/
def requestTrans (s : State) (t : Nat) : Trans :=
  let m := mode s
  let run := t == mFREE || t == mLOCKED
  let deg := bit s GLB_MODE_FENCED && ((m == mSETUP && run) || m == mQUIESCE)
  let locked := if t == mLOCKED then true else if t == mFREE || t == mSAFE then false else bit s GLB_MODE_LOCKED
  { to' := if deg && t != mSAFE then mDEGRADED else t, from' := m, cause := 0, locked := locked,
    src := if t == mSAFE then 0xFFF else 0, req := true }

/-- A transition begins; one to SAFE with its notice, while the links are still up (R341). -/
def transGo (s : State) (t : Trans) : State :=
  let s := if t.to' == mSAFE then noticeSend s 3 t.src 0 0 else s
  { wr s GLB_MODE_BUSY 0 1 with tr := some t }

/-! ### Causes that compete (R42) -/

/-- Table 2-2 lets an automatic cause, or a request for SAFE, lead from mode `m` to mode `t`. -/
def autoLegal (m t : Nat) : Bool :=
  if t == mSAFE then m != mHOLD && m != mFACTORY
  else if t == mDRAIN then m == mFREE || m == mLOCKED || m == mDEGRADED || m == mQUIESCE
  else if t == mDEGRADED then m == mFREE || m == mLOCKED
  else t == mQUIESCE && m == mDRAIN

/-- The rank of a transition in R42. -/
def transRank (to' cause : Nat) : Nat :=
  if to' == mSAFE then 4 else if to' == mDRAIN then 3 else if cause == 1 then 2 else 1

/-- A reset of WARM reach or wider runs, from its assertion until SETUP is reached; the return from TEST is none. -/
def resetRuns (s : State) : Bool := wideReset s || (s.rst.starting && mode s != mTEST)

/-- The request in progress ends with STATUS `st`. -/
def requestEnd (s : State) (t : Trans) (st : Nat) : State :=
  if t.req then wr (wr s GLB_MODE_REQ_GO 0 0) GLB_MODE_REQ_STATUS 0 st else s

/-- The causes that wait once `c` has come: a feed warning ends a recovery that waits. -/
def stillWaits (s : State) (c : Cause) : List Cause :=
  if c.to' == mDRAIN then s.rst.later.filter (fun d => d.cause != 4) else s.rst.later

/-- A cause waits. One that leads where another that waits leads joins it, which keeps the earlier one's source. -/
def causeWait (s : State) (c : Cause) : State :=
  let l := stillWaits s c
  let l := if l.any (fun d => d.to' == c.to') then l.map (fun d => if d.to' == c.to' then { d with req := d.req || c.req } else d) else l ++ [c]
  { s with rst := { s.rst with later := l } }

/-- A cause begins its transition. LOCKED stays as it is but in SAFE; the return from TEST gives way to SAFE. -/
def causeGo (s : State) (c : Cause) : State :=
  transGo { s with rst := { s.rst with starting := s.rst.starting && c.to' != mSAFE } }
    { to' := c.to', from' := mode s, cause := c.cause, locked := bit s GLB_MODE_LOCKED && c.to' != mSAFE, src := c.src, req := c.req }

/-- A cause meets the transition in progress: one that leads to the same mode joins it, and the source that came first stands; a higher one
takes its place; any other waits. Where none is in progress it begins its own. A cause during a reset waits. -/
def causeMeets (s : State) (c : Cause) : State :=
  if resetRuns s then causeWait s c else
  match s.tr with
  | none => causeGo s c
  | some u =>
    if u.to' == c.to' then { s with tr := some { u with req := u.req || c.req }, rst := { s.rst with later := stillWaits s c } }
    else if transRank u.to' u.cause < transRank c.to' c.cause && autoLegal (mode s) c.to' then causeGo (requestEnd s u 7) c
    else causeWait s c

/-- R35, R43, R547: GO with the TARGET stored. A request for SAFE competes as the SAFE reaction does (R42). -/
def modeGo (s : State) : State :=
  let t := rd s GLB_MODE_REQ_TARGET
  let st := requestStatus s t
  if st != 0 then wr s GLB_MODE_REQ_STATUS 0 st
  else if t == mSAFE then
    let s := match s.tr with | some u => if u.to' == mSAFE then s else { requestEnd s u 7 with tr := some { u with req := false } } | none => s
    causeMeets (wr s GLB_MODE_REQ_GO 0 1) { to' := mSAFE, cause := 0, src := 0xFFF, req := true }
  else
    let s := if t == mSTANDBY then noticeSend s 7 0 0 0 else s
    let s := if t == mTEST then { s with tst := { s.tst with left := bistSelected s, qmask := rd s TST_BIST_SEL_QMASK } } else s
    transGo (wr s GLB_MODE_REQ_GO 0 1) (requestTrans s t)

/-- MODE_REQUEST_GO (R35, R43, R547). -/
def execModeRequestGo (m : Master) (target : BitVec 4) (s : State) : Res :=
  .next (asMaster s m GLB_MODE_REQ_GO.off (fun s => modeGo (wr s GLB_MODE_REQ_TARGET 0 target.toNat)))

/-! ### Automatic causes -/

/-- An automatic cause (R42): in a settled mode it acts only where Table 2-2 has it. -/
def modeAuto (s : State) (to' cause src : Nat) : State :=
  if s.tr.isNone && !resetRuns s && !autoLegal (mode s) to' then s else causeMeets s { to' := to', cause := cause, src := src, req := false }

/-- R40, R42: a FENCE reaction's effect on the mode. -/
def fenceMode (s : State) : State :=
  let s := wr s GLB_MODE_FENCED 0 1
  match s.tr with
  | some t =>
    if t.req && (t.to' == mFREE || t.to' == mLOCKED) && (t.from' == mSETUP || t.from' == mQUIESCE) then
      { s with tr := some { t with to' := mDEGRADED, cause := 1 } }
    else if t.req && (t.to' == mFREE || t.to' == mLOCKED) && t.from' == mDEGRADED then
      wr { requestEnd s t 7 with tr := none } GLB_MODE_BUSY 0 0
    else modeAuto s mDEGRADED 1 0
  | none => modeAuto s mDEGRADED 1 0

/-! ### Reaching a mode -/

/-- R116, R121: where gates begin to apply the LAST entry is in force until a tick start; in QUIESCE the entry in force stays. -/
def gatesArrive (s : State) (were : List Nat) : State :=
  let now := (List.range 64).filter (fun p => gatesApply s p)
  let s := forEach (now.filter (fun p => !were.contains p)) s (fun s p =>
    let s := wr s SHK_GATE_STATUS_ENTRY p ((lastEntry s p (activeBank s p)).getD 0)
    { s with gate := { s.gate with base := ndel s.gate.base p } })
  { s with gate := { s.gate with frozen := if mode s == mQUIESCE then now else s.gate.frozen.filter (fun p => now.contains p) } }

/-- PREV after a transition from `m` to `t` (Table 2-5). -/
def prevOf (s : State) (m t : Nat) : Nat :=
  if t == mDEGRADED then m
  else if t == mQUIESCE then (if m == mDRAIN then rd s GLB_MODE_PREV else m)
  else if t == mDRAIN then (if m == mQUIESCE then rd s GLB_MODE_PREV else m)
  else rd s GLB_MODE_PREV

/-- What reaching mode `t` from mode `m` does beside GLB_MODE: links, stored packets, clusters, gates, the Heel. -/
def modeEffects (s : State) (were : List Nat) (m t : Nat) : State :=
  let run := t == mFREE || t == mLOCKED || t == mDEGRADED
  let s := if m == mSETUP && run then { s with fab := { s.fab with layout := rd s GLB_MODE_REQ_LAYOUT } } else s
  let s := if [mTEST, mSAFE, mLOOPBACK, mFACTORY, mSTANDBY].contains t then portsIdle s else holdPorts s
  let s := if t == mSAFE then discardAll s else s
  let s := gatesArrive s were
  let s := if laceRuns s then s else laceStop s
  let s := if t == mSETUP then { s with heel := { s.heel with setup := true } } else s
  let s := if t == mFACTORY then raise (wr s TST_SEC_STATUS_FACTORY_SINCE_POR 0 1) 0x796 else s
  let s := if t == mDRAIN then overBudget (heelDrain (jobsCut s)) else s
  let s := if m == mDRAIN then heelUndrain s else s
  let s := if run then creditsBack (clustersStart s) else s
  if run then pumpAll (forEach (s.plc.pu.filter (fun e => e.2.state == 2)) s (fun s e => rehold s e.1)) else s

/-- GLB_MODE shows mode `t`, reached from `m` (R44, R47, R48). -/
def modeSet (s : State) (m t cause : Nat) (locked : Bool) : State :=
  let were := (List.range 64).filter (fun p => gatesApply s p)
  let s := if m == mTEST && t == mSAFE then bistAbort s 4 else s
  let s := wr s GLB_MODE_PREV 0 (prevOf s m t)
  let s := wr (wr (wr s GLB_MODE_CUR 0 t) GLB_MODE_BUSY 0 0) GLB_MODE_CAUSE 0 cause
  let s := wrb s GLB_MODE_LOCKED 0 locked
  let s := if t == mSETUP then wr s GLB_MODE_REQ_LAYOUT_LOCK 0 0 else if m == mSETUP then wr s GLB_MODE_REQ_LAYOUT_LOCK 0 1 else s
  modeEffects s were m t

/-- The highest of the causes that wait, the earliest of those of one rank (R42). -/
def laterBest : List Cause → Option Cause
  | [] => none
  | c :: l => match laterBest l with
    | some d => if transRank c.to' c.cause < transRank d.to' d.cause then some d else some c
    | none => some c

/-- A mode is reached, or kept after a time-out (R42): of the causes that waited those that Table 2-2 does not allow from it are dropped, a
request among them with STATUS OVERTAKEN, the highest of the others begins its transition, and the rest wait for its end. -/
def modeLater (s : State) : State :=
  let l := s.rst.later.filter (fun c => autoLegal (mode s) c.to')
  let s := if s.rst.later.any (fun c => c.req && !autoLegal (mode s) c.to') then wr (wr s GLB_MODE_REQ_GO 0 0) GLB_MODE_REQ_STATUS 0 7 else s
  match laterBest l with
  | some c => causeGo { s with rst := { s.rst with later := l.filter (· != c) } } c
  | none => { s with rst := { s.rst with later := [] } }

/-- The transition in progress completes (R44). -/
def transDone (s : State) : State :=
  match s.tr with
  | none => s
  | some t =>
    let lock := (t.to' == mLOCKED || t.to' == mDEGRADED || t.to' == mQUIESCE || t.to' == mDRAIN) && t.locked
    let s := if t.to' == mSAFE then wr s GLB_MODE_SAFE_SRC 0 t.src else s
    let s := requestEnd { s with tr := none } t 0
    modeLater (modeSet s t.from' t.to' t.cause lock)

/-- MODE_TRANSITION_TIMEOUT (R49): the part keeps the mode it was leaving. -/
def execModeTransitionTimeout (s : State) : Res :=
  .next (match s.tr with
    | none => s
    | some t =>
      let s := wr (wr (wr { s with tr := none } GLB_MODE_BUSY 0 0) GLB_MODE_REQ_GO 0 0) GLB_MODE_REQ_STATUS 0 8
      modeLater (if t.to' == mQUIESCE then creditsBack s else s))

/-! ### The feed warning (R22, R37, R38, R423) -/

/-- R423: the notice on every up T-link, the message to every enabled partition's upstream port, and the vectors of OFM_WARN. -/
def warnSignals (s : State) (kind : Nat) : State :=
  let n : Notice := { kind := BitVec.ofNat 8 kind, origin := BitVec.ofNat 6 (devId s), nseq := BitVec.ofNat 16 s.fab.nseq, source := 0,
                      part := 0, sev := 0, time := BitVec.ofNat 64 (devTime s) }
  let s := noticeSend s kind 0 0 0
  let s := forEach (List.range 16) s (fun s i =>
    match upPort s i with
    | some u => if bit s PTN_CFG_EN i && linkUp s u then formed s u 7 i (msgPkt { routing := 4, code := 0x7F, vendor := 0x3E4C, word := 2 } 0 7 (bridgeRid s u) (noticeBytes n)) else s
    | none => s)
  forEach ((List.range 16).filter (fun i => bit s OFM_WARN_EN i)) s (fun s i => msixSignal s i (rd s OFM_WARN_VEC i) 0 none)

/-- FEED_WARNING (R22, R37, R423): the wire asserts. -/
def execFeedWarning (s : State) : Res :=
  .next (pdOn s (fun s =>
    if !warnWire s || bit s PWD_FEED_STATUS_WARN then s else
    let s := wr (wr (wr s PWD_FEED_STATUS_WARN 0 1) PWD_FEED_STATUS_RECOVERING 0 0) PWD_FEED_STATUS_PWRFAIL 0 1
    let s := emit s (.pin "PWRFAIL_N" 0 false)
    modeAuto (heelAbort (warnSignals s 1)) mDRAIN 3 0))

/-- FEED_RECOVERED (R38, R427): for 10 ms no feed has been below its threshold. -/
def execFeedRecovered (s : State) : Res :=
  .next (pdOn s (fun s =>
    if !bit s PWD_FEED_STATUS_RECOVERING || (List.range 2).any (fun f => feedOn s f && feedIsLow s f) then s else
    let s := wr (wr s PWD_FEED_STATUS_RECOVERING 0 0) PWD_FEED_STATUS_PWRFAIL 0 0
    let s := emit s (.pin "PWRFAIL_N" 0 true)
    modeAuto (warnSignals s 2) mQUIESCE 4 0))

end Sys2Proof.Machine
end

