-- ==== Sys2Proof/Machine/Welt.lean ====
section
/-! DEFINITION. The Welt: acknowledgement and replay, credits, exchanges, spare lanes and widths, link delay, link pairs, and sending
(11_welt_layer.md; R85, R95 to R99, R426). -/

namespace Sys2Proof.Machine

/-! ### Acknowledgement (R284 to R289) -/

/-- A NAK leaves with E (R286, R303). -/
def nakOut (s : State) (p reason : Nat) : State :=
  let s := inc s NAK_TX p
  let s := stitchOut s p 9 0 (leBytes 2 (rd s WLT_SEQ_E p) ++ [BitVec.ofNat 8 reason])
  tlUpd s p (fun t => { t with since := 0, uncovered := false })

/-- An ACK leaves with E − 1 (R287). -/
def ackOut (s : State) (p : Nat) : State :=
  let s := stitchOut s p 8 0 (leBytes 2 ((rd s WLT_SEQ_E p + 65535) % 65536))
  tlUpd s p (fun t => { t with since := 0, uncovered := false })

/-- The `n` oldest held stitches are released; a packet whose stitches are all covered is acknowledged (R315). -/
def dropHeld : Nat → List Flight → List Flight
  | _, [] => []
  | n, f :: l => if f.left ≤ n then dropHeld (n - f.left) l else { f with left := f.left - n } :: l

/-- Distance modulo 2^16. -/
def seqDist (a o : Nat) : Nat := (a % 65536 + 65536 - o % 65536) % 65536

/-- Stitches O to O + n − 1 are released. A replay under way goes on from the oldest stitch that is still held, and ends where none is. -/
def releaseHeld (s : State) (p n : Nat) : State :=
  let s := tlUpd s p (fun t => { t with flights := dropHeld n t.flights })
  let o := (rd s WLT_OLDEST_O p + n) % 65536
  let s := heldCount (wr s WLT_OLDEST_O p o) p
  match (tlAt s p).replayAt with
  | none => s
  | some (b, r) =>
    if o = rd s WLT_SEQ_N p then replayStop s p
    else if seqDist r o < seqDist (rd s WLT_SEQ_N p) o then s
    else tlUpd s p (fun t => { t with replayAt := some (b, o) })

/-- The `i`-th held stitch: its packet and its place in it. -/
def heldAt : List Flight → Nat → Option (Flight × Nat)
  | [], _ => none
  | f :: l, i => if i < f.left then some (f, f.full - f.left + i) else heldAt l (i - f.left)

/-- The number of a fabric header (Table 12-1). -/
def hdrNat (h : FabHdr) : Nat :=
  h.dstDev.toNat + h.dstPort.toNat * 2 ^ 6 + h.part.toNat * 2 ^ 12 + h.tc.toNat * 2 ^ 16 + h.hash.toNat * 2 ^ 19 + h.gseq.toNat * 2 ^ 27
    + h.srcDev.toNat * 2 ^ 41 + h.ttl.toNat * 2 ^ 47 + h.gseqV.toNat * 2 ^ 51 + h.placed.toNat * 2 ^ 52 + h.notice.toNat * 2 ^ 53

/-- The bytes of a packet on a T-link: the fabric header, then the carried transaction (Table 10-3). -/
def packetBytes (pk : Packet) : Bytes := leBytes 8 ((pk.fab.map hdrNat).getD 0) ++ Config.tlpBytes pk

/-- The type of stitch `k` of `n`; a packet of one stitch that ends bad is one DATA_END_BAD (Table 10-3; DEDUCED for one stitch). -/
def dataType (k n : Nat) (bad : Bool) : Nat := if n ≤ k + 1 then (if bad then 5 else if n ≤ 1 then 1 else 4) else if k = 0 then 2 else 3

/-- Stitch `k` of a packet as it has number `seq` (R266, R289). -/
def dataBytes (f : Flight) (k seq : Nat) : Bytes :=
  stitchBytes (stitchHdr (dataType k f.full f.bad) f.q.cls (f.crs.getD k 0)) (((packetBytes f.q.pk).drop (112 * k)).take 112) seq

/-- Stitch `k` of a packet leaves port `p` with number `seq`. -/
def dataOut (s : State) (p : Nat) (f : Flight) (k seq : Nat) : State :=
  slotOut (emit s (.stitch p (dataType k f.full f.bad) 0 (dataBytes f k seq))) p (dataBytes f k seq)

/-- The stitches of a packet from its `k`-th on leave as new ones: each takes the next number and what credit is to be returned (R268, R293). -/
def dataNew (s : State) (p : Nat) (f : Flight) (k : Nat) : State × Flight :=
  (List.range' k (f.full - k)).foldl (fun (x : State × Flight) i =>
    let c := takeCredit x.1 p
    let f := { x.2 with crs := x.2.crs.set i c.2 }
    let n := rd c.1 WLT_SEQ_N p
    (dataOut (wr c.1 WLT_SEQ_N p ((n + 1) % 65536)) p f i n, f)) (s, f)

/-- A replay begins at number `n`; its stitches leave one by one before any new one (R289). -/
def replay (s : State) (p n : Nat) : State :=
  tlUpd (wr (inc s REPLAYS p) WLT_STATUS_REPLAYING p 1) p (fun t => { t with replayAt := some (n, n) })

/-- R289: a stitch slot of a replay: the held stitch whose turn it is leaves with its number and every byte it had. -/
def replaySlot (s : State) (p : Nat) : State :=
  match (tlAt s p).replayAt with
  | none => s
  | some (b, r) =>
    let s := match heldAt (tlAt s p).flights (seqDist r (rd s WLT_OLDEST_O p)) with
      | some (f, k) => dataOut s p f k r
      | none => s
    let r := (r + 1) % 65536
    if r = rd s WLT_SEQ_N p then replayStop s p else tlUpd s p (fun t => { t with replayAt := some (b, r) })

/-- R288: ACK_SEQ = a. -/
def ackTake (s : State) (p a : Nat) : State :=
  let o := rd s WLT_OLDEST_O p
  let d := seqDist a o
  if d < seqDist (rd s WLT_SEQ_N p) o then tlUpd (releaseHeld s p (d + 1)) p (fun t => { t with tries := 0 })
  else if d = 65535 then s
  else inc s ACK_OOW p

/-- R288, R289: NAK_SEQ = n; one for the number from which a replay under way began starts none anew. -/
def nakTake (s : State) (p n : Nat) : State :=
  let o := rd s WLT_OLDEST_O p
  let d := seqDist n o
  let s := inc s NAK_RX p
  if d ≤ seqDist (rd s WLT_SEQ_N p) o then
    let same := (tlAt s p).replayAt.any (fun e => e.1 == n % 65536)
    let s := releaseHeld s p d
    if n % 65536 = rd s WLT_SEQ_N p || (same && (tlAt s p).replayAt.isSome) then s else replay s p (n % 65536)
  else inc s ACK_OOW p

/-- ACK_RECEIVE (R288, R315). -/
def execAckReceive (p : Fin 64) (seq : BitVec 16) (s : State) : Res := .next (onStitch p s (fun s => ackTake s p seq.toNat))

/-- NAK_RECEIVE (R288, R289). -/
def execNakReceive (p : Fin 64) (seq : BitVec 16) (_reason : BitVec 2) (s : State) : Res :=
  .next (onStitch p s (fun s => nakTake s p seq.toNat))

/-- ACK_TIMER (R287): 100 ns after a stitch that no ACK covers. -/
def execAckTimer (p : Fin 64) (s : State) : Res :=
  .next (if striped s p && (tlAt s p).uncovered then ackOut s p else s)

/-- NAK_TIMER_EXPIRY (Table 11-2). -/
def execNakTimerExpiry (p : Fin 64) (s : State) : Res :=
  .next (if striped s p && bit s WLT_STATUS_RECOVER p then nakOut s p (tlAt s p).nakWhy else s)

/-- REPLAY_TIMER_EXPIRY (R289, R309). -/
def execReplayTimerExpiry (p : Fin 64) (s : State) : Res :=
  .next (if !striped s p || (tlAt s p).flights.isEmpty || (tlAt s p).resume || (tlAt s p).replayAt.isSome then s
    else if rd s WLT_CTL_REPLAY_MAX p ≤ (tlAt s p).tries then linkDown s p 3 (bit s PRT_STATUS_PARTNER p) true
    else replay (tlUpd s p (fun t => { t with tries := t.tries + 1 })) p (rd s WLT_OLDEST_O p))

/-! ### Credits (R290 to R297) -/

/-- R294: returned credits of an accepted stitch. -/
def creditTake (s : State) (p v n : Nat) : State :=
  let a := rd s WLT_VL_STAT_AVAIL (p * 8 + v)
  let s := resCheck s (resAdd (residue a) (residue n)) (a + n) 0x490 p
  let s := wr s WLT_VL_STAT_AVAIL (p * 8 + v) (min 4095 (a + n))
  tlUpd s p (fun t => { t with recvd := nset 0 t.recvd v ((nget t.recvd v 0 + n) % 2 ^ 32) })

/-- The counts of a CREDIT stitch, VL0 first. -/
def creditsTake (s : State) (p : Nat) (counts : List Nat) : State :=
  forEach ((counts.take 8).zipIdx) s (fun s e => creditTake s p e.2 e.1)

/-- CREDIT_RECEIVE (R294). -/
def execCreditReceive (p : Fin 64) (counts : List (BitVec 16)) (s : State) : Res :=
  .next (onStitch p s (fun s => creditsTake s p (counts.map (·.toNat))))

/-- CREDIT_TIMER (R293): a CREDIT stitch returns what has waited. -/
def execCreditTimer (p : Fin 64) (s : State) : Res :=
  .next (
    let n := fun v => min 65535 (nget s.shk.freed (p.val * 8 + v) 0)
    if !striped s p || (List.range 8).all (fun v => n v == 0) then s else
    let body := (List.range 8).flatMap (fun v => leBytes 2 (n v))
    let s' := forEach (List.range 8) s (fun s v =>
      tlUpd { s with shk := { s.shk with freed := nset 0 s.shk.freed (p.val * 8 + v) (nget s.shk.freed (p.val * 8 + v) 0 - n v) } } p
        (fun t => { t with cum := nset 0 t.cum v ((nget t.cum v 0 + n v) % 2 ^ 32) }))
    stitchOut s' p 7 0 body)

/-- R296: LEAKED from the partner's counts; R297: below the floor a credit retrain is scheduled. -/
def auditLeak (s : State) (p : Nat) (cum : List Nat) : State :=
  let t := tlAt s p
  let leaked := fun v => (cum.getD v 0 + 2 ^ 32 - nget t.recvd v 0) % 2 ^ 32
  let s := forEach (List.range 8) s (fun s v => wr s WLT_VL_STAT_LEAKED (p * 8 + v) (min 4095 (leaked v)))
  let low := (List.range 8).any (fun v =>
    let i := rd s WLT_VL_STAT2_GRANTED (p * 8 + v)
    i != 0 && (i - leaked v) * 16 < i * rd s WLT_CTL2_FLOOR p)
  if low && !bit s WLT_STATUS_LEAK_LOW p then raise (inc (wr s WLT_STATUS_LEAK_LOW p 1) RETRAIN_LEAK p) 0x486 p else s

/-! ### Link pairs (R313 to R318, R321) -/

/-- The enabled pair that port `p` is a member of, with its mate. -/
def pairOf (s : State) (p : Nat) : Option (Nat × Nat) :=
  (List.range 32).findSome? (fun k =>
    if !bit s WLT_PAIR_CTL_EN k then none
    else if rd s WLT_PAIR_CTL_PORT_A k == p then some (k, rd s WLT_PAIR_CTL_PORT_B k)
    else if rd s WLT_PAIR_CTL_PORT_B k == p then some (k, rd s WLT_PAIR_CTL_PORT_A k)
    else none)

/-- The group state of pair `k`, and a change of it. -/
def pairAt (s : State) (k : Nat) : PairSt := nget s.prt.pairs k {}
def pairSet (s : State) (k : Nat) (x : PairSt) : State := prtUpd s (fun y => { y with pairs := nset {} y.pairs k x })

/-- R313, Table 11-6: verification on member `p` by its partner's AUDIT. -/
def pairVerify (s : State) (p mate : Nat) (paired : Bool) : State :=
  match pairOf s p with
  | none => s
  | some (k, m) =>
    let dev := rd s TL_PARTNER_DEV_ID p
    let ok := dev == rd s TL_PARTNER_DEV_ID m && bit s TL_PARTNER_VALID m && paired && mate == rd s TL_PARTNER_PORT m
    let st := rd s WLT_PAIR_STATUS_STATE k
    let x := pairAt s k
    if ok && (st == 1 || (st == 3 && x.again)) then
      let x := if x.dev == some dev then x else { dev := some dev }
      wr (wr (pairSet s k { x with again := false }) WLT_PAIR_STATUS_STATE k 2) WLT_PAIR_STATUS_DEV_ID k dev
    else if !ok && (st == 1 || st == 2) then
      raise (wr (pairSet s k { x with again := false }) WLT_PAIR_STATUS_STATE k 3) 0x48B k
    else s

/-- R321: a pair is declared unless its ports are one, are no T-links, or belong to another pair. -/
def pairEnableAt (s : State) (k : Nat) : State :=
  let a := rd s WLT_PAIR_CTL_PORT_A k
  let b := rd s WLT_PAIR_CTL_PORT_B k
  if bit s WLT_PAIR_CTL_EN k || a == b || !isTlink s a || !isTlink s b || (pairOf s a).isSome || (pairOf s b).isSome then s else
  pairUps (wr (wr s WLT_PAIR_CTL_EN k 1) WLT_PAIR_STATUS_STATE k 1) a

/-- PAIR_ENABLE (R321). -/
def execPairEnable (m : Master) (k : Fin 32) (s : State) : Res :=
  .next (asMaster s m (WLT_PAIR_CTL_EN.off + 0x20 * k.val) (fun s => pairEnableAt s k))

/-- Table 11-6: EN = 0: OFF, group state 0. -/
def pairDisableAt (s : State) (k : Nat) : State :=
  let s := wr (wr (wr s WLT_PAIR_CTL_EN k 0) WLT_PAIR_STATUS_STATE k 0) WLT_PAIR_STATUS_DEV_ID k 0
  wr (wr (pairSet s k {}) WLT_PAIR_STATUS_UP_A k 0) WLT_PAIR_STATUS_UP_B k 0

/-- PAIR_DISABLE (R313). -/
def execPairDisable (m : Master) (k : Fin 32) (s : State) : Res :=
  .next (asMaster s m (WLT_PAIR_CTL_EN.off + 0x20 * k.val) (fun s => pairDisableAt s k))

/-- PAIR_FLOW_RETURN (R318): the packets of class `c` queued on the other member at the return are acknowledged. -/
def execPairFlowReturn (k : Fin 32) (c : Fin 8) (s : State) : Res :=
  .next (
    let a := rd s WLT_PAIR_CTL_PORT_A k
    let b := rd s WLT_PAIR_CTL_PORT_B k
    prtUpd s (fun x => { x with stay := x.stay.filter (fun e => e != a * 8 + c.val && e != b * 8 + c.val) }))

/-- AUDIT_TIMER (R296, R313). -/
def execAuditTimer (p : Fin 64) (s : State) : Res :=
  .next (if !striped s p then s else
    let cum := (List.range 8).flatMap (fun v => leBytes 4 (nget (tlAt s p).cum v 0))
    let mate := match pairOf s p with
      | some (_, m) => rd s TL_PARTNER_PORT m % 64 + 64
      | none => 0
    ctlOut s p 0x32 0 (cum ++ [BitVec.ofNat 8 mate]))

/-- An AUDIT is accepted. -/
def auditTake (s : State) (p : Nat) (cum : List Nat) (mate : Nat) (paired : Bool) : State :=
  pairVerify (auditLeak s p cum) p mate paired

/-- AUDIT_RECEIVE (R296, R297, R313). -/
def execAuditReceive (p : Fin 64) (cum : List (BitVec 32)) (mate : BitVec 6) (paired : Bool) (s : State) : Res :=
  .next (onStitch p s (fun s => auditTake s p (cum.map (·.toNat)) mate.toNat paired))

/-- CREDIT_RETRAIN_START (R297): not in QUIESCE or DRAIN; new packets go to the pair's other member if it is up; then the fast retrain is
asked for. -/
def execCreditRetrainStart (p : Fin 64) (s : State) : Res :=
  .next (if !striped s p || !bit s WLT_STATUS_LEAK_LOW p || mode s == mQUIESCE || mode s == mDRAIN || (tlAt s p).req.isSome then s else
    let s := if (mateUp s p).isSome then
        prtUpd s (fun x => { x with stay := (List.range 8).map (p.val * 8 + ·) ++ x.stay.filter (fun e => e / 8 != p.val) })
      else s
    request s p 0x10 0)

/-! ### Exchanges (R299, R300) -/

/-- A lane that lost lock has no spare any more: T_LL runs (R308). -/
def tllStart (s : State) (p : Nat) : State := tlUpd s p (fun t => { t with tll := !t.lost.isEmpty })

/-- CONTROL_REQUEST_REPEAT (R299): four sends without an answer fail the request; T_LL starts if a lane waited for the spare (R308). -/
def execControlRequestRepeat (p : Fin 64) (s : State) : Res :=
  .next (if !striped s p then s else
    match (tlAt s p).req with
    | none => s
    | some (sub, arg, n) =>
      if n < 4 then tlUpd (requestOut s p sub arg) p (fun t => { t with req := some (sub, arg, n + 1) })
      else
        let s := reqDone (inc s CTL_FAIL p) p
        if sub == 0x15 then tllStart s p
        else if sub == 0x10 then wr s WLT_STATUS_LEAK_LOW p 0
        else if sub == 0x20 && rd s PRT_STATUS_STATE p == 4 then portState s p 3
        else s)

/-- R300: RETRAIN_REQ is acknowledged and followed. -/
def retrainReq (s : State) (p : Nat) (full : Bool) : State :=
  if !yields s p 0x10 then s else retrainGo (ctlOut s p 0x11 (if full then 1 else 0) []) p full

/-- RETRAIN_REQ_RECEIVE (R300). -/
def execRetrainReqReceive (p : Fin 64) (full : Bool) (s : State) : Res := .next (onStitch p s (fun s => retrainReq s p full))

/-- The retrain that this end asked for begins (R299). -/
def retrainAck (s : State) (p : Nat) (full : Bool) : State :=
  match (tlAt s p).req with
  | some (0x10, _, _) => retrainGo (reqDone s p) p full
  | _ => s

/-- RETRAIN_ACK_RECEIVE (R299). -/
def execRetrainAckReceive (p : Fin 64) (full : Bool) (s : State) : Res := .next (onStitch p s (fun s => retrainAck s p full))

/-! ### Spare and width (R301 to R308) -/

/-- The spare of port `p` is available (R301): none of the stitches of its sideband has failed its checks within 1 ms. -/
def spareFree (s : State) (p : Nat) : Bool :=
  rd s WLT_STATUS_SPARE p == 1 && bit s WLT_CTL_SPARE_EN p && (tlAt s p).sbBad.all (fun t => t + 1000000 ≤ s.now)

/-- The spare carries logical lane `l` from now on; the lane it replaces is idle (R303, R305). -/
def spareSwap (s : State) (p l : Nat) : State :=
  if rd s WLT_STATUS_SPARE p == 2 then s else
  let s := wr (wr (wr s WLT_STATUS_SPARE p 2) WLT_STATUS_SPARE_FOR p l) WLT_STATUS_OUT_LANES p
    (Nat.lor (rd s WLT_STATUS_OUT_LANES p) (2 ^ l))
  let s := tlUpd s p (fun t => { t with lost := t.lost.filter (· != l), tll := t.tll && !(t.lost.filter (· != l)).isEmpty })
  raise (inc s SPARE_SWAPS p) 0x488 p

/-- SPARE_REQ on the sideband (R303, R304): accepted where the spare is available and R300 lets it; a request for the lane this end asks for is
its acknowledgement. -/
def spareReq (s : State) (p l : Nat) : State :=
  let same := match (tlAt s p).req with | some (0x15, a, _) => a == l | _ => false
  if !spareFree s p || !(same || yields s p 0x15) then s else
  let s := sideOut (if same then s else sideOut (reqDone s p) p 0x16 l) p 0x17 l
  let s := if same then tlUpd (reqDone s p) p (fun t => { t with spareGo := true }) else s
  spareSwap s p l

/-- A stitch of the sideband that a command names by what it says passes its checks on a striped port (R302). -/
def onSide (p : Nat) (s : State) (f : State → State) : State :=
  if striped s p && !inBlockReset s 9 then f (sideIn s p) else s

/-- SPARE_REQ_RECEIVE (R303, R304). -/
def execSpareReqReceive (p : Fin 64) (l : BitVec 3) (s : State) : Res := .next (onSide p s (fun s => spareReq s p l.toNat))

/-- SPARE_ACK (R303): this end switches its own transmission after its SPARE_GO. -/
def spareAck (s : State) (p l : Nat) : State :=
  match (tlAt s p).req with
  | some (0x15, a, _) =>
    if a != l then s else
    let s := tlUpd (reqDone (sideOut s p 0x17 l) p) p (fun t => { t with spareGo := true })
    spareSwap s p l
  | _ => s

/-- SPARE_ACK_RECEIVE (R303). -/
def execSpareAckReceive (p : Fin 64) (l : BitVec 3) (s : State) : Res := .next (onSide p s (fun s => spareAck s p l.toNat))

/-- SPARE_GO (R303): the receiver takes lane `l` from the spare; the end that began the exchange asks for what was lost. -/
def spareGo (s : State) (p l : Nat) : State :=
  if rd s WLT_STATUS_SPARE p != 2 || rd s WLT_STATUS_SPARE_FOR p != l then s else
  let s := tlUpd s p (fun t => { t with rxLanes := (match spareLane s p with | some n => t.rxLanes.set l n | none => t.rxLanes), sbRx := [] })
  if (tlAt s p).spareGo then nakOut (tlUpd s p (fun t => { t with spareGo := false })) p 2 else s

/-- SPARE_GO_RECEIVE (R303, R305). -/
def execSpareGoReceive (p : Fin 64) (l : BitVec 3) (s : State) : Res := .next (onSide p s (fun s => spareGo s p l.toNat))

/-- R307: the logical lanes that stay when lane `l` is left out for width code `w`. -/
def keptLanes (w l : Nat) : List Nat := if w = 1 then (if l < 2 then [2, 3] else [0, 1]) else [if l = 0 then 1 else 0]

/-- R307: the port narrows to width code `w` without lane `l`: the lanes that stay are numbered from 0, the others go out of service. -/
def narrow (s : State) (p l w : Nat) : State :=
  if rd s PRT_STATUS_CUR_WIDTH p ≤ w then s else
  let kept := keptLanes w l
  let s := tlUpd s p (fun t =>
    let lost := t.lost.filterMap (fun g => if g = 4 then some g else kept.idxOf? g)
    { t with lost := lost, corr := [], tll := t.tll && !lost.isEmpty })
  let s := wr (renumber s p kept) PRT_STATUS_CUR_WIDTH p w
  let s := raise (inc (inc s WIDTH_CHG p) WIDTH_FALL p) 0x48A p
  degradedLink s p (if bit s PRT_STATUS_STEP_DONE p then (tlAt s p).target else 0)

/-- ARG of the WIDTH subtypes (Table 11-4). -/
def widthArg (l w : Nat) : Nat := l % 8 + w % 4 * 8

/-- WIDTH_REQ (R307): acknowledged, and WIDTH_GO is the last stitch at the old width. -/
def widthReq (s : State) (p l w : Nat) : State :=
  if !yields s p 0x12 || 1 < w then s else
  let s := ctlOut (ctlOut (reqDone s p) p 0x13 (widthArg l w) []) p 0x14 (widthArg l w) []
  narrow s p l w

/-- WIDTH_REQ_RECEIVE (R307). -/
def execWidthReqReceive (p : Fin 64) (l : BitVec 3) (w : BitVec 2) (s : State) : Res :=
  .next (onStitch p s (fun s => widthReq s p l.toNat w.toNat))

/-- WIDTH_ACK (R307). -/
def widthAck (s : State) (p l w : Nat) : State :=
  match (tlAt s p).req with
  | some (0x12, a, _) => if a != widthArg l w then s else narrow (reqDone (ctlOut s p 0x14 a []) p) p l w
  | _ => s

/-- WIDTH_ACK_RECEIVE (R307). -/
def execWidthAckReceive (p : Fin 64) (l : BitVec 3) (w : BitVec 2) (s : State) : Res :=
  .next (onStitch p s (fun s => widthAck s p l.toNat w.toNat))

/-- WIDTH_GO (R307): the receiver switches after it to the lanes that stay without lane `l`. -/
def widthGo (s : State) (p l w : Nat) : State :=
  if widthOf (tlAt s p).rxw ≤ widthOf w then s else
  tlUpd s p (fun t => { t with rxw := w, rxLanes := (keptLanes w l).filterMap (fun g => t.rxLanes[g]?) })

/-- WIDTH_GO_RECEIVE (R307). -/
def execWidthGoReceive (p : Fin 64) (l : BitVec 3) (w : BitVec 2) (s : State) : Res :=
  .next (onStitch p s (fun s => widthGo s p l.toNat w.toNat))

/-- CORR_WINDOW_EXPIRY (R301, R303, R307): a data lane with more than CORR_MAX corrected bytes is failing: the spare takes its place, or the port
narrows. -/
def execCorrWindowExpiry (p : Fin 64) (s : State) : Res :=
  .next (if !striped s p then s else
    let t := tlAt s p
    let w := rd s PRT_STATUS_CUR_WIDTH p
    let bad := (List.range (widthOf w)).find? (fun l => rd s WLT_CTL2_CORR_MAX p < nget t.corr l 0)
    let s := tlSet s p { t with corr := [] }
    match bad with
    | none => s
    | some l =>
      if t.req.isSome then s
      else if spareFree s p then request s p 0x15 l
      else if bit s WLT_CTL_WIDTH_EN p && 0 < w && w ≤ 2 then request s p 0x12 (widthArg l (w - 1))
      else s)

/-- LANE_LOCK_LOSS (R281, R301, R308; R280 in PAUSE and EQ): a data lane in use without lock gets the spare, or T_LL starts. -/
def execLaneLockLoss (p : Fin 64) (l : Fin 5) (s : State) : Res :=
  .next (match (if isTlink s p then laneAt s p l else none) with
    | none => s
    | some n =>
      let s := wr (inc s LAN_LOCK_LOSS n) LAN_STATUS_LOCK n 0
      if tstate s p == tCONFIG || tstate s p == tLOCK then laneRestart s p l
      else if !striped s p then s
      else
        let st := rd s WLT_STATUS_SPARE p
        if l.val = 4 && st == 1 then raise (wr s WLT_STATUS_SPARE p 3) 0x489 p
        else if (l.val = 4 && st != 2) || (rd s WLT_STATUS_OUT_LANES p).testBit l then s
        else
          let s := tlUpd s p (fun t => { t with lost := l.val :: t.lost.filter (· != l.val) })
          if l.val != 4 && spareFree s p then
            (if ((tlAt s p).req.any (fun r => r.1 == 0x15)) then s else request s p 0x15 l)
          else tllStart s p)

/-- LANE_LOCK_REGAIN (R281, R308). -/
def execLaneLockRegain (p : Fin 64) (l : Fin 5) (s : State) : Res :=
  .next (match (if isTlink s p then laneAt s p l else none) with
    | none => s
    | some n =>
      tlUpd (wr s LAN_STATUS_LOCK n 1) p (fun t =>
        let r := t.lost.filter (· != l.val)
        { t with lost := r, tll := t.tll && !r.isEmpty }))

/-! ### Link delay (R298) -/

/-- DELAY_MEASURE_TIMER (R298). -/
def execDelayMeasureTimer (p : Fin 64) (s : State) : Res := .next (if striped s p then delayStart s p else s)

/-- A DELAY_REQ is answered with the times of receipt and sending, which fall in one step. -/
def delayReq (s : State) (p id : Nat) : State :=
  let t := devTime s * 1000 % 2 ^ 64
  ctlOut s p 0x31 id (leBytes 8 t ++ leBytes 8 t)

/-- DELAY_REQ_RECEIVE (R298). -/
def execDelayReqReceive (p : Fin 64) (id : BitVec 8) (_t1 : BitVec 64) (s : State) : Res :=
  .next (onStitch p s (fun s => delayReq s p id.toNat))

/-- R298: LINK_DELAY = ((T4 − T1) − (T3 − T2)) / 2, at which a follower corrects its device time (R67). -/
def delayResp (s : State) (p id t2 t3 : Nat) : State :=
  match (tlAt s p).delay with
  | some (i, t1) =>
    if i != id then s else
    let t4 := devTime s * 1000 % 2 ^ 64
    let sub := fun a b : Nat => (a % 2 ^ 64 + 2 ^ 64 - b % 2 ^ 64) % 2 ^ 64
    let d := sub (sub t4 t1) (sub t3 t2) / 2
    delayRefresh (wr (tlUpd s p (fun t => { t with delay := none })) WLT_LINK_DELAY p d) p
  | none => s

/-- DELAY_RESP_RECEIVE (R298). -/
def execDelayRespReceive (p : Fin 64) (id : BitVec 8) (t2 t3 : BitVec 64) (s : State) : Res :=
  .next (onStitch p s (fun s => delayResp s p id.toNat t2.toNat t3.toNat))

/-- DELAY_RESP_TIMEOUT (R298). -/
def execDelayRespTimeout (p : Fin 64) (s : State) : Res :=
  .next (if (tlAt s p).delay.isSome then inc (tlUpd s p (fun t => { t with delay := none })) DELAY_MISS p else s)

/-! ### RESUME (R310 to R312) -/

/-- The stitches held that belong to virtual lane `v`. -/
def heldOf (l : List Flight) (v : Nat) : Nat := l.foldl (fun n f => if f.q.cls == v then n + f.left else n) 0

/-- R311: the stitches of the held packets that the partner does not have leave as new ones. -/
def resend (s : State) (p : Nat) (fl : List Flight) : State :=
  let r := fl.foldl (fun (x : State × List Flight) f =>
    let y := dataNew x.1 p f (f.full - f.left)
    (y.1, x.2 ++ [y.2])) (s, [])
  tlUpd r.1 p (fun t => { t with flights := r.2 })

/-- R311, R312: the partner's RESUME: stitches it has are released, the rest is numbered from 0 and sent again before anything new, from the
first stitch of its packet unless the partner kept the packet's start; credits are what the partner has free. -/
def resumeTake (s : State) (p : Nat) (noReplay seen kept : Bool) (next : Nat) (free : List Nat) : State :=
  let t := tlAt s p
  let s := if t.resumeGot then s else
    let t := if noReplay then { t with part := none } else t
    let d := seqDist next t.oDown
    let total := t.flights.foldl (fun n f => n + f.left) 0
    let fl := dropHeld (if d ≤ total then d else 0) t.flights
    let fl := match fl with
      | f :: l => if kept then f :: l else { f with left := f.full } :: l
      | [] => []
    let s := tlSet s p { t with flights := fl, resumeGot := true, cum := [], recvd := [], tries := 0 }
    let s := heldCount (wr (wr s WLT_SEQ_N p 0) WLT_OLDEST_O p 0) p
    let s := forEach (List.range 8) s (fun s v =>
      wr (wr s WLT_VL_STAT_AVAIL (p * 8 + v) (free.getD v 0 - heldOf fl v)) WLT_VL_STAT_LEAKED (p * 8 + v) 0)
    resend (resumeOut s p) p fl
  if seen then tlUpd s p (fun t => { t with resume := false }) else s

/-- RESUME_RECEIVE (R311, R312). -/
def execResumeReceive (p : Fin 64) (noReplay seen kept : Bool) (nextExp : BitVec 16) (free : List (BitVec 16)) (s : State) : Res :=
  .next (onStitch p s (fun s => if (tlAt s p).same then resumeTake s p noReplay seen kept nextExp.toNat (free.map (·.toNat)) else s))

/-- RESUME_REPEAT_TIMER (R311). -/
def execResumeRepeatTimer (p : Fin 64) (s : State) : Res :=
  .next (if striped s p && (tlAt s p).resume then resumeOut s p else s)

/-! ### Fillers (R274, R275) -/

/-- FILLER_DUE (R274). -/
def execFillerDue (p : Fin 64) (s : State) : Res := .next (if striped s p then stitchOut s p 0 0 [] else s)

/-- The retiming buffer would overflow: the arriving stitch is lost (R275). -/
def ebOverflow (s : State) (p : Nat) : State := raise (inc s EB_FAULT p) 0x480 p

/-- FILLER_RECEIVE (R275). -/
def execFillerReceive (p : Fin 64) (aboveHalf overflow : Bool) (s : State) : Res :=
  .next (if !striped s p || inBlockReset s 9 then s
    else if overflow then ebOverflow (slotsIn s p 1) p
    else if aboveHalf then inc (slotIn s p) FILLER_DEL p else slotIn s p)

/-! ### Sending (R85, R117, R284, R292, R314) -/

/-- R314, R315: every packet of the pair and class that has a group sequence and is not acknowledged at group level,
sent or still stored for either port (after a failover, or to be sent again), lies less than 4,096 behind number `g`. -/
def groupRoom (s : State) (k c g : Nat) : Bool :=
  [rd s WLT_PAIR_CTL_PORT_A k, rd s WLT_PAIR_CTL_PORT_B k].all (fun p =>
    ((tlAt s p).flights.map Flight.q ++ (nget s.shk.staging p [] ++ nget s.shk.wait p []).map Staged.q
      ++ (s.shk.voq.filter (fun e => e.1 / 8 % 72 == p)).flatMap Prod.snd).all
      (fun q => q.cls != c || q.gseq.all (fun h => (g + 16384 - h) % 16384 < 4096)))

/-- R314: the packet as it leaves port `p`, with its group sequence, and the group counters; none while no number may be given. -/
def grouped (s : State) (p : Nat) (q : QPkt) : Option (State × QPkt) :=
  match activePair s p with
  | none => some (s, { q with pk := { q.pk with fab := q.pk.fab.map (fun h => { h with gseq := 0, gseqV := false }) } })
  | some (k, _) =>
    let put := fun (s : State) (g : Nat) => (s, { q with gseq := some g, pk := { q.pk with fab := q.pk.fab.map (fun h =>
      { h with gseq := BitVec.ofNat 14 g, gseqV := true }) } })
    match q.gseq with
    | some g => some (put s g)
    | none =>
      let x := pairAt s k
      let g := nget x.tx q.cls 0
      if groupRoom s k q.cls g then some (put (pairSet s k { x with tx := nset 0 x.tx q.cls ((g + 1) % 16384) }) g) else none

/-- Stitches held at port `p`. -/
def heldNow (s : State) (p : Nat) : Nat := (tlAt s p).flights.foldl (fun n f => n + f.left) 0

/-- The credits of class `c` do not cover `n` stitches (R292). -/
def creditShort (s : State) (p c n : Nat) : Bool := rd s WLT_VL_STAT_AVAIL (p * 8 + c) < n

/-- A T-link may start a packet of `n` stitches of class `c` (R284, R289, R292, R311, R323; Table 2-1: in SETUP no data). -/
def tlinkTakes (s : State) (p c n : Nat) : Bool :=
  striped s p && mode s != mSETUP && !inBlockReset s 9 && !bit s FAB_NBR_CLASH p && (!(tlAt s p).same || (tlAt s p).resumeGot)
    && (tlAt s p).replayAt.isNone && heldNow s p + n ≤ 1024 && !creditShort s p c n

/-- The stitches of a packet leave T-link `p` and are held until acknowledged (R284, R292). -/
def tlinkSend (s : State) (p : Nat) (q : QPkt) (own bad : Bool) : State :=
  let n := stitchesOf q.pk
  let a := rd s WLT_VL_STAT_AVAIL (p * 8 + q.cls)
  let s := raiseIf (n ≤ a && resSub (residue a) (residue n) != residue (a - n)) s 0x490 p
  let s := wr s WLT_VL_STAT_AVAIL (p * 8 + q.cls) (a - n)
  let r := dataNew s p ⟨q, own, n, n, bad, List.replicate n 0⟩ 0
  emit (heldCount (tlUpd r.1 p (fun t => { t with flights := t.flights ++ [r.2] })) p) (.sent p q.pk bad)

/-- The staged packet that port `o` sends next: the first that is ready, if it may pass those before it. A packet passes only such as wait for
flow-control credit: of another class where its own class is open (R117), and on a PCIe port a Non-Posted request where it is none (R85). -/
def nextStaged (s : State) (o : Nat) (ready short : Staged → Bool) : List Staged → List Staged → Option Staged
  | _, [] => none
  | before, x :: l =>
    let passes := before.all (fun e => short e && ((e.q.cls != x.q.cls && classOpen s o x.q.cls)
      || (!isTlink s o && e.q.pk.kind = .nonPosted && x.q.pk.kind != .nonPosted)))
    if ready x && passes then some x else nextStaged s o ready short (before ++ [x]) l

/-- EGRESS_TRANSMIT (R85, R251, R284, R292, R314, R426). While a replay runs it is a stitch slot of that (R289). -/
def execEgressTransmit (p : Fin 64) (crP crNP crC : Bool) (s : State) : Res :=
  .next (if !linkUp s p then s
    else if striped s p && (tlAt s p).replayAt.isSome then replaySlot s p
    else
    let credit := fun (x : Staged) => match x.q.pk.kind with | .posted => crP | .nonPosted => crNP | .completion => crC
    let ready := fun (x : Staged) =>
      if isTlink s p then tlinkTakes s p x.q.cls (stitchesOf x.q.pk) && (grouped s p x.q).isSome else credit x
    let short := fun (x : Staged) => if isTlink s p then creditShort s p x.q.cls (stitchesOf x.q.pk) else !credit x
    match nextStaged s p ready short [] (nget s.shk.staging p []) with
    | none => s
    | some x =>
      let s := unstage s p x.q.seq
      let s := if x.own then s else inc s (if x.ct then CT_PKTS else SF_PKTS) p
      let s := if x.q.pk.kind = .posted then awtClosePosted s x.q.seq else s
      let s := if isTlink s p then
          match grouped s p x.q with
          | some (s, q) => tlinkSend s p q x.own false
          | none => s
        else emit s (.sent p x.q.pk false)
      durDone s)

/-! ### Cut-through that goes wrong (R95 to R99) -/

/-- The packet in cut-through at `o` ends bad at its egress: DATA_END_BAD on a T-link, whose stitches are held like any others, a nullified TLP on
a PCIe port. One that the T-link could not have started, or whose link is down, has sent nothing (R96, R284, R292). -/
def endBad (s : State) (o : Nat) (st : Staged) : State :=
  if o < 64 && !linkUp s o then s
  else if !isTlink s o then emit s (.sent o st.q.pk true)
  else if tlinkTakes s o st.q.cls (stitchesOf st.q.pk) then tlinkSend s o st.q st.own true else s

/-- CT_CHECK_FAIL (R95, R97). -/
def execCtCheckFail (o : Fin 64) (s : State) : Res :=
  .next (match ctAt s o with
    | none => s
    | some st => badAfterHead (unstage (inc (endBad s o st) CT_BAD o) o st.q.seq) o st.q)

/-- The packet in cut-through at `o` is ended bad and stays staged whole, to be sent again (R98, R99); the group sequence it was given stays
its own (R314). -/
def ctAgain (s : State) (o : Nat) (st : Staged) : State :=
  let (s, q) := if isTlink s o then (grouped s o st.q).getD (s, st.q) else (s, st.q)
  let s := endBad s o { st with q := q }
  let l := (nget s.shk.staging o []).map (fun x => if x.q.seq = st.q.seq then { x with q := q, ct := false } else x)
  raise (inc { s with shk := { s.shk with staging := nset [] s.shk.staging o l } } CT_UNDERRUN o) 0x18C o

/-- CT_UNDERRUN (R98): at a PCIe egress the TLP is nullified and sent again; at a T-link egress HOLD stitches fill in (R99). -/
def execCtUnderrun (o : Fin 64) (s : State) : Res :=
  .next (match ctAt s o with
    | none => s
    | some st => if isTlink s o then stitchOut s o 6 0 [] else ctAgain s o st)

/-- CT_HOLD_MAX_EXPIRY (R99): at a T-link egress the packet ends DATA_END_BAD and is sent again whole. -/
def execCtHoldMaxExpiry (o : Fin 64) (s : State) : Res :=
  .next (match ctAt s o with
    | none => s
    | some st => if isTlink s o then ctAgain s o st else s)

/-- R286, R287, R290: `n` sequenced stitches of virtual lane `v` are accepted; after ACK_INT of them an ACK leaves. -/
def stitchesIn (s : State) (p v n : Nat) : State :=
  let s := wr s WLT_SEQ_E p ((rd s WLT_SEQ_E p + n) % 65536)
  let s := wr s WLT_VL_STAT2_RX_OCC (p * 8 + v) (rd s WLT_VL_STAT2_RX_OCC (p * 8 + v) + n)
  let s := tlUpd s p (fun t => { t with since := t.since + n, uncovered := true })
  if rd s WLT_CTL2_ACK_INT p ≤ (tlAt s p).since then ackOut s p else s

/-- R293: the credits of `n` stitches of virtual lane `v` are freed. -/
def stitchesFree (s : State) (p v n : Nat) : State :=
  wr { s with shk := { s.shk with freed := nset 0 s.shk.freed (p * 8 + v) (nget s.shk.freed (p * 8 + v) 0 + n) } }
    WLT_VL_STAT2_RX_OCC (p * 8 + v) (rd s WLT_VL_STAT2_RX_OCC (p * 8 + v) - n)

/-- The virtual lane of a packet on a T-link: its class (R80, R290). -/
def vlOf (pk : Packet) : Nat := match pk.fab with | some h => h.tc.toNat | none => pk.tc.val

/-- DATA_END_BAD_RECEIVE (R96, R293): a packet that ends bad is discarded where it has not been started, its credits freed, and ended bad at its own
egress where it has; no group sequence is used. -/
def execDataEndBadReceive (p : Fin 64) (pk : Packet) (o : Option (Fin 64)) (s : State) : Res :=
  .next (if !striped s p || inBlockReset s 9 then s else
    let n := stitchesOf pk
    let s := stitchesFree (stitchesIn (goodStitch (slotsIn s p n) p) p (vlOf pk) n) p (vlOf pk) n
    match o with
    | none => s
    | some o =>
      match ctAt s o with
      | some st => awtClosePosted (unstage (endBad s o st) o st.q.seq) st.q.seq
      | none => s)

end Sys2Proof.Machine
end

