-- ==== Sys2Proof/Machine/Faults.lean ====
section
/-! DEFINITION. The fault collector (17_faults.md): states of the sources, records, severities and their escalation, FENCE, BLOCK and
PART reactions, shadows, injection. The release of a BLOCK reset is in Ingress.lean, since packets stalled go on with it. -/

namespace Sys2Proof.Machine

/-- The collector's own state changed by `f`. -/
def fltUpd (s : State) (f : Flt → Flt) : State := { s with flt := f s.flt }

/-! ### Records (R447, R448) -/

/-- One bit of the CRC-16, most significant bit first. -/
def crc16Bit (c : BitVec 16) : BitVec 16 := if c.getLsbD 15 then (c <<< 1) ^^^ 0x1021#16 else c <<< 1

/-- One byte of the CRC-16. -/
def crc16Byte (c : BitVec 16) (b : Byte) : BitVec 16 :=
  crc16Bit (crc16Bit (crc16Bit (crc16Bit (crc16Bit (crc16Bit (crc16Bit (crc16Bit (c ^^^ (b.setWidth 16 <<< 8)))))))))

/-- The CRC-16 of R447: initial value 0xFFFF, not reflected, no final XOR. -/
def crc16 (l : Bytes) : Nat := (l.foldl crc16Byte 0xFFFF#16).toNat

/-- The fields of a record that its occurrence fixes (Table 17-4). -/
structure FltRec where
  src : Nat
  kind : Nat
  applied : Nat := 0
  shadow : Bool := false
  prog : Nat := 0
  esc : Bool := false
  rep : Bool := false
  lim : Bool := false
  inj : Bool := false
  pt : Option Nat := none
  before : Nat
  after : Nat
  inst : Nat
deriving DecidableEq, Repr

/-- A flag as the number 0 or `v`. -/
def flag (b : Bool) (v : Nat) : Nat := if b then v else 0

/-- The 30 bytes before the CRC. -/
def fltBody (s : State) (r : FltRec) : Bytes :=
  leBytes 2 (rd s FLT_RING_SEQ) ++ leBytes 2 (r.src + r.applied * 4096 + flag r.shadow 32768)
    ++ [BitVec.ofNat 8 r.kind, BitVec.ofNat 8 (r.prog + flag r.esc 8 + flag r.rep 16 + flag r.lim 32 + flag r.inj 64),
        BitVec.ofNat 8 (match r.pt with | some n => n + 16 | none => 0), BitVec.ofNat 8 (r.before + r.after * 16)]
    ++ leBytes 8 (devTime s) ++ leBytes 4 (rd s FLT_COUNT r.src) ++ leBytes 4 r.inst ++ leBytes 6 (rd s LCE_TICK_NOW)

/-- R447, R448: the record is written at its slot of the ring; over an unread record it is counted and its source raised. -/
def fltRecord (s : State) (r : FltRec) : State :=
  let q := rd s FLT_RING_SEQ
  let b := fltBody s r
  let slot := q % 64 * 32
  let s := fltUpd s (fun x => { x with ret := cputs x.ret slot (b ++ leBytes 2 (crc16 b)),
                                       retBad := x.retBad.filter (fun w => w / 4 != q % 64) })
  let s := wr s FLT_RING_SEQ 0 ((q + 1) % 65536)
  if 64 ≤ (q + 65536 - rd s FLT_RING_RD) % 65536 then raise (inc s FLT_RING_LOST) 0x602 else s

/-! ### Sources (R431 to R435) -/

/-- The logical source behind a path source (R430). -/
def srcOf (src : Nat) : Nat := if 0x900 ≤ src then fltPathSrc (src - 0x900) else src

/-- Table 17-2, "Charged to" of blocks 5 and 7: the partition of the pool, window, entry or port that the instance `inst` of source `n` names. -/
def instOwner (s : State) (n inst : Nat) : Option Nat :=
  if n == 0x284 || n == 0x285 then some (rd s PLC_POOL_CTL_PARTITION (inst / 64))
  else if n == 0x286 || n == 0x28A then some (rd s PLC_POOL_CTL_PARTITION inst)
  else if n == 0x287 || n == 0x288 || n == 0x289 then some (rd s PLC_WIN_CTL_PARTITION inst)
  else if n == 0x384 || n == 0x385 then some (inst % 16)
  else if n == 0x386 then some (rd s PTN_RID_PARTITION inst)
  else none

/-- R432: the charged partition of an occurrence of instance `inst`, whose detector may report the owner `pt` with it. -/
def charged (s : State) (src inst : Nat) (pt : Option Nat) : Option Nat :=
  let n := srcOf src
  if n / 128 == 2 then some (portPt s (n % 64))
  else if n / 128 == 5 || n / 128 == 7 then (if pt.isSome then pt else instOwner s n inst)
  else none

/-- R433, R435: STICKY sets, with FIRST; the first since VALID was cleared goes to FLT_FIRST. -/
def fltStick (s : State) (n : Nat) : State :=
  let t := devTime s
  let s := wr (wr s FLT_SEV_STICKY n 1) FLT_TIME n t
  if bit s FLT_FIRST_VALID then s else wr (wr (wr s FLT_FIRST_SRC 0 n) FLT_FIRST_VALID 0 1) FLT_FIRST_TIME 0 t

/-- The blocks whose logic or arrays LBIST and MBIST test (Table 20-1, Table 17-5). -/
def bistBlocks : List Nat := [1, 3, 4, 5, 6, 7, 8, 9, 10]

/-- R500: LBIST or MBIST shadows source `n`: of a tested block, or of a code in its FLT_DEP. -/
def bistCovers (s : State) (n : Nat) : Bool :=
  bistBlocks.any (fun b => n / 128 == b || (rd s FLT_DEP b).testBit (n / 128))

/-- R441, R500: source `n` is shadowed by the BLOCK reset of some block, or by a self-test. -/
def shadowed (s : State) (n : Nat) : Bool :=
  (((bistRunning s).contains .lbist || (bistRunning s).contains .mbist) && bistCovers s n) ||
  (List.range 18).any (fun b => (rd s FLT_BLK_STATE b == 1 || rd s FLT_BLK_STATE b == 2) && (rd s FLT_DEP b).testBit (n / 128))

/-- BLOCK reactions of block `b` applied within the last second (R443). -/
def blkRecent (s : State) (b : Nat) : Nat :=
  ((nget s.flt.blkTimes b []).filter (fun t => s.now < t + 1000000000)).length

/-! ### Which reaction (R436, R437, R442, R443) -/

/-- Source `n` has a reset target in Table 17-3. -/
def blockTarget (n : Nat) : Bool := if n / 128 == 8 then 0x460 ≤ n && n < 0x478 else hasBlockTarget (n / 128)

/-- Source `n` has an entry in the FENCE column of Table 17-2. -/
def fenceTarget (n : Nat) : Bool :=
  match n / 128 with
  | 1 => n % 128 < 16
  | 2 => true
  | 4 => n % 128 < 8
  | 8 => n % 128 < 120
  | 11 => n % 128 < 16
  | 14 => n % 128 < 80
  | 16 => n % 128 < 16
  | _ => false

/-- The severity applied, with ESCALATED, LIMIT and REPLACED. -/
structure Applied where
  sev : Nat
  esc : Bool
  lim : Bool
  rep : Bool
deriving DecidableEq, Repr

/-- R442, then R443, then R437. -/
def appliedOf (s : State) (n : Nat) (pt : Option Nat) : Applied :=
  let b := n / 128
  let prog := rd s FLT_SEV_SEV n
  let esc := b < 18 && (rd s FLT_BLK_STATE b == 2 || rd s FLT_BLK_STATE b == 3)
  let v := if esc then min 5 (prog + 1) else prog
  let lim := v == 3 && blockTarget n && !inBlockReset s b && !wideReset s && 3 ≤ blkRecent s b
  let v := if lim then 2 else v
  let v1 := if (v == 4 && pt.isNone) || (v == 3 && !blockTarget n) then 2 else v
  let v2 := if v1 == 2 && !fenceTarget n then 5 else v1
  { sev := v2, esc := esc, lim := lim, rep := v2 != v }

/-! ### Reactions -/

/-- R438: FENCE of source `n`: the resource of Table 17-2 is isolated, and the mode follows (R40). -/
def fenceGo (s : State) (n : Nat) : State :=
  let i := n % 128
  let s := wr s FLT_SEV_FENCED n 1
  let group := fun (s : State) (q : Nat) => retRetry (dropGroup (grpBit s OFM_STATUS_FENCED q true) q)
  let s := match n / 128 with
    | 1 => holdPorts s
    | 2 => holdPorts s
    | 8 => if i < 96 then engFence s i else cluFence s (i % 8)
    | 11 => group s (i % 4)
    | 14 => slotFence s (i / 5)
    | 16 => group s (i / 4)
    | _ => s
  fenceMode s

/-- A BLOCK reset of block 4: trigger pulses and firings end; encoder counts, positions and device time are kept (Table 17-3). -/
def laceBlock (s : State) : State :=
  let s := forEach s.lce.active s (fun s m => emit s (trigPin s m false))
  lceUpd s (fun x => { x with fires := [], active := [] })

/-- A BLOCK reset of block 9: every T-link goes down; those that were up train again at release (R440). -/
def weltBlock (s : State) : State :=
  let tl := (List.range 64).filter (fun p => isTlink s p && (linkUp s p || s.prt.retrain.contains p))
  let s := fltUpd s (fun x => { x with again := tl })
  let s := forEach tl s (fun s p => if linkUp s p then tlDown s p 0 false false else portHold s p)
  holdPorts s

/-- A BLOCK reset of block 3: the VOQ lists are checked, and packets of one that fails are discarded under R108 (Table 17-3). A list fails where
the pointer or count check failed; which one it was, a free value says. -/
def shankBlock (s : State) (n : Nat) : State :=
  if n != 0x189 then s else
  let v := Config.freeValue s.free
  retRetry (overBudget (forEach (s.shk.voq.filter (fun e => v.testBit e.1)) { s with free := s.free + 1 } (fun s e =>
    voqLose s e.1 .ur (fun _ => true))))

/-- What the reset of Table 17-3 does when it is asserted. -/
def blockEffect (s : State) (n : Nat) : State :=
  let i := n % 128
  match n / 128 with
  | 2 => portReset (fltUpd s (fun x => { x with port := some (i % 64) })) (i % 64) 2
  | 3 => shankBlock s n
  | 4 => laceBlock s
  | 5 => placeBlock s
  | 8 => cluBlock s (i % 8)
  | 9 => weltBlock s
  | 11 => retRetry (wr (forEach (List.range 4) s dropGroup) OFM_STATUS_READY 0 0)
  | 16 => retRetry (wr (forEach (List.range 4) s dropGroup) OFM_STATUS_READY 0 0)
  | _ => s

/-- R439: a BLOCK reaction; one on a block in reset, or under a wider reset, changes nothing (R446). -/
def blockGo (s : State) (n inst : Nat) : State :=
  let b := n / 128
  let s := wr s RST_CAUSE_BLOCK 0 1
  if inBlockReset s b || wideReset s then s else
  let s := inc (wr s FLT_BLK_STATE b 1) BLOCK_RESETS b
  let recent := (nget s.flt.blkTimes b []).filter (fun t => s.now < t + 1000000000)
  let s := fltUpd s (fun x => { x with blkTimes := nset [] x.blkTimes b ((s.now :: recent).take 7), blkSrc := nput x.blkSrc b (n, inst) })
  blockEffect s n

/-- The reaction of severity `v`. One of PART or SAFE is told to the other parts (R341). -/
def reaction (s : State) (n inst : Nat) (pt : Option Nat) (v : Nat) : State :=
  let s := if 4 ≤ v && !wideReset s then noticeSend s 6 n 0 v else s
  match v with
  | 2 => fenceGo s n
  | 3 => blockGo s n inst
  | 4 => match pt with
    | some k => if wideReset s then wr s RST_CAUSE_PART 0 (rd s RST_CAUSE_PART ||| 2 ^ k) else partAssert s k 1
    | none => s
  | 5 => modeAuto s mSAFE 2 n
  | _ => s

/-- The mode that the reaction led to. -/
def modeAfter (before v : Nat) (s : State) : Nat :=
  match s.tr with
  | some t => if v == 5 && t.to' == mSAFE then mSAFE else if v == 2 && t.cause == 1 then mDEGRADED else before
  | none => before

/-- R436: the manager function's vector. -/
def notify (s : State) : State := if bit s FLT_CTL_NOTE_EN then msixSignal s 16 (rd s FLT_CTL_NOTE_VEC) 0 none else s

/-- An occurrence outside every shadow is recorded, notified and reacts (R436, R444): `first` says that STICKY changes, and a break (kind 3) is
always recorded. -/
def fltReact (s : State) (n inst : Nat) (pt : Option Nat) (kind : Nat) (first inj : Bool) : State :=
  let a := appliedOf s n pt
  let before := mode s
  let prog := rd s FLT_SEV_SEV n
  let s := wr s FLT_SEV_APPLIED n a.sev
  let s := if a.lim then wr s FLT_BLK_LIMIT_FENCED (n / 128) 1 else s
  let s := reaction s n inst pt a.sev
  let s := if first || kind == 3 || 2 ≤ a.sev then
      fltRecord s { src := n, kind := kind, applied := a.sev, prog := prog, esc := a.esc, rep := a.rep, lim := a.lim, inj := inj,
                    pt := pt, before := before, after := modeAfter before a.sev s, inst := inst }
    else s
  let s := if 2 ≤ a.sev || (a.sev == 1 && first) then notify s else s
  raiseIf a.rep s 0x605 n

/-- R433: a 0-to-1 change of LIVE of source `n`. Shadowed, it is recorded once per shadow (R441). `kind` is given for the breaks of rail
pairs, which are always recorded. -/
def occur (s : State) (n inst : Nat) (pt : Option Nat) (kind : Option Nat) (inj : Bool) : State :=
  let first := !bit s FLT_SEV_STICKY n
  let s := inc (wr s FLT_SEV_LIVE n 1) FLT_COUNT n
  let s := if first then fltStick s n else s
  let c := charged s n inst pt
  let s := wr (wrb s FLT_SEV_PT_V n c.isSome) FLT_SEV_PARTITION n (c.getD 0)
  let s := if n == 0x601 && sevImpl inst == 1 then
      wr (wr (wr (wr s FLT_SEV_STICKY inst 0) FLT_COUNT inst 0) FLT_TIME inst 0) FLT_SEV_SEV inst (sevDefault inst)
    else s
  let k := kind.getD (if first then 1 else 2)
  if shadowed s n then
    let seen := s.flt.once.contains n
    let s := fltUpd s (fun x => { x with once := if seen then x.once else n :: x.once,
                                         due := x.due.filter (fun d => d.1 != n) ++ [(n, inst, c)] })
    if seen && !first && kind.isNone then s
    else fltRecord s { src := n, kind := k, shadow := true, prog := rd s FLT_SEV_SEV n, inj := inj, pt := c, before := mode s, after := mode s, inst := inst }
  else fltReact s n inst c k first inj

/-- The pair that carries instance `inst` of source `n` is broken (R430). -/
def pairBroken (s : State) (n inst : Nat) : Bool :=
  s.flt.broken.any (fun j => fltPathSrc j == n && fltPathInst j == inst % 256)

/-! ### What a detection does of itself

Whatever the severity of its source. The report names the port, the entry, the register or the word as its instance; which of several packets
are hit, and where in a bank an entry lies, it does not say, and a free value decides. -/

/-- Table 4-9, indices 5 to 8: packets with an uncorrectable cell in bank `q` are discarded and counted under R108. -/
def bankBad (s : State) (q v : Nat) : State :=
  retRetry (overBudget (forEach s.shk.voq s (fun s e =>
    voqLose s e.1 .ur (fun p => p.qtr == q && p.ovf < p.cells && v.testBit p.seq))))

/-- R133: an uncorrectable gate entry of port `p`: in the active bank, the OPEN mask of the LAST entry is held and VALID clears; the entry fails
commits of its bank while that is pending. -/
def gateBad (s : State) (p v : Nat) : State :=
  let b := activeBank s p
  let bank := if v % 2 = 0 then b else 1 - b
  let s := { s with gate := { s.gate with badEnt := entIdx p bank (v / 2 % 64) :: s.gate.badEnt } }
  if v % 2 = 0 then
    let s := match lastEntry s p b with
      | some i => { s with gate := { s.gate with latched := nput s.gate.latched p (rd s SHK_GATE_ENT_OPEN (entIdx p b i)) } }
      | none => s
    wr s SHK_GATE_STATUS_VALID p 0
  else s

/-- 14_access_control.md, "An entry becomes uncorrectable": it goes out of force; with LOCK, Awl accesses end LOCKED until COLD. -/
def awtBad (s : State) (i : Nat) : State :=
  if !bit s AWT_W0_VALID i then s else
  let s := if bit s AWT_W0_LOCK i then { s with awt := { s.awt with awlShut := true } } else s
  let s := wr s AWT_W0_VALID i 0
  wrb s AWT_STATUS_OVERLAP 0 (bit s AWT_STATUS_OVERLAP && anyConflict s)

/-- R440: packets whose held stitches are uncorrectable are discarded and counted under R108. -/
def replayBad (s : State) (v : Nat) : State :=
  forEach s.prt.tl s (fun s e =>
    let hit := fun (f : Flight) => !f.own && !f.bad && v.testBit f.q.seq
    let s := forEach (e.2.flights.filter hit) s (fun s f => lose s e.1 f.q .ur false)
    tlUpd s e.1 (fun t => { t with flights := t.flights.map (fun f => if hit f then { f with bad := true } else f) }))

/-- What detection by source `n` does (R133, R411, R440, R529, R530, Tables 4-9, 14-11, 21-8). -/
def detected (s : State) (n inst : Nat) : State :=
  let v := Config.freeValue s.free
  let t := { s with free := s.free + 1 }
  match n with
  | 0x003 | 0x005 => inc s GLB_RET_STATUS_CORR
  | 0x004 => fltUpd (wr (wr s GLB_RET_STATUS_BKP_UNCORR 0 1) GLB_RET_STATUS_BKP_IDX 0 (inst % 8))
      (fun x => { x with bkpBad := inst % 8 :: x.bkpBad.filter (· != inst % 8) })
  | 0x006 => fltUpd (wr (wr s GLB_RET_STATUS_RET_UNCORR 0 1) GLB_RET_STATUS_RET_WORD 0 (inst % 512))
      (fun x => { x with retBad := inst % 512 :: x.retBad.filter (· != inst % 512) })
  | 0x185 | 0x186 | 0x187 | 0x188 => bankBad t (n - 0x185) v
  | 0x191 => gateBad t (inst % 64) v
  | 0x300 => awtBad s (inst % 8192)
  | 0x48E => replayBad t v
  | _ => s

/-- FAULT_ASSERT (R433 to R446). -/
def execFaultAssert (src : BitVec 12) (inst : BitVec 32) (pt : Option (Fin 16)) (s : State) : Res :=
  .next (
    let n := src.toNat
    let p := pt.map (·.val)
    let s := detected { s with detect := s.detect.erase ⟨n, inst.toNat, p⟩ } n inst.toNat
    if sevImpl n == 0 || pairBroken s n inst.toNat || bit s FLT_SEV_LIVE n then s else occur s n inst.toNat p none false)

/-- FAULT_DEASSERT (R433). -/
def execFaultDeassert (src : BitVec 12) (s : State) : Res :=
  .next (let n := src.toNat
    if s.flt.broken.any (fun j => fltPathSrc j == n) then s else wr s FLT_SEV_LIVE n 0)

/-! ### Rail pairs (R430) -/

/-- R430: PATH_BROKEN of the logical source, and the path source. -/
def railBreak (s : State) (j : Nat) (inj : Bool) : State :=
  if s.flt.broken.contains j then s else
  let s := wr (fltUpd s (fun x => { x with broken := j :: x.broken })) FLT_SEV_PATH_BROKEN (fltPathSrc j) 1
  occur s (0x900 + j) (fltPathInst j) none (some 3) inj

/-- RAIL_BROKEN: by a broken wire. -/
def execRailBroken (j : Fin 1335) (s : State) : Res := .next (railBreak s j false)

/-- RAIL_RESTORED (R430): LIVE takes the level that the pair reads; a 0-to-1 change is a new occurrence. -/
def execRailRestored (j : Fin 1335) (level : Bool) (s : State) : Res :=
  .next (
    if !s.flt.broken.contains j.val then s else
    let n := fltPathSrc j
    let s := fltUpd s (fun x => { x with broken := x.broken.filter (· != j.val) })
    let s := wrb s FLT_SEV_PATH_BROKEN n (s.flt.broken.any (fun i => fltPathSrc i == n))
    let s := wr s FLT_SEV_LIVE (0x900 + j) 0
    let s := fltRecord s { src := 0x900 + j, kind := 4, prog := rd s FLT_SEV_SEV (0x900 + j), before := mode s, after := mode s,
                           inst := fltPathInst j }
    if sevImpl n == 0 then s
    else if !level then wr s FLT_SEV_LIVE n 0
    else if bit s FLT_SEV_LIVE n then s else occur s n (fltPathInst j) none none false)

/-! ### Shadows and windows (R441, R442) -/

/-- SHADOW_END (R441): sources that no shadow covers any more, and that are still LIVE, react as if they had just asserted. -/
def execShadowEnd (b : Fin 18) (s : State) : Res :=
  .next (
    if rd s FLT_BLK_STATE b != 2 then s else
    let s := wr s FLT_BLK_STATE b 3
    let free := s.flt.due.filter (fun d => !shadowed s d.1)
    let s := fltUpd s (fun x => { x with due := x.due.filter (fun d => !free.contains d), once := x.once.filter (fun n => !free.any (·.1 == n)) })
    forEach free s (fun s d => if bit s FLT_SEV_LIVE d.1 then fltReact s d.1 d.2.1 d.2.2 2 false false else s))

/-- ESCALATION_WINDOW_END (R442). -/
def execEscalationWindowEnd (b : Fin 18) (s : State) : Res :=
  .next (if rd s FLT_BLK_STATE b == 3 then wr s FLT_BLK_STATE b 0 else s)

/-! ### Commands of the manager (R433, R438) -/

/-- R433: 1 is written to STICKY of source `n`. -/
def stickyClear (s : State) (n : Nat) : State :=
  if sevImpl n == 0 || !bit s FLT_SEV_STICKY n then s else
  let s := wr (wr s FLT_SEV_STICKY n 0) FLT_COUNT n 0
  if !bit s FLT_SEV_LIVE n then s else
  let s := wr (fltStick s n) FLT_COUNT n 1
  fltRecord s { src := n, kind := 1, applied := rd s FLT_SEV_APPLIED n, prog := rd s FLT_SEV_SEV n,
                pt := if bit s FLT_SEV_PT_V n then some (rd s FLT_SEV_PARTITION n) else none, before := mode s, after := mode s, inst := 0 }

/-- FAULT_STICKY_CLEAR (R433). -/
def execFaultStickyClear (m : Master) (src : BitVec 12) (s : State) : Res :=
  .next (asMaster s m (FLT_SEV_STICKY.off + 16 * src.toNat) (fun s => stickyClear s src.toNat))

/-- CLEAR_ALL: in ascending order of the sources. -/
def stickyClearAll (s : State) : State := forEach (setIdx s FLT_SEV_STICKY) s stickyClear

/-- FAULT_CLEAR_ALL (R433). -/
def execFaultClearAll (m : Master) (s : State) : Res := .next (asMaster s m FLT_CMD_CLEAR_ALL.off stickyClearAll)

/-- R438: RESTORE of source `n`: 2 LIVE, 1 NO_FENCE, 0 DONE. -/
def fltRestore (s : State) (n : Nat) : State :=
  if bit s FLT_SEV_LIVE n then wr s FLT_CMD_RESULT 0 2
  else if !bit s FLT_SEV_FENCED n || n / 128 == 8 || n / 128 == 11 || n / 128 == 16 then wr s FLT_CMD_RESULT 0 1
  else
    let s := fenceFree (wr s FLT_CMD_RESULT 0 0) (· == n)
    let c := n % 128 / 5
    if n / 128 == 14 && !(List.range 5).any (fun i => bit s FLT_SEV_FENCED (0x700 + c * 5 + i)) then slotUnfence s c else s

/-- FAULT_RESTORE (R438). -/
def execFaultRestore (m : Master) (src : BitVec 12) (s : State) : Res :=
  .next (asMaster s m FLT_CMD_RESTORE.off (fun s => fltRestore (wr s FLT_CMD_SRC 0 src.toNat) src.toNat))

/-! ### Self-check, fault pair, injection, scrubbing -/

/-- COLLECTOR_SELF_CHECK (R549). -/
def execCollectorSelfCheck (pass : Bool) (s : State) : Res :=
  .next (raiseIf (!pass) (wrb s FLT_STATUS_SELF_OK 0 pass) 0x604)

/-- R449: the fault pair is static. -/
def pairStatic (s : State) : Bool :=
  !([mSETUP, mFREE, mLOCKED, mDEGRADED, mQUIESCE, mDRAIN, mLOOPBACK, mSTANDBY].contains (mode s)) || !bit s FLT_STATUS_SELF_OK
    || bit s FLT_CTL_PAIR_FORCE || (setIdx s FLT_SEV_STICKY).any (fun n => rd s FLT_CTL_PAIR_SEV ≤ rd s FLT_SEV_APPLIED n)

/-- PAIR_READBACK_MISMATCH (R450). -/
def execPairReadbackMismatch (s : State) : Res := .next (raise s 0x603)

/-- R457: GO, in FACTORY only: the rail pair of SRC is driven as KIND says, at the detector's end; a source that is LIVE already stays so. -/
def faultInject (s : State) : State :=
  if mode s != mFACTORY || bit s FLT_INJ_GO then s else
  let n := rd s FLT_INJ_SRC
  let k := rd s FLT_INJ_KIND
  if k == 3 || sevImpl n == 0 then s else
  let live := bit s FLT_SEV_LIVE n
  let s := fltUpd (wr s FLT_INJ_GO 0 1) (fun x => { x with inj := some (n, if live then 3 else k) })
  if k == 1 then
    match (List.range 1335).find? (fun j => fltPathSrc j == n) with
    | some j => railBreak s j true
    | none => s
  else
    let s := if pairBroken s n 0 || live then s else occur s n 0 none none true
    if k == 2 && !live then wr s FLT_SEV_LIVE n 0 else s

/-- FAULT_INJECT (R457). -/
def execFaultInject (m : Master) (s : State) : Res := .next (asMaster s m FLT_INJ_GO.off faultInject)

/-- FAULT_INJECT_END (R457): the pair is driven by its detector again. -/
def execFaultInjectEnd (s : State) : Res :=
  .next (match s.flt.inj with
    | none => s
    | some (n, k) =>
      let s := fltUpd (wr s FLT_INJ_GO 0 0) (fun x => { x with inj := none })
      if k == 0 && !s.flt.broken.any (fun j => fltPathSrc j == n) then wr s FLT_SEV_LIVE n 0 else s)

/-- SCRUB_PASS (R453): single errors are corrected in place; the contents that this state holds are those after correction. -/
def execScrubPass (s : State) : Res := .next s

end Sys2Proof.Machine
end

