-- ==== Sys2Proof/Machine/Resets.lean ====
section
/-! DEFINITION. Resets of WARM reach and wider, trim, start-up and clocks (18_reset_boot_clocks.md). The narrower reaches are with what they
reset: PART and PORT in Links.lean, BLOCK in Faults.lean, FUNC in Pcie.lean, SLICE in Slices.lean. -/

namespace Sys2Proof.Machine

/-- Resets changed by `f`. -/
def rstUpd (s : State) (f : RstSt → RstSt) : State := { s with rst := f s.rst }

/-- R20: fields of reach code `c` or narrower return to their reset values; those of the power die do not. -/
def regsReset (s : State) (c : Nat) : State :=
  { s with regs := rreset s.regs (fun k => c ≤ keyReach k && keyReach k ≤ reachCode .slice) }

/-- R373: at WARM an entry that is not locked is no longer valid. -/
def awtWarm (s : State) : State :=
  forEach (setIdx s AWT_W0_VALID) s (fun s i => if bit s AWT_W0_LOCK i then s else wr s AWT_W0_VALID i 0)

/-- What a reset of reach code `c` (0 POR, 1 COLD, 2 WARM) clears beside the registers (Table 18-2). -/
def wideState (s : State) (c : Nat) : State :=
  let cold := c < 2
  { s with
    detect := [], cfg := [], slices := [], shk := {}, gate := {}, plc := {}, rng := {}, tr := none, bus := {},
    awt := { shadow := if cold then [] else s.awt.shadow, awlShut := !cold && s.awt.awlShut },
    lce := { aLvl := s.lce.aLvl, bLvl := s.lce.bLvl, adj := if cold then 0 else s.lce.adj },
    fab := { resets := (s.fab.resets.map (fun e => (e.1, e.2.filter (fun x => if c = 0 then x == 0 else x != 3)))).filter (fun e => e.2 != []), layout := if cold then 0 else s.fab.layout },
    prt := if c = 0 then {} else { hot := s.prt.hot, portRst := (s.prt.portRst.map (fun e => (e.1, e.2.filter (· != 1)))).filter (fun e => e.2 != []) },
    ckr := { stg := if cold then [] else s.ckr.stg, reset := if c = 0 then [] else s.ckr.reset },
    heel := if cold then {} else { s.heel with rebuild := [], notFenced := false },
    flt := { ret := if c = 0 then [] else s.flt.ret, retBad := if c = 0 then [] else s.flt.retBad,
             bkpBad := if c = 0 then [] else s.flt.bkpBad, port := if c = 0 then none else s.flt.port,
             blkSrc := if c = 0 then [] else s.flt.blkSrc },
    tst := { cert := if cold then [] else s.tst.cert, seedOpen := !cold && s.tst.seedOpen, keys := !cold && s.tst.keys,
             retClr := !cold && s.tst.retClr },
    rst := { s.rst with trimming := false, starting := false, func := [], later := [], waits := [] },
    now := if c = 0 then 0 else s.now }

/-- Partitions that a pin or a timer still holds stay in reset (R349, R465). -/
def partsHeld (s : State) : State :=
  forEach s.fab.resets s (fun s e => if e.2.isEmpty then s else wr s PTN_STAT_IN_RESET e.1 1)

/-- R465: a block that is in BLOCK reset stays there over WARM and COLD (Table 18-3). -/
def blocksHeld (s t : State) : State :=
  forEach ((List.range 18).filter (inBlockReset s)) t (fun t b => wr t FLT_BLK_STATE b 1)

/-- R466: the narrower resets that the part sees with a reset of reach code `c`: after POR the pins that are low, else PART of each partition whose
upstream port's link goes down (Table 18-6). -/
def causesSeen (s t : State) (c : Nat) : State :=
  let ps := if c = 0 then s.rst.perst else
    (List.range 16).filter (fun n => (upPort s n).any (fun u => linkUp s u || s.prt.retrain.contains u))
  let t := wr t RST_CAUSE_PART 0 (Nat.lor (rd t RST_CAUSE_PART) (maskOf 16 ps.contains))
  if c != 0 then t else
  let t := if s.rst.perst.isEmpty then t else wr t RST_CAUSE_PIN_PERST 0 1
  if s.rst.rstLow then wr t RST_CAUSE_PIN_COLD 0 1 else t

/-- R74, R468: at a COLD or POR the Lace outputs go to high impedance; at a WARM every trigger output takes the inactive level of POL = 0. -/
def laceOuts (s : State) (c : Nat) : State :=
  if c = 2 then trigReset s else
  lceUpd (emit (forEach (List.range 16) s (fun s m => emit s (.highZ "LACE_TRIG" m))) (.highZ "LACE_TOUT" 0)) (fun x => { x with active := [] })

/-- A reset of reach code `c` takes effect (R20, R221, R349, Table 18-2): presets reload. RST_TRIM.TRIM_BAD keeps what only a good
load clears (R467). -/
def wideApply (s : State) (c : Nat) : State :=
  let s0 := bistAbort s 3
  let s := wideState (laceStop (regsReset (laceOuts s0 c) c)) c
  let s := causesSeen s0 (if c = 0 then s else blocksHeld s0 s) c
  let s := if c = 2 then awtWarm s else s
  let s := wrb s RST_TRIM_TRIM_BAD 0 (bit s GLB_MODE_TRIM_BAD)
  partsHeld (if c = 0 then s else presetLoad s)

/-- A COLD is asserted by cause `k` (0 RST_N, 1 its timer); a WARM asserted before gives way (R465). -/
def coldGo (s : State) (k : Nat) : State :=
  let s := rstUpd s (fun r => { r with cold := k :: r.cold.filter (· != k), coldWait := true, warm := false, warmWait := false })
  wideApply s 1

/-- R464: the mode performs a WARM as a COLD. -/
def warmAsCold (s : State) : Bool :=
  mode s == mHOLD || s.rst.coldWait || (mode s == mSAFE && bit s GLB_MODE_TRIM_BAD) || mode s == mFACTORY

/-- R341: a command asks for WARM or COLD: its notice leaves before the reset takes effect (R459), on each T-link that can take it then. -/
def resetNotice (s : State) : State :=
  if wideReset s then s else
  forEach ((List.range 64).filter (hopUp s)) (noticeSend s 4 0 0 0) (fun s p =>
    match (nget s.shk.staging p []).find? (fun x => x.q.pk.notice.any (fun n => n.kind == 4)) with
    | some x =>
      if !tlinkTakes s p x.q.cls (stitchesOf x.q.pk) then s else
      (match grouped s p x.q with
      | some (s, q) => tlinkSend (unstage s p x.q.seq) p q true false
      | none => s)
    | none => s)

/-- A WARM that a command asks for is asserted, or performed as COLD with its cause and source (R464). -/
def warmGo (s : State) : State :=
  if warmAsCold s then raise (wr (coldGo (resetNotice s) 1) RST_CAUSE_ESC_COLD 0 1) 0x687
  else wideApply (rstUpd (resetNotice s) (fun r => { r with warm := true, warmWait := true })) 2

/-- R477: clocks allow the release of a reset of WARM reach or wider. -/
def clocksGood (s : State) : Bool := !s.rst.sysLost && s.rst.unlocked.isEmpty

/-- R462, R465, R470, R471: once nothing asserts it and the clocks allow it, the reset is released: trim loads after POR and COLD, start-up
begins after WARM, with GLB_MODE at SETUP and BUSY. -/
def wideTry (s : State) : State :=
  if s.rst.por || !s.rst.cold.isEmpty || s.rst.warm || !clocksGood s then s
  else if s.rst.coldWait then rstUpd s (fun r => { r with coldWait := false, warmWait := false, trimming := true })
  else if s.rst.warmWait then
    wr (wr (rstUpd s (fun r => { r with warmWait := false, starting := true })) GLB_MODE_CUR 0 mSETUP) GLB_MODE_BUSY 0 1
  else s

/-! ### Pins, commands and supplies (R459 to R464) -/

/-- POR_ASSERT (R459, R462): the whole switch die; RST_CAUSE shows POR. -/
def execPorAssert (s : State) : Res :=
  .next (wideApply (rstUpd s (fun r => { r with por := true, cold := r.cold.filter (· == 0), coldWait := true, warm := false,
                                                warmWait := false })) 0)

/-- POR_RELEASE (R16, R462): after the power die has read the strap; device time counts from here on, and the trim load begins unless RST_N
holds COLD. -/
def execPorRelease (s : State) : Res :=
  .next (if s.rst.por then wideTry { rstUpd s (fun r => { r with por := false }) with now := 0 } else s)

/-- RST_N_ASSERT (R460): low for 1 µs. -/
def execRstNAssert (s : State) : Res :=
  .next (wr (coldGo (rstUpd s (fun r => { r with rstLow := true })) 0) RST_CAUSE_PIN_COLD 0 1)

/-- RST_N_RELEASE (R460, R462): COLD's pin cause ends, or a pulse too short is ignored, logged between 100 ns and 1 µs. -/
def execRstNRelease (w : PulseLen) (s : State) : Res :=
  .next (match w with
    | .qualified => wideTry (rstUpd s (fun r => { r with rstLow := false, cold := r.cold.filter (· != 0) }))
    | .between => raise s 0x688
    | .short => s)

/-- RST_CMD.WARM with its KEY (R461). -/
def regWarm (s : State) : State := wr (warmGo s) RST_CAUSE_REG_WARM 0 1

/-- RST_CMD_WARM (R461): with the key. -/
def execRstCmdWarm (m : Master) (key : BitVec 8) (s : State) : Res :=
  .next (asMaster s m RST_CMD_WARM.off (fun s => if key == 0xA5 then regWarm s else s))

/-- RESET_PULSE_END (R459, R465). -/
def execResetPulseEnd (r : ResetRef) (s : State) : Res :=
  .next (match r with
    | .cold => wideTry (rstUpd s (fun r => { r with cold := r.cold.filter (· != 1) }))
    | .warm => wideTry (rstUpd s (fun r => { r with warm := false }))
    | .part n => partUncause s n 1
    | .port p => portUnreset s p 0)

/-! ### Trim and start-up (R467 to R471) -/

/-- R507: the identity is derived from the seed, or the key-store source is raised where a check fails. -/
def identity (s : State) : State :=
  let ok := Config.seedGood s.free
  let s := raiseIf (!ok) { s with free := s.free + 1 } 0x794
  let s := wrb s TST_SEC_STATUS_ID_READY 0 ok
  { s with tst := { s.tst with keys := true, seedOpen := true } }

/-- R467, R507: the load succeeds: HOLD is left, the identity is derived, and start-up runs until SETUP. -/
def trimGood (s : State) : State :=
  let s := wr (wr (wr s RST_TRIM_TRIM_OK 0 1) RST_TRIM_TRIM_BAD 0 0) GLB_MODE_TRIM_BAD 0 0
  let s := wr (wr (wr s RST_TRIM_FAILS 0 0) RST_T_TRIM 0 (devTime s)) GLB_MODE_BUSY 0 1
  rstUpd (identity (wr s TST_SEC_STATUS_SPDM_EN 0 1)) (fun r => { r with trimming := false, starting := true })

/-- R467: an attempt fails; the third in a row leads to SAFE with TRIM_BAD. -/
def trimFail (s : State) (word : Nat) : State :=
  let n := rd s RST_TRIM_FAILS + 1
  let s := raise (wr (wr s RST_TRIM_FAILS 0 n) RST_TRIM_WORD 0 word) 0x686
  if n < 3 then s else
  let s := wr (wr (wr s RST_TRIM_TRIM_BAD 0 1) GLB_MODE_TRIM_BAD 0 1) RST_CAUSE_TRIM_SAFE 0 1
  transGo (rstUpd s (fun r => { r with trimming := false }))
    { to' := mSAFE, from' := mHOLD, cause := 5, locked := false, src := 0x686, req := false }

/-- TRIM_ATTEMPT_DONE (R467). -/
def execTrimAttemptDone (ok : Bool) (word : BitVec 16) (s : State) : Res :=
  .next (if !s.rst.trimming then s else if ok then trimGood s else trimFail s word.toNat)

/-- R465: what recovery waits for once SETUP is reached: the narrower resets that are still asserted. -/
def waitsNow (s : State) : List Nat :=
  (List.range 16).filter (fun n => bit s PTN_CFG_EN n && !(nget s.fab.resets n []).isEmpty)
    ++ ((List.range 64).filter (fun p => !(nget s.prt.portRst p []).isEmpty)).map (16 + ·)
    ++ ((List.range 18).filter (inBlockReset s)).map (80 + ·)

/-- R74, R468: the Lace outputs are driven again, at their inactive level. -/
def laceDrive (s : State) : State :=
  emit (forEach (List.range 16) s (fun s m => emit s (.pin "LACE_TRIG" m false))) (.pin "LACE_TOUT" 0 false)

/-- STARTUP_DONE (R470, R471, R412): arrays, free lists and lanes are ready; SETUP is reached, with the Lace outputs driven after HOLD, and ports
are brought up. -/
def execStartupDone (s : State) : Res :=
  .next (if !s.rst.starting || wideReset s then s else
    let m := mode s
    let s := rstUpd s (fun r => { r with starting := false, waits := waitsNow s })
    let s := if m == mHOLD then laceDrive s else s
    let s := forEach (List.range 4) s grpReady
    let s := wr s RST_T_SETUP 0 (devTime s)
    let s := prtUpd s (fun x => { x with bring := true })
    modeLater (modeSet s m mSETUP (if m == mHOLD then 7 else rd s GLB_MODE_CAUSE) false))

/-! ### Clocks (R477, R479) -/

/-- SYS_REFCLK_LOST (R477): the management domain runs on its backup oscillator. -/
def execSysRefclkLost (s : State) : Res := .next (raise (rstUpd s (fun r => { r with sysLost := true })) 0x680)

/-- PLL_LOCK_LOSS (R477). -/
def execPllLockLoss (which : Fin 5) (s : State) : Res :=
  .next (raise (rstUpd s (fun r => { r with unlocked := which.val :: r.unlocked.filter (· != which.val) })) (0x681 + which))

/-- SYS_REFCLK_GOOD (R477): good for 100 µs with every PLL locked: a reset that waits is released. -/
def execSysRefclkGood (s : State) : Res :=
  .next (wideTry (rstUpd s (fun r => { r with sysLost := false, unlocked := [] })))

/-- CROSSING_TIMEOUT (R479). -/
def execCrossingTimeout (s : State) : Res := .next (raise s 0x689)

/-! ### Strap and test pin (R220, R36, R511) -/

/-- The nominal resistors of Table 8-2, in ohms. -/
def strapOhms : List Nat :=
  [1000, 1470, 2150, 3160, 4640, 6810, 10000, 14700, 21500, 31600, 46400, 68100, 100000, 147000, 215000, 316000]

/-- R220: what the converter makes of a resistance in ohms: above 383 kΩ open, below 825 Ω shorted, else the code whose window of a factor of 1.21
holds it. Between two windows, where the rule
names no code, and where two windows overlap, it is one of the two neighbours, by free value `f` (DESIGN CHOICE). -/
def strapCode (ohms f : Nat) : StrapRes :=
  if 383000 < ohms then .opened else if ohms < 825 then .shorted else
  let i := ((strapOhms.findIdx? (fun r => 100 * ohms ≤ 121 * r)).getD 15)
  .code (Fin.ofNat 16 (if 121 * ohms < 100 * strapOhms.getD i 0 then i - f % 2 else
    if 100 * strapOhms.getD (i + 1) 500000 ≤ 121 * ohms then i + f % 2 else i))

/-- STRAP_READ (R220, R221): during POR the strap code goes to GLB_STRAP; an open or a short one counts as code 0 and is reported. The
preset is loaded. -/
def execStrapRead (ohms : Nat) (s : State) : Res :=
  .next (if !s.rst.por then s else
    let r := strapCode ohms (Config.freeValue s.free)
    let s := { s with free := s.free + 1 }
    let c := match r with | .code c => c.val | _ => 0
    let k := match r with | .code _ => 0 | .opened => 1 | .shorted => 2
    let s := wr (wr s GLB_STRAP_PRESET 0 (c % 8)) GLB_STRAP_ADDR_SEL 0 (c / 8)
    let s := wr (wrb s GLB_STRAP_STRAP_FAULT 0 (k != 0)) GLB_STRAP_FAULT_KIND 0 k
    let s := wr s GLB_STRAP_MGMT_ADDR 0 (0x5A + c / 8)
    presetLoad (raiseIf (k != 0) s 0x000))

/-- TEST_EN_LOW_IN_FACTORY (R36): the part performs a COLD. -/
def execTestEnLowInFactory (s : State) : Res :=
  .next (let s := rstUpd s (fun r => { r with testEn := false })
    if mode s == mFACTORY then coldGo s 1 else s)

/-- TEST_EN_HIGH_OUTSIDE_FACTORY (R511). -/
def execTestEnHighOutsideFactory (s : State) : Res :=
  .next (raiseIf (mode s != mFACTORY) (rstUpd s (fun r => { r with testEn := true })) 0x798)

end Sys2Proof.Machine
end

