-- ==== Sys2Proof/Machine/Tst.lean ====
section
/-! DEFINITION. Self-tests, secrets, identity and the SPDM responder (20_selftest_security.md). JTAG's register access is in
RegAccess.lean. -/

namespace Sys2Proof.Machine

/-- Self-tests and secrets changed by `f`. -/
def tstUpd (s : State) (f : Tst → Tst) : State := { s with tst := f s.tst }

/-! ### Self-tests (R498 to R505) -/

/-- R501: the part returns to SETUP as by a WARM, with CAUSE BIST done; what the tests report stays. -/
def bistReturn (s : State) : State :=
  let t := wr (wr (rstUpd (wideApply s 2) (fun r => { r with starting := true })) GLB_MODE_BUSY 0 1) GLB_MODE_CAUSE 0 6
  { t with detect := s.detect.filter (fun d => d.src / 128 == 15) }

/-- R498: TEST is reached: the selected tests begin; with none selected the part returns at once. -/
def bistStart (s : State) : State :=
  if mode s != mTEST then s
  else if s.tst.left.isEmpty then bistReturn s
  else wr (wr (forEach s.tst.left s (fun s t => bistResult s t 0)) TST_BIST_STATUS_RUNNING 0 1) TST_BIST_STATUS_ABORT 0 0

/-- R500: at the end of LBIST or MBIST the sources that it shadowed read STICKY = 0. -/
def bistUnshadow (s : State) (t : Bist) : State :=
  if t != .lbist && t != .mbist then s else
  let hit := fun n => bistCovers s n
  let s := forEach ((setIdx s FLT_SEV_STICKY).filter hit) s (fun s n => wr s FLT_SEV_STICKY n 0)
  fltUpd s (fun x => { x with once := x.once.filter (fun n => !hit n), due := x.due.filter (fun d => !hit d.1) })

/-- A test ends: with the last one the part returns to SETUP as by a WARM, with CAUSE BIST done (R501). -/
def bistEnd (s : State) (t : Bist) : State :=
  let s := tstUpd (bistUnshadow s t) (fun x => { x with left := x.left.filter (· != t) })
  if s.tst.left.isEmpty then bistReturn (wr s TST_BIST_STATUS_RUNNING 0 0) else s

/-- What a test found, into its result registers and sources; true where it passes (R502 to R504). -/
def bistFound (s : State) (t : Bist) (f : BistFound) : State × Bool :=
  match t with
  | .lbist =>
    let d := f.domains
    let s := wrb (wrb (wrb s TST_LBIST_RES_CORE_FAIL 0 (d.getLsbD 0)) TST_LBIST_RES_CKR_FAIL 0 (d.getLsbD 1)) TST_LBIST_RES_LACE_FAIL 0 (d.getLsbD 2)
    (forEach (List.range 3) s (fun s i => raiseIf (d.getLsbD i) s (0x780 + i)), d == 0)
  | .mbist =>
    let s := wr (wr s TST_MBIST_RES_REPAIRS 0 f.repairs.toNat) TST_MBIST_RES_UNREPAIRABLE 0 f.unrepairable.toNat
    let s := if f.repairs != 0 then raise (wr s TST_BIST_STATUS_REPAIRED 0 1) 0x783 else s
    (raiseIf (f.unrepairable != 0) s 0x784, f.unrepairable == 0)
  | .ovf =>
    let s := forEach (List.range 4) s (fun s q =>
      let n := f.retired.getD q 0
      let s := wr s TST_OVF_RES_RETIRED q (max (rd s TST_OVF_RES_RETIRED q) (min n 65536))
      let s := if n != 0 then raise (wr s TST_BIST_STATUS_REPAIRED 0 1) (0x785 + q) else s
      if 65536 < n then raise (wr s TST_OVF_RES_LIMIT q 1) (0x789 + q) else s)
    (s, (List.range 4).all (fun q => f.retired.getD q 0 ≤ 65536))
  | .serdes =>
    let bad := f.lanes.filter (fun l => s.tst.qmask.testBit (l.val / 48))
    let s := forEach bad s (fun s l => wr s TST_LANE_FAIL (l.val / 32) (rd s TST_LANE_FAIL (l.val / 32) ||| 2 ^ (l.val % 32)))
    (forEach ((List.range 4).filter (fun q => bad.any (fun l => l.val / 48 == q))) s (fun s q => raise s (0x78D + q)), bad.isEmpty)

/-- BIST_TEST_DONE (R498 to R504). -/
def execBistTestDone (t : Bist) (f : BistFound) (s : State) : Res :=
  .next (if !(bistRunning s).contains t then s else
    let r := bistFound s t f
    bistEnd (bistResult r.1 t (if r.2 then 1 else 2)) t)

/-- BIST_TIMEOUT (R498). -/
def execBistTimeout (t : Bist) (s : State) : Res :=
  .next (if !(bistRunning s).contains t then s
    else bistEnd (raise (wr (bistResult s t 2) TST_BIST_STATUS_ABORT 0 1) 0x791) t)

/-- BIST_CONDITIONS_FAIL (R499). -/
def execBistConditionsFail (t : Bist) (s : State) : Res :=
  .next (if !(bistRunning s).contains t then s
    else bistEnd (raise (wr (bistResult s t 3) TST_BIST_STATUS_ABORT 0 2) 0x792) t)

/-! ### Secrets (R506 to R509) -/

/-- R508: what CLEAR does. -/
def secretsGone (s : State) (retained : Bool) : State :=
  let s := match s.tst.exchange with | some v => spdmSay s v "ERROR Busy" [] | none => s
  let s := wr (wr (wr s TST_SEC_STATUS_SESSIONS 0 0) TST_SEC_STATUS_CLEARED 0 1) TST_SEC_STATUS_CLEARED_OK 0 0
  let s := wr s TST_SEC_STATUS_SPDM_EN 0 0
  let s := prtUpd s (fun x => { x with ide := [] })
  let s := tstUpd s (fun x => { x with keys := false, seedOpen := false, exchange := none, retClr := retained })
  if retained then
    fltUpd (forEach (List.range 8) s (fun s i => wr s GLB_BKP i 0)) (fun x => { x with ret := [], retBad := [], bkpBad := [] })
  else s

/-- R508: CLEAR with its key: 3 KEY, 2 MODE, 1 BUSY while VERIFY runs. -/
def secretsClear (s : State) (key : Nat) (retained : Bool) : State :=
  if key != 0xA5 then wr s TST_SEC_CMD_RESULT 0 3
  else if mode s != mSETUP then wr s TST_SEC_CMD_RESULT 0 2
  else if s.tst.verifying then wr s TST_SEC_CMD_RESULT 0 1
  else wr (secretsGone s retained) TST_SEC_CMD_RESULT 0 0

/-- SECRETS_CLEAR (R508). -/
def execSecretsClear (m : Master) (key : BitVec 8) (clrRetained : Bool) (s : State) : Res :=
  .next (asMaster s m TST_SEC_CMD_CLEAR.off (fun s => secretsClear s key.toNat clrRetained))

/-- R509: VERIFY with its key starts the comparison. -/
def secretsVerify (s : State) (key : Nat) : State :=
  if key != 0xA5 then wr s TST_SEC_CMD_RESULT 0 3
  else tstUpd (wr s TST_SEC_CMD_RESULT 0 1) (fun x => { x with verifying := true, changed := x.verifying && x.changed })

/-- SECRETS_VERIFY (R509). -/
def execSecretsVerify (m : Master) (key : BitVec 8) (s : State) : Res :=
  .next (asMaster s m TST_SEC_CMD_VERIFY.off (fun s => secretsVerify s key.toNat))

/-- SECRETS_VERIFY_DONE (R509): 4 CHANGED, 5 FAILED with its source, or CLEARED_OK; retained memory and the backup registers are compared where CLEAR
cleared them. -/
def execSecretsVerifyDone (s : State) : Res :=
  .next (if !s.tst.verifying then s else
    let r := tstUpd s (fun x => { x with verifying := false, changed := false })
    if s.tst.changed then wr r TST_SEC_CMD_RESULT 0 4
    else if s.tst.keys || s.tst.seedOpen || !s.prt.ide.isEmpty
        || (s.tst.retClr && (!s.flt.ret.isEmpty || (List.range 8).any (fun i => rd s GLB_BKP i != 0))) then raise (wr r TST_SEC_CMD_RESULT 0 5) 0x793
    else wr (wr r TST_SEC_CMD_RESULT 0 0) TST_SEC_STATUS_CLEARED_OK 0 1)

/-- R509: a write into the key store. -/
def keyWritten (s : State) : State :=
  tstUpd (wr s TST_SEC_STATUS_CLEARED_OK 0 0) (fun x => { x with keys := true, changed := x.changed || x.verifying })

/-! ### Certificate and SPDM (R512 to R515) -/

/-- R513: COMMIT: the leaf's key is compared with the part's own. -/
def certCommit (s : State) : State :=
  let ok := Config.leafMatches (cgets s.tst.cert 0 (min (rd s TST_CERT_CTL_LEN) 8192))
  raiseIf (!ok) (wrb s TST_CERT_CTL_CERT_VALID 0 ok) 0x799

/-- CERT_COMMIT (R513). -/
def execCertCommit (m : Master) (s : State) : Res := .next (asMaster s m TST_CERT_CTL_COMMIT.off certCommit)

/-- R514: the content of measurement `i` of Table 20-4. -/
def measurement (s : State) (i : Nat) : Bytes :=
  if i = 1 then Config.sha384 Config.fuses
  else if i = 2 then
    Config.rawMeasure (bit s TST_SEC_STATUS_FACTORY_SINCE_POR) s.rst.testEn
      (rd s TST_DBG_JTAG_AWL + 2 * rd s TST_DBG_LOCK) (bit s FLT_CTL_SEV_LOCK) (setIdx s AWT_W0_LOCK).length (mode s)
  else
    let k := i - 3
    match nget? s.ckr.img k with
    | some m => if cluState s k == 0 then List.replicate 48 0
      else Config.sha384 (cgets m 0 256 ++ cgets m 512 (leNat (cgets m 12 4)))
    | none => List.replicate 48 0

/-- The request needs a committed certificate (R513). -/
def needsCert (r : SpdmReq) : Bool :=
  match r with
  | .getDigests | .getCertificate | .challenge | .keyExchange => true
  | _ => false

/-- R512 to R514: the responder's answer to a request. -/
def spdmAnswer (s : State) (via : SpdmVia) (r : SpdmReq) : State :=
  let say := fun (s : State) (what : String) (d : Bytes) => spdmSay s via what d
  if bit s TST_SEC_STATUS_CLEARED || (needsCert r && !bit s TST_CERT_CTL_CERT_VALID) then say s "ERROR UnexpectedRequest" [] else
  match r with
  | .getVersion => say s "VERSION" [0x12, 0x13]
  | .getCapabilities => say s "CAPABILITIES" []
  | .negotiate => say s "ALGORITHMS" []
  | .getDigests => say s "DIGESTS" (Config.sha384 (cgets s.tst.cert 0 (rd s TST_CERT_CTL_LEN)))
  | .getCertificate => say s "CERTIFICATE" (cgets s.tst.cert 0 (min (rd s TST_CERT_CTL_LEN) 8192))
  | .challenge => say s "CHALLENGE_AUTH" []
  | .getMeasurements i =>
    if 1 ≤ i.val && i.val ≤ 10 then say s "MEASUREMENTS" (measurement s i)
    else if i.val = 0 then say s "MEASUREMENTS" [10]
    else if i.val = 255 then say s "MEASUREMENTS" ((List.range 10).flatMap (fun j => measurement s (j + 1)))
    else say s "ERROR InvalidRequest" []
  | .keyExchange =>
    let n := rd s TST_SEC_STATUS_SESSIONS
    if 32 ≤ n then say s "ERROR Busy" []
    else say (tstUpd (keyWritten (wr s TST_SEC_STATUS_SESSIONS 0 (n + 1))) (fun x => { x with exchange := some via })) "KEY_EXCHANGE_RSP" []
  | .endSession => say (wr s TST_SEC_STATUS_SESSIONS 0 (rd s TST_SEC_STATUS_SESSIONS - 1)) "END_SESSION_ACK" []
  | .other =>
    if s.tst.exchange = some via then say (tstUpd s (fun x => { x with exchange := none })) "RSP" [] else say s "ERROR UnsupportedRequest" []

/-- SPDM_REQUEST (R512): through a DOE mailbox or MCTP, once TRIM_OK. -/
def execSpdmRequest (via : SpdmVia) (r : SpdmReq) (s : State) : Res :=
  .next (if bit s RST_TRIM_TRIM_OK && bit s TST_SEC_STATUS_ID_READY then spdmAnswer s via r else s)

/-- MODE_TRANSITION_DONE (R44): the mode is reached; in TEST the selected tests begin. -/
def execModeTransitionDone (s : State) : Res :=
  .next (let was := mode s
    let s := transDone s
    if mode s == mTEST && was != mTEST then bistStart s else s)

end Sys2Proof.Machine
end

