-- ==== Sys2Proof/Machine/TickStart.lean ====
section
/-! DEFINITION. What a tick start does: gates, tick-bound windows, waiting jobs, triggers, LACE_TOUT and the tick messages
(R60, R63, R71, R72, R74, R119, R147, R152, Table 6-1). -/

namespace Sys2Proof.Machine

/-- Ticks close and decide PUs: not in QUIESCE (R152), nor in DRAIN (R425). -/
def ticksPlace (s : State) : Bool := running s

/-- The tick close for PU `u` of window `w` (Table 6-1): OPEN to GRACE; in a tick-bound window ASSIGNING to FREE, its held writes
discarded as misses and later ones at once until its next assignment (R150). A decision that the engine has not come to is made first (R151). -/
def tickClose (s : State) (w u : Nat) : State :=
  let s := if (puAt s u).state == 1 && !(puAt s u).noMem && bit s PLC_WIN_CTL_TICK_BOUND w then puDecide s u else s
  let e := puAt s u
  let tb := bit s PLC_WIN_CTL_TICK_BOUND w
  if e.state == 2 && (tb || bit s PLC_WIN_CTL_CLOSE_TICK w) then puSet s u { e with state := 3 }
  else if e.state == 1 && tb then
    let s := puFree (missDiscard (puUnhold s u) u e.held) u true
    puSet s u { (puAt s u) with drop := e.drop, window := w, head := e.head, slot := e.slot, pool := e.pool }
  else s

/-- R147: the decision for head `h` of tick-bound window `w` at the start of tick `t`; a slot that is not FREE makes none. -/
def tickDecide (s : State) (w : Nat) (t : TickPend) (h : Nat) : State :=
  let k := t.num % winD s w
  let u := rd s PLC_WIN_GEOM_PUBASE w + h * winD s w + k
  let e := puAt s u
  if e.state == 0 then
    let iv := if t.interval == 0xFFFFFFFF then rd s LCE_TICK_MIN else t.interval
    puSet s u { e with state := 1, window := w, head := h, slot := k, pool := rd s PLC_WIN_CTL_POOL w, tick := t.num,
                       ready := t.start + iv, noMem := false, redo := false, redirected := false }
  else
    let s := raise (inc s SLOT_BUSY w) 0x289 w
    recWait s { type := 7, pool := rd s PLC_WIN_CTL_POOL w, head := h, window := w, slot := k, tick := t.num }

/-- The enabled windows close and decide at the start of tick `t`. -/
def tickWindows (s : State) (t : TickPend) : State :=
  forEach (setIdx s PLC_WIN_CTL_EN) s (fun s w =>
    let s := forEach (s.plc.pu.filter (fun e => e.2.window == w)) s (fun s e => tickClose s w e.1)
    if bit s PLC_WIN_CTL_TICK_BOUND w then forEach (List.range (winH s w)) s (fun s h => tickDecide s w t h) else s)

/-- R72, R74: triggers in tick mode are scheduled, and LACE_TOUT gives its pulse. -/
def tickPins (s : State) (t : Nat) : State :=
  let s := forEach (List.range 16) s (fun s m =>
    if bit s TRIG_CTL_EN m && rd s TRIG_CTL_MODE m == 0 then schedule s m t else s)
  if bit s LCE_CTL_TOUT_EN then emit (emit s (.pin "LACE_TOUT" 0 true)) (.pin "LACE_TOUT" 0 false) else s

/-- R71: the tick message, with the record of the tick, on each up PCIe port of LCE_VDM_EN. -/
def tickMessages (s : State) (t : TickPend) : State :=
  forEach (List.range 64) s (fun s p =>
    if (rd s LCE_VDM_EN).testBit p && !isTlink s p && linkUp s p then
      formed s p 7 (portPt s p) (msgPkt { routing := 4, code := 0x7F, vendor := 0x3E4C, word := 1 } 0 7 (bridgeRid s p) (recordBytes (recordOf t)))
    else s)

/-- The registers of Lace at the start of tick `t` (R61, R63, Table 3-4). -/
def tickRegs (s : State) (t : TickPend) : State :=
  let s := lceUpd s (fun x => { x with prevStart := some t.start })
  let s := wr (wr s LCE_TICK_NOW 0 t.num) LCE_TICK_TIME 0 t.start
  let s := wr (wrb s LCE_STATUS_EARLY 0 t.early) LCE_STATUS_LATE 0 0
  if mode s == mQUIESCE then inc s TICK_QUIESCE else s

/-- The start of tick `t`. -/
def tickStart (s : State) (t : TickPend) : State :=
  let s := gateTick (tickRegs s t) t.num t.start
  let s := if ticksPlace s then tickWindows s t else s
  tickMessages (tickPins (resizeTicks (waitTicks s)) t.start) t

/-- TICK_START (R60): the oldest tick stamped starts; none starts while the tick former is in BLOCK reset (Table 17-3). -/
def execTickStart (s : State) : Res :=
  .next (match s.lce.pend with
    | [] => s
    | t :: l => if !laceRuns s || inBlockReset s 4 then s else tickStart (lceUpd s (fun x => { x with pend := l })) t)

end Sys2Proof.Machine
end

