-- ==== Sys2Proof/Machine/RegRead.lean ====
section
/-! DEFINITION. Reading registers: finding a register by its offset, the value of each field at a read, latched halves, RC fields,
and the byte areas (R518 to R522, R526, Table 21-3). -/

namespace Sys2Proof.Machine

/-! ### Finding a register -/

/-- The instance at distance `d` from a register's first instance, with what is left of the distance. -/
def dimIdx : List (Nat × Nat) → Nat → Nat → Option (Nat × Nat)
  | [], d, i => some (i, d)
  | (st, n) :: l, d, i => if d / st < n then dimIdx l (d % st) (i * n + d / st) else none

/-- Register `r` has a word at offset `a`: its instance, and whether it is the high half. -/
def regHit (r : Reg) (a : Nat) : Option (Nat × Bool) :=
  if a < r.off then none else
  match dimIdx r.dims (a - r.off) 0 with
  | some (i, 0) => some (i, false)
  | some (i, 4) => if r.wide then some (i, true) else none
  | _ => none

/-- The registers of the blocks that hold offset `a` (Table 21-1). -/
def regsFor (a : Nat) : List Reg :=
  if a < 0x300000 then regsA else if a < 0x600000 then regsB else if a < 0xB00000 then regsC else regsD

/-- The register with a word at offset `a`, its instance, and whether the word is its high half. -/
def regFind (a : Nat) : Option (Reg × Nat × Bool) :=
  (regsFor a).findSome? (fun r => (regHit r a).map (fun e => (r, e.1, e.2)))

/-- The instance of a field of the register instance `i`: queue-pair fields of a control page act on the pair that SLC_QP_SEL names; a
number at or above QP_COUNT is pair 0 (R214). -/
def fldIdx (s : State) (f : Fld) (i : Nat) : Nat :=
  if qpOffset f.off then
    let q := rd s SLC_QP_SEL i
    i * 256 + if (nget? s.slices i).any (fun x => q < x.qpCount) then q else 0
  else i

/-! ### Values taken at the read -/

/-- The word of PU entry `u` (Table 6-14). -/
def puWord (s : State) (u j : Nat) : Nat :=
  let e := puAt s u
  let b := fun (x : Bool) (n : Nat) => if x then 2 ^ n else 0
  match j with
  | 0 => e.state + b e.broken 3 + e.cause % 16 * 2 ^ 4 + e.sealR % 4 * 2 ^ 8 + b e.lateRisk 10 + b e.redirected 11 + b e.missed 12
    + e.member % 64 * 2 ^ 13 + e.pool % 1024 * 2 ^ 19 + e.window % 256 * 2 ^ 29 + e.head % 64 * 2 ^ 37 + e.slot % 64 * 2 ^ 43
    + e.hash % 256 * 2 ^ 49
  | 1 => e.tick % 2 ^ 48
  | 2 => e.bufTag % 4096 + e.bufAddr / 4096 * 4096
  | _ => e.ing % 2 ^ 25 + (if e.broken then e.brk else e.egr) % 2 ^ 25 * 2 ^ 25


/-- A truth value as a bit. -/
def asBit (b : Bool) : Nat := if b then 1 else 0

/-- The member selected in PLC_MBR_SEL. -/
def selMember (s : State) : Member := member s (rd s PLC_MBR_SEL_POOL) (rd s PLC_MBR_SEL_MEMBER)

/-- PTN_SLC_STAT, bit field at `lsb` (Table 13-8). -/
def slcStatVal (s : State) (lsb : Nat) : Nat :=
  let k := slcSel s
  let x := nget? s.slices k
  let live := fun (y : Slice) => ((List.range y.qpCount).filter (fun q => qpState s (k * 256 + q) != 0)).length
  match lsb with
  | 0 => asBit x.isSome
  | 1 => asBit (x.any (fun y => y.resetting && live y != 0))
  | 2 => (x.map live).getD 0
  | _ => asBit (s.rng.qp.any (fun e => e.2.jobs.any (fun j => j.st = .waiting && dOp j.desc == 15 && rszSlice j.desc == k)))

/-- Some slice reset runs (RST_STATUS.SLICE). -/
def sliceResetting (s : State) : Bool :=
  s.slices.any (fun e => e.2.resetting && (List.range e.2.qpCount).any (fun q => qpState s (e.1 * 256 + q) != 0))

/-- RST_STATUS, bit field at `lsb` (R465, Table 18-10). -/
def rstStatVal (s : State) (lsb : Nat) : Nat :=
  match lsb with
  | 0 => asBit (s.rst.coldWait && !s.rst.cold.isEmpty)
  | 1 => asBit s.rst.warm
  | 2 => asBit ((List.range 16).any (partInReset s))
  | 3 => asBit (s.prt.portRst.any (fun e => e.2 != []))
  | 4 => asBit ((List.range 18).any (inBlockReset s))
  | 5 => asBit (!s.rst.func.isEmpty)
  | 6 => asBit (sliceResetting s)
  | 7 => asBit (!s.rst.waits.isEmpty)
  | _ => maskOf 16 (partInReset s)

/-- RST_CLK, the bit at `lsb` (Table 18-10). -/
def rstClkVal (s : State) (lsb : Nat) : Nat :=
  match lsb with
  | 0 => asBit (!s.rst.sysLost)
  | 1 => asBit (!s.rst.unlocked.contains 0)
  | 2 => asBit (!s.rst.unlocked.contains 1)
  | 3 => asBit (!s.rst.unlocked.contains 2)
  | 4 => asBit (!s.rst.unlocked.contains 4)
  | 5 => asBit (!s.rst.unlocked.contains 3)
  | _ => asBit (s.rst.sysLost || s.rst.unlocked.contains 4)

/-- A count of errors that the line alone makes: while port `p` is neither DISABLED nor in DETECT it may have grown by a free value since it was last
stored. -/
def errsNow (s : State) (p : Nat) (stored : Nat) : Option Nat :=
  if [2, 3, 4].contains (rd s PRT_STATUS_STATE p) then some (min 0xFFFFFFFF (stored + Config.freeValue s.free)) else none

/-- The value of a field of GLB, LAN or PRT that is taken at the read. What a lane's receiver measures of the line alone is free. -/
def liveA (s : State) (f : Fld) (i : Nat) : Option Nat :=
  match f.off, f.lsb with
  | 0x100, _ => if s.flt.bkpBad.contains i then some 0 else none
  | 0x100008, _ => if bit s LAN_STATUS_IN_PORT i then errsNow s (rd s LAN_STATUS_PORT i) (rd s LAN_SYM_ERR i) else none
  | 0x100100, 8 => some (Config.freeValue s.free)
  | 0x200024, _ => errsNow s i (rd s RX_ERR i)
  | 0x200118, _ => some (match nget? s.prt.ptm i with
    | some t => min 0xFFFFFFFF ((s.now - t) / 1000)
    | none => 0xFFFFFFFF)
  | _, _ => none

/-- The value of a field of SHK, LCE or PLC that is taken at the read. -/
def liveB (s : State) (f : Fld) (i : Nat) : Option Nat :=
  match f.off, f.lsb with
  | 0x300004, 0 => some (maskOf 4 (fun q => grpUsed s q != 0))
  | 0x300004, 4 => some (rd s OFM_STATUS_FENCED)
  | 0x300004, 8 => some (asBit ((List.range 72).any (inputHeld s)))
  | 0x300004, 9 => some (asBit (mode s == mQUIESCE && !(List.range 72).any (inputHeld s)))
  | 0x300800, _ => some (bankFree s i)
  | 0x300804, _ => some (grpUsed s i)
  | 0x301004, _ => some (effGbps s i)
  | 0x341004, 4 => some (asBit (gatesApply s i))
  | 0x36000c, _ => some (max 0 (tokens s (i / 8) (i % 8) false / 8000)).toNat
  | 0x400030, _ => some (devTime s)
  | 0x50101c, 0 => some (min 0xFFFF (avail (selMember s)))
  | 0x50101c, 16 => some (min 127 (openPus s (rd s PLC_MBR_SEL_POOL) (rd s PLC_MBR_SEL_MEMBER)))
  | 0x50101c, _ => some (selMember s).cause
  | 0x52000c, 0 => some (eligibleSet s i).length
  | 0x52000c, 16 => some (rd s CKR_CLU_STATUS_SERVING (rd s PLC_POOL_CTL_CLUSTER i))
  | _, _ => none

/-- The value of a field of AWT, PTN, CKR, WLT or FAB that is taken at the read. -/
def liveC (s : State) (f : Fld) (i : Nat) : Option Nat :=
  let cut := fun (v k : Nat) => some (v / 2 ^ k * 2 ^ k)
  match f.off, f.lsb with
  | 0x600000, 0 => some (asBit (!s.awt.compare.isEmpty))
  | 0x600000, 2 => some ((awtValid s).filter (awtInForce s)).length
  | 0x700014, 1 => some (asBit (partInReset s i))
  | 0x70101c, l => some (slcStatVal s l)
  | 0x720000, 16 => some (asBit (xwPending s i))
  | 0x720008, _ => cut (rd s PTN_XW_BASE i) (rd s PTN_XW_CTL_K i)
  | 0x720010, _ => cut (rd s PTN_XW_TGT i) (rd s PTN_XW_CTL_K i)
  | 0x801008, _ => if rd s CKR_CLU_STATUS_STATE (i / 12) == 0 then none else some (Config.freeValue s.free)
  | 0xa00104, 0 => some (maskOf 4 (fun j => ((hopsOf s i)[j]?).any (hopUp s)))
  | 0xa00104, 16 => some (asBit (devReach s i))
  | 0xa01008, _ => cut (rd s FAB_GAP_BASE i) (rd s FAB_GAP_K i)
  | 0xa01010, _ => cut (rd s FAB_GAP_GBASE i) (rd s FAB_GAP_K i)
  | _, _ => none

/-- The value of a field of the blocks from OFM on, or of a control page, that is taken at the read; what a sensor measures is free. -/
def liveD (s : State) (f : Fld) (i : Nat) : Option Nat :=
  let free := fun (_ : Unit) => some (Config.freeValue (s.free + f.lsb))
  match f.off, f.lsb with
  | 0xb00008, _ => some (durHeld s)
  | 0xb0000c, _ => some (if durOn s then rd s PWD_HU_BUDGET else 0)
  | 0xb00040, _ => some (grpFree s i)
  | 0xb00120, _ => some (ofmUse s (i / 8) (i % 8))
  | 0xc00004, 0 => some (asBit (pairStatic s))
  | 0xc00004, 2 => some (asBit (setIdx s FLT_SEV_PATH_BROKEN != []))
  | 0xc00004, 3 => some (asBit ((List.range 18).any (fun b => rd s FLT_BLK_STATE b == 1 || rd s FLT_BLK_STATE b == 2)))
  | 0xc00004, 16 => some (setIdx s FLT_SEV_STICKY).length
  | 0xc00028, _ => if mode s == mFACTORY then none else some 0
  | 0xc00200, 2 => some (min 7 (blkRecent s i))
  | 0xd00010, l => some (rstStatVal s l)
  | 0xd00014, 0 => some (maskOf 16 (fun n => !s.rst.perst.contains n))
  | 0xd00014, _ => some (asBit (!s.rst.rstLow))
  | 0xd00020, l => some (rstClkVal s l)
  | 0xe00004, _ => free ()
  | 0xe0001c, _ => free ()
  | 0xe0010c, 5 => if slotDriven s i then free () else none
  | 0xe00110, _ => free ()
  | 0xe00604, 0 => free ()
  | 0xe00630, _ => free ()
  | 0xe00604, 16 => some (asBit (!s.pwr.failed.contains i))
  | 0xe00604, _ => some (asBit (s.pwr.failed.contains i))
  | 0xe00804, 16 => some (heelAge s)
  | 0xf00044, 5 => some (asBit s.rst.testEn)
  | 0xf00100, _ => some ((List.range 4).foldl (fun a j => if 4 * i + j < 97 then a + Config.idPub (4 * i + j) % 256 * 256 ^ j else a) 0)
  | 0x20000000, _ => some (((nget? s.slices i).map (·.qpCount)).getD 0)
  | 0x20000004, _ => some (((nget? s.slices i).map (·.pasid)).getD 0)
  | 0x20000010, _ => some (fldIdx s QP_CTL_EN i % 256)
  | 0x20000034, 8 => some (((nget? s.slices (i / 256)).map (fun x => x.qpBase + i % 256)).getD 0)
  | _, _ => none

/-- The value of a field that is taken at the read, where it has one (Table 21-3, "live"). -/
def liveVal (s : State) (f : Fld) (i : Nat) : Option Nat :=
  if f.off < 0x300000 then liveA s f i else if f.off < 0x600000 then liveB s f i
  else if f.off < 0xB00000 then liveC s f i else liveD s f i

/-- What a read of field `f` returns (Table 0-5): WO fields read 0. -/
def fldVal (s : State) (f : Fld) (i : Nat) : Nat :=
  let j := fldIdx s f i
  if f.acc = .wo then 0 else ((liveVal s f j).getD (rd s f j)) % 2 ^ f.width

/-- The value of a register. -/
def regVal (s : State) (r : Reg) (i : Nat) : Nat := r.flds.foldl (fun a f => a + fldVal s f i * 2 ^ f.lsb) 0

/-! ### Byte areas -/

/-- The byte of retained memory at offset `a` of manager BAR0; of an uncorrectable word, 0 (R530). -/
def retByte (s : State) (a : Nat) : Byte :=
  if s.flt.retBad.contains ((a - 0x8000) / 8) then 0 else cget s.flt.ret (a - 0x8000)

/-- The byte at offset `a` where it lies in no register: image window, retained memory, certificate window. -/
def areaByte (s : State) (a : Nat) : Option Byte :=
  if 0x4000000 ≤ a && a < 0x8000000 then some (imageByte s (a - 0x4000000))
  else if 0x8000 ≤ a && a < 0x9000 then some (retByte s a)
  else if 0xF01000 ≤ a && a < 0xF03000 then some (cget s.tst.cert (a - 0xF01000))
  else none

/-! ### Reads -/

/-- The number under which a master's halves are held and latched (R521); 3 is the host of a partition at its own BARs. -/
def busNum : Master → Nat
  | .inband => 0 | .mgmt => 1 | .awl => 2

/-- The key of a held or latched half. -/
def busKey (b a : Nat) : Nat := b * 2 ^ 30 + a

/-- An unmapped access (R519). -/
def unmapped (s : State) : State := raise (inc s GLB_UNMAPPED) 0x002

/-- Neither an area nor a register lies at the word `w`. -/
def noWord (s : State) (w : Nat) : Bool := (areaByte s w).isNone && (regFind w).isNone

/-- R526: the RC fields of register `r` whose bytes in the word at `w` are all read become 0. -/
def rcClear (s : State) (r : Reg) (i w : Nat) (high : Bool) (en : Nat → Bool) : State :=
  let base := if high then 32 else 0
  forEach (r.flds.filter (fun f => f.acc = .rc && base ≤ f.lsb && f.lsb < base + 32)) s (fun s f =>
    let lo := (f.lsb - base) / 8
    let hi := (f.lsb - base + f.width - 1) / 8
    if (List.range (hi + 1 - lo)).all (fun k => en (w + lo + k)) then wr s f (fldIdx s f i) 0 else s)

/-- R520, R521: the word at offset `w`, read by master number `b`; `en` says which bytes are read. Eight bytes that are unmapped are one
access (R519). -/
def wordRead (s : State) (b w : Nat) (en : Nat → Bool) : State × Nat :=
  match areaByte s w with
  | some _ => (s, leNat ((List.range 4).map (fun j => (areaByte s (w + j)).getD 0)))
  | none =>
    match regFind w with
    | none => (if w % 8 == 4 && en (w - 1) && noWord s (w - 4) then s else unmapped s, 0)
    | some (r, i, high) =>
      let v := regVal s r i
      let s := { s with free := s.free + 32 }
      let k := busKey b w
      let s := rcClear s r i w high en
      if !r.wide then (s, v)
      else if high then
        if en (w - 1) then (s, v / 2 ^ 32) else
        match nget? s.bus.hi k with
        | some h => ({ s with bus := { s.bus with hi := ndel s.bus.hi k } }, h)
        | none => (s, v / 2 ^ 32)
      else
        let s := if en (w + 4) then s else { s with bus := { s.bus with hi := nput s.bus.hi (k + 4) (v / 2 ^ 32) } }
        (s, v % 2 ^ 32)

/-- The words from `w` on, `n` of them, as bytes. -/
def wordsRead (b : Nat) (en : Nat → Bool) : Nat → State → Nat → State × Bytes
  | 0, s, _ => (s, [])
  | n + 1, s, w =>
    let (s, v) := wordRead s b w en
    let (s, l) := wordsRead b en n s (w + 4)
    (s, leBytes 4 v ++ l)

/-- How a master's access to offset `off` is turned away: 3 NOT_AVAIL by the mode (R522), 1 by a BLOCK reset (R439), 0 not. -/
def accCode (s : State) (m : Master) (off : Nat) (w : Bool) : Nat :=
  if !modeAllows s m off w then 3 else if inBlockReset s (blockOf off) then 1 else 0

/-- A read of the bytes from `off` on, `en` of them, by master `m`: the state, the bytes, and the code that ends it. An access that the
mode turns away reads 0. -/
def masterRead (s : State) (m : Master) (off len : Nat) (en : Nat → Bool) : State × Bytes × Nat :=
  let w := off / 4 * 4
  let n := (off + len + 3) / 4 - off / 4
  match accCode s m off false with
  | 0 =>
    let (s, l) := wordsRead (busNum m) en n s w
    (s, (l.drop (off - w)).take len, 0)
  | c => (s, List.replicate len 0, c)

end Sys2Proof.Machine
end

