-- ==== Sys2Proof/Machine/RegWrite.lean ====
section
/-! DEFINITION. Writing registers: locks, what a write stores, the actions of WO and W1S fields and of enables, held halves,
partial and longer writes, the byte areas, and collisions of masters (R520, R521, R524, R525, R529, R530). -/

namespace Sys2Proof.Machine

/-! ### Locks and stores -/

/-- The lock that field `f` names is set for its instance `i` (Table 0-5, RWL). -/
def fldLocked (s : State) (f : Fld) (i : Nat) : Bool :=
  match f.lock with
  | .free => false
  | .layout => bit s GLB_MODE_REQ_LAYOUT_LOCK
  | .modeLocked => bit s GLB_MODE_LOCKED
  | .follower => rd s LCE_CTL_ROLE == 2
  | .setup => mode s != mSETUP
  | .setupQuiesce => mode s != mSETUP && mode s != mQUIESCE
  | .portOff => rd s PRT_STATUS_STATE i != 0
  | .portOff8 => rd s PRT_STATUS_STATE (i / 8) != 0
  | .gateBank => i / 64 % 2 == activeBank s (i / 128) || bit s SHK_GATE_STATUS_ARMED (i / 128)
  | .winEn => bit s PLC_WIN_CTL_EN i
  | .poolEn => bit s PLC_POOL_CTL_EN i
  | .awtLock => bit s AWT_W0_LOCK i
  | .bankOwner => (awtValid s).any (fun e => rd s AWT_W2_OWNER e == i && !bit s AWT_W0_LOCK e)
  | .remapValid => bit s PTN_RID_VALID i
  | .partEn => bit s PTN_CFG_EN i
  | .expEn => bit s FAB_EXP_EN i
  | .gapEn => bit s FAB_GAP_EN i
  | .pairEn => bit s WLT_PAIR_CTL_EN i
  | .sevLock => bit s FLT_CTL_SEV_LOCK
  | .dbgLock => bit s TST_DBG_LOCK
  | .qpEn => bit s QP_CTL_EN i
  | .schLow => 4 < i % 8

/-- Enables and bits whose writes an action of their register handles. -/
def acted (f : Fld) : Bool :=
  [(0x510000, 0), (0x520000, 0), (0x700010, 0), (0x910000, 0), (0xa01000, 0), (0xe00100, 0), (0xe00800, 0), (0x802080, 1),
   (0x20000030, 0)].contains (f.off, f.lsb)

/-- The bits of register value `v` that field `f` takes. -/
def fldOf (f : Fld) (v : Nat) : Nat := v / 2 ^ f.lsb % 2 ^ f.width

/-- The register value `v` written to field `f` of register instance `i` (Table 0-5); `s0` is the state before the write, by
which locks count. -/
def fldWrite (s0 s : State) (f : Fld) (i v : Nat) : State :=
  let j := fldIdx s0 f i
  let x := fldOf f v
  if acted f then s else
  match f.acc with
  | .rw | .rwl => if fldLocked s0 f j then s else wr s f j (storVal f.stor x)
  | .w1c => wr s f j (rd s f j - Nat.land (rd s f j) x)
  | .w1s => if f.off = 0xc00000 || f.off = 0xf00048 then wr s f j (Nat.lor (rd s f j) x) else s
  | _ => s

/-- Bit `n` of a written value is 1. -/
def setsBit (v n : Nat) : Bool := v.testBit n

/-- `f` where bit `n` of the written value is 1. -/
def onBit (s : State) (v n : Nat) (f : State → State) : State := if setsBit v n then f s else s

/-! ### Registers whose write is one operation -/

/-- RST_CMD (R461): with its key, WARM, PART and PORT. -/
def rstCmd (s : State) (v : Nat) : State :=
  if v / 2 ^ 24 % 256 != 0xA5 then s else
  let n := v / 256 % 16
  let p := v / 4096 % 64
  let s := onBit s v 1 (fun s => if bit s PTN_CFG_EN n then partAssert s n 1 else s)
  let s := onBit s v 2 (fun s => if rd s PRT_STATUS_STATE p != 0 then portReset s p 0 else s)
  onBit s v 0 regWarm

/-- TST_SEC_CMD (Table 20-8). -/
def secCmd (s : State) (v : Nat) : State :=
  let key := v / 2 ^ 24 % 256
  if key != 0xA5 then wr s TST_SEC_CMD_RESULT 0 3 else
  onBit (onBit s v 0 (fun s => secretsClear s key (setsBit v 2))) v 1 (fun s => secretsVerify s key)

/-- FLT_SEV (R431, R433, R436): an ID that is not implemented ignores writes. -/
def sevWrite (s : State) (n v : Nat) : State :=
  if sevImpl n == 0 then s else
  let s := if bit s FLT_CTL_SEV_LOCK then s else wr s FLT_SEV_SEV n (min 5 (v % 8))
  onBit s v 4 (fun s => stickyClear s n)

/-- PLC_PU_SEL: the entry's words are sampled at the write. -/
def puSelect (s : State) (v : Nat) : State :=
  let s := wr s PLC_PU_SEL 0 v
  forEach (List.range 4) s (fun s j => wr s PLC_PU_DATA j (puWord s (rd s PLC_PU_SEL) j))

/-- A word of AWT entry `i` (R374, R392). -/
def awtWord (s : State) (m : Master) (i j v : Nat) : State :=
  if j = 0 then awtCommit s m i v else if bit s AWT_W0_LOCK i then awtLockHit s m else awtShadowWrite s i j v

/-- The operation that a write of value `v` to instance `i` of the register at `off` is, where the register has one. -/
def regWhole (s : State) (m : Master) (off i v : Nat) : Option State :=
  match off with
  | 0x300900 => some (voqSelect s v)
  | 0x360000 => some (rateSet s false (i / 8) (i % 8) (v % 2 ^ 20))
  | 0x360004 => some (burstSet s false (i / 8) (i % 8) (v % 2 ^ 24))
  | 0x370004 => some (rateSet s true (i / 8) (i % 8) (v % 2 ^ 20))
  | 0x370008 => some (burstSet s true (i / 8) (i % 8) (v % 2 ^ 24))
  | 0x400000 => some (tickSourceSet s v)
  | 0x400008 => some (tickMinSet s v)
  | 0x40000c => some (tickMaxSet s v)
  | 0x400038 => some (timeOfsSet s v)
  | 0x400040 => some (presetSet s v)
  | 0x400108 => some (encPosSet s i v)
  | 0x502000 => some (puSelect s (v % 65536))
  | 0x610000 => some (awtWord s m i 0 v)
  | 0x610008 => some (awtWord s m i 1 v)
  | 0x610010 => some (awtWord s m i 2 v)
  | 0x610018 => some (awtWord s m i 3 v)
  | 0x710000 => some (remapWrite s i v)
  | 0xa00100 => some (devWrite s i v)
  | 0xb00000 => some (durTcSet s v)
  | 0xb00100 => some (ofmQuotaSet s i v)
  | 0xc10000 => some (sevWrite s i v)
  | 0xd00008 => some (rstCmd s v)
  | 0xe00010 => some (feedCtlSet s i v)
  | 0xe00818 => some (heelParam s 0 v)
  | 0xe0081c => some (heelParam s 1 v)
  | 0xe00820 => some (heelParam s 2 v)
  | 0xe00824 => some (heelParam s 3 v)
  | 0xe00828 => some (heelParam s 4 v)
  | 0xe0082c => some (heelParam s 5 v)
  | 0xf00040 => some (secCmd s v)
  | _ => none

/-! ### What follows the store -/

/-- PLC_POOL_CTL.EN (Table 6-10): 0 is refused while an enabled window names the pool. -/
def poolEnable (s : State) (p : Nat) (on : Bool) : State :=
  if on then wr s PLC_POOL_CTL_EN p 1
  else if (setIdx s PLC_WIN_CTL_EN).any (fun w => rd s PLC_WIN_CTL_POOL w == p) then s else wr s PLC_POOL_CTL_EN p 0

/-- TRIGm_CTL (R72): an output switched off ends its pulse; the pin follows EN and POL. -/
def trigWritten (s0 s : State) (m v : Nat) : State :=
  let off := bit s0 TRIG_CTL_EN m && !bit s TRIG_CTL_EN m
  let s := if off then lceUpd s (fun x => { x with active := x.active.filter (· != m) }) else s
  let s := if off || bit s0 TRIG_CTL_POL m != bit s TRIG_CTL_POL m then emit s (trigPin s m (s.lce.active.contains m)) else s
  onBit s v 6 (fun s => softFire s m)

/-- QP_CTL of control page `i` (R211, Table 7-12). -/
def qpCtl (s : State) (i v : Nat) : State :=
  let k := fldIdx s QP_CTL_EN i
  if !qpLive s k then s else
  let s := if setsBit v 0 then (if bit s QP_CTL_EN k then s else qpEnable s k) else if bit s QP_CTL_EN k then qpStop s k else s
  onBit s v 1 (fun s => qpResume s k)

/-- The actions of a write of `v` to instance `i` of the register at `off`, after its fields are stored; several bits act in
ascending order but for CANCEL, which goes before GO. `s0` is the state before the write. -/
def regActs (s0 s : State) (off i v : Nat) : State :=
  match off with
  | 0x14 =>
    let s := if rd s0 GLB_MODE_REQ_LAYOUT == rd s GLB_MODE_REQ_LAYOUT then s else holdPorts (ptnStat s)
    onBit s v 4 modeGo
  | 0x100 => { s with flt := { s.flt with bkpBad := s.flt.bkpBad.filter (· != i) } }
  | 0x200004 =>
    onBit (onBit (onBit s v 0 (fun s => portEnableCmd s i)) v 1 (fun s => portDisableAt s i)) v 2 (fun s => portRetrainAt s i)
  | 0x340010 => onBit (onBit s v 1 gateCommitCancel) v 0 gateCommitStart
  | 0x350000 =>
    if fldLocked s0 SHK_GATE_ENT_END i then s else { s with gate := { s.gate with badEnt := s.gate.badEnt.filter (· != i) } }
  | 0x400100 => if bit s0 ENC_CTL_EN i && !bit s ENC_CTL_EN i then encUnlock s i else s
  | 0x400200 => trigWritten s0 s i v
  | 0x501020 => onBit (onBit s v 0 memberApply) v 1 memberLoad
  | 0x510000 => if setsBit v 0 then windowOn s i else windowOff s i
  | 0x520000 => poolEnable s i (setsBit v 0)
  | 0x600008 => onBit s v 0 awtFenceStart
  | 0x600200 => onBit s v 2 (fun s => bankSwap s i)
  | 0x600810 => onBit s v 12 awlGo
  | 0x700010 => if setsBit v 0 then partEnable s i else partDisable s i
  | 0x701018 =>
    onBit (onBit (onBit (onBit (onBit s v 0 slcCreate) v 1 slcDelete) v 2 slcRecreate) v 3 slcReset) v 4 slcLoad
  | 0x730000 => onBit s v 10 (fun s => xwCommit s (rd s PTN_XW_COMMIT_WIN) (bit s PTN_XW_COMMIT_ALL))
  | 0x800000 => onBit (onBit s v 0 imageVerify) v 1 imageInstall
  | 0x800108 =>
    onBit (onBit (onBit s v 0 (fun s => cluSwap s i)) v 1 (fun s => cluRestore s i)) v 2 (fun s => cluReclaim s i)
  | 0x801000 =>
    onBit s v 0 (fun s => engRestore { s with free := s.free + 1 } i (Config.freeValue s.free % 2 == 1))
  | 0x802080 => onBit (onBit s v 1 (fun s => mbxClear s i)) v 0 (fun s => mbxReq s i)
  | 0x910000 => if setsBit v 0 then pairEnableAt s i else pairDisableAt s i
  | 0xa01000 => if setsBit v 0 then gapEnable s (i / 4) (i % 4) else wr s FAB_GAP_EN i 0
  | 0xb00018 => if v % 16 = 0 then s else ofmRestore s (v % 16)
  | 0xc00028 => onBit s v 14 faultInject
  | 0xc00030 => onBit (onBit s v 12 (fun s => fltRestore s (rd s FLT_CMD_SRC))) v 13 stickyClearAll
  | 0xe00100 =>
    let s := if bit s PWD_SLOT_CTL_ON i == setsBit v 0 then s else slotPower s i (setsBit v 0)
    onBit s v 9 (fun s => slotClrFet s i)
  | 0xe00800 =>
    let s := if setsBit v 0 then (if bit s PWD_HU_CTL_EN then s else heelEnable s) else durEval (wr s PWD_HU_CTL_EN 0 0)
    onBit s v 1 heelMeasure
  | 0xf00048 => raiseIf (!bit s0 TST_DBG_JTAG_AWL && bit s TST_DBG_JTAG_AWL) s 0x797
  | 0xf00200 => onBit s v 15 certCommit
  | 0x20000030 => qpCtl s i v
  | _ => s

/-- FLT_INJ outside FACTORY, and a queue-pair register of a page without that pair, take no write (R457, R532). -/
def regDead (s : State) (r : Reg) (i : Nat) : Bool :=
  (r.off == 0xc00028 && mode s != mFACTORY)
    || (qpOffset r.off && r.flds.any (fun f => !qpLive s (fldIdx s f i)))

/-- A write of the whole value `v` to instance `i` of register `r`. -/
def regWrite (s : State) (m : Master) (r : Reg) (i v : Nat) : State :=
  if regDead s r i then s else
  match regWhole s m r.off i v with
  | some t => t
  | none => regActs s (r.flds.foldl (fun t f => fldWrite s t f i v) s) r.off i v

/-- R521, R374: what the half that is not written holds: the stored fields, or the shadow of words 1 to 3 of an AWT entry. -/
def regKept (s : State) (r : Reg) (i : Nat) : Nat :=
  if 0x610000 < r.off && r.off < 0x610020 then awtShadow s i ((r.off - 0x610000) / 8)
  else (r.flds.filter (fun f => f.acc = .rw || f.acc = .rwl)).foldl (fun a f => a + rd s f (fldIdx s f i) * 2 ^ f.lsb) 0

/-- One half of a 64-bit register takes effect with the other as it is. -/
def halfWrite (s : State) (m : Master) (r : Reg) (i v : Nat) (high : Bool) : State :=
  let k := regKept s r i
  regWrite s m r i (if high then v * 2 ^ 32 + k % 2 ^ 32 else k / 2 ^ 32 * 2 ^ 32 + v)

/-! ### Words and areas -/

/-- A word of the certificate window (Table 20-5). -/
def certWrite (s : State) (a v : Nat) : State :=
  wr { s with tst := { s.tst with cert := cputs s.tst.cert (a - 0xF01000) (leBytes 4 v) } } TST_CERT_CTL_CERT_VALID 0 0

/-- R519, R521: a 4-byte write of `v` at offset `a` by master `m`, whose halves are held under number `b`. -/
def wordWrite (s : State) (m : Master) (b a v : Nat) : State :=
  if 0xF01000 ≤ a && a < 0xF03000 then certWrite s a v else
  match regFind a with
  | none => unmapped s
  | some (r, i, high) =>
    if !r.wide then regWrite s m r i v
    else if !high then { s with bus := { s.bus with lo := nput s.bus.lo (busKey b a) v } }
    else match nget? s.bus.lo (busKey b (a - 4)) with
      | some l => regWrite { s with bus := { s.bus with lo := ndel s.bus.lo (busKey b (a - 4)) } } m r i (v * 2 ^ 32 + l)
      | none => halfWrite s m r i v true

/-- R530: a write of `data`, with its enables, from offset `a` on in the software half of retained memory, word by word. -/
def retWrite (s : State) (a : Nat) (data : List (Byte × Bool)) : State :=
  let byte := fun (x : Nat) => if a ≤ x then (data[x - a]?).filter (·.2) else none
  forEach (List.range ((a + data.length + 7) / 8 - a / 8)) s (fun s k =>
    let w := a / 8 + k
    let l := (List.range 8).filterMap (fun j => (byte (w * 8 + j)).map (fun e => (w * 8 + j, e.1)))
    let bad := s.flt.retBad.contains (w - 0x1000)
    if w < 0x1100 || 0x1200 ≤ w || (bad && l.length != 8) then s else
    { s with flt := { s.flt with
        ret := l.foldl (fun r e => cput r (e.1 - 0x8000) e.2) s.flt.ret
        retBad := s.flt.retBad.filter (· != w - 0x1000) } })

/-- R398, R399: bytes written to the image window; only the staging buffer takes them. -/
def imageWrite (s : State) (a : Nat) (data : List (Byte × Bool)) : State :=
  forEach (data.zipIdx.filter (fun e => e.1.2 && a + e.2 < 0x4200000)) s (fun s e => stagingPut s (a + e.2 - 0x4000000) [e.1.1])

/-! ### One write of one master (R520) -/

/-- Offset `a` lies in an area that takes any length. -/
def inArea (a : Nat) : Bool := (0x4000000 ≤ a && a < 0x8000000) || (0x8000 ≤ a && a < 0x9000)

/-- The words that `w` touches, the words 0 of AWT entries after their other words (R374). -/
def wordsOf (w : RegWr) : List Nat :=
  let a := w.off.toNat
  let l := (List.range ((a + w.data.length + 3) / 4 - a / 4)).map (fun k => a / 4 * 4 + 4 * k)
  if 0x610000 ≤ a && a < 0x650000 then l.filter (fun x => x / 8 % 4 != 0) ++ l.filter (fun x => x / 8 % 4 == 0) else l

/-- Every byte of the word at `x` is written. -/
def wordFull (w : RegWr) (x : Nat) : Bool :=
  w.off.toNat ≤ x && (List.range 4).all (fun j => (w.data[x + j - w.off.toNat]?).any (·.2))

/-- The value that `w` writes at the full word `x`. -/
def wordVal (w : RegWr) (x : Nat) : Nat := leNat (((w.data.drop (x - w.off.toNat)).take 4).map (·.1))

/-- The 64-bit register that an 8-byte write is to, in one step (R521). -/
def wideAt (w : RegWr) : Option (Reg × Nat) :=
  let a := w.off.toNat
  if w.data.length = 8 && a % 8 = 0 && wordFull w a && wordFull w (a + 4) then
    match regFind a with
    | some (r, i, false) => if r.wide then some (r, i) else none
    | _ => none
  else none

/-- A write, less the words that a collision took from it (R525), to registers and areas that answer. -/
def regStore (s : State) (b : Nat) (w : RegWr) (lost : Nat → Bool) : State :=
  let a := w.off.toNat
  if 0x4000000 ≤ a && a < 0x8000000 then imageWrite s a w.data
  else if 0x8000 ≤ a && a < 0x8800 then inc s GLB_BAD_ACC
  else if 0x8800 ≤ a && a < 0x9000 then retWrite s a w.data
  else match wideAt w with
    | some (r, i) =>
      let s := { s with bus := { s.bus with lo := ndel s.bus.lo (busKey b a) } }
      if lost a && lost (a + 4) then s
      else if lost a then halfWrite s w.m r i (wordVal w (a + 4)) true
      else if lost (a + 4) then halfWrite s w.m r i (wordVal w a) false
      else regWrite s w.m r i (wordVal w a + wordVal w (a + 4) * 2 ^ 32)
    | none =>
      forEach (wordsOf w) s (fun s x =>
        if !wordFull w x then inc s GLB_BAD_ACC
        else if lost x || (x == a + 4 && w.data.length == 8 && a % 8 == 0 && noWord s a && noWord s x) then s
        else wordWrite s w.m b x (wordVal w x))

/-- A master's write, as its mode and the block allow it (R439, R522). -/
def masterWrite (s : State) (w : RegWr) (lost : Nat → Bool) : State :=
  asMaster s w.m w.off.toNat (fun s => regStore s (busNum w.m) w lost)

/-! ### Collisions (R525) -/

/-- The registers' words that `w` writes where it takes effect. -/
def collideWords (s : State) (w : RegWr) : List Nat :=
  if inArea w.off.toNat || accCode s w.m w.off.toNat true != 0 then []
  else (wordsOf w).filter (fun x => wordFull w x && (regFind x).isSome)

/-- The masters whose writes meet at word `x`, as a mask. -/
def mastersAt (s : State) (ws : List RegWr) (x : Nat) : Nat :=
  let has := fun (m : Master) => ws.any (fun w => w.m = m && (collideWords s w).contains x)
  asBit (has .inband) + 2 * asBit (has .mgmt) + 4 * asBit (has .awl)

/-- The number of the master that stands among those of mask `k`: the last in the order in-band, management bus, Awl. -/
def winner (k : Nat) : Nat := if k.testBit 2 then 2 else if k.testBit 1 then 1 else 0

/-- The words at which writes of several masters meet, each once, in ascending order of the first write's words. -/
def collisions (s : State) (ws : List RegWr) : List Nat :=
  ((ws.flatMap (collideWords s)).eraseDups).filter (fun x => let k := mastersAt s ws x; k != winner k + 1 && k != 0 && k != 4)

/-- A collision at word `x` is counted, recorded if none is, and raised. -/
def collide (s : State) (x k : Nat) : State :=
  let s := inc s WRITE_COLLIDE
  let s := if bit s GLB_COLLIDE_VALID then s else
    wr (wr (wr (wr s GLB_COLLIDE_VALID 0 1) GLB_COLLIDE_MASTERS 0 k) GLB_COLLIDE_WINNER 0 (winner k)) GLB_COLLIDE_ADDR 0 x
  raise s 0x001

/-- The writes of one management clock cycle: the collisions are recorded, then the writes take effect in the order in-band,
management bus, Awl, each without the words that a later master writes too. -/
def writesApply (s : State) (ws : List RegWr) : State :=
  let hit := (collisions s ws).map (fun x => (x, mastersAt s ws x))
  let s1 := forEach hit s (fun s e => collide s e.1 e.2)
  let by' := fun (m : Master) => ws.filter (fun w => w.m = m)
  forEach (by' .inband ++ by' .mgmt ++ by' .awl) s1 (fun s w =>
    masterWrite s w (fun x => hit.any (fun e => e.1 == x && winner e.2 != busNum w.m)))

end Sys2Proof.Machine
end

