-- ==== Sys2Proof/Machine/RegAccess.lean ====
section
/-! DEFINITION. The commands that access registers: writes and reads by the three masters, the register-bus timeout, the
management bus and JTAG (R473 to R475, R516, R520, R523). -/

namespace Sys2Proof.Machine

/-- REGISTER_WRITE (R520, R525). -/
def execRegisterWrite (ws : List RegWr) (s : State) : Res := .next (writesApply s ws)

/-- How an access that ends with `code` shows at its master: Completer Abort in-band, STATUS over the management bus,
AWL_STATUS at the Awl (R475, R522, R523). In-band, NOT_AVAIL is data of zeros. -/
def accEnd (s : State) (m : Master) (data : Bytes) (code : Nat) : State :=
  match m with
  | .inband => emit s (.answer m (if code = 1 then [] else data))
  | .mgmt => emit { s with mgmtStatus := code } (.answer m data)
  | .awl => emit (if code = 0 then s else wr s AWL_STATUS 0 5) (.answer m data)

/-- A register read of `len` bytes by master `m`, with every byte enable set. -/
def regReadAt (s : State) (m : Master) (off len : Nat) : State :=
  let r := masterRead s m off len (fun x => off ≤ x && x < off + len)
  accEnd r.1 m r.2.1 r.2.2

/-- REGISTER_READ (R520). -/
def execRegisterRead (m : Master) (off : BitVec 28) (len : Nat) (s : State) : Res := .next (regReadAt s m off.toNat len)

/-- REGISTER_TIMEOUT (R523): the access ends, and the register-bus timeout source is raised. -/
def execRegisterTimeout (m : Master) (_off : BitVec 28) (s : State) : Res := .next (accEnd (raise s 0x008) m [] 1)

/-! ### The management bus -/

/-- R473, R474: a transfer of command `code`: it is not acknowledged before step 2 of Table 18-4, and is ignored where its PEC fails. -/
def mgmtTake (s : State) (code : Nat) (pec : Bool) (f : State → State) : State :=
  if s.rst.coldWait then s
  else if !pec then { s with mgmtStatus := 4 }
  else f { s with rst := { s.rst with lastCmd := code } }

/-- R473: an address that the bus can name: 4-byte aligned and below 0x1000_0000. -/
def mgmtAddrOk (a : BitVec 32) : Bool := a.toNat % 4 == 0 && a.toNat < 0x10000000

/-- The answer to a READ: STATUS and the data. -/
def mgmtAnswer (s : State) (data : Bytes) : State := emit s (.answer .mgmt (BitVec.ofNat 8 s.mgmtStatus :: data))

/-- MGMT_READ (R474): an access that ends with a status other than OK returns zeros. -/
def execMgmtRead (addr : BitVec 32) (n : BitVec 8) (pec : Bool) (s : State) : Res :=
  .next (mgmtTake s 0x01 pec (fun s =>
    let len := 4 * n.toNat
    let a := addr.toNat
    if n = 0 || 7 < n.toNat then mgmtAnswer { s with mgmtStatus := 6 } []
    else if !mgmtAddrOk addr then mgmtAnswer { s with mgmtStatus := 2 } (List.replicate len 0)
    else
      let r := masterRead s .mgmt a len (fun x => a ≤ x && x < a + len)
      mgmtAnswer { r.1 with mgmtStatus := r.2.2 } r.2.1))

/-- MGMT_WRITE (R474). -/
def execMgmtWrite (addr : BitVec 32) (data : List (BitVec 32)) (pec : Bool) (s : State) : Res :=
  .next (mgmtTake s 0x02 pec (fun s =>
    if data.isEmpty || 7 < data.length then { s with mgmtStatus := 6 }
    else if !mgmtAddrOk addr then { s with mgmtStatus := 2 }
    else writesApply s [{ m := .mgmt, off := BitVec.ofNat 28 addr.toNat
                          data := data.flatMap (fun v => (leBytes 4 v.toNat).map (fun b => (b, true))) }]))

/-- MGMT_LAST (R474): STATUS and code of the last command, and GLB_MODE. -/
def execMgmtLast (pec : Bool) (s : State) : Res :=
  .next (mgmtTake s s.rst.lastCmd pec (fun s =>
    emit s (.answer .mgmt (BitVec.ofNat 8 s.mgmtStatus :: BitVec.ofNat 8 s.rst.lastCmd ::
      (masterRead s .mgmt GLB_MODE_CUR.off 4 (fun _ => true)).2.1))))

/-- MGMT_MCTP (R474, R475): an SPDM request goes to the responder, which answers under R512. -/
def execMgmtMctp (req : SpdmReq) (pec : Bool) (s : State) : Res :=
  .next (mgmtTake s 0x0F pec (fun s =>
    let s := { s with mgmtStatus := 0 }
    if bit s RST_TRIM_TRIM_OK && bit s TST_SEC_STATUS_ID_READY then spdmAnswer s .mctp req else s))

/-- MGMT_WARM (R474, R475): the key bytes 0xA5, 0x5A. -/
def execMgmtWarm (key : BitVec 16) (pec : Bool) (s : State) : Res :=
  .next (mgmtTake s 0x10 pec (fun s =>
    if key != 0x5AA5 then { s with mgmtStatus := 5 } else wr (warmGo { s with mgmtStatus := 0 }) RST_CAUSE_CMD_WARM 0 1))

/-- MGMT_COLD (R474, R475). -/
def execMgmtCold (key : BitVec 16) (pec : Bool) (s : State) : Res :=
  .next (mgmtTake s 0x11 pec (fun s =>
    if key != 0x5AA5 then { s with mgmtStatus := 5 } else wr (coldGo (resetNotice { s with mgmtStatus := 0 }) 1) RST_CAUSE_CMD_COLD 0 1))

/-! ### JTAG -/

/-- JTAG_INSTRUCTION (R468, R516): IDCODE returns the code at any time; the Awl instruction writes its register while
TST_DBG.JTAG_AWL is 1; the boundary and scan instructions change no state of this model, and every other acts as BYPASS. -/
def execJtagInstruction (i : JtagIr) (s : State) : Res :=
  .next (match i with
    | .idcode => emit s (.answer .awl (leBytes 4 0x16192B3D))
    | .awl off v =>
      if bit s RST_TRIM_TRIM_OK && bit s TST_DBG_JTAG_AWL then
        writesApply s [{ m := .awl, off := off, data := (leBytes 4 v.toNat).map (fun b => (b, true)) }]
      else s
    | .bypass | .samplePreload | .extest | .ieee1149_6 | .scan | .other => s)

end Sys2Proof.Machine
end

