-- ==== Sys2Proof/Machine/Ingress.lean ====
section
/-! DEFINITION. The ingress pipeline: what becomes of a packet that arrives whole on a port (R25): policing, remapping, the part's own
BARs, the fabric, and the routing of Forward.lean; and the release of a BLOCK reset, with which packets that it held go on
(R128 to R130, R244, R246, R251, R255, R329, R336, R337, R352, R356, R377, R439, R532, R533). -/

namespace Sys2Proof.Machine

/-! ### Arrival -/

/-- A packet can arrive: the port's link is up, and the mode lets packets in (Table 2-1). A T-link carries no data in SETUP. -/
def ingressOpen (s : State) (p : Nat) : Bool :=
  linkUp s p && (running s || mode s == mQUIESCE || mode s == mDRAIN
    || (!isTlink s p && (mode s == mSETUP || mode s == mLOOPBACK)))

/-- Only configuration requests and requests to the part's own BARs are taken (Table 2-1). -/
def setupOnly (s : State) : Bool := mode s == mSETUP || mode s == mLOOPBACK

/-- The class of a packet that arrives on port `p` (R80). -/
def arrivalClass (s : State) (p : Nat) (pk : Packet) : Nat :=
  if isTlink s p then (match pk.fab with | some h => h.tc.toNat | none => pk.tc.val) else pk.tc.val

/-- The remap entry of a packet that arrives on a downstream port (R356). -/
def arrivalRemap (s : State) (p : Nat) (pk : Packet) : Option Nat :=
  if isTlink s p || bit s PRT_CFG_DIR p then none else remapAt s p pk.rid.toNat

/-- The packet as its input stage hands it on: on a T-link, of the partition its header names (R104); on a PCIe port, of the port's owner or, with
its guest ID, of the partition that a VF is lent to (R356). -/
def arrivalCell (s : State) (p : Nat) (pk : Packet) : Cell :=
  let c := arrivalClass s p pk
  if isTlink s p then { inp := p, cls := c, pt := (match pk.fab with | some h => h.part.toNat | none => 0), pk := pk } else
  let pk := { pk with fab := none }
  match arrivalRemap s p pk with
  | some i => { inp := p, cls := c, pt := rd s PTN_RID_PARTITION i, pk := { pk with rid := BitVec.ofNat 16 (guestRid s i) } }
  | none => { inp := p, cls := c, pt := portPt s p, pk := pk }

/-! ### Own BARs (R520, R532) -/

/-- Whether the byte enables of a request of `n` bytes select byte `j`. -/
def byteOn (pk : Packet) (n j : Nat) : Bool :=
  if j < 4 then pk.fbe.getLsbD j else if n ≤ j + 4 then pk.lbe.getLsbD (j + 4 - n) else true

/-- The bytes of a write with their enables. -/
def enData (pk : Packet) : List (Byte × Bool) := pk.data.zipIdx.map (fun e => (e.1, byteOn pk pk.data.length e.2))

/-- The completions of a read of the part's own space: cut at multiples of the function's Max_Payload_Size. -/
def ownPieces (mps : Nat) : Nat → Nat → Bytes → List Bytes
  | 0, _, l => [l]
  | k + 1, a, l =>
    let n := mps - a % mps
    if l.length ≤ n then [l] else l.take n :: ownPieces mps k (a + n) (l.drop n)

/-- The answer to a request of the part's own space (R548). Its credit returns in every mode: the manager has full access in QUIESCE and DRAIN too
(Table 2-1). -/
def ownAnswer (s : State) (f : Nat) (c : Cell) (st : CplStatus) (data : Bytes) : State :=
  let s := creditGive s c.inp c.vl c.pk
  let r := cplFor s c.pk st
  let l := ownPieces (mpsOf s f) 40 c.pk.addr.toNat data
  forEach l.zipIdx s (fun s e =>
    formed s c.inp c.cls c.pt { r with data := e.1, len := e.1.length, lastPiece := e.2 + 1 == l.length })

/-- A request to manager BAR0 at offset `off` (R520). -/
def mgrBar (s : State) (c : Cell) (off : Nat) : State :=
  match c.pk.op with
  | .memWrite =>
    writesApply (creditGive s c.inp c.vl c.pk) [{ m := .inband, off := BitVec.ofNat 28 off, data := enData c.pk }]
  | .memRead =>
    let r := masterRead s .inband off c.pk.len (fun x => off ≤ x && x < off + c.pk.len && byteOn c.pk c.pk.len (x - off))
    if r.2.2 = 1 then ownAnswer r.1 fnMgr c .ca [] else ownAnswer r.1 fnMgr c .ok r.2.1
  | _ => turnAway s c .ur

/-- The cluster that serves slice `k` is in BLOCK reset (R439). -/
def sliceInReset (s : State) (k : Nat) : Bool :=
  match nget? s.slices k with
  | some x => s.ckr.reset.contains (rd s CKR_CLU_STATUS_SERVING x.cluster)
  | none => false

/-- The offset of the control page of slice `k` in the register map. -/
def pageBase (k : Nat) : Nat := 0x20000000 + k * 0x1000

/-- The words of a control page from offset `x` on, `n` of them; an offset that holds no register reads 0 (R532). -/
def pageRead (k : Nat) (en : Nat → Bool) : Nat → State → Nat → State × Bytes
  | 0, s, _ => (s, [])
  | n + 1, s, x =>
    let r := if (regFind (pageBase k + x)).isSome then wordRead s 3 (pageBase k + x) (fun y => en (y - pageBase k)) else (s, 0)
    let t := pageRead k en n r.1 (x + 4)
    (t.1, leBytes 4 r.2 ++ t.2)

/-- A write to the control page of slice `k` (R520, R521). -/
def pageWrite (s : State) (k : Nat) (w : RegWr) : State :=
  let at' := fun x => regFind (pageBase k + x)
  let a := w.off.toNat
  let whole := w.data.length = 8 && a % 8 = 0 && wordFull w a && wordFull w (a + 4)
  match (if whole then at' a else none) with
  | some (r, i, false) =>
    if r.wide then
      regWrite { s with bus := { s.bus with lo := ndel s.bus.lo (busKey 3 (pageBase k + a)) } } .inband r i
        (wordVal w a + wordVal w (a + 4) * 2 ^ 32)
    else words s
  | _ => words s
where
  /-- Word by word. -/
  words (s : State) : State :=
    forEach (wordsOf w) s (fun s x =>
      if (regFind (pageBase k + x)).isNone then s
      else if !wordFull w x then inc s GLB_BAD_ACC
      else wordWrite s .inband 3 (pageBase k + x) (wordVal w x))

/-- The word at offset `x` of the status page of partition `n` (Table 13-9). -/
def statusWord (s : State) (n x : Nat) : State × Nat :=
  let key := busKey 3 (0x3F000000 + n)
  match x with
  | 0 => (s, n + mode s * 16 + rd s GLB_MODE_LOCKED * 256 + (s.slices.filter (fun e => e.1 / 1024 == n)).length * 512)
  | 4 => (s, nget s.fab.ptResets n 0)
  | 8 => ({ s with bus := { s.bus with hi := nput s.bus.hi key (rd s LCE_TICK_NOW / 2 ^ 32) } }, rd s LCE_TICK_NOW % 2 ^ 32)
  | 12 => match nget? s.bus.hi key with
    | some h => ({ s with bus := { s.bus with hi := ndel s.bus.hi key } }, h)
    | none => (s, rd s LCE_TICK_NOW / 2 ^ 32)
  | _ => (s, 0)

/-- The words of a status page. -/
def statusRead (n : Nat) : Nat → State → Nat → State × Bytes
  | 0, s, _ => (s, [])
  | k + 1, s, x =>
    let r := statusWord s n x
    let t := statusRead n k r.1 (x + 4)
    (t.1, leBytes 4 r.2 ++ t.2)

/-- A read of `len` bytes at offset `off` of Clicking BAR0 of partition `n`: the bytes, or none where it ends with Completer Abort. -/
def clickRead (s : State) (n off len : Nat) (en : Nat → Bool) : State × Option Bytes :=
  let w := off / 4 * 4
  let k := (off + len + 3) / 4 - off / 4
  let cut := fun (l : Bytes) => some ((l.drop (off - w)).take len)
  if 0x400000 ≤ off && off < 0x800000 then
    let sk := sliceKey n ((off - 0x400000) / 0x1000)
    let x := off % 0x1000
    if (nget? s.slices sk).isNone then (s, some (List.replicate len 0))
    else if sliceInReset s sk then (s, none)
    else
      let r := pageRead sk (fun y => x ≤ y && y < x + len && en (y - x)) k s (x / 4 * 4)
      (r.1, cut r.2)
  else if 0x800000 ≤ off && off < 0x801000 then
    let r := statusRead n k s (w - 0x800000)
    (r.1, cut r.2)
  else (s, some (List.replicate len 0))

/-- A write at offset `off` of Clicking BAR0 of partition `n`. -/
def clickWrite (s : State) (n off : Nat) (data : List (Byte × Bool)) : State :=
  let page := fun (b : Nat) (f : Nat → State) =>
    let sk := sliceKey n ((off - b) / 0x1000)
    if (nget? s.slices sk).isNone then s else if sliceInReset s sk then inc s FLT_BLK_DISC else f sk
  if off < 0x400000 then page 0 (fun sk => doorbells s sk (off % 0x1000) data)
  else if off < 0x800000 then
    page 0x400000 (fun sk => pageWrite s sk { m := .inband, off := BitVec.ofNat 28 (off % 0x1000), data := data })
  else s

/-- The vectors of MSI-X table `f` (R207, R532). -/
def msixCount (s : State) (f : Nat) : Nat := if f = 16 then 32 else rd s PTN_CFG_VECM1 f + 1

/-- The word at offset `x` of the BAR2 that holds MSI-X table `f`. -/
def bar2Word (s : State) (f x : Nat) : Nat :=
  let n := msixCount s f
  if x < 0x8000 then (if x / 16 < n then msixWord s f (x / 16) (x / 4 % 4) else 0)
  else maskOf 32 (fun i => let v := (x - 0x8000) / 4 * 32 + i; v < n && msixPending s f v)

/-- A write of the word at offset `x` of BAR2, its enabled bytes over what it holds; a vector that is unmasked may send (R210). -/
def bar2Write (s : State) (f x : Nat) (byte : Nat → Option Byte) : State :=
  if !(x < 0x8000 && x / 16 < msixCount s f) then s else
  let v := x / 16
  let i := x / 4 % 4
  let old := leBytes 4 (msixWord s f v i)
  let new := leNat (old.zipIdx.map (fun e => (byte (x + e.2)).getD e.1))
  let new := if i = 3 then new % 2 else new
  msixRelease (rngUpd s (fun r => { r with msix := nset (if i = 3 then 1 else 0) r.msix ((f * 2048 + v) * 4 + i) new })) f v

/-- A request to Clicking BAR0 of partition `n`. A doorbell page answers no request with an error (R183): an AtomicOp there reads 0. -/
def clickBar (s : State) (n : Nat) (c : Cell) (off : Nat) : State :=
  match c.pk.op with
  | .memWrite => clickWrite (creditGive s c.inp c.vl c.pk) n off (enData c.pk)
  | .memRead =>
    match clickRead s n off c.pk.len (byteOn c.pk c.pk.len) with
    | (s, some l) => ownAnswer s (fnClick n) c .ok l
    | (s, none) => ownAnswer s (fnClick n) c .ca []
  | _ => if off < 0x400000 then ownAnswer s (fnClick n) c .ok (List.replicate c.pk.len 0) else turnAway s c .ur

/-- A request to the BAR2 that holds MSI-X table `f`. -/
def bar2 (s : State) (f : Nat) (c : Cell) (off : Nat) : State :=
  match c.pk.op with
  | .memWrite =>
    let d := enData c.pk
    let byte := fun x => if off ≤ x then ((d[x - off]?).filter (·.2)).map (·.1) else none
    forEach (List.range ((off + d.length + 3) / 4 - off / 4)) (creditGive s c.inp c.vl c.pk) (fun s k =>
      bar2Write s f ((off / 4 + k) * 4) byte)
  | .memRead =>
    let l := (List.range ((off + c.pk.len + 3) / 4 - off / 4)).flatMap (fun k => leBytes 4 (bar2Word s f ((off / 4 + k) * 4)))
    ownAnswer s (msixFn f) c .ok ((l.drop (off % 4)).take c.pk.len)
  | _ => turnAway s c .ur

/-- A request that the upstream port of partition `n` brings to one of the part's own BARs; a function in D3hot takes none. -/
def ownAccess (s : State) (n : Nat) (c : Cell) : State :=
  let a := c.pk.addr.toNat
  let mgr := rd s PTN_CTL_MGR_PT == n
  let go := fun (f : Nat) (k : State) => if inD3 s f then turnAway s c .ur else k
  if mgr && inBar s fnMgr 0 (2 ^ 28) a then go fnMgr (mgrBar s c (a - barBase s fnMgr 0))
  else if mgr && inBar s fnMgr 2 65536 a then go fnMgr (bar2 s 16 c (a - barBase s fnMgr 2))
  else if inBar s (fnClick n) 0 (2 ^ 24) a then go (fnClick n) (clickBar s n c (a - barBase s (fnClick n) 0))
  else go (fnClick n) (bar2 s n c (a - barBase s (fnClick n) 2))

/-! ### PCIe ports -/

/-- The bytes of a configuration write over the writable bits held: bytes that are not enabled keep them. -/
def cfgMerge (pk : Packet) (old : Nat) : Nat :=
  leNat ((leBytes 4 old).zipIdx.map (fun e => if pk.fbe.getLsbD e.2 then pk.data.getD e.2 0 else e.1))

/-- A configuration request on PCIe port `p`, bit 0 of its address telling Type 1 (R240); only an upstream port brings one. -/
def cfgIn (s : State) (p : Nat) (c : Cell) : State :=
  if !isHead s p then turnAway s c .ur else
  let a := c.pk.addr.toNat
  let id := a / 65536
  let dw := a / 4 % 1024
  let own := fun f => cfgMerge c.pk (Nat.land (cfgGet s f dw) (cfgMask s f dw))
  let n := c.pt
  let bus := id / 256 % 256
  let f := if a % 2 = 0 then fnUp n else if id / 8 % 32 = 0 then (if id % 8 = 1 then fnMgr else fnClick n)
    else (devFnPlace s n (id / 8 % 32) (id % 8)).getD 0
  let w := if c.pk.data.isEmpty then none else some (own f)
  cfgRoute s p n (a % 2 == 1) bus (id / 8 % 32) (id % 8) dw w c.pk

/-- A message that ends at port `p` of the part, with local routing or as the base specification has it: LTR is discarded (Table 9-2); a
vendor-defined message is discarded, the part's own counted, one of Type 0 reported as an Unsupported Request (R255); a PTM request on a downstream
port whose bridge has PTM enabled is answered with device time (R254), no time passing between request and answer. -/
def msgLocal (s : State) (p : Nat) (c : Cell) (h : MsgHdr) : State :=
  let s := creditBack s c.inp c.vl c.pk
  if h.code = 0x7E || h.code = 0x7F then
    let s := if h.vendor = 0x3E4C then inc s VDM_DISC p else s
    if h.code = 0x7E then aerLog (emit s (.link p "unsupported request")) p c.pt 20 c.pk else s
  else if h.code = 0x52 && !isUpstream s p && (cfgGet s (fnDown c.pt p) 106).testBit 0 then
    formed s p 0 (portPt s p) (msgPkt { routing := 4, code := 0x53 } (devTime s) 0 (bridgeRid s p) [0, 0, 0, 0])
  else s

/-- A message goes to port `o`: one that came in at another downstream port under the ACS of its bridge (R246), one for its own port back under
Upstream Forwarding. -/
def msgTo (s : State) (p o : Nat) (c : Cell) : State :=
  let no := creditBack (aerLog s p c.pt 20 c.pk) c.inp c.vl c.pk
  if o = p then (if !isUpstream s p && backOut s c.pt p then toUp s c.pt c else no)
  else if isUpstream s p || isUpstream s o then storeTo s o c
  else match acsP2P s (fnDown c.pt p) o (portPt s o != c.pt) c.pk with
    | .block => turnAwayQuiet (aerLog s p c.pt 21 c.pk) c .ca
    | .redirect => toUp s c.pt c
    | .direct => storeTo s o c

/-- A message on port `p` (R255), by its routing: to the root or gathered (0, 5) up, by address (1), by ID (2) to a bus below a bridge or, with its real
ID, to a remapped function, from the root (3) to every downstream port that is up, and local (4) no further. LTR goes nowhere (Table 9-2). -/
def msgIn (s : State) (p : Nat) (c : Cell) : State :=
  let h := c.pk.msg.getD { routing := 4, code := 0 }
  let n := c.pt
  let a := c.pk.addr.toNat
  let up := if isUpstream s p then creditBack (aerLog s p n 20 c.pk) c.inp c.vl c.pk else toUp s n c
  if h.code = 0x10 then creditBack s c.inp c.vl c.pk else
  match h.routing.toNat with
  | 0 => up
  | 1 => match memPort s n a with
    | some o => msgTo s p o c
    | none => up
  | 2 =>
    let id := a % 65536
    if id / 256 == secBus s (fnUp n) || id == busOf s (fnUp n) * 256 then msgLocal s p c h
    else (match guestAt s n id with
      | some i => msgTo s p (rd s PTN_RID_PORT i) { c with pk := { c.pk with addr := BitVec.ofNat 64 (rd s PTN_RID_RID_REAL i) } }
      | none => match busPort s n (id / 256) with
        | some o => msgTo s p o c
        | none => up)
  | 3 =>
    if !isUpstream s p then creditBack s c.inp c.vl c.pk else
    let l := (bridgePorts s n).filter (fun o => portPt s o == n && linkUp s o)
    forEach l (creditBack s c.inp c.vl c.pk) (fun s o => formed s o c.cls n c.pk)
  | 5 => up
  | _ => msgLocal s p c h

/-- A completion on port `p`: for a proxy tag (R331), an FLR (R351), or by its requester ID; one from a partition in reset, or for a
tag freed by a reset, is late (R352). -/
def cplFrom (s : State) (p : Nat) (c : Cell) : State :=
  let n := portPt s p
  if partInReset s n then creditBack (inc s PART_LATE n) c.inp c.vl c.pk
  else match retEntry s p c.pk with
    | some e => proxyReturn s p c.pk e
    | none =>
      if c.pk.rid.toNat == bridgeRid s p then
        let i := c.pk.tag.toNat
        if s.fab.vfFlr.contains i && rd s PTN_RID_PORT i == p then
          creditBack (fabUpd s (fun x => { x with vfFlr := x.vfFlr.filter (· != i) })) c.inp c.vl c.pk
        else creditBack (inc s PART_LATE n) c.inp c.vl c.pk
      else cplIn s c.pt c

/-- A memory request on PCIe port `p`. -/
def memIn (s : State) (p : Nat) (vf : Bool) (c : Cell) : State :=
  let n := c.pt
  if isHead s p && ownBar s n c.pk.addr.toNat then ownAccess s n c
  else if setupOnly s then turnAway s c .ur
  else if isUpstream s p then memReq s n .up c
  else if acsBlocks s (fnDown n p) c.pk then turnAwayQuiet (aerLog s p n 21 c.pk) c .ca
  else memReq s n (if vf then .vf p else .down p) c

/-- A packet on PCIe port `p`, policed: size (R251), reset and power state of its partition (R244, R352), then its kind; `vf` tells a
remapped function's. -/
def pcieIn (s : State) (p : Nat) (vf : Bool) (c : Cell) : State :=
  let f := portFn s p
  let s := if c.pk.status = .poison then aerLog s p c.pt 12 c.pk else s
  if mpsOf s f < payload c.pk then creditBack (aerLog s p c.pt 18 c.pk) c.inp c.vl c.pk
  else if c.pk.kind = .completion then (if isUpstream s p && inD3 s f then creditBack s c.inp c.vl c.pk else cplFrom s p c)
  else if partInReset s c.pt then turnAway s c .ur
  else match c.pk.op with
    | .cfg => cfgIn s p c
    | .msg => if setupOnly s then creditBack s c.inp c.vl c.pk else msgIn s p c
    | .io =>
      if setupOnly s || (isUpstream s p && inD3 s f) then turnAway s c .ur
      else ioReq s c.pt (if isUpstream s p then .up else if vf then .vf p else .down p) c
    | .cpl => creditBack s c.inp c.vl c.pk
    | .notice => creditBack s c.inp c.vl c.pk
    | _ => if isUpstream s p && inD3 s f then turnAway s c .ur else memIn s p vf c

/-! ### T-links -/

/-- The placed-denial flag of a packet's triple (R377). -/
def deniedKey (h : FabHdr) : Nat := (h.srcDev.toNat * 16 + h.part.toNat) * 256 + h.hash.toNat

/-- R329, R340, R377: a packet with PLACED = 1 for a port of this part. -/
def placedIn (s : State) (h : FabHdr) (c : Cell) : State :=
  let o := h.dstPort.toNat
  let zero := needOf c.pk = .zero
  let k := deniedKey h
  if !leaf s then noRoute s (devId s) c
  else if isTlink s o then turnAway s c .ur
  else if zero && s.awt.denied.contains k then
    turnAway (inc { s with awt := { s.awt with denied := s.awt.denied.filter (· != k) } } AWT_PLACED_CA) c .ca
  else if inBlockReset s 6 then fabUpd s (fun x => { x with stall := true })
  else
    let owner := portPt s o
    let r := accReq c c.pk.addr.toNat (spanOf c.pk) owner false (needOf c.pk)
    match awtCheck s r with
    | .deny d =>
      let s := if c.pk.kind = .posted then
          { s with awt := { s.awt with denied := k :: s.awt.denied.filter (· != k) } } else s
      awtRefuse s c r d
    | .permit i => proxyTo (awtTrack s c owner) o (if zero then c else { c with pk := awtAttrs s i c.pk })

/-- A packet on T-link port `p`, policed (R323, R329, R336, R337, Table 12-2). -/
def tlinkIn (s : State) (p : Nat) (c : Cell) : State :=
  match c.pk.fab with
  | none => creditBack s c.inp c.vl c.pk
  | some h =>
    if bit s FAB_NBR_CLASH p then creditBack (inc s CLASH_DISC) c.inp c.vl c.pk
    else if h.notice then
      let s := creditBack s c.inp c.vl c.pk
      (match c.pk.notice with | some n => noticeTake s p n h.ttl.toNat | none => s)
    else if inBlockReset s 10 then fabUpd s (fun x => { x with stall := true })
    else
      let d := h.dstDev.toNat
      if d != devId s then
        if leaf s && !bit s FAB_PORT_TRANSIT p then noRoute s d c
        else if h.ttl = 0 then turnAway (raise (inc s TTL_DROP) 0x502 p) c .ur
        else toDevice s d { c with pk := { c.pk with fab := some { h with ttl := h.ttl - 1, tc := BitVec.ofNat 3 c.cls } } }
      else if !leaf s then noRoute s d c
      else if c.pk.kind = .completion then cplIn s h.part.toNat { c with pk := { c.pk with fab := none } }
      else if h.placed then placedIn s h c
      else match c.pk.op with
        | .memRead | .memWrite | .atomic => takeGlobal s c
        | _ => turnAway s c .ur

/-! ### Packets held by a BLOCK reset (Table 17-3) -/

/-- A packet that a BLOCK reset holds joins those it holds. -/
def stallAdd (s : State) (p : Nat) (c : Cell) (pk : Packet) : State :=
  fabUpd s (fun x => { x with stall := false, stalled := x.stalled ++ [(p, c.cls, pk, s.now)] })

/-- An earlier packet of the same port, type and class is held. -/
def stallAhead (s : State) (p : Nat) (c : Cell) : Bool :=
  s.fab.stalled.any (fun e => e.1 == p && e.2.1 == c.cls && e.2.2.1.kind = c.pk.kind)

/-- A packet that its policer let pass is looked up and stored (R25), under arrival number `seq` where it waited there. A lookup in a table that a
BLOCK reset scrubs holds the packet at its input. -/
def lookup (s : State) (p cls : Nat) (pk : Packet) (seq : Option Nat) : State :=
  let c := { arrivalCell s p pk with cls := cls, seq := seq }
  if stallAhead s p c || (inBlockReset s 7 && (arrivalRemap s p pk).isSome) then stallAdd s p c pk else
  let s0 := fabUpd s (fun x => { x with stall := false })
  let t := if isTlink s p then tlinkIn s0 p c else pcieIn s0 p (arrivalRemap s p pk).isSome c
  if t.fab.stall then stallAdd s p c pk else t

/-- The packets that a BLOCK reset held are looked up again, oldest first. -/
def unstall (s : State) : State :=
  let s := forEach s.fab.stalled s (fun s e => holdCount s e.1)
  forEach s.fab.stalled (fabUpd s (fun x => { x with stalled := [] })) (fun s e => lookup s e.1 e.2.1 e.2.2.1 none)

/-! ### Policers (R128 to R130) -/

/-- The global address that a local one of partition `n` leads to: by a crossing window into global space (R367), or an aperture (R328). -/
def globOf (s : State) (n a : Nat) : Option Nat :=
  match xwAt s n a with
  | some (_, v) => if v.glob then some (moveAddr a v.base v.addr) else none
  | none => if leaf s then gapAt s n a else none

/-- A global address lies in a placement window of this part. -/
def globWindow (s : State) (g : Nat) : Bool := leaf s && g / 2 ^ 58 == devId s && (windowAt s true 0 g).isSome

/-- R129, R155: the packet keeps its class: a write that falls in a placement window, by whatever way it gets there, and a placed write or flush
read on its way to its member. -/
def keepsClass (s : State) (p : Nat) (c : Cell) : Bool :=
  let a := c.pk.addr.toNat
  if isTlink s p then c.pk.fab.any (fun h => h.placed || (c.pk.op = .memWrite && h.dstDev.toNat == devId s && globWindow s a))
  else c.pk.op = .memWrite && ((windowAt s false c.pt a).isSome || (globOf s c.pt a).any (globWindow s))

/-- What the policer makes of a packet: the state charged and the class it is queued in, or none where it waits. Completions and notices
are not policed. -/
def police (s : State) (p : Nat) (pk : Packet) : State × Option Nat :=
  let c := arrivalCell s p pk
  let i := p * 8 + c.cls
  let act := rd s SHK_POL_CTL_ACTION i
  if pk.kind = .completion || pk.op = .notice || !shapersOn s || !(act == 1 || act == 2) then (s, some c.cls)
  else if tokensCover s p c.cls true pk then (charge s p c.cls true pk, some c.cls)
  else if act == 1 && !keepsClass s p c then (inc s SHK_POL_DEMOTED i, some (rd s SHK_POL_CTL_DEM_TC i))
  else (s, none)

/-- The packet waits for its policer at its input. -/
def policeHold (s : State) (p : Nat) (pk : Packet) : State :=
  let c := arrivalCell s p pk
  let (s, n) := takeSeq s
  hold s { seq := n, inp := p, cls := c.cls, cells := cellsOf pk, pk := pk, pt := c.pt, ovf := 0, pu := none, fresh := false,
           slice := none, xw := none } 72 true false

/-- The packet that is next at its policer goes on, or is counted and waits. -/
def policeNext (s : State) (p : Nat) (pk : Packet) : State × Bool :=
  match police s p pk with
  | (s, some cls) => (lookup s p cls pk none, true)
  | (s, none) => (inc s SHK_POL_HELD (p * 8 + arrivalClass s p pk), false)

/-- A packet arrives at the ingress pipeline of port `p`. -/
def ingress (s : State) (p : Nat) (pk : Packet) : State :=
  if s.shk.held.any (fun h => h.pol && h.q.inp == p && h.q.pk.kind = pk.kind) then policeHold s p pk
  else match policeNext s p pk with
    | (s, true) => s
    | (s, false) => policeHold s p pk

/-! ### Group sequence (R316) -/

/-- What the receiver makes of group sequence `g` of class `c` on pair `k`: taken already, out of range, or to be accepted. -/
inductive GroupSeq where
  | dup | range | ok
deriving DecidableEq, Repr

/-- R316: the check at the packet's start. -/
def groupCheck (s : State) (k c g : Nat) : GroupSeq :=
  let x := pairAt s k
  let d := (g + 16384 - nget x.base c 0) % 16384
  if 12288 ≤ d then .dup else if 8192 ≤ d then .range
  else if d < 4096 && (nget x.seen c []).contains g then .dup else .ok

/-- The base moves past the numbers taken. -/
def groupBase : Nat → Nat → List Nat → Nat × List Nat
  | 0, b, l => (b, l)
  | n + 1, b, l => if l.contains b then groupBase n ((b + 1) % 16384) (l.filter (· != b)) else (b, l)

/-- R316: the packet ended good and its number is taken. -/
def groupMark (s : State) (k c g : Nat) : State :=
  let x := pairAt s k
  let b := nget x.base c 0
  let l := nget x.seen c []
  let d := (g + 16384 - b) % 16384
  let b' := if 4096 ≤ d then (g + 16384 - 4095) % 16384 else b
  let l' := if 4096 ≤ d then l.filter (fun y => d - 4096 < (y + 16384 - b) % 16384) else l
  let r := groupBase (l'.length + 1) b' (g :: l'.filter (· != g))
  pairSet s k { x with base := nset 0 x.base c r.1, seen := nset [] x.seen c r.2 }

/-- The pair, class and number by which a packet on port `p` is checked: on a member of an ACTIVE pair, where its header carries one. -/
def groupOf (s : State) (p : Nat) (h : FabHdr) : Option (Nat × Nat × Nat) :=
  match activePair s p with
  | some (k, _) => if h.gseqV then some (k, h.tc.toNat, h.gseq.toNat) else none
  | none => none

/-- R316: the start of a packet with header `h` on port `p`: whether it is discarded, and counted. -/
def groupStart (s : State) (p : Nat) (h : FabHdr) : State × Bool :=
  match groupOf s p h with
  | none => (s, false)
  | some (k, c, g) =>
    match groupCheck s k c g with
    | .ok => (s, false)
    | .dup => (inc s GSEQ_DUP p, true)
    | .range => (raise (inc s GSEQ_RANGE p) 0x48C p, true)

/-- The end of a packet with header `h` on port `p` that was not discarded. -/
def groupEnd (s : State) (p : Nat) (h : FabHdr) : State :=
  match groupOf s p h with
  | some (k, c, g) => groupMark s k c g
  | none => s

/-- A whole packet on T-link port `p`: its stitches are accepted, its group sequence is checked (R286, R316), and it goes on. -/
def tlinkWhole (s : State) (p : Nat) (pk : Packet) : State :=
  let n := stitchesOf pk
  let s := stitchesIn (goodStitch (slotsIn s p n) p) p (vlOf pk) n
  match pk.fab with
  | none => stitchesFree s p (vlOf pk) n
  | some h =>
    match groupStart s p h with
    | (s, true) => stitchesFree s p (vlOf pk) n
    | (s, false) => ingress (groupEnd s p h) p pk

/-- The packet of a vendor-defined message with routing `route`. -/
def vdmPkt (type0 : Bool) (vendor : BitVec 16) (word : BitVec 32) (tc : Fin 8) (rid : BitVec 16) (data : Bytes) (route : VdmRoute) : Packet :=
  let r := match route with
    | .localRx => (4, 0)
    | .byId id => (2, id.toNat)
    | .byAddr a => (1, a.toNat)
  msgPkt { routing := r.1, code := if type0 then 0x7E else 0x7F, vendor := vendor, word := word } r.2 tc rid.toNat data

/-- VDM_RECEIVE (R255): the message arrives on a PCIe port like any packet (R25), and keeps its class, data, vendor ID and type where it is forwarded. -/
def execVdmReceive (p : Fin 64) (type0 : Bool) (m : VdmBody) (route : VdmRoute) (s : State) : Res :=
  .next (if isTlink s p || !ingressOpen s p then s else pumpFreed s (ingress s p (vdmPkt type0 m.vendor m.word m.tc m.rid m.data route)))

/-- PACKET_INGRESS (R25): on a T-link, all stitches of the packet arrive. -/
def execPacketIngress (p : Fin 64) (pk : Packet) (s : State) : Res :=
  .next (if !ingressOpen s p then s
    else if isTlink s p then (if striped s p && !inBlockReset s 9 then pumpFreed s (tlinkWhole s p pk) else s)
    else pumpFreed s (ingress s p pk))

/-- The packets of `l`, which wait at port `p` for their policer, go on in order until one has to wait itself. -/
def policeRun (p : Nat) : List HeldPkt → State → State
  | [], s => s
  | h :: l, s =>
    match police s p h.q.pk with
    | (_, none) => inc s SHK_POL_HELD (p * 8 + arrivalClass s p h.q.pk)
    | (t, some cls) => policeRun p l (lookup (unhold t h) p cls h.q.pk (some h.q.seq))

/-- POLICER_RELEASE (R128): the oldest packet of type `k` that waits at port `p` for its policer goes on, once tokens cover its cost, and
then those behind it. -/
def execPolicerRelease (p : Fin 64) (k : PktKind) (s : State) : Res :=
  .next (
    match s.shk.held.filter (fun h => h.pol && h.q.inp == p.val && h.q.pk.kind = k) with
    | [] => s
    | h :: l =>
      match police s p h.q.pk with
      | (_, none) => s
      | (t, some cls) => policeRun p l (lookup (unhold t h) p cls h.q.pk (some h.q.seq)))

/-! ### The release of a BLOCK reset -/

/-- What block `b` takes up again when its BLOCK reset is released (Table 17-3, R440). -/
def blockResume (s : State) (b : Nat) : State :=
  match b with
  | 1 => forEach s.prt.enWait (prtUpd s (fun x => { x with enWait := [] })) portEnable
  | 2 => match s.flt.port with
    | some p => portUnreset (fltUpd s (fun x => { x with port := none })) p 2
    | none => s
  | 3 => pumpFreed s (release s)
  | 4 => forEach s.lce.held (lceUpd s (fun x => { x with held := [] })) (fun s e => issueTick s e.1 e.2)
  | 5 => pumpAll (placeRelease s)
  | 6 => pumpAll (unstall (placeRelease s))
  | 7 => pumpAll (unstall s)
  | 8 => ckrUpd s (fun c => { c with reset := [] })
  | 9 =>
    let go := s.flt.again.filter (fun p => isTlink s p && !portHeld s p && rd s PRT_STATUS_STATE p == 1)
    forEach go (fltUpd s (fun x => { x with again := [] })) (fun s p =>
      trainStart (wr (wr s PRT_STATUS_STATE p 2) PRT_STATUS_PARTNER p 1) p true)
  | 10 => pumpAll (unstall (placeRelease s))
  | 11 => heelUpd s (fun h => { h with rebuild := h.rebuild ++ [4, 5, 6, 7] })
  | 16 => heelUpd s (fun h => { h with rebuild := h.rebuild ++ [4, 5, 6, 7] })
  | _ => s

/-- BLOCK_RESET_RELEASE (R439, R441): the reset ends and is recorded, its shadow runs on, and what it held goes on. -/
def execBlockResetRelease (b : Fin 18) (s : State) : Res :=
  .next (
    if rd s FLT_BLK_STATE b != 1 then s else
    let x := nget s.flt.blkSrc b (0, 0)
    let s := waitEnd (wr s FLT_BLK_STATE b 2) (80 + b)
    let s := fltRecord s { src := x.1, kind := 5, prog := rd s FLT_SEV_SEV x.1, before := mode s, after := mode s, inst := x.2 }
    blockResume s b)

end Sys2Proof.Machine
end

