-- ==== Sys2Proof/Machine/WeltRx.lean ====
section
/-! DEFINITION. A stitch of 128 bytes arrives on a T-link: its checks, the receiver's state, and what its type does (R265, R266, R272,
R273, R275, R286, R293 to R296, R316, Tables 10-3, 11-2 to 11-4, 12-1, 12-3). -/

namespace Sys2Proof.Machine

/-! ### Headers -/

/-- The fabric header that the first eight bytes of a packet spell (Table 12-1). -/
def hdrOf (l : Bytes) : FabHdr :=
  let v := leNat (l.take 8)
  let f := fun (n k : Nat) => v / 2 ^ n % 2 ^ k
  { dstDev := BitVec.ofNat 6 (f 0 6), dstPort := BitVec.ofNat 6 (f 6 6), part := BitVec.ofNat 4 (f 12 4), tc := BitVec.ofNat 3 (f 16 3),
    hash := BitVec.ofNat 8 (f 19 8), gseq := BitVec.ofNat 14 (f 27 14), srcDev := BitVec.ofNat 6 (f 41 6), ttl := BitVec.ofNat 4 (f 47 4),
    gseqV := f 51 1 == 1, placed := f 52 1 == 1, notice := f 53 1 == 1 }

/-- The notice that 32 bytes spell (Table 12-3). -/
def noticeOf (l : Bytes) : Notice :=
  let f := fun (n k : Nat) => leNat ((l.drop n).take k)
  { kind := BitVec.ofNat 8 (f 0 1), origin := BitVec.ofNat 6 (f 1 1), nseq := BitVec.ofNat 16 (f 2 2), source := BitVec.ofNat 12 (f 4 2),
    part := BitVec.ofNat 4 (f 6 1), sev := BitVec.ofNat 3 (f 7 1), time := BitVec.ofNat 64 (f 8 8) }

/-- The tick record that 32 bytes spell (Table 3-3). -/
def recordOfBytes (l : Bytes) : TickRec :=
  let f := fun (n k : Nat) => leNat ((l.drop n).take k)
  { tickNum := BitVec.ofNat 48 (f 0 6), src := BitVec.ofNat 4 (f 6 1), hops := BitVec.ofNat 3 (f 6 1 / 16), early := 128 ≤ f 6 1,
    masterId := BitVec.ofNat 6 (f 7 1), latePrior := f 7 1 / 64 % 2 == 1, resync := 128 ≤ f 7 1, masterTime := BitVec.ofNat 64 (f 8 8),
    pathDelay := BitVec.ofNat 32 (f 16 4), position := BitVec.ofNat 32 (f 20 4), interval := BitVec.ofNat 32 (f 24 4) }

/-- The packet that the bytes of its stitches spell. -/
def packetOf (l : Bytes) : Option Packet :=
  let h := hdrOf l
  (Config.tlpParse (l.drop 8)).map (fun pk =>
    if h.notice then { pk with op := .notice, kind := .posted, fab := some h, notice := some (noticeOf pk.data) }
    else { pk with fab := some h, notice := none })

/-! ### Bad stitches (R273, Table 11-2) -/

/-- The receiver enters RECOVER and asks for stitch E; in RECOVER it discards. -/
def recover (s : State) (p reason : Nat) : State :=
  if bit s WLT_STATUS_RECOVER p then s
  else nakOut (tlUpd (wr s WLT_STATUS_RECOVER p 1) p (fun t => { t with nakWhy := reason })) p reason

/-- A bad stitch; in SOAK it fails the attempt (Table 10-7). -/
def stitchBad (s : State) (p : Nat) : State :=
  let s := inc s STITCH_BAD p
  if tstate s p == tSOAK then soakFail s p else recover s p 0

/-- R272: corrected bytes count at the physical lane that carried them and in the window of R301. -/
def corrected (s : State) (p : Nat) (fixed : List Nat) : State :=
  if fixed.isEmpty then s else
  let w := widthOf (tlAt s p).rxw
  forEach fixed (inc s FEC_CORR p) (fun s i =>
    let l := i % w
    let s := match (tlAt s p).rxLanes[l]? with | some n => inc s LAN_FEC_CORR n | none => s
    tlUpd s p (fun t => { t with corr := nset 0 t.corr l (nget t.corr l 0 + 1), soak := nset 0 t.soak l (nget t.soak l 0 + 1) }))

/-- In SOAK, a lane has brought more corrected bytes than CORR_LIMIT (Table 10-7). -/
def soakOver (s : State) (p : Nat) : Bool :=
  tstate s p == tSOAK && (List.range (widthOf (tlAt s p).rxw)).any (fun l => rd s TL_SOAK_CORR_LIMIT p < nget (tlAt s p).soak l 0)

/-! ### Data stitches -/

/-- A packet's bytes are complete and good: its number is taken and it goes to the ingress pipeline; one that spells no packet is discarded. -/
def packetDone (s : State) (p : Nat) (t : Partial) : State :=
  if t.drop then stitchesFree s p t.vl t.n else
  let s := groupEnd s p (hdrOf t.bytes)
  match packetOf t.bytes with
  | some pk => if ingressOpen s p then ingress s p pk else stitchesFree s p t.vl t.n
  | none => stitchesFree s p t.vl t.n

/-- The first stitch of a packet (R316). -/
def packetStart (s : State) (p v : Nat) (l : Bytes) : State × Partial :=
  let r := groupStart s p (hdrOf l)
  (r.1, { vl := v, bytes := l, n := 1, drop := r.2 })

/-- A data stitch of type `ty` on virtual lane `v` is accepted. -/
def dataTake (s : State) (p ty v : Nat) (l : Bytes) : State :=
  let s := stitchesIn s p v 1
  let add := fun (t : Partial) => { t with bytes := t.bytes ++ l, n := t.n + 1 }
  match ty, (tlAt s p).part with
  | 1, _ =>
    let r := packetStart s p v l
    packetDone r.1 p r.2
  | 2, _ =>
    let r := packetStart s p v l
    tlUpd r.1 p (fun t => { t with part := some r.2 })
  | _, none => stitchesFree s p v 1
  | 3, some t => tlUpd s p (fun x => { x with part := some (add t) })
  | 4, some t => packetDone (tlUpd s p (fun x => { x with part := none })) p (add t)
  | _, some t => stitchesFree (tlUpd s p (fun x => { x with part := none })) p t.vl (t.n + 1)

/-- The buffer share of virtual lane `v` is full (R295). -/
def vlFull (s : State) (p v : Nat) : Bool := rd s WLT_VL_STAT2_GRANTED (p * 8 + v) ≤ rd s WLT_VL_STAT2_RX_OCC (p * 8 + v)

/-! ### CONTROL stitches (Tables 11-3, 11-4) -/

/-- A CONTROL stitch is accepted. -/
def controlTake (s : State) (p : Nat) (l : Bytes) : State :=
  let f := fun (n k : Nat) => leNat ((l.drop n).take k)
  let arg := f 1 1
  match f 0 1 with
  | 0x10 => retrainReq s p (arg % 2 == 1)
  | 0x11 => retrainAck s p (arg % 2 == 1)
  | 0x12 => widthReq s p (arg % 8) (arg / 8 % 4)
  | 0x13 => widthAck s p (arg % 8) (arg / 8 % 4)
  | 0x14 => widthGo s p (arg % 8) (arg / 8 % 4)
  | 0x15 => spareReq s p (arg % 8)
  | 0x16 => spareAck s p (arg % 8)
  | 0x17 => spareGo s p (arg % 8)
  | 0x20 => rateReq s p (arg % 16)
  | 0x21 => rateAck s p (arg % 16)
  | 0x30 => delayReq s p arg
  | 0x31 => delayResp s p arg (f 4 8) (f 12 8)
  | 0x32 => auditTake s p ((List.range 8).map (fun v => f (4 + 4 * v) 4)) (f 36 1 % 64) (f 36 1 / 64 % 2 == 1)
  | 0x33 =>
    if (tlAt s p).same then
      resumeTake s p (arg % 2 == 1) (arg / 2 % 2 == 1) (arg / 4 % 2 == 1) (f 4 2) ((List.range 8).map (fun v => f (6 + 2 * v) 2))
    else s
  | 0xA5 => s
  | _ => inc s CTL_BAD p

/-! ### The stitch -/

/-- A stitch that passed its checks: RECOVER ends, its credit return counts, and its type acts. -/
def stitchGood (s : State) (p : Nat) (x : Stitch) : State :=
  let f := fun (n k : Nat) => leNat ((x.payload.drop n).take k)
  let data := 1 ≤ x.type && x.type ≤ 5
  if data && vlFull s p x.vl then recover (raise (inc s CRED_OVF p) 0x487 p) p 1 else
  let s := goodStitch s p
  let s := if x.cr % 8 = 0 then s else creditTake s p (x.cr / 8) (x.cr % 8)
  match x.type with
  | 0 => s
  | 6 => s
  | 7 => creditsTake s p ((List.range 8).map (fun v => f (2 * v) 2))
  | 8 => ackTake s p (f 0 2)
  | 9 => nakTake s p (f 0 2)
  | 10 => recordIn s p (recordOfBytes x.payload)
  | 11 => controlTake s p x.payload
  | ty => dataTake s p ty x.vl x.payload

/-- A stitch arrives, and a run violation touches it or not (R265, R272, R273). -/
def stitchArrive (s : State) (p : Nat) (raw : Bytes) (viol : Bool) : State :=
  let f := fecScan raw
  let s := corrected s p f.2.1
  let s := if f.2.2 then inc s FEC_UNCORR p else s
  if viol || f.2.2 then stitchBad s p
  else if soakOver s p then soakFail s p
  else match stitchRead raw (rd s WLT_SEQ_E p) with
    | .error .type => stitchBad (raise (inc s TYPE_BAD p) 0x481 p) p
    | .error _ => stitchBad s p
    | .ok x => stitchGood s p x

/-- A stitch of the sideband that is bad: it counts, the spare is not available for 1 ms, and in SOAK the attempt fails. It stands in no
sequence, so nothing is asked for again (R301, R302; DEDUCED). -/
def sideBad (s : State) (p : Nat) : State :=
  let s := tlUpd (inc s STITCH_BAD p) p (fun t => { t with sbBad := some s.now })
  if tstate s p == tSOAK then soakFail s p else s

/-- A whole stitch of the sideband acts: CONTROL stitches are taken, others say nothing (R302). -/
def sideTake (s : State) (p : Nat) : State :=
  let t := tlAt s p
  if t.sbRx.length < 128 then s else
  let raw := t.sbRx.take 128
  let s := sideNext s p
  let s := match spareLane s p with | some n => trainFixed s p n raw | none => s
  if t.sbViol then sideBad s p
  else match stitchRead raw 0 with
    | .error .type => sideBad (raise (inc s TYPE_BAD p) 0x481 p) p
    | .error _ => sideBad s p
    | .ok x => if x.type = 11 then controlTake s p x.payload else s

/-- DATA_STITCH_RECEIVE (R273, R275, R286). -/
def execDataStitchReceive (p : Fin 64) (levels after : List (List (Fin 4))) (overflow : Bool) (s : State) : Res :=
  .next (if !striped s p || inBlockReset s 9 then s else
    let r := slotRead s p (levels.map (·.map (·.val))) (after.map (·.map (·.val)))
    let s := if overflow then ebOverflow r.1 p else stitchArrive r.1 p r.2.1 r.2.2
    if striped s p then sideTake s p else s)

end Sys2Proof.Machine
end

