-- ==== Sys2Proof/Machine/Dispatch.lean ====
section
/-! DEFINITION. The dispatch of a command to its meaning, one arm per command. -/

namespace Sys2Proof.Machine

/-- The effect of command `i` on everything but the queue of waiting commands. -/
def exec (i : Instr) (s : State) : Host.Outcome State Fault Refusal :=
  match i with
  | .modeRequestGo m target => Sys2Proof.Machine.execModeRequestGo m target s
  | .modeTransitionDone => Sys2Proof.Machine.execModeTransitionDone s
  | .modeTransitionTimeout => Sys2Proof.Machine.execModeTransitionTimeout s
  | .feedWarning => Sys2Proof.Machine.execFeedWarning s
  | .feedRecovered => Sys2Proof.Machine.execFeedRecovered s
  | .testEnLowInFactory => Sys2Proof.Machine.execTestEnLowInFactory s
  | .testEnHighOutsideFactory => Sys2Proof.Machine.execTestEnHighOutsideFactory s
  | .encoderCount n a b => Sys2Proof.Machine.execEncoderCount n a b s
  | .encoderPairClassChange n pair cls => Sys2Proof.Machine.execEncoderPairClassChange n pair cls s
  | .encLockChange n held => Sys2Proof.Machine.execEncLockChange n held s
  | .zEdge n => Sys2Proof.Machine.execZEdge n s
  | .encPosWrite m n v => Sys2Proof.Machine.execEncPosWrite m n v s
  | .laceTinEdge => Sys2Proof.Machine.execLaceTinEdge s
  | .timerSourceExpiry => Sys2Proof.Machine.execTimerSourceExpiry s
  | .tickStart => Sys2Proof.Machine.execTickStart s
  | .tickLate => Sys2Proof.Machine.execTickLate s
  | .timeOffsetWrite m v => Sys2Proof.Machine.execTimeOffsetWrite m v s
  | .tickPresetWrite m v => Sys2Proof.Machine.execTickPresetWrite m v s
  | .tickSourceWrite m v => Sys2Proof.Machine.execTickSourceWrite m v s
  | .tickRecordReceive p r => Sys2Proof.Machine.execTickRecordReceive p r s
  | .alignmentLost cause => Sys2Proof.Machine.execAlignmentLost cause s
  | .triggerFire m => Sys2Proof.Machine.execTriggerFire m s
  | .triggerFireWrite by0 m => Sys2Proof.Machine.execTriggerFireWrite by0 m s
  | .triggerPulseEnd m => Sys2Proof.Machine.execTriggerPulseEnd m s
  | .packetIngress p pk => Sys2Proof.Machine.execPacketIngress p pk s
  | .policerRelease p k => Sys2Proof.Machine.execPolicerRelease p k s
  | .spillWriteDone j o c => Sys2Proof.Machine.execSpillWriteDone j o c s
  | .readbackComplete j o c r => Sys2Proof.Machine.execReadbackComplete j o c r s
  | .packetMatch => Sys2Proof.Machine.execPacketMatch s
  | .egressTransmit p crP crNP crC => Sys2Proof.Machine.execEgressTransmit p crP crNP crC s
  | .ctCheckFail o => Sys2Proof.Machine.execCtCheckFail o s
  | .ctUnderrun o => Sys2Proof.Machine.execCtUnderrun o s
  | .ctHoldMaxExpiry o => Sys2Proof.Machine.execCtHoldMaxExpiry o s
  | .dataEndBadReceive p pk o => Sys2Proof.Machine.execDataEndBadReceive p pk o s
  | .returnWindowExpiry p => Sys2Proof.Machine.execReturnWindowExpiry p s
  | .inputHeldTimeout a => Sys2Proof.Machine.execInputHeldTimeout a s
  | .voqSelectWrite m v => Sys2Proof.Machine.execVoqSelectWrite m v s
  | .gateBoundary p => Sys2Proof.Machine.execGateBoundary p s
  | .gateCommitGo m => Sys2Proof.Machine.execGateCommitGo m s
  | .gateCommitDone => Sys2Proof.Machine.execGateCommitDone s
  | .gateCommitCancel m => Sys2Proof.Machine.execGateCommitCancel m s
  | .tickMinWrite m v => Sys2Proof.Machine.execTickMinWrite m v s
  | .shaperRateWrite m pol p c v => Sys2Proof.Machine.execShaperRateWrite m pol p c v s
  | .shaperBurstWrite m pol p c v => Sys2Proof.Machine.execShaperBurstWrite m pol p c v s
  | .windowEnable m w => Sys2Proof.Machine.execWindowEnable m w s
  | .windowDisable m w => Sys2Proof.Machine.execWindowDisable m w s
  | .memberApply m => Sys2Proof.Machine.execMemberApply m s
  | .memberLoad m => Sys2Proof.Machine.execMemberLoad m s
  | .puDecisionDone u => Sys2Proof.Machine.execPuDecisionDone u s
  | .missHoldExpiry u => Sys2Proof.Machine.execMissHoldExpiry u s
  | .sealWrite p w off data => Sys2Proof.Machine.execSealWrite p w off data s
  | .graceExpiry u => Sys2Proof.Machine.execGraceExpiry u s
  | .flushReadIssue u => Sys2Proof.Machine.execFlushReadIssue u s
  | .flushComplete u st => Sys2Proof.Machine.execFlushComplete u st s
  | .recordPost g => Sys2Proof.Machine.execRecordPost g s
  | .remotePathTimeout pool mb => Sys2Proof.Machine.execRemotePathTimeout pool mb s
  | .bufferRingReadDone pool mb st entries => Sys2Proof.Machine.execBufferRingReadDone pool mb st entries s
  | .doorbell pt sl off data => Sys2Proof.Machine.execDoorbell pt sl off data s
  | .fetchComplete q st descs => Sys2Proof.Machine.execFetchComplete q st descs s
  | .jobStart q => Sys2Proof.Machine.execJobStart q s
  | .nop q => Sys2Proof.Machine.execNop q s
  | .copy q => Sys2Proof.Machine.execCopy q s
  | .placeCopy q => Sys2Proof.Machine.execPlaceCopy q s
  | .fill q => Sys2Proof.Machine.execFill q s
  | .seal q => Sys2Proof.Machine.execSeal q s
  | .waitTick q => Sys2Proof.Machine.execWaitTick q s
  | .waitTickTimeout q => Sys2Proof.Machine.execWaitTickTimeout q s
  | .fence q => Sys2Proof.Machine.execFence q s
  | .recordOnly q => Sys2Proof.Machine.execRecordOnly q s
  | .resize q => Sys2Proof.Machine.execResize q s
  | .resizeTimeout q => Sys2Proof.Machine.execResizeTimeout q s
  | .dmaReadCompletion pt tag st data => Sys2Proof.Machine.execDmaReadCompletion pt tag st data s
  | .completionTimeout pt tag => Sys2Proof.Machine.execCompletionTimeout pt tag s
  | .tagQuarantineExpiry pt tag => Sys2Proof.Machine.execTagQuarantineExpiry pt tag s
  | .completionEntryWrite q => Sys2Proof.Machine.execCompletionEntryWrite q s
  | .msixModTimer q => Sys2Proof.Machine.execMsixModTimer q s
  | .msixUnmask f vec fnMask => Sys2Proof.Machine.execMsixUnmask f vec fnMask s
  | .qpEnable q => Sys2Proof.Machine.execQpEnable q s
  | .qpDisable q => Sys2Proof.Machine.execQpDisable q s
  | .qpResume q => Sys2Proof.Machine.execQpResume q s
  | .qpStopped q => Sys2Proof.Machine.execQpStopped q s
  | .portEnable m p => Sys2Proof.Machine.execPortEnable m p s
  | .portDisable m p => Sys2Proof.Machine.execPortDisable m p s
  | .portRetrain m p => Sys2Proof.Machine.execPortRetrain m p s
  | .portStopped p => Sys2Proof.Machine.execPortStopped p s
  | .detectDone p found shorted => Sys2Proof.Machine.execDetectDone p found shorted s
  | .detectRetry p => Sys2Proof.Machine.execDetectRetry p s
  | .linkUp p width flit reversed rx => Sys2Proof.Machine.execLinkUp p width flit reversed rx s
  | .stepUpStart p partnerMax => Sys2Proof.Machine.execStepUpStart p partnerMax s
  | .stepDone p rate width => Sys2Proof.Machine.execStepDone p rate width s
  | .portLinkDown p receivers => Sys2Proof.Machine.execPortLinkDown p receivers s
  | .refclkLost q tl => Sys2Proof.Machine.execRefclkLost q tl s
  | .refclkGood q tl => Sys2Proof.Machine.execRefclkGood q tl s
  | .strapRead ohms => Sys2Proof.Machine.execStrapRead ohms s
  | .configRequest p type1 bus dev fn reg w rid tag => Sys2Proof.Machine.execConfigRequest p type1 bus dev fn reg w rid tag s
  | .dpcTrigger p => Sys2Proof.Machine.execDpcTrigger p s
  | .dpcStatusClear p => Sys2Proof.Machine.execDpcStatusClear p s
  | .slotPowerControlWrite host n on => Sys2Proof.Machine.execSlotPowerControlWrite host n on s
  | .slotPgRise n => Sys2Proof.Machine.execSlotPgRise n s
  | .slotPgFall n => Sys2Proof.Machine.execSlotPgFall n s
  | .secondaryBusReset b on => Sys2Proof.Machine.execSecondaryBusReset b on s
  | .hotResetReceived p => Sys2Proof.Machine.execHotResetReceived p s
  | .perstAssert pt => Sys2Proof.Machine.execPerstAssert pt s
  | .perstRelease pt w => Sys2Proof.Machine.execPerstRelease pt w s
  | .partResetRelease pt => Sys2Proof.Machine.execPartResetRelease pt s
  | .ptmRequestTimer p => Sys2Proof.Machine.execPtmRequestTimer p s
  | .ptmExchange p host => Sys2Proof.Machine.execPtmExchange p host s
  | .vdmReceive p type0 m route => Sys2Proof.Machine.execVdmReceive p type0 m route s
  | .ideKeyProg o tx km => Sys2Proof.Machine.execIdeKeyProg o tx km s
  | .flr pt => Sys2Proof.Machine.execFlr pt s
  | .dataStitchReceive p levels after overflow => Sys2Proof.Machine.execDataStitchReceive p levels after overflow s
  | .fillerReceive p aboveHalf overflow => Sys2Proof.Machine.execFillerReceive p aboveHalf overflow s
  | .fillerDue p => Sys2Proof.Machine.execFillerDue p s
  | .trainingStitchReceive p l levels eq => Sys2Proof.Machine.execTrainingStitchReceive p l levels eq s
  | .trainingLockTimeout p => Sys2Proof.Machine.execTrainingLockTimeout p s
  | .trainingConfigTimeout p => Sys2Proof.Machine.execTrainingConfigTimeout p s
  | .rateReqReceive p code => Sys2Proof.Machine.execRateReqReceive p code s
  | .rateAckReceive p code => Sys2Proof.Machine.execRateAckReceive p code s
  | .ratePauseEnd p => Sys2Proof.Machine.execRatePauseEnd p s
  | .eqTimeout p => Sys2Proof.Machine.execEqTimeout p s
  | .soakPass p => Sys2Proof.Machine.execSoakPass p s
  | .laneLockLoss p l => Sys2Proof.Machine.execLaneLockLoss p l s
  | .laneLockRegain p l => Sys2Proof.Machine.execLaneLockRegain p l s
  | .ackTimer p => Sys2Proof.Machine.execAckTimer p s
  | .ackReceive p seq => Sys2Proof.Machine.execAckReceive p seq s
  | .nakReceive p seq reason => Sys2Proof.Machine.execNakReceive p seq reason s
  | .nakTimerExpiry p => Sys2Proof.Machine.execNakTimerExpiry p s
  | .replayTimerExpiry p => Sys2Proof.Machine.execReplayTimerExpiry p s
  | .creditTimer p => Sys2Proof.Machine.execCreditTimer p s
  | .creditReceive p counts => Sys2Proof.Machine.execCreditReceive p counts s
  | .auditTimer p => Sys2Proof.Machine.execAuditTimer p s
  | .auditReceive p cum mate paired => Sys2Proof.Machine.execAuditReceive p cum mate paired s
  | .creditRetrainStart p => Sys2Proof.Machine.execCreditRetrainStart p s
  | .delayMeasureTimer p => Sys2Proof.Machine.execDelayMeasureTimer p s
  | .delayReqReceive p id t1 => Sys2Proof.Machine.execDelayReqReceive p id t1 s
  | .delayRespReceive p id t2 t3 => Sys2Proof.Machine.execDelayRespReceive p id t2 t3 s
  | .delayRespTimeout p => Sys2Proof.Machine.execDelayRespTimeout p s
  | .controlRequestRepeat p => Sys2Proof.Machine.execControlRequestRepeat p s
  | .retrainReqReceive p full => Sys2Proof.Machine.execRetrainReqReceive p full s
  | .retrainAckReceive p full => Sys2Proof.Machine.execRetrainAckReceive p full s
  | .spareReqReceive p l => Sys2Proof.Machine.execSpareReqReceive p l s
  | .spareAckReceive p l => Sys2Proof.Machine.execSpareAckReceive p l s
  | .spareGoReceive p l => Sys2Proof.Machine.execSpareGoReceive p l s
  | .widthReqReceive p l w => Sys2Proof.Machine.execWidthReqReceive p l w s
  | .widthAckReceive p l w => Sys2Proof.Machine.execWidthAckReceive p l w s
  | .widthGoReceive p l w => Sys2Proof.Machine.execWidthGoReceive p l w s
  | .corrWindowExpiry p => Sys2Proof.Machine.execCorrWindowExpiry p s
  | .tLlExpiry p => Sys2Proof.Machine.execTLlExpiry p s
  | .deadTimeout p => Sys2Proof.Machine.execDeadTimeout p s
  | .resumeReceive p noReplay seen kept nextExp free => Sys2Proof.Machine.execResumeReceive p noReplay seen kept nextExp free s
  | .resumeRepeatTimer p => Sys2Proof.Machine.execResumeRepeatTimer p s
  | .resumeTimeout p => Sys2Proof.Machine.execResumeTimeout p s
  | .pairEnable m k => Sys2Proof.Machine.execPairEnable m k s
  | .pairDisable m k => Sys2Proof.Machine.execPairDisable m k s
  | .pairFlowReturn k c => Sys2Proof.Machine.execPairFlowReturn k c s
  | .proxyCompletion p pk => Sys2Proof.Machine.execProxyCompletion p pk s
  | .returnEntryStale p tag => Sys2Proof.Machine.execReturnEntryStale p tag s
  | .noticeReceive p n ttl => Sys2Proof.Machine.execNoticeReceive p n ttl s
  | .fabDevWrite m d v => Sys2Proof.Machine.execFabDevWrite m d v s
  | .apertureEnable m n j => Sys2Proof.Machine.execApertureEnable m n j s
  | .partitionEnable m n => Sys2Proof.Machine.execPartitionEnable m n s
  | .partitionDisable m n => Sys2Proof.Machine.execPartitionDisable m n s
  | .remapValidWrite m j v => Sys2Proof.Machine.execRemapValidWrite m j v s
  | .sliceCreate m => Sys2Proof.Machine.execSliceCreate m s
  | .sliceDelete m => Sys2Proof.Machine.execSliceDelete m s
  | .sliceRecreate m => Sys2Proof.Machine.execSliceRecreate m s
  | .sliceReset m => Sys2Proof.Machine.execSliceReset m s
  | .sliceLoad m => Sys2Proof.Machine.execSliceLoad m s
  | .xwCommit m win all => Sys2Proof.Machine.execXwCommit m win all s
  | .xwDrained => Sys2Proof.Machine.execXwDrained s
  | .vfFlrTimeout j => Sys2Proof.Machine.execVfFlrTimeout j s
  | .awtEntryCommit m j w0 => Sys2Proof.Machine.execAwtEntryCommit m j w0 s
  | .awtOverlapCheckDone => Sys2Proof.Machine.execAwtOverlapCheckDone s
  | .awtFence m => Sys2Proof.Machine.execAwtFence m s
  | .awtFenceDone => Sys2Proof.Machine.execAwtFenceDone s
  | .awtFenceTimeout => Sys2Proof.Machine.execAwtFenceTimeout s
  | .awtBankSwap m n => Sys2Proof.Machine.execAwtBankSwap m n s
  | .awtBankDrained n => Sys2Proof.Machine.execAwtBankDrained n s
  | .awlAccess m => Sys2Proof.Machine.execAwlAccess m s
  | .awlReadComplete st data => Sys2Proof.Machine.execAwlReadComplete st data s
  | .awlReadTimeout => Sys2Proof.Machine.execAwlReadTimeout s
  | .stagingWrite m off data => Sys2Proof.Machine.execStagingWrite m off data s
  | .imageVerify m => Sys2Proof.Machine.execImageVerify m s
  | .imageVerifyDone => Sys2Proof.Machine.execImageVerifyDone s
  | .imageInstall m mask => Sys2Proof.Machine.execImageInstall m mask s
  | .imageInstallDone => Sys2Proof.Machine.execImageInstallDone s
  | .clusterSwap m k => Sys2Proof.Machine.execClusterSwap m k s
  | .clusterDrainEnd k timedOut => Sys2Proof.Machine.execClusterDrainEnd k timedOut s
  | .clusterLoadDone k => Sys2Proof.Machine.execClusterLoadDone k s
  | .clusterRestore m k => Sys2Proof.Machine.execClusterRestore m k s
  | .clusterReclaim m k => Sys2Proof.Machine.execClusterReclaim m k s
  | .workHandoffDone k => Sys2Proof.Machine.execWorkHandoffDone k s
  | .engineWatchdog e => Sys2Proof.Machine.execEngineWatchdog e s
  | .engineRestore m e pass => Sys2Proof.Machine.execEngineRestore m e pass s
  | .mailboxRequest m k => Sys2Proof.Machine.execMailboxRequest m k s
  | .mailboxResponse k words => Sys2Proof.Machine.execMailboxResponse k words s
  | .mailboxAckClear m k => Sys2Proof.Machine.execMailboxAckClear m k s
  | .ofmRestore m mask => Sys2Proof.Machine.execOfmRestore m mask s
  | .ofmRestoreDone q => Sys2Proof.Machine.execOfmRestoreDone q s
  | .ofmQuotaWrite m n c v => Sys2Proof.Machine.execOfmQuotaWrite m n c v s
  | .durTcWrite m v => Sys2Proof.Machine.execDurTcWrite m v s
  | .heelEnable m => Sys2Proof.Machine.execHeelEnable m s
  | .heelMeasure m => Sys2Proof.Machine.execHeelMeasure m s
  | .heelTestTimer v0 charging => Sys2Proof.Machine.execHeelTestTimer v0 charging s
  | .heelV1Sample v1 => Sys2Proof.Machine.execHeelV1Sample v1 s
  | .heelTestDone v2 => Sys2Proof.Machine.execHeelTestDone v2 s
  | .heelParamWrite m which v => Sys2Proof.Machine.execHeelParamWrite m which v s
  | .heelResultExpiry => Sys2Proof.Machine.execHeelResultExpiry s
  | .faultAssert src inst pt => Sys2Proof.Machine.execFaultAssert src inst pt s
  | .faultDeassert src => Sys2Proof.Machine.execFaultDeassert src s
  | .railBroken j => Sys2Proof.Machine.execRailBroken j s
  | .railRestored j level => Sys2Proof.Machine.execRailRestored j level s
  | .blockResetRelease b => Sys2Proof.Machine.execBlockResetRelease b s
  | .shadowEnd b => Sys2Proof.Machine.execShadowEnd b s
  | .escalationWindowEnd b => Sys2Proof.Machine.execEscalationWindowEnd b s
  | .faultStickyClear m src => Sys2Proof.Machine.execFaultStickyClear m src s
  | .faultClearAll m => Sys2Proof.Machine.execFaultClearAll m s
  | .faultRestore m src => Sys2Proof.Machine.execFaultRestore m src s
  | .collectorSelfCheck pass => Sys2Proof.Machine.execCollectorSelfCheck pass s
  | .pairReadbackMismatch => Sys2Proof.Machine.execPairReadbackMismatch s
  | .faultInject m => Sys2Proof.Machine.execFaultInject m s
  | .faultInjectEnd => Sys2Proof.Machine.execFaultInjectEnd s
  | .scrubPass => Sys2Proof.Machine.execScrubPass s
  | .porAssert => Sys2Proof.Machine.execPorAssert s
  | .porRelease => Sys2Proof.Machine.execPorRelease s
  | .rstNAssert => Sys2Proof.Machine.execRstNAssert s
  | .rstNRelease w => Sys2Proof.Machine.execRstNRelease w s
  | .rstCmdWarm m key => Sys2Proof.Machine.execRstCmdWarm m key s
  | .rstCmdPart m key pt => Sys2Proof.Machine.execRstCmdPart m key pt s
  | .rstCmdPort m key p => Sys2Proof.Machine.execRstCmdPort m key p s
  | .resetPulseEnd r => Sys2Proof.Machine.execResetPulseEnd r s
  | .trimAttemptDone ok word => Sys2Proof.Machine.execTrimAttemptDone ok word s
  | .startupDone => Sys2Proof.Machine.execStartupDone s
  | .mgmtRead addr n pec => Sys2Proof.Machine.execMgmtRead addr n pec s
  | .mgmtWrite addr data pec => Sys2Proof.Machine.execMgmtWrite addr data pec s
  | .mgmtLast pec => Sys2Proof.Machine.execMgmtLast pec s
  | .mgmtMctp req pec => Sys2Proof.Machine.execMgmtMctp req pec s
  | .mgmtWarm key pec => Sys2Proof.Machine.execMgmtWarm key pec s
  | .mgmtCold key pec => Sys2Proof.Machine.execMgmtCold key pec s
  | .sysRefclkLost => Sys2Proof.Machine.execSysRefclkLost s
  | .pllLockLoss which => Sys2Proof.Machine.execPllLockLoss which s
  | .crossingTimeout => Sys2Proof.Machine.execCrossingTimeout s
  | .feedLow f => Sys2Proof.Machine.execFeedLow f s
  | .feedNotLow f => Sys2Proof.Machine.execFeedNotLow f s
  | .feedReverseCurrent f => Sys2Proof.Machine.execFeedReverseCurrent f s
  | .feedReversed f => Sys2Proof.Machine.execFeedReversed f s
  | .feedReversedClear f => Sys2Proof.Machine.execFeedReversedClear f s
  | .feedOvervoltage f => Sys2Proof.Machine.execFeedOvervoltage f s
  | .busUndervoltage => Sys2Proof.Machine.execBusUndervoltage s
  | .busUvRecovered => Sys2Proof.Machine.execBusUvRecovered s
  | .pwrfailReadback => Sys2Proof.Machine.execPwrfailReadback s
  | .slotRampComplete n => Sys2Proof.Machine.execSlotRampComplete n s
  | .slotQualified n => Sys2Proof.Machine.execSlotQualified n s
  | .slotTimerTrip n => Sys2Proof.Machine.execSlotTimerTrip n s
  | .slotFastTrip n => Sys2Proof.Machine.execSlotFastTrip n s
  | .slotCoolEnd n => Sys2Proof.Machine.execSlotCoolEnd n s
  | .slotFetFault n kind => Sys2Proof.Machine.execSlotFetFault n kind s
  | .slotClrFet m n => Sys2Proof.Machine.execSlotClrFet m n s
  | .bistTestDone t f => Sys2Proof.Machine.execBistTestDone t f s
  | .bistTimeout t => Sys2Proof.Machine.execBistTimeout t s
  | .bistConditionsFail t => Sys2Proof.Machine.execBistConditionsFail t s
  | .secretsClear m key clrRetained => Sys2Proof.Machine.execSecretsClear m key clrRetained s
  | .secretsVerify m key => Sys2Proof.Machine.execSecretsVerify m key s
  | .secretsVerifyDone => Sys2Proof.Machine.execSecretsVerifyDone s
  | .certCommit m => Sys2Proof.Machine.execCertCommit m s
  | .spdmRequest via r => Sys2Proof.Machine.execSpdmRequest via r s
  | .jtagInstruction j => Sys2Proof.Machine.execJtagInstruction j s
  | .tempWarn j => Sys2Proof.Machine.execTempWarn j s
  | .tempCrit j => Sys2Proof.Machine.execTempCrit j s
  | .tempSensorFail j => Sys2Proof.Machine.execTempSensorFail j s
  | .supplyOutOfRange j => Sys2Proof.Machine.execSupplyOutOfRange j s
  | .registerWrite ws => Sys2Proof.Machine.execRegisterWrite ws s
  | .registerTimeout m off => Sys2Proof.Machine.execRegisterTimeout m off s
  | .timerSourceLock => Sys2Proof.Machine.execTimerSourceLock s
  | .sysRefclkGood => Sys2Proof.Machine.execSysRefclkGood s
  | .hotResetEnd p => Sys2Proof.Machine.execHotResetEnd p s
  | .pcieTrainingFail r => Sys2Proof.Machine.execPcieTrainingFail r s
  | .vfConfigHoldEnd j => Sys2Proof.Machine.execVfConfigHoldEnd j s
  | .powerDieStart => Sys2Proof.Machine.execPowerDieStart s
  | .powerDieStop => Sys2Proof.Machine.execPowerDieStop s
  | .feedOvClear f => Sys2Proof.Machine.execFeedOvClear f s
  | .registerRead m off len => Sys2Proof.Machine.execRegisterRead m off len s

end Sys2Proof.Machine
end

