-- ==== Sys2Proof/Machine/Step.lean ====
section
/-! DEFINITION. One step: the command at the front of the queue, or, with none waiting, one nanosecond of device time. -/

namespace Sys2Proof.Machine

/-- DESIGN CHOICE: with no command waiting the block idles for 1 ns, in which a follower's device time slews (R67) and links rest (R255). -/
def idle (s : State) : State := l1Rest (slewStep { s with now := s.now + 1 })

/-- One step: the first command that waits has its effect on the state without it. -/
def step (s : State) : Host.Outcome State Fault Refusal :=
  match s.pending with
  | [] => .next (idle s)
  | c :: rest => exec c { s with pending := rest }

/-- The state with the command that a word spells in front of its queue: the opcode table gives no row any bits, so no word
spells one. -/
def State.withFetchWord (s : State) (nbits w : Nat) : State :=
  match Sys2Proof.decodeTableWord nbits w with
  | none => s
  | some c => { s with pending := c :: s.pending }

end Sys2Proof.Machine
end

