-- ==== Sys2Proof/Safety.lean ====
section
/-! DEFINITION. What a sound state is, in the terms the statements use: the register store and every byte store of the part are in
their canonical form, so that equal contents are equal data, and no register field exceeds its width. -/

namespace Sys2Proof.Machine

/-- A byte store in canonical form: addresses strictly rising, no entry that is 0, which an unlisted address reads as. -/
def Memory.wf (m : List Host.Cell) : Bool := nsorted none m && m.all (fun e => e.2 != 0)

/-- A sound state: registers fit their fields' widths, and the stores of the part (retained memory, staging buffer, certificate window,
cluster images) are canonical. -/
def State.wf (s : State) : Bool :=
  rwf s.regs && Memory.wf s.flt.ret && Memory.wf s.ckr.stg && Memory.wf s.tst.cert && s.ckr.img.all (fun e => Memory.wf e.2)

/-- R522, R439: the mode lets master `m` write at offset `off` of manager BAR0, and no BLOCK reset answers in its place. -/
def taken (s : State) (m : Master) (off : Nat) : Prop :=
  modeAllows s m off true = true ∧ inBlockReset s (blockOf off) = false

/-- The state as a write of master `m` finds it: over the management bus STATUS shows OK (R475). -/
def acked (s : State) (m : Master) : State := if m = .mgmt then { s with mgmtStatus := 0 } else s

/-- The master and the offset of a command that is one register write. -/
def regCommand : Instr → Option (Master × Nat)
  | .modeRequestGo m _ => some (m, GLB_MODE_REQ_GO.off)
  | .encPosWrite m _ _ => some (m, ENC_POS.off)
  | .timeOffsetWrite m _ => some (m, LCE_TIME_OFS.off)
  | .tickPresetWrite m _ => some (m, LCE_TICK_PRESET.off)
  | .tickSourceWrite m _ => some (m, LCE_CTL_SRC.off)
  | .triggerFireWrite m _ => some (m, TRIG_CTL_FIRE.off)
  | .voqSelectWrite m _ => some (m, SHK_VOQ_SEL_IN.off)
  | .gateCommitGo m => some (m, SHK_GATE_COMMIT_GO.off)
  | .gateCommitCancel m => some (m, SHK_GATE_COMMIT_CANCEL.off)
  | .tickMinWrite m _ => some (m, LCE_TICK_MIN.off)
  | .shaperRateWrite m _ _ _ _ => some (m, SHK_SHP_RATE.off)
  | .shaperBurstWrite m _ _ _ _ => some (m, SHK_SHP_BURST.off)
  | .windowEnable m _ => some (m, PLC_WIN_CTL_EN.off)
  | .windowDisable m _ => some (m, PLC_WIN_CTL_EN.off)
  | .memberApply m => some (m, PLC_MBR_CMD_APPLY.off)
  | .memberLoad m => some (m, PLC_MBR_CMD_LOAD.off)
  | .portEnable m p => some (m, PRT_CMD_ENABLE.off + 0x4000 * p.val)
  | .portDisable m p => some (m, PRT_CMD_DISABLE.off + 0x4000 * p.val)
  | .portRetrain m p => some (m, PRT_CMD_RETRAIN.off + 0x4000 * p.val)
  | .pairEnable m k => some (m, WLT_PAIR_CTL_EN.off + 0x20 * k.val)
  | .pairDisable m k => some (m, WLT_PAIR_CTL_EN.off + 0x20 * k.val)
  | .fabDevWrite m _ _ => some (m, FAB_DEV_MODE.off)
  | .apertureEnable m _ _ => some (m, FAB_GAP_EN.off)
  | .partitionEnable m n => some (m, PTN_CFG_EN.off + 0x10 * n.val)
  | .partitionDisable m n => some (m, PTN_CFG_EN.off + 0x10 * n.val)
  | .remapValidWrite m _ _ => some (m, PTN_RID_VALID.off)
  | .sliceCreate m => some (m, PTN_SLC_CMD_CREATE.off)
  | .sliceDelete m => some (m, PTN_SLC_CMD_DELETE.off)
  | .sliceRecreate m => some (m, PTN_SLC_CMD_RECREATE.off)
  | .sliceReset m => some (m, PTN_SLC_CMD_RESET.off)
  | .sliceLoad m => some (m, PTN_SLC_CMD_LOAD.off)
  | .xwCommit m _ _ => some (m, PTN_XW_COMMIT_GO.off)
  | .awtEntryCommit m _ _ => some (m, AWT_W0_VALID.off)
  | .awtFence m => some (m, AWT_FENCE_GO.off)
  | .awtBankSwap m _ => some (m, AWT_BANK_SEL_SWAP.off)
  | .awlAccess m => some (m, AWL_CTL_GO.off)
  | .stagingWrite m off _ => some (m, 0x4000000 + off.toNat)
  | .imageVerify m => some (m, CKR_IMG_CMD_VERIFY.off)
  | .imageInstall m _ => some (m, CKR_IMG_CMD_INSTALL.off)
  | .clusterSwap m k => some (m, CKR_CLU_CMD_SWAP.off + 0x20 * k.val)
  | .clusterRestore m k => some (m, CKR_CLU_CMD_RESTORE.off + 0x20 * k.val)
  | .clusterReclaim m k => some (m, CKR_CLU_CMD_RECLAIM.off + 0x20 * k.val)
  | .engineRestore m e _ => some (m, CKR_ENG_CTL_RESTORE.off + 0x10 * e.val)
  | .mailboxRequest m k => some (m, CKR_MBX_CTL_REQ.off + 0x100 * k.val)
  | .mailboxAckClear m k => some (m, CKR_MBX_CTL_ACK.off + 0x100 * k.val)
  | .ofmRestore m _ => some (m, OFM_CMD_RESTORE.off)
  | .ofmQuotaWrite m _ _ _ => some (m, OFM_QUOTA.off)
  | .durTcWrite m _ => some (m, OFM_CTL_DUR_TC.off)
  | .heelEnable m => some (m, PWD_HU_CTL_EN.off)
  | .heelMeasure m => some (m, PWD_HU_CTL_MEASURE.off)
  | .heelParamWrite m w _ => some (m, PWD_HU_ETA.off + 4 * w.val)
  | .faultStickyClear m n => some (m, FLT_SEV_STICKY.off + 16 * n.toNat)
  | .faultClearAll m => some (m, FLT_CMD_CLEAR_ALL.off)
  | .faultRestore m _ => some (m, FLT_CMD_RESTORE.off)
  | .faultInject m => some (m, FLT_INJ_GO.off)
  | .rstCmdWarm m _ => some (m, RST_CMD_WARM.off)
  | .rstCmdPart m _ _ => some (m, RST_CMD_PART.off)
  | .rstCmdPort m _ _ => some (m, RST_CMD_PORT.off)
  | .slotClrFet m n => some (m, PWD_SLOT_CTL_CLR_FET.off + 0x20 * n.val)
  | .secretsClear m _ _ => some (m, TST_SEC_CMD_CLEAR.off)
  | .secretsVerify m _ => some (m, TST_SEC_CMD_VERIFY.off)
  | .certCommit m => some (m, TST_CERT_CTL_COMMIT.off)
  | _ => none

end Sys2Proof.Machine
end

