-- ==== Sys2Proof/Certificates/Slice0/Obligations.lean ====
section
/-! DEFINITION. The statements for the provers. -/

open Sys2Proof Sys2Proof.Machine

/-- The block takes the command at the front of its queue: a step is that command's effect on the state whose queue is the rest. Where it rests
on the model's choices it follows assumption 1. -/
def Obligations.StepTakesFront : Prop :=
  ∀ (c : Instr) (rest : List Instr) (s : State), s.pending = c :: rest → step s = exec c { s with pending := rest }

/-- With no command waiting a step lets 1 ns of device time pass: nothing else changes but, in a follower that slews, the time correction (R16,
R67), and which downstream ports rest in L1 (R255): those that may (assumption 2). Where it rests on the model's choices it follows
assumption 2. -/
def Obligations.StepIdles : Prop :=
  ∀ s : State, s.pending = [] →
    ∃ t, step s = .next t ∧ t.now = s.now + 1 ∧ t = { s with now := t.now, lce := t.lce, prt := { s.prt with l1 := t.prt.l1 } }
      ∧ (∀ p ∈ t.prt.l1, p < 64 ∧ isTlink s p = false ∧ bit s PRT_CFG_DIR p = false ∧ linkUp s p = true ∧ bit s PCI_CTL_L1_ALLOW p = true
          ∧ nget s.shk.staging p [] = [] ∧ nget s.shk.wait p [] = [])
      ∧ t.lce = { s.lce with adj := t.lce.adj, slew := t.lce.slew } ∧ t.lce.adj + t.lce.slew = s.lce.adj + s.lce.slew

/-- Every step from a sound state that answers a next state answers a sound one: registers stay within their fields' widths, and the register
store, retained memory, the staging buffer, the certificate window and the cluster images stay canonical. -/
def Obligations.StepKeepsSound : Prop :=
  ∀ s t : State, s.wf = true → step s = .next t → t.wf = true

/-- The state after power-on reset is sound. Where it rests on the model's choices it follows assumption 7. -/
def Obligations.ResetIsSound : Prop :=
 State.reset.wf = true

/-- No command touches the queue of waiting commands: from a sound state every command answers a next state with the same queue. Where it rests
on the model's choices it follows assumptions 1, 140. -/
def Obligations.CommandsLeaveQueue : Prop :=
  ∀ (c : Instr) (s : State), s.wf = true → ∃ t, exec c s = .next t ∧ t.pending = s.pending

/-- R522: in each mode a register responds only as the manager-access column of Table 2-1 allows. Outside that, in-band a read returns 0 and a
write or a command has no effect, over the management bus an access ends with NOT_AVAIL (STATUS 3), and at the Awl with AWL_STATUS = CA. -/
def Obligations.ModeAllowsAccess : Prop :=
  (∀ (c : Instr) (s : State) (m : Master) (off : Nat), regCommand c = some (m, off) → modeAllows s m off true = false →
    exec c s = .next (match m with
      | .inband => s
      | .mgmt => { s with mgmtStatus := 3 }
      | .awl => wr s AWL_STATUS 0 5))
  ∧ (∀ (s : State) (w : RegWr), modeAllows s w.m w.off.toNat true = false →
    exec (.registerWrite [w]) s = .next (match w.m with
      | .inband => s
      | .mgmt => { s with mgmtStatus := 3 }
      | .awl => wr s AWL_STATUS 0 5))
  ∧ (∀ (s : State) (m : Master) (off : BitVec 28) (len : Nat), modeAllows s m off.toNat false = false →
    exec (.registerRead m off len) s = .next (match m with
      | .inband => emit s (.answer .inband (List.replicate len 0))
      | .mgmt => emit { s with mgmtStatus := 3 } (.answer .mgmt (List.replicate len 0))
      | .awl => emit (wr s AWL_STATUS 0 5) (.answer .awl (List.replicate len 0))))
  ∧ (∀ (s : State) (m : Master) (off : Nat) (w : Bool),
    (mode s = mTEST → (modeAllows s m off w = true ↔ m = .mgmt ∧ (blockOf off = 0 ∨ blockOf off = 15)))
    ∧ (mode s = mSAFE → (modeAllows s m off w = true ↔ m = .mgmt ∧ (w = false ∨ blockOf off = 12 ∨ blockOf off = 13 ∨ blockOf off = 14
        ∨ (0x100 ≤ off ∧ off < 0x120))))
    ∧ (mode s = mFACTORY → (modeAllows s m off w = true ↔ m = .mgmt ∨ m = .awl))
    ∧ (mode s = mSTANDBY → (modeAllows s m off w = true ↔ m = .mgmt))
    ∧ (mode s = mHOLD → (modeAllows s m off w = true ↔ m = .mgmt ∧ w = false ∧ (off / 4 * 4 = 0 ∨ off / 4 * 4 = 0xC ∨ off / 4 * 4 = 0x10 ∨ off / 4 * 4 = 0xD00000)))
    ∧ (mode s ≠ mHOLD → mode s ≠ mTEST → mode s ≠ mSAFE → mode s ≠ mFACTORY → mode s ≠ mSTANDBY → modeAllows s m off w = true))

/-- A register command to a block in BLOCK reset has no effect there: FLT_BLK_DISC counts it, and it ends with STATUS CA over the management bus
and AWL_STATUS = CA at the Awl (R439, R475). A register access that gets no answer from its block ends after its time-out and raises the
register-bus timeout source: Completer Abort in-band, STATUS CA, or AWL_STATUS = CA (R475, R523). Where it rests on the model's choices it
follows assumption 22. -/
def Obligations.BlockResetTurnsAway : Prop :=
  (∀ (c : Instr) (s : State) (m : Master) (off : Nat), regCommand c = some (m, off) → modeAllows s m off true = true →
      rd s FLT_BLK_STATE (blockOf off) = 1 →
      exec c s = .next (match m with
        | .inband => inc s FLT_BLK_DISC
        | .mgmt => { inc s FLT_BLK_DISC with mgmtStatus := 1 }
        | .awl => wr (inc s FLT_BLK_DISC) AWL_STATUS 0 5))
  ∧ (∀ (s : State) (m : Master) (off : BitVec 28),
      exec (.registerTimeout m off) s = .next (match m with
        | .inband => emit (raise s 0x008) (.answer .inband [])
        | .mgmt => emit { raise s 0x008 with mgmtStatus := 1 } (.answer .mgmt [])
        | .awl => emit (wr (raise s 0x008) AWL_STATUS 0 5) (.answer .awl [])))

/-- R519, R521: a full 4-byte write by a master at an offset that holds no register has no effect but that GLB_UNMAPPED counts it and the
unmapped-access source is raised; the access completes normally. R519: a 4-byte read by a master at an offset that holds no register answers
zeros, GLB_UNMAPPED counts it, and the unmapped-access source is raised; it completes normally. Over the management bus an address at or
above 0x1000_0000 ends with BAD_ADDR (R519, R475). Where it rests on the model's choices it follows assumption 10. -/
def Obligations.UnmappedAccess : Prop :=
  (∀ (s : State) (m : Master) (off : BitVec 28) (a b c d : Byte),
      taken s m off.toNat → off.toNat % 4 = 0 → inArea off.toNat = false → ¬(0xF01000 ≤ off.toNat ∧ off.toNat < 0xF03000) →
      regFind off.toNat = none →
      exec (.registerWrite [{ m := m, off := off, data := [(a, true), (b, true), (c, true), (d, true)] }]) s
        = .next (raise (inc (acked s m) GLB_UNMAPPED) 0x002))
  ∧ (∀ (s : State) (m : Master) (off : BitVec 28), accCode s m off.toNat false = 0 → off.toNat % 4 = 0 → inArea off.toNat = false →
      ¬(0xF01000 ≤ off.toNat ∧ off.toNat < 0xF03000) → regFind off.toNat = none →
      exec (.registerRead m off 4) s = .next (match m with
        | .inband => emit (raise (inc s GLB_UNMAPPED) 0x002) (.answer .inband [0, 0, 0, 0])
        | .mgmt => emit { raise (inc s GLB_UNMAPPED) 0x002 with mgmtStatus := 0 } (.answer .mgmt [0, 0, 0, 0])
        | .awl => emit (raise (inc s GLB_UNMAPPED) 0x002) (.answer .awl [0, 0, 0, 0])))
  ∧ (∀ (s : State) (addr : BitVec 32), s.rst.coldWait = false → 0x10000000 ≤ addr.toNat →
      (∀ n : BitVec 8, 1 ≤ n.toNat → n.toNat ≤ 7 → exec (.mgmtRead addr n true) s
        = .next (emit { s with rst := { s.rst with lastCmd := 1 }, mgmtStatus := 2 } (.answer .mgmt (2#8 :: List.replicate (4 * n.toNat) 0))))
      ∧ (∀ data : List (BitVec 32), 1 ≤ data.length → data.length ≤ 7 → exec (.mgmtWrite addr data true) s
        = .next { s with rst := { s.rst with lastCmd := 2 }, mgmtStatus := 2 }))

/-- What a register write keeps: a field takes the low bits of the value written, and every field at another place keeps its value. A byte
written to one of the part's stores reads back, and every other byte of the store reads as before. R524: a counter that an event raises
saturates at its width, and no other field changes. -/
def Obligations.FieldWrite : Prop :=
  ((∀ (s : State) (f : Fld) (i v : Nat), s.wf = true →
      rd (wr s f i v) f i = v % 2 ^ (f.width % 128)
        ∧ (∀ (g : Fld) (j : Nat), fkey g j ≠ fkey f i → rd (wr s f i v) g j = rd s g j)
        ∧ wr s f i v = { s with regs := (wr s f i v).regs })
    ∧ (∀ (m : List Host.Cell) (a b : Nat) (v : Byte), Memory.wf m = true → cget (cput m a v) b = if b = a then v else cget m b))
  ∧ (∀ (s : State) (f : Fld) (i n : Nat), s.wf = true → f.width < 128 → rd s f i < 2 ^ f.width →
      rd (inc s f i n) f i = min (rd s f i + n) (2 ^ f.width - 1)
        ∧ (∀ (g : Fld) (j : Nat), fkey g j ≠ fkey f i → rd (inc s f i n) g j = rd s g j))

/-- An aligned 4-byte write by one master to a 32-bit register writes its fields and then acts, and a read answers the register and clears what
it read of its RC fields (R520). A field that reads back takes its bits unless it is locked, W1C bits clear where 1 is written, and
read-only fields keep their value (R17 to R20). Where it rests on the model's choices it follows assumptions 19, 20. -/
def Obligations.RegisterAccess : Prop :=
  (∀ (s u : State) (m : Master) (off : BitVec 28) (a b c d : Byte) (r : Reg) (i v : Nat), taken s m off.toNat → u = acked s m → off.toNat % 4 = 0 →
    inArea off.toNat = false → ¬(0xF01000 ≤ off.toNat ∧ off.toNat < 0xF03000) → regFind off.toNat = some (r, i, false) → r.wide = false →
    v = leNat [a, b, c, d] → regDead u r i = false → regWhole u m r.off i v = none →
    exec (.registerWrite [{ m := m, off := off, data := [(a, true), (b, true), (c, true), (d, true)] }]) s
      = .next (regActs u (r.flds.foldl (fun t f => fldWrite u t f i v) u) r.off i v))
  ∧ (∀ (s t : State) (f : Fld) (i v : Nat), acted f = false →
    ((f.acc = .rw ∨ f.acc = .rwl) → fldLocked s f (fldIdx s f i) = false →
      fldWrite s t f i v = wr t f (fldIdx s f i) (storVal f.stor (v / 2 ^ f.lsb % 2 ^ f.width)))
    ∧ ((f.acc = .rw ∨ f.acc = .rwl) → fldLocked s f (fldIdx s f i) = true → fldWrite s t f i v = t)
    ∧ (f.acc = .w1c → fldWrite s t f i v = wr t f (fldIdx s f i) (rd t f (fldIdx s f i) - Nat.land (rd t f (fldIdx s f i)) (v / 2 ^ f.lsb % 2 ^ f.width)))
    ∧ ((f.acc = .ro ∨ f.acc = .rc) → fldWrite s t f i v = t))
  ∧ (∀ (s : State) (off : BitVec 28) (r : Reg) (i : Nat), accCode s .inband off.toNat false = 0 → off.toNat % 4 = 0 → areaByte s off.toNat = none →
    regFind off.toNat = some (r, i, false) → r.wide = false →
    exec (.registerRead .inband off 4) s = .next (emit (rcClear { s with free := s.free + 32 } r i off.toNat false (fun x => decide (off.toNat ≤ x) && decide (x < off.toNat + 4)))
      (.answer .inband (leBytes 4 (regVal s r i)))))

/-- Two masters' writes to one 32-bit register, or half of a wider one, in one cycle collide (R525): the collision is counted, recorded with its
masters and its winner if none is, and raised; in the order in-band, management bus, Awl the earlier write completes with no effect and the
last one stands. Where it rests on the model's choices it follows assumption 12. -/
def Obligations.WritesCollide : Prop :=
  ∀ (s u : State) (m n : Master) (off : BitVec 28) (a b c d a' b' c' d' : Byte) (r : Reg) (i : Nat) (high : Bool), busNum m < busNum n →
    taken s m off.toNat → taken s n off.toNat → off.toNat % 4 = 0 → inArea off.toNat = false → regFind off.toNat = some (r, i, high) →
    u = raise (if bit (inc s WRITE_COLLIDE) GLB_COLLIDE_VALID then inc s WRITE_COLLIDE
      else wr (wr (wr (wr (inc s WRITE_COLLIDE) GLB_COLLIDE_VALID 0 1) GLB_COLLIDE_MASTERS 0 (2 ^ busNum m + 2 ^ busNum n)) GLB_COLLIDE_WINNER 0 (busNum n)) GLB_COLLIDE_ADDR 0 off.toNat) 0x001 →
    taken u m off.toNat → taken u n off.toNat →
    exec (.registerWrite [{ m := m, off := off, data := [(a, true), (b, true), (c, true), (d, true)] }, { m := n, off := off, data := [(a', true), (b', true), (c', true), (d', true)] }]) s
      = exec (.registerWrite [{ m := n, off := off, data := [(a', true), (b', true), (c', true), (d', true)] }]) (acked u m)

/-- Before step 2 of start-up the bus acknowledges nothing; a transfer whose PEC fails sets STATUS PEC and does nothing else (R473, R475). The
commands of Table 18-7 that are taken. READ answers STATUS and its words; WRITE makes its register writes; LAST answers the latest STATUS
and command and the word of GLB_MODE; WARM and COLD with a wrong key set BAD_KEY and do nothing, and with the key assert their reset and its
cause (R474, R475). JTAG (R516): IDCODE answers the code of Table 0-1 at any time, the Awl instruction makes one register write of the Awl
while TRIM_OK and TST_DBG.JTAG_AWL are set, and every other instruction changes nothing. Where it rests on the model's choices it follows
assumptions 21, 23. -/
def Obligations.BusAndJtag : Prop :=
  (∀ (s : State) (addr : BitVec 32) (n : BitVec 8) (data : List (BitVec 32)) (key : BitVec 16) (req : SpdmReq),
      (s.rst.coldWait = true → ∀ pec : Bool,
        exec (.mgmtRead addr n pec) s = .next s ∧ exec (.mgmtWrite addr data pec) s = .next s ∧ exec (.mgmtLast pec) s = .next s
          ∧ exec (.mgmtMctp req pec) s = .next s ∧ exec (.mgmtWarm key pec) s = .next s ∧ exec (.mgmtCold key pec) s = .next s)
      ∧ (s.rst.coldWait = false →
        exec (.mgmtRead addr n false) s = .next { s with mgmtStatus := 4 }
          ∧ exec (.mgmtWrite addr data false) s = .next { s with mgmtStatus := 4 }
          ∧ exec (.mgmtLast false) s = .next { s with mgmtStatus := 4 }
          ∧ exec (.mgmtMctp req false) s = .next { s with mgmtStatus := 4 }
          ∧ exec (.mgmtWarm key false) s = .next { s with mgmtStatus := 4 }
          ∧ exec (.mgmtCold key false) s = .next { s with mgmtStatus := 4 }))
  ∧ ((∀ (s : State) (addr : BitVec 32) (n : BitVec 8), s.rst.coldWait = false → 1 ≤ n.toNat → n.toNat ≤ 7 → addr.toNat % 4 = 0 →
      addr.toNat < 0x10000000 →
      ∃ t r, exec (.mgmtRead addr n true) s = .next t
        ∧ r = masterRead { s with rst := { s.rst with lastCmd := 1 } } .mgmt addr.toNat (4 * n.toNat)
            (fun x => decide (addr.toNat ≤ x) && decide (x < addr.toNat + 4 * n.toNat))
        ∧ t = emit { r.1 with mgmtStatus := r.2.2 } (.answer .mgmt (BitVec.ofNat 8 r.2.2 :: r.2.1)))
    ∧ (∀ (s : State) (addr : BitVec 32) (data : List (BitVec 32)), s.rst.coldWait = false → 1 ≤ data.length → data.length ≤ 7 →
      addr.toNat % 4 = 0 → addr.toNat < 0x10000000 →
      exec (.mgmtWrite addr data true) s = exec (.registerWrite [{ m := .mgmt, off := BitVec.ofNat 28 addr.toNat, data := data.flatMap (fun v => (leBytes 4 v.toNat).map (fun b => (b, true))) }])
        { s with rst := { s.rst with lastCmd := 2 } })
    ∧ (∀ s : State, s.rst.coldWait = false →
      exec (.mgmtLast true) s = .next (emit { s with rst := { s.rst with lastCmd := s.rst.lastCmd } }
        (.answer .mgmt (BitVec.ofNat 8 s.mgmtStatus :: BitVec.ofNat 8 s.rst.lastCmd
          :: (masterRead { s with rst := { s.rst with lastCmd := s.rst.lastCmd } } .mgmt 0x10 4 (fun _ => true)).2.1))))
    ∧ (∀ (s : State) (key : BitVec 16), s.rst.coldWait = false → key ≠ 0x5AA5 →
      exec (.mgmtWarm key true) s = .next { s with rst := { s.rst with lastCmd := 0x10 }, mgmtStatus := 5 }
        ∧ exec (.mgmtCold key true) s = .next { s with rst := { s.rst with lastCmd := 0x11 }, mgmtStatus := 5 })
    ∧ (∀ s : State, s.rst.coldWait = false →
      exec (.mgmtWarm 0x5AA5 true) s = .next (wr (warmGo { s with rst := { s.rst with lastCmd := 0x10 }, mgmtStatus := 0 }) RST_CAUSE_CMD_WARM 0 1)
        ∧ exec (.mgmtCold 0x5AA5 true) s = .next (wr (coldGo (resetNotice { s with rst := { s.rst with lastCmd := 0x11 }, mgmtStatus := 0 }) 1) RST_CAUSE_CMD_COLD 0 1))
    ∧ (∀ (s : State) (r : SpdmReq), s.rst.coldWait = false → bit s RST_TRIM_TRIM_OK = true → bit s TST_SEC_STATUS_ID_READY = true →
      exec (.mgmtMctp r true) s = exec (.spdmRequest .mctp r) { s with rst := { s.rst with lastCmd := 0x0F }, mgmtStatus := 0 }))
  ∧ ((∀ s : State, exec (.jtagInstruction .idcode) s = .next (emit s (.answer .awl [0x3D, 0x2B, 0x19, 0x16])))
    ∧ (∀ (s : State) (off : BitVec 28) (v : BitVec 32), bit s RST_TRIM_TRIM_OK = true → bit s TST_DBG_JTAG_AWL = true →
      exec (.jtagInstruction (.awl off v)) s
        = exec (.registerWrite [{ m := .awl, off := off, data := (leBytes 4 v.toNat).map (fun b => (b, true)) }]) s)
    ∧ (∀ (s : State) (off : BitVec 28) (v : BitVec 32), bit s TST_DBG_JTAG_AWL = false → exec (.jtagInstruction (.awl off v)) s = .next s)
    ∧ (∀ s : State, exec (.jtagInstruction .bypass) s = .next s ∧ exec (.jtagInstruction .other) s = .next s))

/-- A request to change mode stores TARGET; refused, it stores its STATUS and changes nothing else; accepted, it sets GO and BUSY and begins the
transition that Table 2-2 gives (to DEGRADED where a resource is fenced), a request for TEST taking the selected self-tests with it (R35,
R40, R43, R547). One for SAFE competes as the SAFE reaction does (R42): with nothing under way it begins its transition, and where the part
is on its way to SAFE already it joins, the source that came first standing (assumption 150). A request for STANDBY or one that begins the
transition to SAFE sends its notice first (R341). R43, R547: while GLB_MODE.BUSY is set every request but one for SAFE that Table 2-2 has is
refused with STATUS 1, and a request that Table 2-2 does not have from the mode is refused with STATUS 2 where BUSY is clear and no WARM is
asserted. Where it rests on the model's choices it follows assumptions 29, 150. -/
def Obligations.ModeRequests : Prop :=
  (∀ (s u : State) (m : Master) (target : BitVec 4), s.wf = true → taken s m 0x14 → u = wr (acked s m) GLB_MODE_REQ_TARGET 0 target.toNat →
      ∀ t, t = rd u GLB_MODE_REQ_TARGET →
      (requestStatus u t ≠ 0 →
        exec (.modeRequestGo m target) s = .next (wr u GLB_MODE_REQ_STATUS 0 (requestStatus u t)))
      ∧ (∀ v, requestStatus u t = 0 → t ≠ mTEST → t ≠ mSAFE → v = (if t = mSTANDBY then noticeSend u 7 0 0 0 else u) →
        exec (.modeRequestGo m target) s
          = .next { wr (wr v GLB_MODE_REQ_GO 0 1) GLB_MODE_BUSY 0 1 with tr := some (requestTrans v t) })
      ∧ (∀ v, requestStatus u t = 0 → t = mSAFE → resetRuns u = false → u.tr = none →
        v = noticeSend { wr u GLB_MODE_REQ_GO 0 1 with rst := { u.rst with starting := false } } 3 0xFFF 0 0 →
        exec (.modeRequestGo m target) s
          = .next { wr v GLB_MODE_BUSY 0 1 with
              tr := some { to' := mSAFE, from' := mode u, cause := 0, locked := false, src := 0xFFF, req := true } })
      ∧ (∀ w, requestStatus u t = 0 → t = mSAFE → resetRuns u = false → u.tr = some w → w.to' = mSAFE →
        exec (.modeRequestGo m target) s
          = .next { wr u GLB_MODE_REQ_GO 0 1 with tr := some { w with req := true } })
      ∧ (requestStatus u t = 0 → t = mTEST →
        exec (.modeRequestGo m target) s
          = .next { wr (wr u GLB_MODE_REQ_GO 0 1) GLB_MODE_BUSY 0 1 with
              tst := { u.tst with left := bistSelected u, qmask := rd u TST_BIST_SEL_QMASK }
              tr := some (requestTrans u t) }))
  ∧ (∀ (s : State) (m : Master) (target : BitVec 4), s.wf = true → taken s m 0x14 →
      ((bit s GLB_MODE_BUSY = true → target.toNat ≠ mSAFE →
        exec (.modeRequestGo m target) s
          = .next (wr (wr (acked s m) GLB_MODE_REQ_TARGET 0 target.toNat) GLB_MODE_REQ_STATUS 0 1))
      ∧ (bit s GLB_MODE_BUSY = false → s.rst.warmWait = false → requestLegal s (mode s) target.toNat = false →
        exec (.modeRequestGo m target) s
          = .next (wr (wr (acked s m) GLB_MODE_REQ_TARGET 0 target.toNat) GLB_MODE_REQ_STATUS 0 2))))

/-- A transition that completes: one that a request began clears GO and sets STATUS 0, SAFE takes its source into SAFE_SRC, GLB_MODE shows the
mode reached with its CAUSE and LOCKED, self-tests begin on reaching TEST, and the highest of the causes that came meanwhile is then applied
(R42, R44, R47, R48). A transition that does not complete in 10 s ends with the mode as it was: BUSY and GO clear, STATUS 8, and on the way
to QUIESCE the credits withheld return (R49). R42: an automatic cause with no transition and no reset under way begins its own, with BUSY,
the CAUSE and the source it names, where Table 2-2 has it from the mode, that to SAFE after its notice (R341); otherwise it changes nothing.
One that ranks higher than the transition under way takes its place, and a request so overtaken ends with STATUS 7. A cause during a reset
waits for its end (assumption 151). Where it rests on the model's choices it follows assumptions 29, 25, 150, 151. -/
def Obligations.ModeTransitions : Prop :=
  ((∀ (s u : State) (t : Trans), s.tr = some t →
      u = requestEnd { (if t.to' = mSAFE then wr s GLB_MODE_SAFE_SRC 0 t.src else s) with tr := none } t 0 →
      ∀ v, v = modeLater (modeSet u t.from' t.to' t.cause
          ((t.to' == mLOCKED || t.to' == mDEGRADED || t.to' == mQUIESCE || t.to' == mDRAIN) && t.locked)) →
        exec .modeTransitionDone s = .next (if mode v = mTEST ∧ mode s ≠ mTEST then bistStart v else v))
    ∧ (∀ (s v : State) (t : Trans), s.tr = some t →
      v = wr (wr (wr { s with tr := none } GLB_MODE_BUSY 0 0) GLB_MODE_REQ_GO 0 0) GLB_MODE_REQ_STATUS 0 8 →
      exec .modeTransitionTimeout s = .next (modeLater (if t.to' = mQUIESCE then creditsBack v else v))))
  ∧ ((∀ (s : State) (to' cause src : Nat), resetRuns s = true → s.rst.later = [] →
      modeAuto s to' cause src
        = { s with rst := { s.rst with later := [{ to' := to', cause := cause, src := src, req := false }] } })
    ∧ (∀ (s v w : State) (u : Trans) (to' cause src : Nat), resetRuns s = false → s.tr = some u → u.to' ≠ to' →
      transRank u.to' u.cause < transRank to' cause → autoLegal (mode s) to' = true →
      v = (if u.req = true then wr (wr s GLB_MODE_REQ_GO 0 0) GLB_MODE_REQ_STATUS 0 7 else s) →
      w = { v with rst := { v.rst with starting := v.rst.starting && to' != mSAFE } } →
      modeAuto s to' cause src = { wr (if to' = mSAFE then noticeSend w 3 src 0 0 else w) GLB_MODE_BUSY 0 1 with
        tr := some { to' := to', from' := mode v, cause := cause, locked := bit v GLB_MODE_LOCKED && to' != mSAFE, src := src, req := false } })
    ∧ ∀ (s w : State) (to' cause src : Nat), resetRuns s = false → s.tr = none →
      w = { s with rst := { s.rst with starting := s.rst.starting && to' != mSAFE } } →
      modeAuto s to' cause src = if autoLegal (mode s) to' then
          { wr (if to' = mSAFE then noticeSend w 3 src 0 0 else w) GLB_MODE_BUSY 0 1 with
            tr := some { to' := to', from' := mode s, cause := cause, locked := bit s GLB_MODE_LOCKED && to' != mSAFE, src := src, req := false } }
        else s)

/-- The feed warning sets WARN and PWRFAIL, drives PWRFAIL_N low, ends a Heel test that runs, sends the warnings of R423 and leads to DRAIN with
CAUSE 3; recovered feeds undo both fields, raise the pin, send the recovery and lead to QUIESCE with CAUSE 4 (R22, R37, R38, R423, R427).
Where it rests on the model's choices it follows assumption 132. -/
def Obligations.FeedWarnings : Prop :=
  (∀ s : State, s.pwr.on = true → warnWire s = true → bit s PWD_FEED_STATUS_WARN = false →
    exec .feedWarning s = .next (modeAuto (heelAbort (warnSignals
      (emit (wr (wr (wr s PWD_FEED_STATUS_WARN 0 1) PWD_FEED_STATUS_RECOVERING 0 0) PWD_FEED_STATUS_PWRFAIL 0 1)
        (.pin "PWRFAIL_N" 0 false)) 1)) mDRAIN 3 0))
  ∧ (∀ s : State, s.pwr.on = true → bit s PWD_FEED_STATUS_RECOVERING = true →
    (∀ f, f < 2 → feedOn s f = true → feedIsLow s f = false) →
    exec .feedRecovered s = .next (modeAuto (warnSignals
      (emit (wr (wr s PWD_FEED_STATUS_RECOVERING 0 0) PWD_FEED_STATUS_PWRFAIL 0 0) (.pin "PWRFAIL_N" 0 true)) 2) mQUIESCE 4 0))

/-- R511: If TEST_EN is high outside FACTORY for 1 ms, the part raises the TEST_EN source and changes nothing else (the level itself is in the
state, as the pin is); inside FACTORY nothing is raised. -/
def Obligations.TestEnHigh : Prop :=
  ∀ s : State,
    (mode s ≠ mFACTORY → exec .testEnHighOutsideFactory s = .next (raise { s with rst := { s.rst with testEn := true } } 0x798))
    ∧ (mode s = mFACTORY → exec .testEnHighOutsideFactory s = .next { s with rst := { s.rst with testEn := true } })

/-- R464: a WARM that arrives in HOLD, in SAFE with TRIM_BAD set, or in FACTORY, by the register or over the management bus, is performed as a
COLD, sets RST_CAUSE.ESC_COLD and raises the escalation source 0x687, and its own cause is shown beside, after the notice of R341. -/
def Obligations.WarmAsCold : Prop :=
  (∀ (s u : State) (m : Master), taken s m 0xD00008 → u = acked s m →
    (mode u = mHOLD ∨ (mode u = mSAFE ∧ bit u GLB_MODE_TRIM_BAD = true) ∨ mode u = mFACTORY) →
    exec (.rstCmdWarm m 0xA5) s = .next (wr (raise (wr (coldGo (resetNotice u) 1) RST_CAUSE_ESC_COLD 0 1) 0x687) RST_CAUSE_REG_WARM 0 1))
  ∧ (∀ s u : State, s.rst.coldWait = false → u = { s with rst := { s.rst with lastCmd := 0x10 }, mgmtStatus := 0 } →
    (mode u = mHOLD ∨ (mode u = mSAFE ∧ bit u GLB_MODE_TRIM_BAD = true) ∨ mode u = mFACTORY) →
    exec (.mgmtWarm 0x5AA5 true) s = .next (wr (raise (wr (coldGo (resetNotice u) 1) RST_CAUSE_ESC_COLD 0 1) 0x687) RST_CAUSE_CMD_WARM 0 1))

/-- What asserts and releases the wide resets: POR, from whose release on device time counts (R16), RST_N (a short pulse is ignored, one between
100 ns and 1 µs is only reported), the commands and their pulses; a COLD asserted ends a WARM; a command with another key does nothing, and
one that acts sends the notice of R341 first (R459 to R465). R36: TEST_EN low in FACTORY performs a COLD; in another mode only the level is
taken. R462, R465, R471, R477: a reset of WARM reach or wider is released only once nothing asserts it and the clocks are good: then the
trim load begins after POR and COLD, and start-up, with GLB_MODE at SETUP and BUSY, after WARM. Where it rests on the model's choices it
follows assumptions 129, 3. -/
def Obligations.WideResets : Prop :=
  ((∀ s : State, exec .porAssert s = .next (wideApply { s with
        rst := { s.rst with por := true, cold := s.rst.cold.filter (· == 0), coldWait := true, warm := false, warmWait := false } } 0))
    ∧ (∀ s : State, s.rst.por = true → exec .porRelease s = .next (wideTry { s with rst := { s.rst with por := false }, now := 0 }))
    ∧ (∀ s : State, exec .rstNAssert s = .next (wr (wideApply { s with rst := { s.rst with
        rstLow := true, cold := 0 :: s.rst.cold.filter (· != 0), coldWait := true, warm := false, warmWait := false } } 1)
          RST_CAUSE_PIN_COLD 0 1))
    ∧ (∀ s : State, exec (.rstNRelease .qualified) s
        = .next (wideTry { s with rst := { s.rst with rstLow := false, cold := s.rst.cold.filter (· != 0) } }))
    ∧ (∀ s : State, exec (.rstNRelease .between) s = .next (raise s 0x688) ∧ exec (.rstNRelease .short) s = .next s)
    ∧ (∀ (s : State) (m : Master), taken s m 0xD00008 → warmAsCold (acked s m) = false →
        exec (.rstCmdWarm m 0xA5) s = .next (wr (wideApply { resetNotice (acked s m) with rst := { (resetNotice (acked s m)).rst with warm := true, warmWait := true } } 2)
          RST_CAUSE_REG_WARM 0 1))
    ∧ (∀ (s : State) (m : Master) (key : BitVec 8), taken s m 0xD00008 → key ≠ 0xA5#8 →
        exec (.rstCmdWarm m key) s = .next (acked s m)
        ∧ (∀ pt, exec (.rstCmdPart m key pt) s = .next (acked s m)) ∧ (∀ p, exec (.rstCmdPort m key p) s = .next (acked s m)))
    ∧ (∀ s : State, exec (.resetPulseEnd .cold) s = .next (wideTry { s with rst := { s.rst with cold := s.rst.cold.filter (· != 1) } })
        ∧ exec (.resetPulseEnd .warm) s = .next (wideTry { s with rst := { s.rst with warm := false } }))
    ∧ (∀ (s : State) (pt : Fin 16) (p : Fin 64), exec (.resetPulseEnd (.part pt)) s = .next (partUncause s pt 1)
        ∧ exec (.resetPulseEnd (.port p)) s = .next (portUnreset s p 0)))
  ∧ (∀ s : State,
      (mode s = mFACTORY → exec .testEnLowInFactory s = .next (coldGo { s with rst := { s.rst with testEn := false } } 1))
      ∧ (mode s ≠ mFACTORY → exec .testEnLowInFactory s = .next { s with rst := { s.rst with testEn := false } }))
  ∧ (∀ s : State,
      ((s.rst.por = true ∨ s.rst.cold ≠ [] ∨ s.rst.warm = true ∨ clocksGood s = false) → wideTry s = s)
      ∧ (s.rst.por = false → s.rst.cold = [] → s.rst.warm = false → clocksGood s = true →
        (s.rst.coldWait = true →
          wideTry s = { s with rst := { s.rst with coldWait := false, warmWait := false, trimming := true } })
        ∧ (s.rst.coldWait = false → s.rst.warmWait = true →
          wideTry s = wr (wr { s with rst := { s.rst with warmWait := false, starting := true } } GLB_MODE_CUR 0 mSETUP) GLB_MODE_BUSY 0 1)))

/-- R20, Table 18-2: after a POR every switch-die register field with a reset value holds it, but for what the reset itself sets; a COLD keeps
those of POR reach, a WARM those of COLD reach too; none of them touches a power-die field. -/
def Obligations.ResetReaches : Prop :=
  ∀ (s : State) (c : Nat) (f : Fld) (i : Nat), s.wf = true → c ≤ 2 →
    ((c ≤ reachCode f.reach → reachCode f.reach ≤ reachCode .slice → rd (regsReset s c) f i = f.rst i)
      ∧ (reachCode f.reach < c → rd (regsReset s c) f i = rd s f i)
      ∧ (f.reach = .pdOn → rd (regsReset s c) f i = rd s f i))

/-- The trim load: a good one leaves HOLD with TRIM_OK, clears FAILS and TRIM_BAD, derives the identity, with ID_READY or, where the seed's
check fails (assumption 145), source 0x794, and lets start-up run; a failed one counts in FAILS, records the word and raises 0x686, and the
third in a row leads to SAFE with TRIM_BAD and CAUSE 5; start-up ends in SETUP, with the Lace outputs driven after HOLD and note taken of
the narrower resets that recovery waits for (R465, R467, R468, R470, R471). Where it rests on the model's choices it follows assumptions
145, 130. -/
def Obligations.TrimAndStart : Prop :=
  (∀ (s u v : State) (w : BitVec 16) (ok : Bool), s.rst.trimming = true → ok = Config.seedGood s.free →
    u = wr (wr (wr s RST_TRIM_TRIM_OK 0 1) RST_TRIM_TRIM_BAD 0 0) GLB_MODE_TRIM_BAD 0 0 →
    v = { wr (wr (wr (wr u RST_TRIM_FAILS 0 0) RST_T_TRIM 0 (devTime u)) GLB_MODE_BUSY 0 1) TST_SEC_STATUS_SPDM_EN 0 1 with free := s.free + 1 } →
    exec (.trimAttemptDone true w) s = .next { wrb (raiseIf (!ok) v 0x794) TST_SEC_STATUS_ID_READY 0 ok with
      tst := { s.tst with keys := true, seedOpen := true }
      rst := { s.rst with trimming := false, starting := true } })
  ∧ (∀ (s : State) (w : BitVec 16), s.rst.trimming = true → rd s RST_TRIM_FAILS < 2 →
    exec (.trimAttemptDone false w) s
      = .next (raise (wr (wr s RST_TRIM_FAILS 0 (rd s RST_TRIM_FAILS + 1)) RST_TRIM_WORD 0 w.toNat) 0x686))
  ∧ (∀ (s : State) (w : BitVec 16), s.rst.trimming = true → 2 ≤ rd s RST_TRIM_FAILS →
    ∃ u v, u = raise (wr (wr s RST_TRIM_FAILS 0 (rd s RST_TRIM_FAILS + 1)) RST_TRIM_WORD 0 w.toNat) 0x686
      ∧ v = { wr (wr (wr u RST_TRIM_TRIM_BAD 0 1) GLB_MODE_TRIM_BAD 0 1) RST_CAUSE_TRIM_SAFE 0 1 with rst := { s.rst with trimming := false } }
      ∧ exec (.trimAttemptDone false w) s
        = .next { wr (noticeSend v 3 0x686 0 0) GLB_MODE_BUSY 0 1 with
            tr := some { to' := mSAFE, from' := mHOLD, cause := 5, locked := false, src := 0x686, req := false } })
  ∧ (∀ s t u v : State, s.rst.starting = true → wideReset s = false →
    t = { s with rst := { s.rst with starting := false, waits := waitsNow s } } →
    u = forEach (List.range 4) (if mode s == mHOLD then laceDrive t else t) grpReady →
    v = { wr u RST_T_SETUP 0 (devTime u) with prt := { u.prt with bring := true } } →
    exec .startupDone s = .next (modeLater (modeSet v (mode s) mSETUP (if mode s == mHOLD then 7 else rd v GLB_MODE_CAUSE) false)))

/-- R477, R479: what the clock detectors say is kept and reported, and a reference that is good again releases a reset that waits. R220, R221:
during POR the strap resistor's code, the one whose window of a factor of 1.21 around its nominal value of Table 8-2 holds it, goes to
GLB_STRAP (preset, address, management address); an open or a short one counts as code 0, shows its kind in FAULT_KIND and is reported; then
the preset is loaded. Where it rests on the model's choices it follows assumptions 84, 165. -/
def Obligations.ClocksAndStraps : Prop :=
  ((∀ s : State, exec .sysRefclkLost s = .next (raise { s with rst := { s.rst with sysLost := true } } 0x680))
    ∧ (∀ (s : State) (k : Fin 5), exec (.pllLockLoss k) s
        = .next (raise { s with rst := { s.rst with unlocked := k.val :: s.rst.unlocked.filter (· != k.val) } } (0x681 + k)))
    ∧ (∀ s : State, exec .sysRefclkGood s = .next (wideTry { s with rst := { s.rst with sysLost := false, unlocked := [] } }))
    ∧ (∀ s : State, exec .crossingTimeout s = .next (raise s 0x689)))
  ∧ ((∀ (s u : State) (c : Fin 16) (ohms : Nat), s.rst.por = true → 100 * strapOhms.getD c 0 ≤ 121 * ohms → 100 * ohms ≤ 121 * strapOhms.getD c 0 →
      (∀ d : Fin 16, 100 * strapOhms.getD d 0 ≤ 121 * ohms → 100 * ohms ≤ 121 * strapOhms.getD d 0 → d = c) → u = { s with free := s.free + 1 } →
      exec (.strapRead ohms) s = .next (presetLoad (wr (wr (wr (wr (wr u GLB_STRAP_PRESET 0 (c % 8)) GLB_STRAP_ADDR_SEL 0 (c / 8))
        GLB_STRAP_STRAP_FAULT 0 0) GLB_STRAP_FAULT_KIND 0 0) GLB_STRAP_MGMT_ADDR 0 (0x5A + c / 8))))
    ∧ (∀ (s u : State) (ohms k : Nat), s.rst.por = true → (383000 < ohms ∧ k = 1) ∨ (ohms < 825 ∧ k = 2) → u = { s with free := s.free + 1 } →
      exec (.strapRead ohms) s = .next (presetLoad (raise (wr (wr (wr (wr (wr u GLB_STRAP_PRESET 0 0) GLB_STRAP_ADDR_SEL 0 0)
        GLB_STRAP_STRAP_FAULT 0 1) GLB_STRAP_FAULT_KIND 0 k) GLB_STRAP_MGMT_ADDR 0 0x5A) 0x000))))

/-- A count of a decoded encoder steps its position by one, forward or reverse as the edge and INVERT say, and DIR shows the direction; the same
levels again change nothing, both levels at once count a phase error, raise it and end the lock with the position kept; the levels are kept
in every case, and nothing else happens where the encoder is not decoded (R52, R53, R55). R55: a count that does not pass HIGH changes POS
modulo 2^32, DIR and IN_REVERSE, and of the rest only that the encoder's count is no more one that has formed a candidate. A pair's class is
reported; any but OK raises the encoder's source with the pair as instance and ends its lock (R54). The lock sets once its condition has
held, and the tick source's LOCK with it (R51). Where it rests on the model's choices it follows assumptions 32, 38. -/
def Obligations.EncoderCounts : Prop :=
  (∀ (s u : State) (n : Fin 4) (a b : Bool),
      u = { s with lce := { s.lce with aLvl := nset false s.lce.aLvl n a, bLvl := nset false s.lce.bLvl n b } } →
      (encOn s n = false → exec (.encoderCount n a b) s = .next u)
      ∧ (encOn s n = true → a ≠ nget s.lce.aLvl n false → b ≠ nget s.lce.bLvl n false →
          exec (.encoderCount n a b) s = .next (encUnlock (raise (inc u ENC_PHASE_ERR n) (0x204 + n)) n))
      ∧ (encOn s n = true → a = nget s.lce.aLvl n false → b = nget s.lce.bLvl n false → exec (.encoderCount n a b) s = .next u)
      ∧ (encOn s n = true → (a ≠ nget s.lce.aLvl n false ↔ b = nget s.lce.bLvl n false) →
          exec (.encoderCount n a b) s
            = .next (encStep u n (((nget s.lce.aLvl n false == b) == Config.leadForward) != bit s ENC_CTL_INVERT n))))
  ∧ (∀ (s : State) (n : Nat) (fwd : Bool) (pos : Nat), pos = (rd s ENC_POS n + if fwd then 1 else 2 ^ 32 - 1) % 2 ^ 32 →
      ∀ u, u = { wr (wr s ENC_POS n pos) ENC_STATUS_DIR n (if fwd then 0 else 1) with
        lce := { s.lce with boundary := s.lce.boundary.filter (· != n) } } → posDiff pos (rd u ENC_HIGH n) ≤ 0 →
      encStep s n fwd = wr u ENC_STATUS_IN_REVERSE n (if posDiff pos (rd u ENC_HIGH n) < 0 then 1 else 0))
  ∧ ((∀ (s : State) (n : Fin 4) (pair : Fin 3) (cls : Fin 4) (f : Fld), laceRuns s = true →
      (pair = 0 ∧ f = ENC_STATUS_PAIR_A) ∨ (pair = 1 ∧ f = ENC_STATUS_PAIR_B) ∨ (pair = 2 ∧ f = ENC_STATUS_PAIR_Z) →
      exec (.encoderPairClassChange n pair cls) s
        = .next (if cls = 0 then wr s f n 0 else encUnlock (raise (wr s f n cls) (0x200 + n) pair) n))
    ∧ (∀ (s : State) (n : Fin 4), encOn s n = true → pairsOk s n = true →
      exec (.encLockChange n true) s
        = .next (if tickSrc (wr s ENC_STATUS_ENC_LOCK n 1) == n.val + 1 then setLock (wr s ENC_STATUS_ENC_LOCK n 1) true
            else wr s ENC_STATUS_ENC_LOCK n 1))
    ∧ (∀ (s : State) (n : Fin 4), exec (.encLockChange n false) s = .next (encUnlock s n)))

/-- A qualified Z acts on the position by ZMODE: 0 not at all, 1 ZPOS takes POS, 2 ZPOS takes POS and POS takes ZVAL, HIGH moves by the same
difference and POS_VALID sets; with Z_TICK it clears ACC and forms a candidate of the selected source, but on a count that has formed one
(R57). R58: a write of ENCn_POS sets POS and HIGH to the value and POS_VALID, IN_REVERSE becomes 0, and no other register field changes (ACC
keeps its value). Where it rests on the model's choices it follows assumption 155. -/
def Obligations.EncoderPositions : Prop :=
  ((∀ (s : State) (n : Fin 4), encOn s n = true → zQualified s n = true → bit (zMode s n) ENC_CTL_Z_TICK n = false →
      exec (.zEdge n) s = .next (zMode s n))
    ∧ (∀ (s u : State) (n : Fin 4), encOn s n = true → zQualified s n = true → bit (zMode s n) ENC_CTL_Z_TICK n = true →
      u = wr (zMode s n) ENC_ACC n 0 →
      exec (.zEdge n) s = .next (if tickSrc u != n.val + 1 || u.lce.boundary = some n.val then u
        else candidate u (devTime s) (rd s ENC_POS n)))
    ∧ (∀ (s : State) (n : Nat), rd s ENC_CTL_ZMODE n = 0 → zMode s n = s)
    ∧ (∀ (s : State) (n : Nat), rd s ENC_CTL_ZMODE n = 1 → zMode s n = wr s ENC_ZPOS n (rd s ENC_POS n))
    ∧ (∀ (s u : State) (n : Nat), rd s ENC_CTL_ZMODE n = 2 → u = wr s ENC_ZPOS n (rd s ENC_POS n) →
      zMode s n = wr (wr (wr u ENC_HIGH n (rd u ENC_HIGH n + rd s ENC_ZVAL n + 2 ^ 32 - rd s ENC_POS n)) ENC_POS n (rd s ENC_ZVAL n))
        ENC_STATUS_POS_VALID n 1))
  ∧ (∀ (s : State) (m : Master) (n : Fin 4) (v : BitVec 32), s.wf = true → taken s m 0x400108 →
      ∃ t, exec (.encPosWrite m n v) s = .next t ∧ t = { acked s m with regs := t.regs }
        ∧ rd t ENC_POS n = v.toNat ∧ rd t ENC_HIGH n = v.toNat ∧ rd t ENC_STATUS_POS_VALID n = 1 ∧ rd t ENC_STATUS_IN_REVERSE n = 0
        ∧ ∀ (g : Fld) (j : Nat), fkey g j ≠ fkey ENC_POS n → fkey g j ≠ fkey ENC_HIGH n → fkey g j ≠ fkey ENC_STATUS_POS_VALID n →
            fkey g j ≠ fkey ENC_STATUS_IN_REVERSE n → rd t g j = rd s g j)

/-- The other tick sources: an edge of LACE_TIN is a candidate, and LOCK follows the interval since the edge before it, a skipped candidate
ending it (R50, R51); the timer's expiry is a candidate, and its LOCK sets (R50). R61: a candidate within 10 µs of the previous tick is
skipped and counted; any other is stamped, its number one more than the last modulo 2^48 or the preset armed before this Lace clock (its
period of 1 ns is the model's choice, assumption 152), its start LCE_LEAD after the stamp, EARLY if it came within LCE_TICK_MIN; outside the
master's role nothing else happens. Where it rests on the model's choices it follows assumptions 36, 152, 156. -/
def Obligations.TickCandidates : Prop :=
  ((∀ (s u : State) (skip : Bool), tickSrc s = 5 → laceRuns s = true → (skip = true ↔ ∃ p, s.lce.prevStamp = some p ∧ timeSince p (devTime s) < 10000) →
      (s.lce.tinPrev = none → u = if skip then setLock s false else s) →
      (∀ p, s.lce.tinPrev = some p → u = setLock s (!skip && decide (rd s LCE_TICK_MIN ≤ timeSince p (devTime s))
        && decide (timeSince p (devTime s) ≤ rd s LCE_TICK_MAX))) →
      exec .laceTinEdge s = .next (candidate { u with lce := { u.lce with tinPrev := some (devTime s) } } (devTime s) 0))
    ∧ (∀ s : State, tickSrc s = 7 → exec .timerSourceExpiry s = .next (candidate s (devTime s) 0))
    ∧ (∀ s : State, tickSrc s = 7 → laceRuns s = true → exec .timerSourceLock s = .next (setLock s true)))
  ∧ ((∀ (s : State) (t pos p : Nat), laceRuns s = true → rd s LCE_CTL_ROLE ≠ 2 → inBlockReset s 4 = false → s.lce.prevStamp = some p →
      timeSince p t < 10000 → candidate s t pos = inc s TICK_SKIP)
    ∧ (∀ (s : State) (t pos p : Nat), laceRuns s = true → rd s LCE_CTL_ROLE = 0 → inBlockReset s 4 = false → s.lce.prevStamp = some p →
      10000 ≤ timeSince p t → rd s LCE_TICK_MIN ≤ timeSince p t → s.lce.resync = false →
      ∀ (a : Option Nat) (k : TickPend), a = (if s.lce.presetAt = t then none else s.lce.preset) → k = {
        stamp := t, start := t + rd s LCE_LEAD, num := a.getD ((s.lce.prevNum + 1) % 2 ^ 48),
        early := false, late := bit s LCE_STATUS_LATE, resync := a.isSome, interval := timeSince p t, pos := pos,
        src := tickSrc s, master := rd s FAB_CTL_DEV_ID } →
      candidate s t pos = { s with lce := { s.lce with
        pend := s.lce.pend ++ [k], prevStamp := some t, prevNum := k.num, preset := if a.isSome then none else s.lce.preset, resync := false } })
    ∧ (∀ (s : State) (t pos : Nat), laceRuns s = false ∨ rd s LCE_CTL_ROLE = 2 → candidate s t pos = s))

/-- The oldest tick stamped starts: gates, windows where placement runs, jobs and triggers that wait for it, and the tick messages take it, and
a tick that is late sets LATE, raises its source, is counted unless the source was just changed, and ends the lock of LACE_TIN (R60, R61,
R63, R147). R60, R63: at the start of a tick TICK_NOW and TICK_TIME take its number and start, EARLY shows whether it was early and LATE
clears. Where it rests on the model's choices it follows assumption 36. -/
def Obligations.TickStarts : Prop :=
  ((∀ (s u v : State) (t : TickPend) (l : List TickPend), s.lce.pend = t :: l → laceRuns s = true → inBlockReset s 4 = false →
      u = tickRegs { s with lce := { s.lce with pend := l } } t → v = gateTick u t.num t.start →
      exec .tickStart s
        = .next (tickMessages (tickPins (resizeTicks (waitTicks (if ticksPlace v then tickWindows v t else v))) t.start) t))
    ∧ (∀ s u : State, s.lce.prevStart.isSome = true → laceRuns s = true → u = raise (wr s LCE_STATUS_LATE 0 1) 0x208 →
      ∀ v, v = (if s.lce.resync then u else inc u TICK_LATE) →
      exec .tickLate s = .next (if tickSrc v == 5 then setLock v false else v)))
  ∧ (∀ (s t' : State) (t : TickPend), s.wf = true → t' = tickRegs s t →
      rd t' LCE_TICK_NOW = t.num % 2 ^ 48 ∧ rd t' LCE_TICK_TIME = t.start % 2 ^ 64 ∧ rd t' LCE_STATUS_EARLY = (if t.early then 1 else 0)
        ∧ rd t' LCE_STATUS_LATE = 0 ∧ t'.lce = { s.lce with prevStart := some t.start } ∧ t' = { s with regs := t'.regs, lce := t'.lce })

/-- Writes of Lace's registers: the offset moves device time and is locked in a follower (R59); a preset is armed for the next stamp (R60); SRC
and ROLE are taken while the mode is not LOCKED, and a change of SRC clears LOCK unless the new source meets its condition (R51). Triggers:
a firing that falls due takes the pin active, counting a pulse that it cuts short, whose end it drives first; the pulse's end takes the pin
inactive; FIRE in software mode schedules a firing DELAY, at least 64 ns, ahead, and a fifth pending one is counted and reported instead
(R72, R73). Where it rests on the model's choices it follows assumptions 35, 17, 156, 157, 152. -/
def Obligations.LaceWritesAndTriggers : Prop :=
  ((∀ (s : State) (m : Master) (v : BitVec 64), taken s m 0x400038 → rd (acked s m) LCE_CTL_ROLE ≠ 2 →
      exec (.timeOffsetWrite m v) s = .next (wr (acked s m) LCE_TIME_OFS 0 v.toNat))
    ∧ (∀ (s : State) (m : Master) (v : BitVec 48), taken s m 0x400040 → rd (acked s m) LCE_CTL_ROLE ≠ 2 →
      exec (.tickPresetWrite m v) s
        = .next { wr (acked s m) LCE_TICK_PRESET 0 v.toNat with
            lce := { s.lce with preset := some v.toNat, presetAt := devTime (acked s m) } })
    ∧ (∀ (s : State) (m : Master) (v : BitVec 64) (w : BitVec 48), rd (acked s m) LCE_CTL_ROLE = 2 →
      (taken s m 0x400038 → exec (.timeOffsetWrite m v) s = .next (acked s m))
      ∧ (taken s m 0x400040 → exec (.tickPresetWrite m w) s = .next (acked s m)))
    ∧ (∀ (s u x : State) (m : Master) (v : BitVec 32), taken s m 0x400000 → u = wr (acked s m) LCE_CTL_TOUT_EN 0 (v.toNat / 64) →
      x = wr (wr u LCE_CTL_SRC 0 v.toNat) LCE_CTL_ROLE 0 (v.toNat / 16) →
      (bit u GLB_MODE_LOCKED = true → exec (.tickSourceWrite m v) s = .next u)
      ∧ (bit u GLB_MODE_LOCKED = false → tickSrc x = tickSrc (acked s m) → exec (.tickSourceWrite m v) s = .next x)
      ∧ (bit u GLB_MODE_LOCKED = false → tickSrc x ≠ tickSrc (acked s m) →
        exec (.tickSourceWrite m v) s
          = .next { wr x LCE_STATUS_LOCK 0 (if lockedAlready x (tickSrc x) then 1 else 0) with lce := { x.lce with resync := true, tinPrev := none } }))
    ∧ (∀ (s : State) (m : Master) (v : BitVec 32), taken s m 0x400008 → exec (.tickMinWrite m v) s = .next (tickMinSet (acked s m) v.toNat)))
  ∧ ((∀ (s u : State) (m : Fin 16) (t : Nat) (l : List Nat), nget s.lce.fires m [] = t :: l → laceRuns s = true → bit s TRIG_CTL_EN m = true →
      u = { s with lce := { s.lce with fires := nset [] s.lce.fires m l } } →
      (s.lce.active.contains m.val = true →
        exec (.triggerFire m) s = .next (emit (emit (inc u TRIG_STAT_TRUNC m) (trigPin s m false)) (trigPin s m true)))
      ∧ (s.lce.active.contains m.val = false →
        exec (.triggerFire m) s
          = .next (emit { u with lce := { u.lce with active := s.lce.active ++ [m.val] } } (trigPin s m true))))
    ∧ (∀ (s : State) (m : Fin 16), s.lce.active.contains m.val = true →
      exec (.triggerPulseEnd m) s
        = .next (emit { s with lce := { s.lce with active := s.lce.active.filter (· != m.val) } } (trigPin s m false)))
    ∧ (∀ (s : State) (m : Master) (k : Fin 16), taken s m 0x400200 → laceRuns (acked s m) = true → bit (acked s m) TRIG_CTL_EN k = true →
      rd (acked s m) TRIG_CTL_MODE k = 2 →
      ((nget s.lce.fires k []).length < 4 →
        exec (.triggerFireWrite m k) s = .next { acked s m with lce := { s.lce with
          fires := nset [] s.lce.fires k (dueInsert (devTime (acked s m) + max 64 (rd (acked s m) TRIG_DELAY k)) (nget s.lce.fires k [])) } })
      ∧ (4 ≤ (nget s.lce.fires k []).length →
        exec (.triggerFireWrite m k) s = .next (raise (inc (acked s m) TRIG_STAT_OVERRUN k) 0x20D k))))

/-- Records of the fabric's tick, `s` being the state after the slot of a striped link that carries one: a part that is no follower counts one
and ignores it, reporting, if it is the master, one of another master; a follower counts, ignores and reports one of a master that it does
not follow, counts and ignores one behind the last it took, passes over a later one of a port that it does not accept from, and takes a good
one from the accepting port (R65, R66); a follower that loses its alignment clears ALIGNED and LOCK and reports it (R69). Where it rests on
the model's choices it follows assumptions 37, 33, 166, 158. -/
def Obligations.FabricTicks : Prop :=
  (∀ (s0 s : State) (p : Fin 64) (r : TickRec), s = (if striped s0 p && !inBlockReset s0 9 then slotIn s0 p else s0) →
    laceRuns s = true → inBlockReset s 4 = false →
    (rd s LCE_CTL_ROLE = 0 → exec (.tickRecordReceive p r) s0 = .next (inc s REC_IGNORED))
    ∧ (rd s LCE_CTL_ROLE = 1 → exec (.tickRecordReceive p r) s0
        = .next (if r.masterId.toNat = rd s FAB_CTL_DEV_ID then inc s REC_IGNORED else raise (inc s REC_IGNORED) 0x20B p))
    ∧ (rd s LCE_CTL_ROLE = 2 → r.masterId.toNat ≠ rd s LCE_FAB_MASTER_ID →
        exec (.tickRecordReceive p r) s0 = .next (raise (inc s REC_IGNORED) 0x20B p))
    ∧ (∀ u : State, rd s LCE_CTL_ROLE = 2 → r.masterId.toNat = rd s LCE_FAB_MASTER_ID →
        u = { s with lce := { s.lce with recHops := nput s.lce.recHops p r.hops.toNat } } →
        (∀ n, s.lce.lastRec = some n → tickAfter r.tickNum.toNat n = false → exec (.tickRecordReceive p r) s0 = .next (inc u REC_IGNORED))
        ∧ ((∀ n, s.lce.lastRec = some n → tickAfter r.tickNum.toNat n = true) →
          (acceptPort u ≠ some p.val → exec (.tickRecordReceive p r) s0 = .next u)
          ∧ (acceptPort u = some p.val → exec (.tickRecordReceive p r) s0 = .next (takeRecord u p r)))))
  ∧ (∀ (s : State) (c : Fin 3), rd s LCE_CTL_ROLE = 2 → laceRuns s = true →
    exec (.alignmentLost c) s
      = .next (raise (setLock { wr s LCE_STATUS_ALIGNED 0 0 with lce := { s.lce with goodCorr := 0 } } false) 0x20A))

/-- No packet is lost or put before an earlier one when it is stored: it joins its VOQ as the newest packet, with the cells that were spilled
and the Quarter of its input, or waits at its input in the order of arrival, and every other queue stays as it is (R24, R79, R100 to R104). -/
def Obligations.StoringKeepsPackets : Prop :=
  ∀ (s : State) (q : QPkt) (o : Nat),
    ((store s q o).shk.voq = s.shk.voq
        ∧ ∃ b, (store s q o).shk.held = s.shk.held.filter (fun h => h.q.seq < q.seq)
            ++ { q := q, outp := o, pol := false, budget := b, since := s.now } :: s.shk.held.filter (fun h => q.seq ≤ h.q.seq))
    ∨ ((store s q o).shk.held = s.shk.held
        ∧ ∃ spd, (store s q o).shk.voq = nset [] s.shk.voq (voqKey q.inp o q.cls)
            (voq s (voqKey q.inp o q.cls) ++ [{ q with ovf := spd, fresh := true, qtr := quarterOf s q.inp }]))

/-- R82, R83: a VOQ is served in arrival order with one exception. What may leave it is its oldest packet, or, where that one is Non-Posted and
the output's egress staging has no room for it, at a port's input the oldest Posted packet behind it; at the input of a Clicker cluster
never. Either needs its staging room and all its cells on chip, and with them it is what may leave. -/
def Obligations.VoqOrder : Prop :=
  ∀ (s : State) (k : Nat) (l : List QPkt) (q : QPkt) (room : QPkt → Prop),
    (∀ x, room x ↔ stageRoom s (k / 8 % 72) x.pk.kind x.cells true = true) →
    (eligible s k l = some q ↔ q.ovf = 0 ∧ room q ∧ (l.head? = some q
      ∨ ∃ h rest, l = h :: rest ∧ h.ovf = 0 ∧ h.pk.kind = .nonPosted ∧ ¬ room h ∧ k / 576 < 64
          ∧ rest.find? (fun p => decide (p.pk.kind = .posted)) = some q))

/-- R113: outside DRAIN a waiting class 7, 6 or 5 is chosen before every lower class, the highest first, and no deficit changes; a class is
never chosen that no packet waits in. Where it rests on the model's choices it follows assumption 41. -/
def Obligations.ClassChoice : Prop :=
  (∀ (s : State) (o c : Nat) (cand : List Nat), mode s ≠ mDRAIN → 5 ≤ c → c ≤ 7 → c ∈ cand → (∀ d ∈ cand, d ≤ 7 → d ≤ c) →
    classChoice s o cand = (s, some c))
  ∧ (∀ (s t : State) (o c : Nat) (cand : List Nat), classChoice s o cand = (t, some c) → c ∈ cand)

/-- One matching: a cell crosses for every matched pair, what the guards hold back is counted, three request, grant and accept rounds match the
inputs and outputs that are free, no packet counts as still arriving any more, and what waits at inputs is tried again (R77, R86 to R90,
R92, R100, R118); a cluster input that this frees lets its engines go on (R100). Overflow: the oldest cell on its way is written and counted
in the group of its packet's Quarter, and the packet's credit returns with its last one (R24, R101, R102); the oldest written cell of a VOQ
that wants cells back returns to the chip, counted, a corrected one counted and reported; an uncorrectable one loses its packet, and with
its link the chain, reported (R103, R410, R411). Egress: on an up PCIe port the first staged packet that the partner has credit for leaves,
counted as cut-through or store-and-forward unless the part formed it, an access it closes is closed, and what waited for its staging room
is staged; a T-link that is not sending again sends it by stitches (R85, R90, R94, R117, R548). Where it rests on the model's choices it
follows assumptions 40, 41. -/
def Obligations.SwitchingAndEgress : Prop :=
  (∀ s u v w x : State, forwards s = true → u = xbarSlot s → v = guardCount u (busyInputs u) (u.shk.xbar.map (·.o)) →
      w = (matchRound (matchRound (matchRound (v, busyInputs v, u.shk.xbar.map (·.o))))).1 →
      x = release (overBudget { w with shk := { w.shk with
        voq := w.shk.voq.map (fun e => (e.1, e.2.map (fun q => { q with fresh := false }))) } }) →
      ((∃ k < 8, clusterHeld s k = true ∧ clusterHeld x k = false) → exec .packetMatch s = .next (pumpAll x))
      ∧ ((∀ k < 8, clusterHeld s k = true → clusterHeld x k = true) → exec .packetMatch s = .next x))
  ∧ ((∀ (s u : State) (i o : Fin 72) (c : Fin 8) (q : QPkt) (n : Nat), (unwritten s (voqKey i o c)).find? (fun e => e.2 != 0) = some (q, n) →
      u = inc { s with shk := { s.shk with spilling := nset 0 s.shk.spilling (voqKey i o c) (nget s.shk.spilling (voqKey i o c) 0 - 1) } }
        SHK_Q_SPILL q.qtr →
      exec (.spillWriteDone i o c) s = .next (if n = 1 then creditBack u q.inp q.vl q.pk else u))
    ∧ (∀ (s u : State) (i o : Fin 72) (c : Fin 8) (q : QPkt) (n : Nat), (unwritten s (voqKey i o c)).find? (fun e => e.1.ovf != 0) = some (q, n) →
      n < q.ovf → wantsBack s (voqKey i o c) = true →
      u = inc (voqSet s (voqKey i o c) (readOne (voq s (voqKey i o c)))) SHK_Q_READBACK q.qtr →
      exec (.readbackComplete i o c .clean) s = .next (pumpFreed s (release (unspill u (voqKey i o c))))
      ∧ exec (.readbackComplete i o c .corrected) s
          = .next (pumpFreed s (release (unspill (raise (inc u OFM_GRP_CORR q.qtr) (0x580 + q.qtr)) (voqKey i o c)))))
    ∧ (∀ (s u : State) (i o : Fin 72) (c : Fin 8) (q : QPkt) (n : Nat) (lost : Bool),
      (unwritten s (voqKey i o c)).find? (fun e => e.1.ovf != 0) = some (q, n) → n < q.ovf → wantsBack s (voqKey i o c) = true →
      u = inc (raise s (0x584 + q.qtr)) OFM_GRP_UNCORR q.qtr →
      exec (.readbackComplete i o c (.uncorrectable lost)) s = .next (pumpFreed s (release (overBudget (voqLose
        (if lost then raise u (0x588 + q.qtr) else u) (voqKey i o c) .ca (fun p => p.seq == q.seq)))))))
  ∧ ((∀ (s u v : State) (p : Fin 64) (a b c : Bool) (x : Staged) (cr : Staged → Bool), linkUp s p = true → striped s p = false → isTlink s p = false →
      cr = (fun x => match x.q.pk.kind with | .posted => a | .nonPosted => b | .completion => c) →
      nextStaged s p cr (fun x => !cr x) [] (nget s.shk.staging p []) = some x →
      u = (if x.own then unstage s p x.q.seq else inc (unstage s p x.q.seq) (if x.ct then CT_PKTS else SF_PKTS) p) →
      v = (if x.q.pk.kind = .posted then awtClosePosted u x.q.seq else u) → isTlink v p = false →
      exec (.egressTransmit p a b c) s = .next (durDone (emit v (.sent p x.q.pk false))))
    ∧ (∀ (s u v w : State) (p : Fin 64) (a b c : Bool) (x : Staged) (q : QPkt), linkUp s p = true → isTlink s p = true →
      (tlAt s p).replayAt = none →
      nextStaged s p (fun x => tlinkTakes s p x.q.cls (stitchesOf x.q.pk) && (grouped s p x.q).isSome)
        (fun x => creditShort s p x.q.cls (stitchesOf x.q.pk)) [] (nget s.shk.staging p []) = some x →
      u = (if x.own then unstage s p x.q.seq else inc (unstage s p x.q.seq) (if x.ct then CT_PKTS else SF_PKTS) p) →
      v = (if x.q.pk.kind = .posted then awtClosePosted u x.q.seq else u) → isTlink v p = true → grouped v p x.q = some (w, q) →
      exec (.egressTransmit p a b c) s = .next (durDone (tlinkSend w p q x.own false)))
    ∧ (∀ (s : State) (p : Fin 64) (a b c : Bool) (r : Nat × Nat), linkUp s p = true → striped s p = true →
      (tlAt s p).replayAt = some r → exec (.egressTransmit p a b c) s = .next (replaySlot s p)))

/-- Cut-through that goes wrong: a failed check ends the packet bad, is counted and acts towards the requester (R95, R97); an underrun sends a
hold stitch on a T-link and starts the packet anew elsewhere (R98); a T-link that held it too long starts it anew (R99); a packet that ended
bad frees its stitches and ends at its output (R96). A return window that is over ends (R106); an input that holds a packet too long raises
the Shank source with its number (R100); the counts of the selected VOQ are sampled, an input above 71 reading as 71 (R112; that an output
does so too and that only packets wholly on chip count are the model's choices, assumption 153). Where it rests on the model's choices it
follows assumptions 3, 153, 159. -/
def Obligations.CutThroughAndHolds : Prop :=
  ((∀ (s : State) (o : Fin 64) (x : Staged), ctAt s o = some x →
      exec (.ctCheckFail o) s = .next (badAfterHead (unstage (inc (endBad s o x) CT_BAD o) o x.q.seq) o x.q)
      ∧ (isTlink s o = true → exec (.ctUnderrun o) s = .next (stitchOut s o 6 0 [])
          ∧ exec (.ctHoldMaxExpiry o) s = .next (ctAgain s o x))
      ∧ (isTlink s o = false → exec (.ctUnderrun o) s = .next (ctAgain s o x)))
    ∧ (∀ (s u : State) (p : Fin 64) (pk : Packet), striped s p = true → inBlockReset s 9 = false →
      u = stitchesFree (stitchesIn (goodStitch (slotsIn s p (stitchesOf pk)) p) p (vlOf pk) (stitchesOf pk)) p (vlOf pk) (stitchesOf pk) →
      exec (.dataEndBadReceive p pk none) s = .next u
      ∧ (∀ (o : Fin 64) (x : Staged), ctAt u o = some x →
          exec (.dataEndBadReceive p pk (some o)) s = .next (awtClosePosted (unstage (endBad u o x) o x.q.seq) x.q.seq))))
  ∧ ((∀ (s : State) (p : Fin 64), s.shk.window.contains p.val = true → exec (.returnWindowExpiry p) s = .next (windowEnd s p))
    ∧ (∀ (s : State) (a : Fin 72), inputHeld s a = true →
      exec (.inputHeldTimeout a) s = .next (raise s 0x18F a))
    ∧ (∀ (s : State) (m : Master) (v : BitVec 32) (i o : Nat) (l : List QPkt), s.wf = true → taken s m 0x300900 →
      i = min (v.toNat % 128) 71 → o = min (v.toNat / 256 % 128) 71 → l = voq s (voqKey i o (v.toNat / 65536 % 8)) →
      ∃ t, exec (.voqSelectWrite m v) s = .next t ∧ t = { acked s m with regs := t.regs }
        ∧ rd t SHK_VOQ_SEL_IN = i ∧ rd t SHK_VOQ_SEL_OUT = o ∧ rd t SHK_VOQ_SEL_TC = v.toNat / 65536 % 8
        ∧ rd t SHK_VOQ_CELLS = min 32767 (chipCells l) ∧ rd t SHK_VOQ_OVF = ovfCells l % 2 ^ SHK_VOQ_OVF.width
        ∧ rd t SHK_VOQ_PKTS_P = min 1023 (l.filter (fun q => q.ovf = 0 && q.pk.kind = .posted)).length
        ∧ rd t SHK_VOQ_PKTS_NP = min 1023 (l.filter (fun q => q.ovf = 0 && q.pk.kind = .nonPosted)).length
        ∧ rd t SHK_VOQ_PKTS_CPL = min 1023 (l.filter (fun q => q.ovf = 0 && q.pk.kind = .completion)).length))

/-- The list of a port moves to its next entry at a boundary while gates apply, unless it is in its LAST entry, frozen, latched or has not
started (R116, R121, R133). A gate commit: GO starts the checks (R123); the first that fails shows its STATUS, port and entry, and no list
changes; otherwise every port of the mask switches its bank at once, or, while the mode is LOCKED, is armed for the tick that
SHK_GATE_SWITCH_TICK holds then (R124, R125); CANCEL disarms every port and shows CANCELLED (R125). A new rate keeps the tokens gained so
far, a change from 0 fills the bucket, and a new burst cuts the tokens to it at once (R127, R128); the register is that of the port and the
class, of the shaper or of the policer. The durable classes are stored in SETUP and QUIESCE only, and a quota is stored at once; both try
again what waits at the inputs (R414, R415). Where it rests on the model's choices it follows assumptions 39, 144. -/
def Obligations.GatesAndShapers : Prop :=
  (∀ (s : State) (p : Fin 64) (i : Nat), i = rd s SHK_GATE_STATUS_ENTRY p →
      (gatesApply s p = true → s.gate.frozen.contains p.val = false → nget? s.gate.latched p.val = none →
        (nget? s.gate.base p.val).isSome = true → bit s SHK_GATE_ENT_LAST (entIdx p (activeBank s p) i) = false → i < 63 →
        exec (.gateBoundary p) s = .next (wr s SHK_GATE_STATUS_ENTRY p (i + 1)))
      ∧ ((gatesApply s p = false ∨ s.gate.frozen.contains p.val = true ∨ (nget? s.gate.latched p.val).isSome = true
          ∨ nget? s.gate.base p.val = none ∨ bit s SHK_GATE_ENT_LAST (entIdx p (activeBank s p) i) = true) →
        exec (.gateBoundary p) s = .next s))
  ∧ ((∀ (s : State) (m : Master), taken s m 0x340010 →
      exec (.gateCommitGo m) s
        = .next (wr (wr { acked s m with gate := { s.gate with committing := true } } SHK_GATE_COMMIT_GO 0 1) SHK_GATE_COMMIT_STATUS 0 1)
      ∧ exec (.gateCommitCancel m) s = .next (wr (wr (forEach (List.range 64) (acked s m)
          (fun s p => tooLongClear (disarm s p) p)) SHK_GATE_COMMIT_CANCEL 0 0) SHK_GATE_COMMIT_STATUS 0 8))
    ∧ (∀ s u : State, s.gate.committing = true → u = wr { s with gate := { s.gate with committing := false } } SHK_GATE_COMMIT_GO 0 0 →
      (∀ code p e, commitFail u = some (code, p, e) → exec .gateCommitDone s
        = .next (wr (wr (wr u SHK_GATE_COMMIT_STATUS 0 code) SHK_GATE_COMMIT_FAIL_PORT 0 p) SHK_GATE_COMMIT_FAIL_ENTRY 0 e))
      ∧ (commitFail u = none → exec .gateCommitDone s = .next (forEach (commitPorts (wr u SHK_GATE_COMMIT_STATUS 0 0))
          (wr u SHK_GATE_COMMIT_STATUS 0 0)
          (fun s p => if bit s GLB_MODE_LOCKED then arm s p else bankSwitch s p)))))
  ∧ ((∀ (s u : State) (m : Master) (pol : Bool) (p : Fin 64) (c : Fin 8) (v : BitVec 20), taken s m 0x360000 → u = acked s m →
      exec (.shaperRateWrite m pol p c v) s
        = .next (wr (tokensSet u p c pol
            (if bucketRate u p c pol = 0 ∧ v.toNat ≠ 0 then ((bucketBurst u p c pol * 8000 : Nat) : Int) else tokens u p c pol))
          (if pol then SHK_POL_CIR else SHK_SHP_RATE) (p * 8 + c) v.toNat))
    ∧ (∀ (s u : State) (m : Master) (pol : Bool) (p : Fin 64) (c : Fin 8) (v : BitVec 24) (b : Nat), taken s m 0x360004 → u = acked s m →
      b = storVal SHK_SHP_BURST.stor v.toNat →
      exec (.shaperBurstWrite m pol p c v) s
        = .next (wr (tokensSet u p c pol (min ((b * 8000 : Nat) : Int) (tokens u p c pol)))
          (if pol then SHK_POL_CBS else SHK_SHP_BURST) (p * 8 + c) b)))
  ∧ ((∀ (s : State) (m : Master) (n : Fin 16) (c : Fin 8) (v : BitVec 16), taken s m 0xB00100 →
      exec (.ofmQuotaWrite m n c v) s = .next (pumpFreed (acked s m) (release (wr (acked s m) OFM_QUOTA (n * 8 + c) v.toNat))))
    ∧ (∀ (s : State) (m : Master) (v : BitVec 8), taken s m 0xB00000 → mode (acked s m) = mSETUP ∨ mode (acked s m) = mQUIESCE →
      exec (.durTcWrite m v) s = .next (pumpFreed (acked s m) (release (overBudget (wr (acked s m) OFM_CTL_DUR_TC 0 v.toNat)))))
    ∧ (∀ (s : State) (m : Master) (v : BitVec 8), taken s m 0xB00000 → mode (acked s m) ≠ mSETUP → mode (acked s m) ≠ mQUIESCE →
      exec (.durTcWrite m v) s = .next (acked s m)))

/-- Windows: EN taken to 1 runs the checks of R137; the first that fails is the window's ERR, else ERR is 0, EN and ACTIVE are set and the
window's PU entries start FREE; EN taken to 0 clears EN, seals what is open with reason DISABLE, discards what is held, and ACTIVE clears
once every PU is FREE (R140); PLC_STATUS follows. A seal write of 8 whole bytes, whose credit returns, seals its PU with reason WRITE,
behind the writes of its port that are held for that PU, and in DRAIN is only counted (R158, R159, R425; on a T-link it takes its stitches
in VL 0, the model's choice, assumption 154); a PU whose grace ends is sealed with reason TICK, but not in QUIESCE or DRAIN (R152, R156).
What sealing does: the PU's reason and time are kept, SEALED counts it and SHORT what came short, and a PU that is broken or empty has its
record due at once (R156, R160); a PU in another state is not sealed again. Where it rests on the model's choices it follows assumption 154. -/
def Obligations.PlacementWindows : Prop :=
  ((∀ (s u : State) (m : Master) (w : Fin 256), taken s m PLC_WIN_CTL_EN.off → u = acked s m → bit u PLC_WIN_CTL_EN w = false →
      (windowErr u w ≠ 0 → exec (.windowEnable m w) s = .next (wr u PLC_WIN_STATUS_ERR w (windowErr u w)))
      ∧ (windowErr u w = 0 → ∀ v, v = wr u PLC_WIN_STATUS_ERR w 0 →
        exec (.windowEnable m w) s = .next (plcStatus (wr (wr { v with plc := { v.plc with range := nput v.plc.range w (puRange v w), pu := v.plc.pu.map (fun e =>
          if (puRange v w).1 ≤ e.1 && e.1 < (puRange v w).2 then (e.1, { life := e.2.life, window := w }) else e) } }
            PLC_WIN_CTL_EN w 1) PLC_WIN_STATUS_ACTIVE w 1))))
    ∧ (∀ (s u : State) (m : Master) (w : Fin 256), taken s m PLC_WIN_CTL_EN.off → bit (acked s m) PLC_WIN_CTL_EN w = true →
      u = wr (acked s m) PLC_WIN_CTL_EN w 0 →
      exec (.windowDisable m w) s = .next (plcStatus (winIdle (forEach (u.plc.pu.filter (fun e => e.2.window == w.val)) u (fun s e =>
        if e.2.state == 2 || e.2.state == 3 then sealPu s e.1 3
        else if e.2.state ≤ 1 then puFree (missDiscard (puUnhold s e.1) e.1 e.2.held) e.1 true
        else s)) w)))
    ∧ (∀ (s u : State) (p : Fin 64) (w : Fin 256) (off : BitVec 12) (data : Bytes) (pk : Packet) (k slot : Nat), linkUp s p = true →
      bit s PLC_WIN_CTL_EN w = true → bit s PLC_WIN_SEAL_SEAL_EN w = true → pk = sealPkt s w off.toNat data →
      u = (if isTlink s p then wr s WLT_VL_STAT2_RX_OCC (p * 8) (rd s WLT_VL_STAT2_RX_OCC (p * 8) + stitchesOf pk) else s) →
      slot = leNat (data.take 1) % 64 → k = off.toNat / 8 * winD u w + slot →
      (data.length ≠ 8 ∨ off.toNat % 8 ≠ 0 ∨ mode u = mDRAIN → exec (.sealWrite p w off data) s = .next (inc (creditBack u p 0 pk) SEAL_IGN w))
      ∧ (data.length = 8 → off.toNat % 8 = 0 → mode u ≠ mDRAIN → bit u PLC_WIN_CTL_EN w = true →
        ((off.toNat / 8 < winH u w → slot < winD u w → inBlockReset u 5 = false
            ∧ (puAt u (rd u PLC_WIN_GEOM_PUBASE w + k)).held.any (fun h => h.inp == p.val) = false) →
          exec (.sealWrite p w off data) s = .next (sealNamed (creditBack u p 0 pk) w (off.toNat / 8) slot (leNat (data.drop 4))).1)
        ∧ (off.toNat / 8 < winH u w → slot < winD u w → inBlockReset u 5 = true
            ∨ (puAt u (rd u PLC_WIN_GEOM_PUBASE w + k)).held.any (fun h => h.inp == p.val) = true →
          exec (.sealWrite p w off data) s = .next (placeHold (puPlace u w (rd u PLC_WIN_GEOM_PUBASE w + k) k) (rd u PLC_WIN_GEOM_PUBASE w + k)
            { inp := p, cls := 0, pt := portPt u p, pk := pk } off.toNat true))))
    ∧ (∀ (s : State) (u : Fin 65536), (puAt s u).state = 3 →
      (mode s ≠ mQUIESCE → mode s ≠ mDRAIN → exec (.graceExpiry u) s = .next (sealPu s u 2))
      ∧ (mode s = mQUIESCE ∨ mode s = mDRAIN → exec (.graceExpiry u) s = .next s)))
  ∧ (∀ (s u : State) (k reason : Nat), ((puAt s k).state ≠ 2 → (puAt s k).state ≠ 3 → sealPu s k reason = s)
      ∧ ((puAt s k).state = 2 ∨ (puAt s k).state = 3 →
        u = inc (puSet s k { puAt s k with state := 4, sealR := reason, sealTime := devTime s % 2 ^ 32 }) SEALED (puAt s k).window →
        ((puAt s k).size ≤ (puAt s k).ing → (puAt s k).broken = false → (puAt s k).ing ≠ 0 → sealPu s k reason = u)
        ∧ ((puAt s k).ing < (puAt s k).size → (puAt s k).broken = false → (puAt s k).ing ≠ 0 →
          sealPu s k reason = inc u SHORT (puAt s k).window)
        ∧ ((puAt s k).ing < (puAt s k).size → (puAt s k).broken = true ∨ (puAt s k).ing = 0 →
          sealPu s k reason = recDue (inc u SHORT (puAt s k).window) k)))

/-- A decision gives only a member that is eligible: in state ON, its path up, and with a buffer or credit left (R142, R144). -/
def Obligations.DecisionsPickEligible : Prop :=
  ∀ (s t : State) (p win head ready size : Nat) (ch : Choice), decide' s p win head ready size = (t, some ch) →
    (member s p ch.m).state = 0 ∧ pathUp s (member s p ch.m) = true ∧ 1 ≤ avail (member s p ch.m) ∧ ch.m < 64

/-- A decision for a PU in ASSIGNING, once its pool is served: without a member the PU waits on, counted and reported, the first time in the
pool's ring too; with one it opens with the buffer taken, its counts at 0, and its held writes are released (R144, R148, R149). The writes
that are held too long are discarded, and outside a tick-bound window the PU returns to FREE (R150). -/
def Obligations.PlacementDecisions : Prop :=
  (∀ (s t : State) (u : Fin 65536) (p j sz : Nat) (e : Pu) (tb : Bool), e = puAt s u → e.state = 1 → decides s = true →
    p = (if e.redo then rd s PLC_WIN_CTL_POOL e.window else e.pool) → servedBy s (rd s PLC_POOL_CTL_CLUSTER p) = some j →
    sz = winS s e.window → tb = bit s PLC_WIN_CTL_TICK_BOUND e.window →
    (∀ v, decide' s p e.window e.head (if tb then e.ready else devTime s) sz = (t, none) →
      v = raise (inc (puSet t u { e with pool := p, redo := true }) NO_MEMBER p) 0x286 p →
      exec (.puDecisionDone u) s = .next (if e.noMem then v else
        puEvent (puSet v u { puAt v u with noMem := true }) u 4 (if tb then e.tick else rd v LCE_TICK_NOW) 0))
    ∧ (∀ ch : Choice, decide' s p e.window e.head (if tb then e.ready else devTime s) sz = (t, some ch) →
      ∃ e', exec (.puDecisionDone u) s = .next (rehold (puSet t u e') u) ∧ e'.state = 2
        ∧ e'.member = ch.m ∧ e'.pool = p ∧ e'.bufAddr = ch.addr ∧ e'.bufTag = ch.tag ∧ e'.lateRisk = ch.late ∧ e'.size = sz
        ∧ e'.ing = 0 ∧ e'.egr = 0 ∧ e'.broken = false ∧ e'.due = false ∧ e'.window = e.window ∧ e'.head = e.head
        ∧ e'.slot = e.slot ∧ e'.held = e.held ∧ e'.life = e.life + 1
        ∧ e'.tick = (if tb then e.tick else rd t LCE_TICK_NOW)))
  ∧ (∀ (s v : State) (u : Fin 65536), (puAt s u).held ≠ [] → (puAt s u).state ≤ 1 →
    v = missDiscard (puUnhold s u) u (puAt s u).held →
    (bit v PLC_WIN_CTL_TICK_BOUND (puAt s u).window = true →
      exec (.missHoldExpiry u) s = .next (puSet v u { puAt v u with drop := true }))
    ∧ (bit v PLC_WIN_CTL_TICK_BOUND (puAt s u).window = false → (puAt s u).state = 1 →
      exec (.missHoldExpiry u) s = .next (puFree v u true)))

/-- Members: APPLY of a target it refuses shows STATUS 2 and changes nothing else, of another takes the staging copy with its policy state
cleared, and LOAD reads the member back (R143, R178); a remote member whose device is not reached fails with cause 7; a read of its buffer
ring extends its free buffers, or fails it with cause 9 (R141, R165). The failure of a member: it becomes FAILED with its cause, the event
waits for the pool's ring and the source is raised, and each of its PUs is told (R165 to R167): an open one with nothing counted returns to
ASSIGNING, one with counts, and one sealed or flushing, breaks with the count so far; a sealed or flushing one has its record due, or the
record that waits already says so (R166). -/
def Obligations.PlacementMembers : Prop :=
  ((∀ (s u : State) (m : Master), taken s m PLC_MBR_CMD_APPLY.off → u = acked s m →
      (applyBad u = true → exec (.memberApply m) s = .next (wr u PLC_MBR_CMD_STATUS 0 2))
      ∧ (applyBad u = false → (staged u).state ≠ 2 → ∀ p k, p = rd u PLC_MBR_SEL_POOL → k = rd u PLC_MBR_SEL_MEMBER →
        ∀ v, v = memberSet (wr u PLC_MBR_CMD_STATUS 0 0) p k { staged u with cause := 0 } →
        exec (.memberApply m) s = .next { v with plc := { v.plc with
          cur := nset 0 v.plc.cur (p * 64 + k) 0, busy := nset 0 v.plc.busy (p * 64 + k) 0,
          bound := nput v.plc.bound (staged u).db (p * 64 + k) } }))
    ∧ (∀ (s u : State) (m : Master) (x : Member), taken s m PLC_MBR_CMD_LOAD.off → u = acked s m →
      x = member u (rd u PLC_MBR_SEL_POOL) (rd u PLC_MBR_SEL_MEMBER) →
      exec (.memberLoad m) s = .next (wr (wr (wr (wr (wr (wr (wr (wr (wr (wr (wr (wrb u PLC_MBR_CTL_REMOTE 0 x.remote) PLC_MBR_CTL_STATE 0 x.state)
        PLC_MBR_CTL_KIND 0 x.kind) PLC_MBR_CTL_PORT 0 x.port) PLC_MBR_CTL_DEV 0 x.dev) PLC_MBR_CTL_WEIGHT 0 x.weight) PLC_MBR_ADDR 0 x.addr)
        PLC_MBR_SIZE_V 0 x.v) PLC_MBR_SIZE_KM1 0 x.km1) PLC_MBR_COST 0 x.cost) PLC_MBR_DB 0 x.db) PLC_MBR_CMD_STATUS 0 0))
    ∧ (∀ (s : State) (p : Fin 1024) (k : Fin 64), (member s p k).remote = true →
      (devReach s (member s p k).dev = false → exec (.remotePathTimeout p k) s = .next (memberFail s p k 7))
      ∧ (devReach s (member s p k).dev = true → exec (.remotePathTimeout p k) s = .next s))
    ∧ (∀ (s u : State) (p : Fin 1024) (k : Fin 64) (st : CplStatus) (l : List (BitVec 64)) (x : Member),
      u = tagsEnd s st (· == .ring (p * 64 + k)) → x = member u p k → x.reading ≠ 0 →
      (st = .ok → exec (.bufferRingReadDone p k st l) s = .next (pumpAll (ringRead (memberSet u p k { x with
          bufs := x.bufs ++ (List.range x.reading).map (fun i => (l.getD i 0).toNat), pos := (x.pos + x.reading) % 2 ^ (4 + x.v), reading := 0 }) p k)))
      ∧ (st ≠ .ok → exec (.bufferRingReadDone p k st l) s = .next (pumpAll (memberFail (memberSet u p k { x with reading := 0 }) p k 9)))))
  ∧ ((∀ (s u : State) (p m cause : Nat), (member s p m).state ≠ 2 → (member s p m).state ≠ 3 →
      u = recWait (raise (memberSet s p m { member s p m with state := 2, cause := cause }) 0x284 (p * 64 + m)
          (some (rd s PLC_POOL_CTL_PARTITION p))) { type := 5, pool := p, member := m, cause := cause, tick := rd s LCE_TICK_NOW } →
      memberFail s p m cause = forEach (u.plc.pu.filter (fun e => e.2.pool == p && e.2.member == m)) u (fun s e => puFail s cause e.1))
    ∧ (∀ (s v : State) (cause u : Nat) (e : Pu), (puAt s u).broken = false → e = { puAt s u with broken := true, cause := cause, brk := (puAt s u).ing } →
      v = puSet s u e →
      ((puAt s u).state = 2 ∨ (puAt s u).state = 3 →
        ((puAt s u).ing = 0 → puFail s cause u = inc (puSet s u { puAt s u with
          state := 1, redirected := true, redo := true, noMem := false }) REDIRECT (puAt s u).pool)
        ∧ ((puAt s u).ing ≠ 0 → puFail s cause u = v))
      ∧ ((puAt s u).state = 4 ∨ (puAt s u).state = 5 →
        ((puAt s u).due = false → puFail s cause u = recDue v u)
        ∧ ((puAt s u).due = true → puFail s cause u = { v with plc := { v.plc with
            recs := v.plc.recs.map (fun r => if r.pu = some u then { puRec u e with full := r.full } else r) } }))))

/-- The oldest record that waits for a ring of records is written, once the pool is served and the ring has room, and its PU is freed; while the
ring has no room it waits, its time counted (R163, R353). A flush read goes out once everything is counted out (R161), and ends by its
completion: its PU's record is due, or its member fails with cause 2, 3 or 4 (R165). -/
def Obligations.RecordsAndFlushes : Prop :=
  (∀ (s : State) (g : Fin 16384) (r : PRec) (rest : List PRec) (sk q j k : Nat), takeRec s g s.plc.recs = some (r, rest) →
    sliceOfQp s g = some (sk, q) → k = sk * 256 + q → servedBy s (rd s PLC_POOL_CTL_CLUSTER r.pool) = some j → qpState s k = 1 →
    rd s QP_CFG_TYPE k = 1 → clickersOn s = true → inBlockReset s 5 = false → clusterHeld s j = false →
    (cqRoom s k = true → r.full = none → ∀ t, entryPut s k (rd s QP_CFG_FETCH_TC k) j (recBytes r) (r.status != 0) = (t, true) →
      exec (.recordPost g) s = .next (match r.pu with
        | some u => puFree { t with plc := { t.plc with recs := rest } } u false
        | none => { t with plc := { t.plc with recs := rest } }))
    ∧ (cqRoom s k = false → r.full = none →
      exec (.recordPost g) s = .next { s with plc := { s.plc with
        recs := s.plc.recs.map (fun y => if y = r then { y with full := some s.now } else y) } }))
  ∧ (∀ (s : State) (u : Fin 65536) (k : Nat) (e : Pu), e = puAt s u → e.state = 4 ∨ (e.state = 5 ∧ e.again = true ∧ e.due = false) →
    e.broken = false → e.ing ≠ 0 → e.egr = e.ing →
    clickersOn s = true → inBlockReset s 5 = false → servedBy s (rd s PLC_POOL_CTL_CLUSTER e.pool) = some k →
    ∀ n sk, n = rd s PLC_POOL_CTL_PARTITION e.pool → sk = (poolSlice s e.pool).getD 0 →
    (∀ d t, e.remote = some d →
      issueRead s n k sk (e.cls.getD 0) (slicePasid s sk) (.dev d e.port e.hash) (.pu u e.life) e.bufAddr 0 id = some t →
      exec (.flushReadIssue u) s = .next (puSet t u { puAt t u with state := 5, again := false }))
    ∧ (∀ i t, e.remote = none → awtCheck s (clickAcc s n (slicePasid s sk) e.bufAddr 4 false .zero) = .permit i →
      issueRead s n k sk (e.cls.getD 0) (slicePasid s sk) (.port e.port) (.pu u e.life) e.bufAddr 0 id = some t →
      exec (.flushReadIssue u) s = .next (puSet t u { puAt t u with state := 5, again := false })))
  ∧ (∀ (s v : State) (u : Fin 65536) (st : CplStatus), (puAt s u).state = 5 → (puAt s u).due = false → (puAt s u).again = false →
    clickersOn s = true → v = tagsEnd s st (· == .pu u (puAt s u).life) →
    exec (.flushComplete u st) s = .next (pumpAll (match st with
      | .ok => recDue v u
      | .poison => recDue v u
      | .ur => memberFail v (puAt s u).pool (puAt s u).member 2
      | .ca => memberFail v (puAt s u).pool (puAt s u).member 3
      | .timeout => memberFail v (puAt s u).pool (puAt s u).member 4)))

/-- Completion entries: the entry of the ended job at the head of the ring is written with phase, its job leaves, and the ring moves on; with no
room it waits (R202 to R204). Moderation: the timer signals the vector, and an unmasked vector that is pending sends one message (R209,
R210). What an entry does: with an access that the AWT permits the tail moves on by one within the ring, the phase turns at the ring's end,
and the entry's write enters the Shank; denied, the pair is in ERROR with cause 6 and one signal (R203, R206), and an overlap raises its
source (R386). Where it rests on the model's choices it follows assumption 66. -/
def Obligations.EntriesAndSignals : Prop :=
  ((∀ (s : State) (q : QPRef) (k cl : Nat) (j : Job) (l : List Job), k = qpKey q → qpState s k = 1 → clickersOn s = true → mode s ≠ mDRAIN →
      (qpAt s k).jobs = j :: l → jobCluster s (qpSlice k) j.id = some cl → j.st = .ended → clusterHeld s cl = false →
      (cqRoom s k = false → exec (.completionEntryWrite q) s
        = .next (qpSet s k { qpAt s k with waits := (qpAt s k).waits.or (some s.now) }))
      ∧ (cqRoom s k = true → (qpAt s k).waits = none → ∀ t,
        entryPut s k (dTc j.desc) cl (cplBytes (dUser j.desc) j.written ((j.idx + 1) % sqSize s k) j.status (dOp j.desc) j.detail)
          (j.status != 0 || dOp j.desc == 7) = (t, true) →
        exec (.completionEntryWrite q) s = .next (entryDone t k)))
    ∧ (∀ (s : State) (k : Nat) (j : Job) (l : List Job), (qpAt s k).jobs = j :: l → entryDone s k = pump (retire (retireOne s k j) k))
    ∧ (∀ (s : State) (q : QPRef), rd s QP_MOD_TIME (qpKey q) ≠ 0 → (qpAt s (qpKey q)).modSince.isSome = true → clickersOn s = true →
      exec (.msixModTimer q) s = .next (qpSignal s (qpKey q)))
    ∧ (∀ (s : State) (f : FnRef) (v : Fin 2048),
      exec (.msixUnmask f v false) s = .next (msixRelease { s with rng := { s.rng with
        msix := nset 1 s.rng.msix ((fnIdx f * 2048 + v) * 4 + 3) (msixWord s (fnIdx f) v 3 / 2 * 2) } } (fnIdx f) v)
      ∧ (∀ u, u = cfgPut s (msixFn (fnIdx f)) 44 (cfgGet s (msixFn (fnIdx f)) 44 - cfgGet s (msixFn (fnIdx f)) 44 / 2 ^ 30 % 2 * 2 ^ 30) →
        exec (.msixUnmask f v true) s
          = .next (forEach (u.rng.pba.filter (fun k => k / 2048 == fnIdx f)) u (fun s k => msixRelease s (fnIdx f) (k % 2048))))))
  ∧ (∀ (s : State) (k cls j : Nat) (b : Bool → Bytes) (now : Bool) (a tail : Nat) (r : AccReq), tail = rd s QP_CQ_PTR_TAIL k →
      a = rd s QP_CQ_BASE k + tail * (b (bit s QP_STATUS_PHASE k)).length →
      r = clickAcc s (qpPart k) (slicePasid s (qpSlice k)) a (b (bit s QP_STATUS_PHASE k)).length false .write →
      ((entryPut s k cls j b now).2 = true ↔ ∃ i, awtCheck s r = .permit i)
      ∧ ((entryPut s k cls j b now).2 = false →
        ∃ d, awtCheck s r = .deny d ∧
          entryPut s k cls j b now = (qpSignal (wr (wr (overlapRaise s d) QP_STATUS_STATE k 3) QP_STATUS_ERR k 6) k, false)))

/-- Jobs: the next fetched descriptor starts, ending at once where R188 finds it wrong (R187); a COPY or FILL checks its ranges and goes to the
mover, denied or of length 0 it ends (R186, R195, R386); a PLACE_COPY takes a buffer by a decision (R170); a SEAL acts as a seal write, else
NOT_OPEN; WAIT_TICK ends at its tick or its time-out; a FENCE ends once the ports that NO_CPL jobs wrote are flushed (R196); a NOP and a
RECORD_ONLY end (R186). Where it rests on the model's choices it follows assumptions 63, 65, 42. -/
def Obligations.RingJobs : Prop :=
  (∀ (s u : State) (q : QPRef) (k : Nat) (x : Qp) (idx : Nat) (d : Bytes) (rest : List (Nat × Bytes)), k = qpKey q → x = qpAt s k →
    qpState s k = 1 → x.halting = false → starts s (qpPart k) = true → (sliceCluster s (qpSlice k)).isSome = true →
    x.fetched = (idx, d) :: rest → x.jobs = [] → dOp d ≠ 15 →
    u = qpSet { s with rng := { s.rng with nextJob := s.rng.nextJob + 1 } } k { x with fetched := rest, jobs := [
      { idx := idx, desc := d, st := .ready, status := 0, written := 0, asked := 0, data := [], buf := none,
        detail := 0, flushes := 0, toFlush := [], id := s.rng.nextJob }] } →
    (startStatus u k d = 0 → exec (.jobStart q) s = .next u)
    ∧ (startStatus u k d ≠ 0 → exec (.jobStart q) s = .next (jobEnd u k s.rng.nextJob (startStatus u k d))))
  ∧ (∀ (s : State) (q : QPRef) (k : Nat) (j : Job), k = qpKey q →
    (readyJob s k 0 = some j → exec (.nop q) s = .next (jobEnd s k j.id 0))
    ∧ (readyJob s k 7 = some j → exec (.recordOnly q) s = .next (jobEnd s k j.id 0))
    ∧ (readyJob s k 1 = some j → dLen j.desc = 0 → exec (.copy q) s = .next (jobEnd s k j.id 0))
    ∧ (readyJob s k 1 = some j → dLen j.desc ≠ 0 →
      (jobDenied s k (dSrcGlob j.desc) (jobSrc j) (dLen j.desc) .read = true →
        exec (.copy q) s = .next (jobRefuse s k j.id (dSrcGlob j.desc) (jobSrc j) (dLen j.desc) .read 3))
      ∧ (jobDenied s k (dSrcGlob j.desc) (jobSrc j) (dLen j.desc) .read = false →
        jobDenied s k (dDstGlob j.desc) (jobDst j) (dLen j.desc) .write = true →
        exec (.copy q) s = .next (jobRefuse s k j.id (dDstGlob j.desc) (jobDst j) (dLen j.desc) .write 4))
      ∧ (jobDenied s k (dSrcGlob j.desc) (jobSrc j) (dLen j.desc) .read = false →
        jobDenied s k (dDstGlob j.desc) (jobDst j) (dLen j.desc) .write = false →
        exec (.copy q) s = .next (pump (jobOpen (jobSet s k { j with st := .running }) k j))))
    ∧ (readyJob s k 3 = some j → dLen j.desc ≠ 0 → jobDenied s k (dDstGlob j.desc) (jobDst j) (dLen j.desc) .write = false →
      exec (.fill q) s = .next (pump (jobOpen (jobSet s k { j with st := .running }) k j)))
    ∧ (readyJob s k 4 = some j → ∀ t b, sealNamed s (dB j.desc 8) (dB j.desc 9) (dB j.desc 10) (dLen j.desc) = (t, b) →
      exec (.seal q) s = .next (jobEnd t k j.id (if b then 0 else 12)))
    ∧ (readyJob s k 5 = some j →
      (tickReached (rd s LCE_TICK_NOW) (waitTarget j) = true →
        exec (.waitTick q) s = .next (jobEnd s k j.id 0))
      ∧ (tickReached (rd s LCE_TICK_NOW) (waitTarget j) = false → exec (.waitTick q) s = .next (jobSet s k { j with st := .waiting })))
    ∧ (readyJob s k 6 = some j →
      ((qpAt s k).dirty = [] → exec (.fence q) s = .next (jobEnd s k j.id 0))
      ∧ ((qpAt s k).dirty ≠ [] → exec (.fence q) s = .next (pump (jobSet (qpSet s k { qpAt s k with dirty := [] }) k
        { j with st := .flushing, toFlush := (qpAt s k).dirty }))))
    ∧ (readyJob s k 2 = some j → j.buf = none → jobDenied s k (dSrcGlob j.desc) (jobSrc j) (dLen j.desc) .read = false →
      (∀ t, decide' s (dPool j.desc) 0 (dB j.desc 30) (devTime s) (poolS s (dPool j.desc)) = (t, none) →
        exec (.placeCopy q) s = .next (jobEnd (inc t NO_MEMBER (dPool j.desc)) k j.id 10))
      ∧ (∀ t u ch, decide' s (dPool j.desc) 0 (dB j.desc 30) (devTime s) (poolS s (dPool j.desc)) = (t, some ch) →
        u = jobSet t k { j with st := .running, buf := some (ch.m, ch.addr, ch.tag) } →
        ((member u (dPool j.desc) ch.m).remote = false ∧ jobDenied u k false ch.addr (dLen j.desc) .write = true →
          exec (.placeCopy q) s = .next (jobRefuse u k j.id false ch.addr (dLen j.desc) .write 4))
        ∧ ((member u (dPool j.desc) ch.m).remote = true ∨ jobDenied u k false ch.addr (dLen j.desc) .write = false →
          exec (.placeCopy q) s = .next (pump (jobOpen u k j))))))
  ∧ (∀ (s : State) (q : QPRef) (j : Job),
    (qpAt s (qpKey q)).jobs.find? (fun j => decide (j.st = .waiting) && dOp j.desc == 5 && dLen j.desc != 0) = some j →
    exec (.waitTickTimeout q) s = .next (jobEnd s (qpKey q) j.id (if tickReached (rd s LCE_TICK_NOW) (waitTarget j) then 0 else 13)))

/-- Reads and doorbells: the 8-byte units of a doorbell write act in ascending order (R180); a fetch that ends well hands its descriptors over,
else the pair halts (R190); a completion of an unknown tag is counted, the tag of an answer that fails or brings the read's last byte is
free, a failed one ends its job or fetch (R193, R199, R211); a read that times out quarantines its tag until that time is over (R198, R200).
States of a queue pair (R205, R211, Table 7-7): EN checks the type, the bases and the vector in this order, showing the first that fails in
ERR, else the pair is ACTIVE with pointers 0 and phase 1; EN clear stops it; RESUME takes HALTED to ACTIVE; a STOPPING pair with no read
open is DISABLED. Where it rests on the model's choices it follows assumptions 63, 68, 42. -/
def Obligations.RingReads : Prop :=
  ((∀ (s : State) (pt : Fin 16) (sl : Fin 1024) (off : BitVec 12) (d : List (Byte × Bool)), running s = true → partInReset s pt = false →
      exec (.doorbell pt sl off d) s = .next (doorbells s (sliceKey pt sl) off.toNat d))
    ∧ (∀ (s : State) (sk r v : Nat), qpLive s (sk * 256 + r / 2) = false ∨ (qpState s (sk * 256 + r / 2) ≠ 1 ∧ qpState s (sk * 256 + r / 2) ≠ 2) →
      bell s sk r v = inc s DB_IGN sk)
    ∧ (∀ (s u : State) (q : QPRef) (k : Nat) (st : CplStatus) (l : List Bytes), k = qpKey q → u = tagsEnd s st (· == .fetch k) →
      (qpAt u k).fetching ≠ 0 → qpState u k = 1 ∨ qpState u k = 2 →
      (st = .ok → exec (.fetchComplete q st l) s = .next (pumpAll (fetchNext (qpSet u k { qpAt u k with
        fetched := (qpAt u k).fetched ++ (List.range (qpAt u k).fetching).map (fun i =>
          (((qpAt u k).pos + i) % sqSize u k, ((l.getD i []) ++ List.replicate 64 0).take 64)),
        pos := ((qpAt u k).pos + (qpAt u k).fetching) % sqSize u k, fetching := 0 }) k)))
      ∧ (st ≠ .ok → exec (.fetchComplete q st l) s = .next (pumpAll (fetchFail u k))))
    ∧ (∀ (s : State) (pt : Fin 16) (tag : BitVec 14) (st : CplStatus) (d : Bytes), nget? s.rng.tags (pt * 16384 + tag.toNat) = none →
      ∀ sl, firstSlice s pt = some sl → exec (.dmaReadCompletion pt tag st d) s = .next (inc s UNEXP_CPL sl))
    ∧ (∀ (s u : State) (pt : Fin 16) (tag : BitVec 14) (st : CplStatus) (d : Bytes) (x : TagUse), nget? s.rng.tags (pt * 16384 + tag.toNat) = some x →
      rd u CKR_CLU_STATUS_STATE x.cluster = 2 ∨ rd u CKR_CLU_STATUS_STATE x.cluster = 3 → x.silent = false →
      (st = .ur ∨ st = .ca ∨ x.len ≤ x.got + d.length → u = awtCloseNp (tagFree s pt tag.toNat) (clickRid s pt) tag.toNat →
        (x.quar = true → exec (.dmaReadCompletion pt tag st d) s = .next (pumpAll (inc u LATE_CPL (useSlice u pt x.purpose))))
        ∧ (x.quar = false → exec (.dmaReadCompletion pt tag st d) s = .next (pumpAll (pieceActs u x st d))))
      ∧ (st ≠ .ur → st ≠ .ca → x.got + d.length < x.len →
        u = { s with rng := { s.rng with tags := nput s.rng.tags (pt * 16384 + tag.toNat) (usePiece x st d) } } →
        x.quar = false → exec (.dmaReadCompletion pt tag st d) s = .next (pieceActs u x st d)))
    ∧ (∀ (s : State) (x : TagUse) (st : CplStatus) (d : Bytes), x.done = false → st ≠ .ok → pieceActs s x st d = readEnds s x.purpose st [])
    ∧ (∀ (s u : State) (pt : Fin 16) (tag : BitVec 14) (x : TagUse), nget? s.rng.tags (pt * 16384 + tag.toNat) = some x → x.quar = false →
      u = { s with rng := { s.rng with tags := nput s.rng.tags (pt * 16384 + tag.toNat) { x with quar := true } } } → x.silent = false → x.done = false →
      exec (.completionTimeout pt tag) s = .next (readEnds u x.purpose .timeout []))
    ∧ (∀ (s : State) (pt : Fin 16) (tag : BitVec 14) (x : TagUse), nget? s.rng.tags (pt * 16384 + tag.toNat) = some x → x.quar = true →
      exec (.tagQuarantineExpiry pt tag) s = .next (pumpAll (tagFree s pt tag.toNat))))
  ∧ ((∀ (s : State) (q : QPRef) (k : Nat), k = qpKey q → ownBarOn s q.pt = true → qpLive s k = true → qpState s k = 0 →
      (rd s QP_CFG_TYPE k = 3 → exec (.qpEnable q) s = .next (wr s QP_STATUS_ERR k 1))
      ∧ (rd s QP_CFG_TYPE k ≠ 3 → rd s QP_SQ_BASE k % 4096 ≠ 0 ∨ rd s QP_CQ_BASE k % 4096 ≠ 0 →
        exec (.qpEnable q) s = .next (wr s QP_STATUS_ERR k 2))
      ∧ (rd s QP_CFG_TYPE k ≠ 3 → rd s QP_SQ_BASE k % 4096 = 0 → rd s QP_CQ_BASE k % 4096 = 0 →
        (rd s PTN_CFG_VECM1 (qpPart k) < rd s QP_CFG_VEC k → exec (.qpEnable q) s = .next (wr s QP_STATUS_ERR k 3))
        ∧ (rd s QP_CFG_VEC k ≤ rd s PTN_CFG_VECM1 (qpPart k) →
          exec (.qpEnable q) s = .next (wr (wr (qpSet (wr (wr (wr (wr (wr (wr s QP_SQ_PTR_HEAD k 0) QP_SQ_PTR_TAIL k 0) QP_CQ_PTR_HEAD k 0)
            QP_CQ_PTR_TAIL k 0) QP_STATUS_ERR k 0) QP_STATUS_PHASE k 1) k {}) QP_CTL_EN k 1) QP_STATUS_STATE k 1))))
    ∧ (∀ (s : State) (q : QPRef), ownBarOn s q.pt = true → qpLive s (qpKey q) = true →
      exec (.qpDisable q) s = .next (qpStop s (qpKey q)) ∧ exec (.qpResume q) s = .next (qpResume s (qpKey q)))
    ∧ (∀ (s u : State) (k : Nat), qpState s k ≠ 0 → qpState s k ≠ 4 →
      u = forEach (qpAt s k).jobs s (fun s j => awtClose s (fun a => a.job == some j.id)) →
      ∃ v : Rings, qpStop s k = wr (wr (qpSet { u with rng := v } k {}) QP_CTL_EN k 0) QP_STATUS_STATE k 4)
    ∧ (∀ (s : State) (k : Nat), (qpState s k = 2 →
        qpResume s k = fetchNext (pump (qpSet (wr s QP_STATUS_STATE k 1) k { qpAt s k with halting := (qpAt s k).halting && !(qpAt s k).jobs.isEmpty })) k)
      ∧ (qpState s k ≠ 2 → qpResume s k = s))
    ∧ (∀ (s : State) (q : QPRef), qpState s (qpKey q) = 4 → s.rng.tags = [] →
      exec (.qpStopped q) s = .next (wr s QP_STATUS_STATE (qpKey q) 0)))

/-- Slice commands act on the slice that PTN_SLC_SEL names and show their RESULT (R363, R366, Table 13-5). CREATE takes the staging copy where
its partition is enabled, the slice does not exist, fewer than 4,096 do, and neither range nor claims forbid it; DELETE needs every pair
DISABLED and no pool or member that names one; RECREATE keeps the PASID; RESET stops the pairs, fails the members it consumes and shows in
RST_CAUSE; each answers NO_SLICE (2) where it does not exist. RESIZE checks its slice and values when it starts, and is applied at once with
WHEN = 1 or a tick that has passed, else waits for its tick or its time-out; refused, nothing of the slice changes and PTN_RESIZE_LAST shows
the RESULT (R364, R365). Applied, the pairs that it drops are DISABLED. Crossing windows and remapped functions: GO changes every named
window together or, where the first of them fails a check, none, with STATUS and FAIL_WIN; what the replaced copies have translated drains
before DRAINED sets (R368, R369). A remap entry is written while VALID is 0, and VALID is refused as R357 says; while VALID is 1 only
clearing it acts (R356, R357). Where it rests on the model's choices it follows assumptions 103, 104, 105. -/
def Obligations.SlicesAndWindows : Prop :=
  ((∀ (s u : State) (m : Master) (k : Nat) (x : Slice), taken s m PTN_SLC_CMD_CREATE.off → u = acked s m → k = slcSel u → x = slcStaged u →
      (bit u PTN_CFG_EN (k / 1024) = false → exec (.sliceCreate m) s = .next (slcResult u 10))
      ∧ (bit u PTN_CFG_EN (k / 1024) = true → (nget? u.slices k).isSome = true → exec (.sliceCreate m) s = .next (slcResult u 3))
      ∧ (bit u PTN_CFG_EN (k / 1024) = true → nget? u.slices k = none → u.slices.length < 4096 → slcRange u (k / 1024) x = true →
        exec (.sliceCreate m) s = .next (slcResult u 4))
      ∧ (bit u PTN_CFG_EN (k / 1024) = true → nget? u.slices k = none → u.slices.length < 4096 → slcRange u (k / 1024) x = false →
        slcQpClash u k x = false → slcVecClash u k x = false → slcPasidClash u k x = false →
        exec (.sliceCreate m) s = .next (ptnStat (slcResult (pageReset { u with slices := nput u.slices k x }
          (fun i => i == k) (fun _ => true) true) 0))))
    ∧ (∀ (s u : State) (m : Master), taken s m PTN_SLC_CMD_CREATE.off → u = acked s m → nget? u.slices (slcSel u) = none →
      exec (.sliceDelete m) s = .next (slcResult u 2) ∧ exec (.sliceRecreate m) s = .next (slcResult u 2)
        ∧ exec (.sliceReset m) s = .next (slcResult u 2) ∧ exec (.sliceLoad m) s = .next (slcResult u 2))
    ∧ (∀ (s u : State) (m : Master) (k : Nat) (x : Slice), taken s m PTN_SLC_CMD_CREATE.off → u = acked s m → k = slcSel u →
      nget? u.slices k = some x →
      (slcBusy u k = true → exec (.sliceDelete m) s = .next (slcResult u 7) ∧ exec (.sliceRecreate m) s = .next (slcResult u 7))
      ∧ (slcBusy u k = false → slcNamed u x = true → exec (.sliceDelete m) s = .next (slcResult u 1))
      ∧ (slcBusy u k = false → slcNamed u x = false →
        exec (.sliceDelete m) s = .next (ptnStat (slcResult { u with slices := ndel u.slices k } 0)))
      ∧ (slcBusy u k = false → (slcStaged u).pasid ≠ x.pasid → exec (.sliceRecreate m) s = .next (slcResult u 4))
      ∧ (slcBusy u k = false → slcRange u (k / 1024) (slcStaged u) = false → (slcStaged u).pasid = x.pasid →
        (slcStaged u).pasidV = x.pasidV → slcQpClash u k (slcStaged u) = false → slcVecClash u k (slcStaged u) = false →
        x.qpCount ≤ (slcStaged u).qpCount → ∃ (t : State) (y : Slice), y = { slcStaged u with cluster := x.cluster, resetting := x.resetting } ∧
        exec (.sliceRecreate m) s = .next (slcResult { t with slices := nput u.slices k y } 0) ∧ t.shk = u.shk ∧ t.rng = u.rng ∧ t.awt = u.awt)
      ∧ (∀ t, t = slicesStop (membersOfSlices (wr u RST_CAUSE_SLICE 0 1) (fun i => i == k)) (fun i => i == k) →
        exec (.sliceReset m) s = .next (slcResult { t with slices := nput t.slices k { x with resetting := true } } 0))
      ∧ exec (.sliceLoad m) s = .next (slcResult (wr (wr (wr (wr (wr (wr (wr (wrb (wr u PTN_SLC_PASID_PASID 0 x.pasid) PTN_SLC_PASID_PASID_V 0 x.pasidV)
        PTN_SLC_QP_QP_BASE 0 x.qpBase) PTN_SLC_QP_QP_COUNT 0 x.qpCount) PTN_SLC_VEC_VEC_BASE 0 x.vecBase) PTN_SLC_VEC_VEC_COUNT 0 x.vecCount)
        PTN_SLC_DMA_SHARE 0 x.share) PTN_SLC_DMA_CLUSTER 0 x.cluster) PTN_SLC_OVF_OVF_QUOTA 0 x.ovfQuota) 0)))
  ∧ ((∀ (s : State) (q : QPRef) (k : Nat) (j : Job), k = qpKey q → readyJob s k 15 = some j →
      (rszCheck s j.desc ≠ 0 → exec (.resize q) s = .next (jobEnd (rszLast s j.desc (rszCheck s j.desc)) k j.id 2))
      ∧ (rszCheck s j.desc = 0 → rszNow j.desc = true ∨ tickReached (rd s LCE_TICK_NOW) (rszTick j.desc) = true →
        exec (.resize q) s = .next (rszApply s k j))
      ∧ (rszCheck s j.desc = 0 → rszNow j.desc = false → tickReached (rd s LCE_TICK_NOW) (rszTick j.desc) = false →
        exec (.resize q) s = .next (jobSet s k { j with st := .waiting })))
    ∧ (∀ (s : State) (k : Nat) (j : Job), rszRefused s j.desc ≠ 0 →
      rszApply s k j = jobEnd (rszLast s j.desc (rszRefused s j.desc)) k j.id 2)
    ∧ (∀ (s t : State) (k : Nat) (j : Job) (x : Slice), rszRefused s j.desc = 0 → nget? s.slices (rszSlice j.desc) = some x →
      t = forEach (List.range (x.qpCount - (rszNew j.desc x).qpCount)) s
        (fun s i => wr s QP_STATUS_STATE (rszSlice j.desc * 256 + (rszNew j.desc x).qpCount + i) 0) →
      rszApply s k j = jobEnd (rszLast (pageReset { t with slices := nput t.slices (rszSlice j.desc) (rszNew j.desc x) }
        (fun i => i == rszSlice j.desc) (fun q => x.qpCount ≤ q) false) j.desc 0) k j.id 0)
    ∧ (∀ (s : State) (q : QPRef) (j : Job),
      (qpAt s (qpKey q)).jobs.find? (fun j => decide (j.st = .waiting) && dOp j.desc == 15 && rszTimeout j.desc != 0) = some j →
      exec (.resizeTimeout q) s = .next (jobEnd (rszLast s j.desc 9) (qpKey q) j.id 13)))
  ∧ ((∀ (s u v : State) (m : Master) (w : Fin 512) (all : Bool) (xs : List Nat) (next : NMap XWin), taken s m PTN_XW_COMMIT_GO.off →
      u = acked s m → xs = (if all then (List.range 512).filter (xwPending u) else [w.val]) →
      next = xs.foldl (fun m x => nset xwOff m x (xwShadow u x)) u.fab.xw →
      v = wr (wr (wr u PTN_XW_COMMIT_WIN 0 w) PTN_XW_COMMIT_ALL 0 all.toNat) PTN_XW_COMMIT_GO 0 0 →
      (∀ x, xs.find? (fun x => xwFail v next x (xwShadow v x) != 0) = some x →
        exec (.xwCommit m w all) s
          = .next (wr (wr v PTN_XW_COMMIT_STATUS 0 (xwFail v next x (xwShadow v x))) PTN_XW_COMMIT_FAIL_WIN 0 x))
      ∧ (xs.find? (fun x => xwFail v next x (xwShadow v x) != 0) = none → ∃ t, t.xw = next ∧ t = { (xwRetire v xs).fab with xw := t.xw } ∧
        exec (.xwCommit m w all) s
          = .next (wr (wr { xwRetire v xs with fab := t } PTN_XW_COMMIT_STATUS 0 0) PTN_XW_COMMIT_DRAINED 0 0)))
    ∧ (∀ s : State, (xwLeft s = true → exec .xwDrained s = .next s)
      ∧ (xwLeft s = false → exec .xwDrained s = .next (wr s PTN_XW_COMMIT_DRAINED 0 1)))
    ∧ (∀ (s u : State) (m : Master) (i : Fin 4096) (v : BitVec 64), taken s m PTN_RID_VALID.off → u = acked s m →
      (bit u PTN_RID_VALID i = true → v.toNat % 2 = 1 → exec (.remapValidWrite m i v) s = .next u)
      ∧ (bit u PTN_RID_VALID i = true → v.toNat % 2 = 0 → ∃ f, exec (.remapValidWrite m i v) s = .next { wr u PTN_RID_VALID i 0 with fab := f })
      ∧ (bit u PTN_RID_VALID i = false → ∀ x, x = wr (wr (wr (wr (wr (wr u PTN_RID_PORT i (v.toNat / 2 ^ PTN_RID_PORT.lsb))
          PTN_RID_PARTITION i (v.toNat / 2 ^ PTN_RID_PARTITION.lsb)) PTN_RID_RID_REAL i (v.toNat / 2 ^ PTN_RID_RID_REAL.lsb))
          PTN_RID_RID_GUEST i (v.toNat / 2 ^ PTN_RID_RID_GUEST.lsb)) PTN_RID_XWIN i (v.toNat / 2 ^ PTN_RID_XWIN.lsb))
          PTN_RID_XWIN_V i (v.toNat / 2 ^ PTN_RID_XWIN_V.lsb) →
        (v.toNat % 2 = 0 ∨ remapRefused x i = true → exec (.remapValidWrite m i v) s = .next x)
        ∧ (v.toNat % 2 = 1 → remapRefused x i = false →
          exec (.remapValidWrite m i v) s
            = .next (placeTake (wr x PTN_RID_VALID i 1) (rd x PTN_RID_PARTITION i) (rd x PTN_RID_PORT i))))))

/-- What the Access Window Table permits lies wholly within one VALID entry in force for the request's space, owner and requester, that entry
grants the permission the request needs, and no other VALID entry that selects the request covers it (R379 to R381). -/
def Obligations.AccessPermitted : Prop :=
  ∀ (s : State) (r : AccReq) (i : Nat), s.wf = true → awtCheck s r = .permit i →
    i < 8192 ∧ bit s AWT_W0_VALID i = true ∧ awtSelects s i r = true
      ∧ rd s AWT_W0_START i * 64 ≤ r.addr ∧ r.addr + r.len ≤ (rd s AWT_W1_END i + 1) * 64
      ∧ (r.need = .read → bit s AWT_W1_R i = true) ∧ (r.need = .write → bit s AWT_W1_W i = true)
      ∧ (r.need = .atomic → bit s AWT_W1_A i = true)
      ∧ (r.need = .zero → bit s AWT_W1_R i = true ∨ bit s AWT_W1_W i = true)
      ∧ ∀ j, j < 8192 → bit s AWT_W0_VALID j = true → awtSelects s j r = true → rd s AWT_W0_START j * 64 ≤ r.addr →
          r.addr + r.len ≤ (rd s AWT_W1_END j + 1) * 64 → j = i

/-- Entries, fence and banks. A write of word 0 stores all four words of an entry that is not locked and has VALID = 1 compared; to a locked one
it is counted and raised (R374, R385, R392); a comparison that finds a conflict sets OVERLAP, fills AWT_OVL while SET is 0, and raises its
source. GO of the fence marks what was looked up before it; DONE sets once that has completed, and after the time-out what is left is
counted as stale (R388, R389). SWAP toggles ACTIVE and clears DRAINED in banked mode (R390). The Awl's memory accesses: GO checks in this
order that the access lies in 8 bytes, that the cluster is in RUN, that nothing is locked, and the table; a permitted write is sent and ends
OK, a read waits with BUSY (R391, R393, R404); its completion stores the data and its status, its time-out shows TIMEOUT. Where it rests on
the model's choices it follows assumptions 45, 47, 49. -/
def Obligations.AccessTable : Prop :=
  ((∀ (s u : State) (m : Master) (i : Fin 8192) (w : BitVec 64), taken s m AWT_W0_VALID.off → u = acked s m →
      (bit u AWT_W0_LOCK i = true → m ≠ .awl →
        exec (.awtEntryCommit m i w) s = .next (raise (inc u AWT_LOCK_WR) 0x306))
      ∧ (bit u AWT_W0_LOCK i = false → ∀ v, v = awtStore u i w.toNat (awtShadow u i 1) (awtShadow u i 2) (awtShadow u i 3) →
        (w.toNat % 2 = 1 → exec (.awtEntryCommit m i w) s
          = .next (wr { v with awt := { v.awt with compare := v.awt.compare ++ [i.val] } } AWT_STATUS_CHECKING 0 1))
        ∧ (w.toNat % 2 = 0 → exec (.awtEntryCommit m i w) s
          = .next (wr v AWT_STATUS_OVERLAP 0 (bit v AWT_STATUS_OVERLAP && anyConflict v).toNat))))
    ∧ (∀ (s u : State) (i : Nat) (l : List Nat), s.wf = true → s.awt.compare = i :: l → u = { s with awt := { s.awt with compare := l } } →
      (∀ j, firstConflict u i = some j → bit u AWT_OVL_SET = false →
        exec .awtOverlapCheckDone s = .next (wr (raise (wr (wr (wr (wr u AWT_STATUS_OVERLAP 0 1) AWT_OVL_ENTRY_A 0 i) AWT_OVL_ENTRY_B 0 j)
          AWT_OVL_SET 0 1) 0x302 i) AWT_STATUS_CHECKING 0 (!l.isEmpty).toNat))
      ∧ (firstConflict u i = none →
        exec .awtOverlapCheckDone s = .next (wr (wr u AWT_STATUS_OVERLAP 0 (bit u AWT_STATUS_OVERLAP && anyConflict u).toNat)
          AWT_STATUS_CHECKING 0 (!l.isEmpty).toNat)))
    ∧ (∀ (s u : State) (m : Master), taken s m AWT_FENCE_GO.off → u = acked s m →
      exec (.awtFence m) s = .next (wr (wr { u with awt := { u.awt with
        fencing := true, accs := u.awt.accs.map (fun a => { a with fenced := true }) } } AWT_FENCE_DONE_DONE 0 0) AWT_FENCE_GO 0 1))
    ∧ (∀ s : State, (awtFenceMet s = true → exec .awtFenceDone s
        = .next (wr (wr { s with awt := { s.awt with fencing := false } } AWT_FENCE_DONE_DONE 0 1) AWT_FENCE_GO 0 0))
      ∧ (awtFenceMet s = false → exec .awtFenceDone s = .next s))
    ∧ (∀ (s u : State) (n : Nat), s.awt.fencing = true → n = (s.awt.accs.filter (fun a => a.fenced)).length → n ≠ 0 →
      u = raise (wr (inc { s with awt := { s.awt with accs := s.awt.accs.map (fun a => { a with fenced := false }) } } AWT_STALE 0 n)
        AWT_FENCE_DONE_STALE 0 1) 0x308 →
      (awtFenceMet u = true → exec .awtFenceTimeout s = .next (awtFenceEnd u))
      ∧ (awtFenceMet u = false → exec .awtFenceTimeout s = .next u))
    ∧ (∀ (s u : State) (m : Master) (n : Fin 16), taken s m AWT_BANK_SEL_SWAP.off → u = acked s m →
      (bit u AWT_BANK_SEL_MODE n = false → exec (.awtBankSwap m n) s = .next u)
      ∧ (bit u AWT_BANK_SEL_MODE n = true → ∃ f, exec (.awtBankSwap m n) s
        = .next (wr (wr { wr u AWT_BANK_SEL_ACTIVE n (1 - rd u AWT_BANK_SEL_ACTIVE n) with awt := f } AWT_BANK_SEL_SWAP n 0) AWT_BANK_SEL_DRAINED n 0)))
    ∧ (∀ (s : State) (n : Fin 16), bit s AWT_BANK_SEL_DRAINED n = false →
      s.awt.accs.filter (fun a => a.swapped && a.owner == n.val) = [] →
      ∃ f, exec (.awtBankDrained n) s = .next (wr { s with awt := f } AWT_BANK_SEL_DRAINED n 1)))
  ∧ ((∀ (s u : State) (m : Master) (r : AccReq), taken s m AWL_CTL_GO.off → u = acked s m → u.awt.awlBusy = false →
      r = { addr := rd u AWL_ADDR, len := rd u AWL_CTL_SIZEM1 + 1, owner := rd u AWL_CTL_PARTITION, glob := bit u AWL_CTL_GLOBAL,
            kind := 0x11, rid := 0, dev := 0, pasid := none, need := if bit u AWL_CTL_WRITE then .write else .read } →
      (8 < r.addr % 8 + r.len → exec (.awlAccess m) s = .next (awlEnd u 7))
      ∧ (r.addr % 8 + r.len ≤ 8 → rd u CKR_CLU_STATUS_STATE (rd u AWL_CTL_VIA) ≠ 2 → exec (.awlAccess m) s = .next (awlEnd u 5))
      ∧ (r.addr % 8 + r.len ≤ 8 → rd u CKR_CLU_STATUS_STATE (rd u AWL_CTL_VIA) = 2 →
        (u.awt.awlShut = true ∨ awtLockedRange u r = true →
          exec (.awlAccess m) s = .next (awlEnd (raise (awtLog (inc u AWT_LOCKED) r 5) 0x305) 3))
        ∧ (u.awt.awlShut = false → awtLockedRange u r = false →
          (∀ d, awtCheck u r = .deny d → exec (.awlAccess m) s = .next (awlEnd (awtDeny u r d) 2))
          ∧ (∀ i, awtCheck u r = .permit i → r.need = .read →
            exec (.awlAccess m) s = .next (awlTry (wr (wr { u with awt := { u.awt with awlBusy := true, awlWait := true } } AWL_STATUS 0 1) AWL_CTL_GO 0 1)))
          ∧ (∀ i c, awtCheck u r = .permit i → r.need = .write →
            c = { inp := 64 + rd u AWL_CTL_VIA, cls := 0, pt := r.owner, awl := true,
                  pk := awtAttrs u i (clickWr u r.owner none r.addr 0 (leBytes r.len (rd u AWL_DATA))) } →
            exec (.awlAccess m) s = .next (awlEnd (aimed (awtTrack u c r.owner) (if r.glob then .glob else .addr) r.owner c) 0)))))
    ∧ (∀ (s u : State) (d : BitVec 64), s.awt.awlBusy = true →
      u = { s with rng := { s.rng with tags := s.rng.tags.filter (fun e => !(decide (e.2.purpose = .awl) && !e.2.quar)) } } →
      exec (.awlReadComplete .ok d) s = .next (pumpAll { wr (wr (wr u AWL_DATA 0 (d.toNat % 256 ^ (rd u AWL_CTL_SIZEM1 + 1))) AWL_STATUS 0 0) AWL_CTL_GO 0 0 with
        awt := { u.awt with awlBusy := false, awlWait := false } }))
    ∧ (∀ s u : State, s.awt.awlBusy = true → u = { s with rng := { s.rng with
        tags := s.rng.tags.map (fun e => if e.2.purpose = .awl then (e.1, { e.2 with quar := true }) else e) } } →
      exec .awlReadTimeout s = .next (awlEnd u 6))
    ∧ (∀ s : State, s.awt.awlBusy = false → (∀ st d, exec (.awlReadComplete st d) s = .next s) ∧ exec .awlReadTimeout s = .next s))

/-- The course of a port. ENABLE runs the checks of Table 8-1 and shows the first that fails in RESULT; passed, the port is in DETECT with its
lanes (R218). DISABLE takes it to STOPPING, and with its packets gone it is DISABLED with its lanes free (R219). Detection classes the lanes
and leads to TRAINING where a receiver is found (R224, R225); a link that trains is up at its first rate (R227, R233); it steps up to its
target and settles there or below, counted (R229, R230); RETRAIN trains in full (R232); a training that fails is counted and leads back to
DETECT (R233). What settling leaves: the port is UP at the rate reached, STEP_DONE set, DEGRADED_LINK as R230 says, and the degrade source
raised below the target. Where it rests on the model's choices it follows assumptions 72, 73. -/
def Obligations.PortCourse : Prop :=
  ((∀ (s u : State) (m : Master) (p : Fin 64), taken s m (PRT_CMD_ENABLE.off + 0x4000 * p.val) → u = acked s m → inBlockReset u 1 = false →
      (enableResult u p ≠ 0 → exec (.portEnable m p) s = .next (wr u PRT_CMD_RESULT p (enableResult u p)))
      ∧ (enableResult u p = 0 → ∀ v, v = lanesJoin (wr (wr (wr u PRT_CMD_RESULT p 0) PRT_STATUS_STATE p 1) PRT_STATUS_EN p 1) p →
        exec (.portEnable m p) s
          = .next (ptnStat (if isTlink v p || bit v PRT_CFG_DIR p then v else placeTake v (portPt v p) p))))
    ∧ (∀ (s u : State) (m : Master) (p : Fin 64), taken s m (PRT_CMD_DISABLE.off + 0x4000 * p.val) → u = acked s m →
      (rd u PRT_STATUS_STATE p = 0 ∨ rd u PRT_STATUS_STATE p = 5 → exec (.portDisable m p) s = .next u)
      ∧ (rd u PRT_STATUS_STATE p ≠ 0 → rd u PRT_STATUS_STATE p ≠ 5 → isTlink u p = false → linkUp u p = false →
        u.prt.retrain.contains p.val = false → ∀ v w, v = membersOfPort u p →
        w = portState (linkOff { v with prt := { v.prt with
          retrain := v.prt.retrain.filter (· != p.val), dpc := v.prt.dpc.filter (· != p.val) } } p false false) p 5 → isTlink w p = false →
        exec (.portDisable m p) s = .next (ptnStat w)))
    ∧ (∀ (s : State) (p : Fin 64), rd s PRT_STATUS_STATE p = 5 →
      (noPackets s p = false → exec (.portStopped p) s = .next s)
      ∧ (noPackets s p = true → ∀ u v, u = forEach (lanesOf s p) s laneLeave →
        v = wr (wr (wr (wr (wr (wr (wr (wr u PRT_STATUS_STATE p 0) PRT_STATUS_EN p 0) PRT_STATUS_CUR_WIDTH p 0) PRT_STATUS_FLIT p 0)
          PRT_STATUS_REVERSED p 0) PRT_STATUS_DEGRADED_LINK p 0) PRT_STATUS_PARTNER p 0) PRT_STATUS_STEP_DONE p 0 → isTlink v p = false →
        exec (.portStopped p) s = .next (ptnStat v)))
    ∧ (∀ (s u : State) (m : Master) (p : Fin 64), taken s m (PRT_CMD_RETRAIN.off + 0x4000 * p.val) → u = acked s m → linkUp u p = true →
      exec (.portRetrain m p) s = .next (retrainGo (if striped u p then ctlOut u p 0x10 1 [] else u) p true))
    ∧ (∀ (s : State) (p : Fin 64), rd s PRT_STATUS_STATE p = 1 → portHeld s p = false →
      (bit s PRT_STATUS_PARTNER p = false → exec (.detectRetry p) s = .next (emit s (.link p "receiver detection")))
      ∧ (∀ (found shorted rxShort : BitVec 17) (any : Bool) (u : State),
        any = (List.range (dataLanes (lanesFound s p found.toNat shorted.toNat rxShort.toNat) p)).any (fun i => found.toNat.testBit i) →
        u = slotPresence (wr (lanesFound s p found.toNat shorted.toNat rxShort.toNat) PRT_STATUS_PARTNER p any.toNat) p any →
        (any = false → exec (.detectDone p found ⟨shorted, rxShort⟩) s = .next u)
        ∧ (any = true → isTlink (portState u p 2) p = false → exec (.detectDone p found ⟨shorted, rxShort⟩) s = .next (portState u p 2))
        ∧ (any = true → isTlink (portState u p 2) p = true →
          exec (.detectDone p found ⟨shorted, rxShort⟩) s = .next (trainStart (portState u p 2) p false))))
    ∧ (∀ (s : State) (p : Fin 64) (w : Fin 5) (fl rv : Bool) (inv : BitVec 17) (rx : List (Fin 17 × Bool)), rd s PRT_STATUS_STATE p = 2 → inBlockReset s 1 = false →
      (isTlink s p = false → exec (.linkUp p w fl rv ⟨inv, rx⟩) s = .next (pcieUp (lanesRx s p rx) p w fl rv inv.toNat))
      ∧ (isTlink s p = true → tstate s p = tSTART → exec (.linkUp p w fl rv ⟨inv, rx⟩) s = .next (tlinkUp s p)))
    ∧ (∀ (s : State) (p : Fin 64) (k : BitVec 3), rd s PRT_STATUS_STATE p = 3 → running s = true → bit s PRT_STATUS_STEP_DONE p = false →
      inBlockReset s 1 = false → isTlink s p = false → isTlink (tlUpd (portState s p 4) p (fun x => { x with target := targetRate s p k.toNat })) p = false →
      rd s PRT_STATUS_RATE p < targetRate s p k.toNat →
      exec (.stepUpStart p k) s = .next (tlUpd (portState s p 4) p (fun x => { x with target := targetRate s p k.toNat })))
    ∧ (∀ (s u : State) (p : Fin 64) (k : BitVec 3) (w : Fin 5) (r : Nat), rd s PRT_STATUS_STATE p = 4 → isTlink s p = false →
      r = max 1 (min k.toNat (tlAt s p).target) → u = inc s RATE_FALL p ((tlAt s p).target - r) →
      (widthOf (rd u PRT_STATUS_CUR_WIDTH p) ≤ widthOf w → exec (.stepDone p k w) s = .next (settle u p r (tlAt s p).target))
      ∧ (widthOf w < widthOf (rd u PRT_STATUS_CUR_WIDTH p) →
        exec (.stepDone p k w) s = .next (settle (inc (wr u PRT_STATUS_CUR_WIDTH p w) WIDTH_FALL p) p r (tlAt s p).target)))
    ∧ (∀ (s u v : State) (p : Fin 64) (rx : List (Fin 17 × Bool)), isTlink s p = false → rd s PRT_STATUS_STATE p = 2 →
      u = inc (lanesRx s p rx) TRAIN_FAIL p →
      v = (if s.prt.retrain.contains p.val then pcieFall (wr (countDown u p) RST_CAUSE_PORT 0 1) p else u) →
      exec (.pcieTrainingFail ⟨p, rx⟩) s = .next { linkOff v p false false with
        prt := { (linkOff v p false false).prt with retrain := (linkOff v p false false).prt.retrain.filter (· != p.val) } }))
  ∧ (∀ (s u : State) (p rate target : Nat), u = degradedLink (wr (wr (wr s PRT_STATUS_STATE p 3) PRT_STATUS_RATE p rate) PRT_STATUS_STEP_DONE p 1) p target →
      (bit u PRT_STATUS_DEGRADED_LINK p = false → settle s p rate target = u)
      ∧ (bit u PRT_STATUS_DEGRADED_LINK p = true → settle s p rate target = raise u (0x140 + p) p (some (portPt u p))))

/-- What takes a link down. A link that is up and falls goes to DETECT or back to training with its cause (R233, R309); a lost reference clock
is shown, reported, and holds the Quarter's ports of that personality down until it is good (R223); T_LL, DEAD and RESUME time out (R309,
R311); DPC, where it is enabled, flushes and holds a downstream port until its status is cleared (R245); a slot's PG holds or lets go its
ports (R250). PART and PORT resets. EN of a partition puts it in reset until nothing asserts it (R349, R351); the pin, hot reset, Secondary
Bus Reset, RST_CMD with its key and EN = 0 assert it, each until it ends (R243, R351, R460, R461); a function that does not answer its FLR
is reported, and what waits for its configuration goes on after its hold (R351). Where it rests on the model's choices it follows
assumptions 74, 102, 109, 160, 85. -/
def Obligations.LinkFalls : Prop :=
  ((∀ (s : State) (p : Fin 64) (rec : Bool), (linkUp s p = true → exec (.portLinkDown p rec) s = .next (linkDown s p 0 rec true))
      ∧ (linkUp s p = false → exec (.portLinkDown p rec) s = .next s))
    ∧ (∀ (s u : State) (q : Fin 4), u = raise (wr (wr s LAN_REFCLK_PCIE_OK q 0) LAN_REFCLK_PCIE_LOSS q 1) (0x80 + q) q →
      exec (.refclkLost q false) s
        = .next (forEach ((portsOn u).filter (fun p => isTlink u p == false && rd u PRT_CFG_FIRST_LANE p / 48 == q.val)) u portHold))
    ∧ (∀ (s u : State) (q : Fin 4), u = raise (wr (wr s LAN_REFCLK_TLINK_OK q 0) LAN_REFCLK_TLINK_LOSS q 1) (0x84 + q) q →
      exec (.refclkLost q true) s
        = .next (forEach ((portsOn u).filter (fun p => isTlink u p == true && rd u PRT_CFG_FIRST_LANE p / 48 == q.val)) u portHold))
    ∧ (∀ (s : State) (q : Fin 4), exec (.refclkGood q true) s = .next (wr s LAN_REFCLK_TLINK_OK q 1)
      ∧ exec (.refclkGood q false) s = .next (forEach (List.range 16) (wr s LAN_REFCLK_PCIE_OK q 1) (fun s n =>
        if (upPort s n).any (fun u => rd s PRT_CFG_FIRST_LANE u / 48 == q.val) then partUncause s n 4 else s)))
    ∧ (∀ (s : State) (p : Fin 64), striped s p = true →
      ((tlAt s p).tll = true → exec (.tLlExpiry p) s = .next (linkDown s p 1 (bit s PRT_STATUS_PARTNER p) true))
      ∧ exec (.deadTimeout p) s = .next (linkDown s p 2 (bit s PRT_STATUS_PARTNER p) true)
      ∧ ((tlAt s p).resume = true →
        exec (.resumeTimeout p) s = .next (linkDown (inc s RESUME_FAIL p) p 4 (bit s PRT_STATUS_PARTNER p) false)))
    ∧ (∀ (s : State) (p : Fin 64),
      (isTlink s p = true ∨ bit s PRT_CFG_DIR p = true ∨ dpcEnabled s p = false → exec (.dpcTrigger p) s = .next s)
      ∧ (isTlink s p = false → bit s PRT_CFG_DIR p = false → dpcEnabled s p = true → rd s PRT_STATUS_STATE p ≠ 0 → rd s PRT_STATUS_STATE p ≠ 5 →
        s.prt.dpc.contains p.val = false → ∀ v u, v = (if linkUp s p || s.prt.retrain.contains p.val then countDown s p else s) →
        u = linkOff (pcieDrop (dpcHold v p) p) p false false →
        exec (.dpcTrigger p) s = .next { u with prt := { u.prt with retrain := u.prt.retrain.filter (· != p.val) } }))
    ∧ (∀ (s : State) (p : Fin 64), (s.prt.dpc.contains p.val = true → exec (.dpcStatusClear p) s
        = .next (dpcStatus { s with prt := { s.prt with dpc := s.prt.dpc.filter (· != p.val) } } p false))
      ∧ (s.prt.dpc.contains p.val = false → exec (.dpcStatusClear p) s = .next s))
    ∧ (∀ (s : State) (n : Fin 16), (bit s PWD_SLOT_STATUS_PG n = true →
        exec (.slotPgRise n) s = .next (forEach ((boundTo s n).filter (fun p => rd s PRT_STATUS_STATE p == 1 && !portHeld s p)) s
          (fun s p => emit s (.link p "receiver detection"))) ∧ exec (.slotPgFall n) s = .next s)
      ∧ (bit s PWD_SLOT_STATUS_PG n = false →
        exec (.slotPgFall n) s = .next (forEach (boundTo s n) s portHold) ∧ exec (.slotPgRise n) s = .next s)))
  ∧ ((∀ (s u : State) (m : Master) (n : Fin 16), taken s m (PTN_CFG_EN.off + 0x10 * n.val) → u = acked s m →
      (bit u PTN_CFG_EN n = false → oneLayout u = false →
        (List.range 16).foldl (fun a k => if bit u PTN_CFG_EN k || k == n.val then a + rd u PTN_CFG_VECM1 k + 1 else a) 0 ≤ 16384 →
        exec (.partitionEnable m n) s = .next (ptnStat (partUncause (wr (wr u PTN_CFG_EN n 1) PTN_STAT_IN_RESET n 1) n 3)))
      ∧ (bit u PTN_CFG_EN n = true → exec (.partitionEnable m n) s = .next u
        ∧ exec (.partitionDisable m n) s = .next (ptnStat (wr (partAssert u n 3) PTN_CFG_EN n 0))))
    ∧ (∀ (s u : State) (n : Fin 16), u = wr s RST_CAUSE_PIN_PERST 0 1 →
      exec (.perstAssert n) s = .next (partAssert { u with rst := { u.rst with perst := n.val :: u.rst.perst.filter (· != n.val) } } n 0))
    ∧ (∀ (s u : State) (n : Fin 16), u = partUncause { s with rst := { s.rst with perst := s.rst.perst.filter (· != n.val) } } n 0 →
      exec (.perstRelease n .short) s = .next s ∧ exec (.perstRelease n .between) s = .next (raise s 0x688 n)
      ∧ (upPort u n = none → exec (.perstRelease n .qualified) s = .next u)
      ∧ (∀ p, upPort u n = some p →
        (bit u LAN_REFCLK_PCIE_OK (rd u PRT_CFG_FIRST_LANE p / 48) = true → exec (.perstRelease n .qualified) s = .next u)
        ∧ (bit u LAN_REFCLK_PCIE_OK (rd u PRT_CFG_FIRST_LANE p / 48) = false → exec (.perstRelease n .qualified) s = .next (partCause u n 4))))
    ∧ (∀ (s : State) (n : Fin 16),
      (bit s PTN_STAT_IN_RESET n = true → nget s.fab.resets n [] = [] → bit s PTN_CFG_EN n = true → wideReset s = false →
        exec (.partResetRelease n) s = .next (ptnStat (placesFix (wr s PTN_STAT_IN_RESET n 0) n)))
      ∧ (nget s.fab.resets n [] ≠ [] ∨ wideReset s = true → exec (.partResetRelease n) s = .next s))
    ∧ (∀ (s u : State) (p : Fin 64), isHead s p = true → linkUp s p = true →
      u = { s with prt := { s.prt with hot := p.val :: s.prt.hot.filter (· != p.val) } } →
      exec (.hotResetReceived p) s = .next (partCause (partAssert u (portPt s p) 1) (portPt s p) 2))
    ∧ (∀ (s u : State) (p : Fin 64), s.prt.hot.contains p.val = true → u = { s with prt := { s.prt with hot := s.prt.hot.filter (· != p.val) } } →
      exec (.hotResetEnd p) s = .next (partUncause u (portPt s p) 2))
    ∧ (∀ (s : State) (n : Fin 16) (p : Fin 64), exec (.secondaryBusReset (.upstream n) true) s = .next (partAssert s n 1)
      ∧ exec (.secondaryBusReset (.upstream n) false) s = .next s
      ∧ (isTlink s p = false → bit s PRT_CFG_DIR p = false → rd s PRT_STATUS_STATE p ≠ 0 →
        exec (.secondaryBusReset (.downstream p) true) s = .next (portReset s p 1)
          ∧ exec (.secondaryBusReset (.downstream p) false) s = .next (portUnreset s p 1))
      ∧ (portPt s p ≠ n.val → exec (.secondaryBusReset (.shared n p) true) s = .next (vfFlrs s n (some p.val))))
    ∧ (∀ (s : State) (m : Master) (n : Fin 16) (p : Fin 64), taken s m RST_CMD_PART.off →
      (bit (acked s m) PTN_CFG_EN n = true → exec (.rstCmdPart m 0xA5#8 n) s = .next (partAssert (acked s m) n 1))
      ∧ (bit (acked s m) PTN_CFG_EN n = false → exec (.rstCmdPart m 0xA5#8 n) s = .next (acked s m))
      ∧ (rd (acked s m) PRT_STATUS_STATE p ≠ 0 → exec (.rstCmdPort m 0xA5#8 p) s = .next (portReset (acked s m) p 0)))
    ∧ (∀ (s : State) (i : Fin 4096), s.fab.vfFlr.contains i.val = true → exec (.vfFlrTimeout i) s = .next
        (raise { s with fab := { s.fab with vfFlr := s.fab.vfFlr.filter (· != i.val) } } 0x386 i (some (rd s PTN_RID_PARTITION i))))
    ∧ (∀ (s : State) (i : Fin 4096), s.fab.cfgWait.filter (fun e => e.1 == i.val) = [] → ∀ l, l = s.fab.cfgWait.filter (fun e => e.1 != i.val) →
      exec (.vfConfigHoldEnd i) s = .next { s with fab := { s.fab with vfHold := s.fab.vfHold.filter (· != i.val), cfgWait := l } }))

/-- What the part's functions do. A Type 0 request to device 0, function 0 at the head's upstream port is the upstream bridge's own, a Type 1
request on the internal bus to device 0 the Clicking function's (R240); a read answers the double word, a write captures the bus number and
stores; any request is answered Unsupported Request while the partition is in reset. FLR resets the Clicking function unless a wider reset
covers it (R462). PTM keeps host time minus device time while the host enables it (R254); a vendor-defined message goes the way of its
packet, and a local one is discarded, counted where it names the part's vendor, and answered where it is Type 0 (R255); an IDE key takes a
slot or fails, keys as they were, a refresh holds a second slot until the new set takes over, and a stop frees the slots (R252). Where it
rests on the model's choices it follows assumptions 85, 91, 90, 110, 169, 87. -/
def Obligations.PcieFunctions : Prop :=
  (∀ (s : State) (p : Fin 64) (t : Bool) (bus : BitVec 8) (dev : BitVec 5) (fn : BitVec 3) (reg : BitVec 10) (w : Option (BitVec 32))
      (rid : BitVec 16) (tag : BitVec 14) (pk : Packet), isHead s p = true → linkUp s p = true →
    pk = cfgPkt t bus.toNat dev.toNat fn.toNat reg.toNat w rid tag →
    (partInReset s (portPt s p) = true →
      exec (.configRequest p t bus dev fn reg w rid tag) s = .next (cfgAnswer s p (portPt s p) pk .ur none))
    ∧ (partInReset s (portPt s p) = false → t = false → dev.toNat = 0 → fn.toNat = 0 →
      (w = none → exec (.configRequest p t bus dev fn reg w rid tag) s
        = .next (cfgAnswer s p (portPt s p) pk .ok (some (cfgRead s (fnUp (portPt s p)) reg.toNat))))
      ∧ (∀ v, w = some v → exec (.configRequest p t bus dev fn reg w rid tag) s
        = .next (cfgWrite (cfgAnswer { s with cfg := nset 0 s.cfg (fnUp (portPt s p) * 2048 + 1024) bus.toNat } p (portPt s p) pk .ok none)
          (fnUp (portPt s p)) reg.toNat v.toNat)))
    ∧ (partInReset s (portPt s p) = false → t = true → bus.toNat ≠ 0 → bus.toNat = secBus s (fnUp (portPt s p)) → dev.toNat = 0 → fn.toNat = 0 →
      w = none → exec (.configRequest p t bus dev fn reg w rid tag) s
        = .next (cfgAnswer s p (portPt s p) pk .ok (some (cfgRead s (fnClick (portPt s p)) reg.toNat)))))
  ∧ (∀ (s : State) (n : Fin 16), (partInReset s n = true → exec (.flr n) s = .next s)
    ∧ (partInReset s n = false → ∀ u, u = slicesStop (membersOfSlices (wr s RST_CAUSE_FUNC 0 1) (fun k => k / 1024 == n.val)) (fun k => k / 1024 == n.val) →
      exec (.flr n) s = .next (msixReset (cfgReset { u with rst := { u.rst with func := n.val :: u.rst.func.filter (· != n.val) } }
        [fnClick n]) n)))
  ∧ (∀ (s : State) (p : Fin 64) (h : BitVec 64), (ptmOn s p = true →
      exec (.ptmRequestTimer p) s = .next (emit s (.link p "PTM request"))
      ∧ exec (.ptmExchange p h) s = .next { wr s PCI_PTM_OFS p (h.toNat + 2 ^ 64 - devTime s) with
          prt := { s.prt with ptm := nput s.prt.ptm p s.now } })
    ∧ (ptmOn s p = false → exec (.ptmRequestTimer p) s = .next s ∧ exec (.ptmExchange p h) s = .next s))
  ∧ (∀ (s : State) (p : Fin 64) (t0 : Bool) (vendor : BitVec 16) (word : BitVec 32) (tc : Fin 8) (rid : BitVec 16) (d : Bytes) (r : VdmRoute),
    isTlink s p = false → ingressOpen s p = true →
    exec (.vdmReceive p t0 ⟨vendor, word, tc, rid, d⟩ r) s = .next (pumpFreed s (ingress s p (vdmPkt t0 vendor word tc rid d r))))
  ∧ (∀ (s u : State) (p : Nat) (c : Cell) (t0 : Bool) (vendor : BitVec 16) (word : BitVec 32) (tc : Fin 8) (rid : BitVec 16) (d : Bytes),
    c.pk = vdmPkt t0 vendor word tc rid d .localRx →
    u = (if vendor = 0x3E4C#16 then inc (creditBack s c.inp c.vl c.pk) VDM_DISC p else creditBack s c.inp c.vl c.pk) →
    msgIn s p c = if t0 then aerLog (emit u (.link p "unsupported request")) p c.pt 20 c.pk else u)
  ∧ (∀ (s : State) (o : IdeOwner) (tx : Bool) (km : IdeKm) (k cur : Nat), k = ideOwner o * 2 + tx.toNat → cur = nget s.prt.ide k 0 →
    (∀ new, (km = .first ∧ new = max 1 cur) ∨ (km = .refresh ∧ new = (if cur = 0 then 1 else 2)) →
      (bit s TST_SEC_STATUS_CLEARED = true ∨ 256 < ideUsed s - cur + new →
        exec (.ideKeyProg o tx km) s = .next (spdmSay s (ideVia o) "KP_ACK failure" []))
      ∧ (bit s TST_SEC_STATUS_CLEARED = false → ideUsed s - cur + new ≤ 256 → ∀ u, u = { s with prt := { s.prt with ide := nset 0 s.prt.ide k new } } →
        exec (.ideKeyProg o tx km) s = .next (spdmSay { wr u TST_SEC_STATUS_CLEARED_OK 0 0 with
          tst := { u.tst with keys := true, changed := u.tst.changed || u.tst.verifying } } (ideVia o) "KP_ACK" [])))
    ∧ (km = .takeOver → exec (.ideKeyProg o tx km) s
        = .next (spdmSay { s with prt := { s.prt with ide := nset 0 s.prt.ide k (min 1 cur) } } (ideVia o) "K_GOSTOP_ACK" []))
    ∧ (km = .stop → exec (.ideKeyProg o tx km) s
        = .next (spdmSay { s with prt := { s.prt with ide := nset 0 s.prt.ide k 0 } } (ideVia o) "K_GOSTOP_ACK" [])))

/-- A packet that arrives is policed, looked up and stored, or waits behind an earlier one at its policer; while the port takes no packets it
has no effect (R25, R128); the oldest that waits goes on once tokens cover it. On a T-link it comes with all its stitches and its group
sequence. The policer: completions, notices and classes without an action pass; a packet that tokens cover is charged; one that is not
covered is queued in its demoted class and counted under DEMOTE unless a window takes it, else it waits (R128 to R130). Where it rests on
the model's choices it follows assumptions 43, 108. -/
def Obligations.PacketIngress : Prop :=
  ((∀ (s : State) (p : Fin 64) (pk : Packet), ingressOpen s p = false → exec (.packetIngress p pk) s = .next s)
    ∧ (∀ (s : State) (p : Fin 64) (pk : Packet), ingressOpen s p = true → isTlink s p = false →
      exec (.packetIngress p pk) s = .next (pumpFreed s (ingress s p pk)))
    ∧ (∀ (s : State) (p : Nat) (pk : Packet),
      (s.shk.held.any (fun h => h.pol && h.q.inp == p && decide (h.q.pk.kind = pk.kind)) = true → ingress s p pk = policeHold s p pk)
      ∧ (s.shk.held.any (fun h => h.pol && h.q.inp == p && decide (h.q.pk.kind = pk.kind)) = false →
        (∀ t cls, police s p pk = (t, some cls) → ingress s p pk = lookup t p cls pk none)
        ∧ (∀ t, police s p pk = (t, none) → ingress s p pk = policeHold (inc t SHK_POL_HELD (p * 8 + arrivalClass t p pk)) p pk)))
    ∧ (∀ (s t : State) (p : Fin 64) (pk : Packet) (h : FabHdr), ingressOpen s p = true → isTlink s p = true → striped s p = true →
      inBlockReset s 9 = false → pk.fab = some h →
      groupStart (stitchesIn (goodStitch (slotsIn s p (stitchesOf pk)) p) p (vlOf pk) (stitchesOf pk)) p h = (t, false) →
      exec (.packetIngress p pk) s = .next (pumpFreed s (ingress (groupEnd t p h) p pk)))
    ∧ (∀ (s t : State) (p : Fin 64) (k : PktKind) (h : HeldPkt) (l : List HeldPkt) (cls : Nat),
      s.shk.held.filter (fun h => h.pol && h.q.inp == p.val && decide (h.q.pk.kind = k)) = h :: l → police s p h.q.pk = (t, some cls) →
      exec (.policerRelease p k) s = .next (policeRun p l (lookup (unhold t h) p cls h.q.pk (some h.q.seq)))))
  ∧ (∀ (s : State) (p : Nat) (pk : Packet) (i : Nat), i = p * 8 + (arrivalCell s p pk).cls →
      (pk.kind = .completion ∨ pk.op = .notice ∨ shapersOn s = false ∨ (rd s SHK_POL_CTL_ACTION i ≠ 1 ∧ rd s SHK_POL_CTL_ACTION i ≠ 2) →
        police s p pk = (s, some (arrivalCell s p pk).cls))
      ∧ (pk.kind ≠ .completion → pk.op ≠ .notice → shapersOn s = true → rd s SHK_POL_CTL_ACTION i = 1 ∨ rd s SHK_POL_CTL_ACTION i = 2 →
        (tokensCover s p (arrivalCell s p pk).cls true pk = true →
          police s p pk = (charge s p (arrivalCell s p pk).cls true pk, some (arrivalCell s p pk).cls))
        ∧ (tokensCover s p (arrivalCell s p pk).cls true pk = false →
          (rd s SHK_POL_CTL_ACTION i = 1 → keepsClass s p (arrivalCell s p pk) = false →
            police s p pk = (inc s SHK_POL_DEMOTED i, some (rd s SHK_POL_CTL_DEM_TC i)))
          ∧ (rd s SHK_POL_CTL_ACTION i = 2 → police s p pk = (s, none)))))

/-- The fabric: a notice seen in the last 10 ms is counted and dropped, another is logged, raised and forwarded while its TTL lasts (R341 to
R343); an entry of the device table is written whole and its moved slots return (R335); an aperture that overlaps no other is enabled, its
bases cut to its size (R328); a completion for a proxy tag returns the way its request came, and an entry 128 ms old is freed and counted
(R331). Where it rests on the model's choices it follows assumptions 99, 100, 101. -/
def Obligations.Fabric : Prop :=
  (∀ (s : State) (p : Fin 64) (n : Notice) (ttl : BitVec 4), fabricOn s = true → hopUp s p = true → ∀ seen, seen = nget s.fab.seen n.origin.toNat [] →
    (seen.any (fun e => e.1 == n.nseq.toNat && s.now ≤ e.2 + 10000000) = true → exec (.noticeReceive p n ttl) s = .next (inc s NOTICE_DUP))
    ∧ (seen.any (fun e => e.1 == n.nseq.toNat && s.now ≤ e.2 + 10000000) = false → 1 ≤ n.kind.toNat → n.kind.toNat ≤ 7 → ∀ u,
      u = raise (noticeLog { s with fab := { s.fab with seen := nput s.fab.seen n.origin.toNat (((n.nseq.toNat, s.now) :: seen).take 8) } } n)
        (0x503 + n.kind.toNat) n.origin.toNat →
      (ttl.toNat = 0 → exec (.noticeReceive p n ttl) s = .next u)
      ∧ (ttl.toNat ≠ 0 → exec (.noticeReceive p n ttl) s = .next (noticeOut u n (ttl.toNat - 1) (some p.val)))))
  ∧ (∀ (s u : State) (m : Master) (d : Fin 64) (v : BitVec 32), taken s m FAB_DEV_MODE.off → u = acked s m →
    exec (.fabDevWrite m d v) s = .next (wr (wr (wr (wr (wr (wr (wr (wr u FAB_DEV_MODE d (v.toNat / 2 ^ FAB_DEV_MODE.lsb))
      FAB_DEV_NHOPSM1 d (v.toNat / 2 ^ FAB_DEV_NHOPSM1.lsb)) FAB_DEV_HOP0 d (v.toNat / 2 ^ FAB_DEV_HOP0.lsb))
      FAB_DEV_HOP1 d (v.toNat / 2 ^ FAB_DEV_HOP1.lsb)) FAB_DEV_HOP2 d (v.toNat / 2 ^ FAB_DEV_HOP2.lsb))
      FAB_DEV_HOP3 d (v.toNat / 2 ^ FAB_DEV_HOP3.lsb)) FAB_DEV_STAT_MOVED d 0) FAB_DEV_STAT_MOVED_TO d 0))
  ∧ (∀ (s u : State) (m : Master) (n : Fin 16) (j : Fin 4) (i z : Nat), taken s m FAB_GAP_EN.off → u = acked s m → i = n * 4 + j → z = 2 ^ rd u FAB_GAP_K i →
    (bit u FAB_GAP_EN i = true → exec (.apertureEnable m n j) s = .next u)
    ∧ (bit u FAB_GAP_EN i = false → (∀ h, h < 4 → h ≠ j.val → bit u FAB_GAP_EN (n * 4 + h) = false) →
      exec (.apertureEnable m n j) s = .next (wr (wr (wr u FAB_GAP_BASE i (rd u FAB_GAP_BASE i / z * z))
        FAB_GAP_GBASE i (rd u FAB_GAP_GBASE i / z * z)) FAB_GAP_EN i 1)))
  ∧ (∀ (s : State) (p : Fin 64) (pk : Packet) (e : RetEnt), retEntry s p { pk with kind := .completion, op := .cpl } = some e →
    linkUp s p = true → running s = true →
    exec (.proxyCompletion p pk) s = .next (proxyReturn s p { pk with kind := .completion, op := .cpl } e))
  ∧ (∀ (s : State) (p : Fin 64) (t : BitVec 14) (e : RetEnt), nget? s.fab.ret (p.val * 16384 + t.toNat) = some e →
    (e.quar = true → exec (.returnEntryStale p t) s = .next (retFree s p t.toNat))
    ∧ (e.quar = false → exec (.returnEntryStale p t) s = .next (retFree (awtCloseNp (inc s RET_STALE) e.rid e.tag) p t.toNat)))

/-- Feeds, temperatures and supplies while the power die runs. A low feed is reported and reads LOW; reverse current pulls its gate, or with the
gate off is reported; REVERSED and OV hold the gate off until they clear (R483, R484). PWRFAIL_N driven low and read high is reported
(R485). A sensor that warns, is critical or has failed raises its source, a failed one asserts nothing; a supply out of range is reported
(R537, R544). The power die starts with its fields at their reset values, and stopped takes nothing (R536). Slot channels while the power
die runs: ON ramps a channel that is OFF or LATCHED, and pulls its gate with 0 (R488, R493, R249); it ramps to QUAL and GOOD, raising PG
(R492); every trip sets Power Fault Detected here and at the bound ports (R250), is counted, uses a retry and cools, or with none left
latches and clears ON (R489 to R491); after its cool-down it ramps again; a FET fault that fits its state holds it until CLR_FET (R495,
R496); in undervoltage every gate is off, and ON channels ramp again after it (R486). Where it rests on the model's choices it follows
assumptions 132, 131, 92. -/
def Obligations.PowerDie : Prop :=
  ((∀ (s : State) (f : Fin 2), s.pwr.on = true → feedOn s f = true →
      (s.pwr.low.contains f.val = true → exec (.feedLow f) s = .next s)
      ∧ (s.pwr.low.contains f.val = false → ∀ u, u = { s with pwr := { s.pwr with low := f.val :: s.pwr.low } } →
        feedState u f ≠ 3 → feedState u f ≠ 4 → exec (.feedLow f) s = .next (raise (feedSet u f 2) (0x750 + f.val) f))
      ∧ (∀ u, u = { s with pwr := { s.pwr with low := s.pwr.low.filter (· != f.val) } } →
        (feedState u f = 3 ∨ feedState u f = 4 → exec (.feedNotLow f) s = .next u)
        ∧ (feedState u f ≠ 3 → feedState u f ≠ 4 → exec (.feedNotLow f) s = .next (feedControl u f)))
      ∧ (∀ c : Fld, (f = 0 ∧ c = PWD_FEED_STATUS_CONDUCT_A) ∨ (f = 1 ∧ c = PWD_FEED_STATUS_CONDUCT_B) →
        (bit s c = true → exec (.feedReverseCurrent f) s = .next (wr s c 0 0))
        ∧ (bit s c = false → exec (.feedReverseCurrent f) s = .next (raise s (0x756 + f.val) f)))
      ∧ exec (.feedReversed f) s = .next (raise (conduct (feedSet s f 3) f false) (0x752 + f.val) f)
      ∧ (feedState s f = 3 → exec (.feedOvervoltage f) s = .next s ∧ exec (.feedReversedClear f) s = .next (feedControl s f))
      ∧ (feedState s f = 4 → exec (.feedOvClear f) s = .next (feedControl s f))
      ∧ (feedState s f ≠ 3 → (bit s PWD_FEED_CTL_OV_CUT f = true →
          exec (.feedOvervoltage f) s = .next (conduct (feedSet (raise s (0x754 + f.val) f) f 4) f false))
        ∧ (bit s PWD_FEED_CTL_OV_CUT f = false → exec (.feedOvervoltage f) s = .next (raise s (0x754 + f.val) f))))
    ∧ (∀ s : State, s.pwr.on = true →
      (bit s PWD_FEED_STATUS_PWRFAIL = true → exec .pwrfailReadback s = .next (raise s 0x75A))
      ∧ (bit s PWD_FEED_STATUS_PWRFAIL = false → exec .pwrfailReadback s = .next s)
      ∧ (∀ i : Fin 8, exec (.supplyOutOfRange i) s = .next (raise s (0x880 + 27 + i.val) i))
      ∧ (∀ i : Fin 10, s.pwr.failed.contains i.val = false →
        (i.val < 9 → exec (.tempWarn i) s = .next (raise s (0x880 + i.val) i) ∧ exec (.tempCrit i) s = .next (raise s (0x889 + i.val) i))
        ∧ (i.val = 9 → exec (.tempWarn i) s = .next (raise s 0x810 i) ∧ exec (.tempCrit i) s = .next (raise s 0x811 i)))
      ∧ (∀ i : Fin 10, s.pwr.failed.contains i.val = true → exec (.tempWarn i) s = .next s ∧ exec (.tempCrit i) s = .next s)
      ∧ (∀ i : Fin 10, ∀ u, u = { s with pwr := { s.pwr with failed := i.val :: s.pwr.failed.filter (· != i.val) } } →
        exec (.tempSensorFail i) s = .next (raise u (if i.val < 9 then 0x892 + i.val else 0x810) i)))
    ∧ (∀ s : State, s.pwr.on = false → exec .powerDieStart s = .next (emit { s with
          regs := rreset s.regs (fun k => keyReach k == reachCode .pdOn), pwr := {} } (.pin "PWRFAIL_N" 0 false))
      ∧ exec .powerDieStop s = .next s
      ∧ (∀ f : Fin 2, exec (.feedLow f) s = .next s) ∧ (∀ n : Fin 16, exec (.slotTimerTrip n) s = .next s))
    ∧ (∀ s : State, s.pwr.on = true → exec .powerDieStart s = .next s
      ∧ ∀ u, u = forEach (List.range 16) s (fun s n => if slotDriven s n then gatePull s n else s) →
        exec .powerDieStop s = .next { u with pwr := { u.pwr with on := false } }))
  ∧ ((∀ (s : State) (n : Fin 16), s.pwr.on = true →
      (bit s PWD_SLOT_CTL_ON n = false → bit s PWD_SLOT_STATUS_FENCED n = false → slotState s n = 0 → ∀ u v, v = wr s PWD_SLOT_CTL_ON n 1 → busUv v = false →
        u = wr v PWD_SLOT_STATUS_RETRIES_LEFT n (rd v PWD_SLOT_CTL_RETRY n) →
        slotPower s n true = emit (slotTo u n 1) (.pin "SLOT_GATE" n true))
      ∧ ((bit s PWD_SLOT_CTL_ON n = true ∨ bit s PWD_SLOT_STATUS_FENCED n = true ∨ slotState s n = 6) → slotPower s n true = s)
      ∧ slotPower s n false = slotOff s n)
    ∧ (∀ (s : State) (n : Fin 16) (on : Bool), (boundTo s n).any (fun p => !partInReset s (portPt s p)) = true →
      exec (.slotPowerControlWrite true n on) s = .next (slotPower s n on))
    ∧ (∀ (s : State) (n : Fin 16) (on : Bool), taken s .inband (PWD_SLOT_CTL_ON.off + 0x20 * n.val) → mode s ≠ mSAFE →
      exec (.slotPowerControlWrite false n on) s = .next (slotPower s n on))
    ∧ (∀ (s : State) (n : Fin 16), s.pwr.on = true →
      (slotState s n = 1 → exec (.slotRampComplete n) s = .next (slotTo s n 2))
      ∧ (slotState s n = 2 → exec (.slotQualified n) s
          = .next (emit (wr (slotTo s n 3) PWD_SLOT_STATUS_PG n 1) (.pin "SLOT_PG" n true)))
      ∧ (slotDriven s n = true → ∀ u : Bool → State,
        u = (fun b => raise (if b then inc (powerFault (wr (inc (gatePull s n) SLOT_TRIPS n) PWD_SLOT_STATUS_LAST_FAST n 1) n) SLOT_FAST n
          else powerFault (wr (inc (gatePull s n) SLOT_TRIPS n) PWD_SLOT_STATUS_LAST_FAST n 0) n) (0x700 + 5 * n.val) n) → ∀ v : State → State,
        v = (fun s => if rd s PWD_SLOT_STATUS_RETRIES_LEFT n ≠ 0 then
            slotTo (wr s PWD_SLOT_STATUS_RETRIES_LEFT n (rd s PWD_SLOT_STATUS_RETRIES_LEFT n - 1)) n 4
          else raise (wr (slotTo s n 5) PWD_SLOT_CTL_ON n 0) (0x700 + 5 * n.val + 1) n) →
        exec (.slotTimerTrip n) s = .next (v (u false)) ∧ exec (.slotFastTrip n) s = .next (v (u true)))
      ∧ (slotDriven s n = false → exec (.slotTimerTrip n) s = .next s ∧ exec (.slotFastTrip n) s = .next s)
      ∧ (slotState s n = 4 → busUv s = false → exec (.slotCoolEnd n) s = .next (emit (slotTo s n 1) (.pin "SLOT_GATE" n true)))
      ∧ (slotState s n = 4 → busUv s = true → exec (.slotCoolEnd n) s
          = .next { s with pwr := { s.pwr with cooled := n.val :: s.pwr.cooled.filter (· != n.val) } })
      ∧ (slotState s n = 1 → ∀ u, u = gatePull s n → exec (.slotFetFault n 0) s = .next (raise (wr (powerFault (wr (slotTo
          { u with pwr := { u.pwr with cooled := u.pwr.cooled.filter (· != n.val) } } n 6) PWD_SLOT_CTL_ON n 0) n)
          PWD_SLOT_STATUS_FET n (0 + 1)) (0x700 + 5 * n.val + 2 + 0) n))
      ∧ (slotState s n = 0 ∨ slotState s n = 4 ∨ slotState s n = 5 → slotDriven s n = false → exec (.slotFetFault n 2) s = .next (raise (wr (powerFault (wr (slotTo
          { s with pwr := { s.pwr with cooled := s.pwr.cooled.filter (· != n.val) } } n 6) PWD_SLOT_CTL_ON n 0) n)
          PWD_SLOT_STATUS_FET n (2 + 1)) (0x700 + 5 * n.val + 2 + 2) n)))
    ∧ (∀ (s u : State) (m : Master) (n : Fin 16), taken s m (PWD_SLOT_CTL_CLR_FET.off + 0x20 * n.val) → u = acked s m → u.pwr.on = true →
      (slotState u n = 6 → exec (.slotClrFet m n) s = .next (wr (slotTo u n 0) PWD_SLOT_STATUS_FET n 0))
      ∧ (slotState u n ≠ 6 → exec (.slotClrFet m n) s = .next u))
    ∧ (∀ s : State, s.pwr.on = true →
      exec .busUndervoltage s = .next (forEach (List.range 16) (wr s PWD_FEED_STATUS_UVLO 0 1)
        (fun s n => if slotDriven s n then slotTo (gatePull s n) n 0 else s))
      ∧ (busUv s = true → ∀ u, u = wr s PWD_FEED_STATUS_UVLO 0 0 →
        exec .busUvRecovered s = .next (forEach (List.range 16) { u with pwr := { u.pwr with cooled := [] } } (fun t n =>
          if slotState t n == 0 && bit t PWD_SLOT_CTL_ON n then slotRamp t n true
          else if slotState t n == 4 && s.pwr.cooled.contains n then slotRamp t n false else t)))))

/-- The reliable link. ACK_SEQ in the window releases what it covers, one outside is counted (R288); a NAK releases and replays from the stitch
it names, and one that names the same while REPLAYING does not begin anew (R289); the timers send an ACK or NAK, replay what is held, and
past REPLAY_MAX take the link down with cause 3 (R287, R289, R309); credits add to what may be sent, at most 4,095, and what the receiver
freed returns (R290, R293, R294); AUDIT exchanges the counts and verifies a pair (R296, R313); a link that leaks low asks for a retrain
(R297); a delay measurement that is answered sets LINK_DELAY, one that is not is counted (R298); fillers come and go uncounted but where one
is deleted (R274, R275). Where it rests on the model's choices it follows assumptions 82, 81, 108, 139. -/
def Obligations.LinkReliability : Prop :=
  (∀ (s u : State) (p : Fin 64) (a : BitVec 16) (d : Nat), striped s p = true → inBlockReset s 9 = false → u = slotIn s p →
    d = seqDist a.toNat (rd u WLT_OLDEST_O p) →
    (d < seqDist (rd u WLT_SEQ_N p) (rd u WLT_OLDEST_O p) →
      exec (.ackReceive p a) s = .next (tlUpd (releaseHeld u p (d + 1)) p (fun t => { t with tries := 0 })))
    ∧ (seqDist (rd u WLT_SEQ_N p) (rd u WLT_OLDEST_O p) ≤ d → d ≠ 65535 → exec (.ackReceive p a) s = .next (inc u ACK_OOW p))
    ∧ (∀ r, rd (inc u NAK_RX p) WLT_SEQ_N p = rd u WLT_SEQ_N p →
      (d ≤ seqDist (rd u WLT_SEQ_N p) (rd u WLT_OLDEST_O p) → a.toNat % 65536 ≠ rd (releaseHeld (inc u NAK_RX p) p d) WLT_SEQ_N p → (tlAt (inc u NAK_RX p) p).replayAt = none →
        exec (.nakReceive p a r) s = .next (replay (releaseHeld (inc u NAK_RX p) p d) p (a.toNat % 65536)))
      ∧ (d ≤ seqDist (rd u WLT_SEQ_N p) (rd u WLT_OLDEST_O p) → (∀ x y, (tlAt (inc u NAK_RX p) p).replayAt = some (x, y) → x = a.toNat % 65536) →
        (tlAt (inc u NAK_RX p) p).replayAt.isSome = true → (tlAt (releaseHeld (inc u NAK_RX p) p d) p).replayAt.isSome = true →
        exec (.nakReceive p a r) s = .next (releaseHeld (inc u NAK_RX p) p d))
      ∧ (seqDist (rd u WLT_SEQ_N p) (rd u WLT_OLDEST_O p) < d → exec (.nakReceive p a r) s = .next (inc (inc u NAK_RX p) ACK_OOW p))))
  ∧ (∀ (s : State) (p : Fin 64), striped s p = true →
    ((tlAt s p).uncovered = true → exec (.ackTimer p) s = .next (ackOut s p))
    ∧ (bit s WLT_STATUS_RECOVER p = true → exec (.nakTimerExpiry p) s = .next (nakOut s p (tlAt s p).nakWhy))
    ∧ ((tlAt s p).flights ≠ [] → (tlAt s p).resume = false → (tlAt s p).replayAt = none →
      (rd s WLT_CTL_REPLAY_MAX p ≤ (tlAt s p).tries →
        exec (.replayTimerExpiry p) s = .next (linkDown s p 3 (bit s PRT_STATUS_PARTNER p) true))
      ∧ ((tlAt s p).tries < rd s WLT_CTL_REPLAY_MAX p →
        exec (.replayTimerExpiry p) s = .next (replay (tlUpd s p (fun t => { t with tries := t.tries + 1 })) p (rd s WLT_OLDEST_O p))))
    ∧ ((∀ v, v < 8 → nget s.shk.freed (p.val * 8 + v) 0 = 0) → exec (.creditTimer p) s = .next s)
    ∧ (∀ n : Nat → Nat, n = (fun v => min 65535 (nget s.shk.freed (p.val * 8 + v) 0)) → n 0 ≠ 0 →
      exec (.creditTimer p) s = .next (stitchOut (forEach (List.range 8) s (fun s v =>
        tlUpd { s with shk := { s.shk with freed := nset 0 s.shk.freed (p.val * 8 + v) (nget s.shk.freed (p.val * 8 + v) 0 - n v) } } p
          (fun t => { t with cum := nset 0 t.cum v ((nget t.cum v 0 + n v) % 2 ^ 32) }))) p 7 0 ((List.range 8).flatMap (fun v => leBytes 2 (n v)))))
    ∧ (pairOf s p = none → exec (.auditTimer p) s = .next (ctlOut s p 0x32 0
        ((List.range 8).flatMap (fun v => leBytes 4 (nget (tlAt s p).cum v 0)) ++ [0])))
    ∧ exec (.delayMeasureTimer p) s = .next (delayStart s p)
    ∧ exec (.fillerDue p) s = .next (stitchOut s p 0 0 [])
    ∧ (bit s WLT_STATUS_LEAK_LOW p = true → running s = true → (tlAt s p).req = none → mateUp s p = none →
      exec (.creditRetrainStart p) s = .next (request s p 0x10 0)))
  ∧ (∀ (s u : State) (p : Fin 64), striped s p = true → inBlockReset s 9 = false → u = slotIn s p →
    (∀ c : BitVec 16, exec (.creditReceive p [c]) s = .next (tlUpd (wr u WLT_VL_STAT_AVAIL (p * 8 + 0)
      (min 4095 (rd u WLT_VL_STAT_AVAIL (p * 8 + 0) + c.toNat))) p (fun t => { t with recvd := nset 0 t.recvd 0 ((nget t.recvd 0 0 + c.toNat) % 2 ^ 32) })))
    ∧ (∀ l mate b, exec (.auditReceive p l mate b) s = .next (pairVerify (auditLeak u p (l.map (·.toNat))) p mate.toNat b))
    ∧ (∀ id t1, exec (.delayReqReceive p id t1) s = .next (ctlOut u p 0x31 id.toNat
        (leBytes 8 (devTime u * 1000 % 2 ^ 64) ++ leBytes 8 (devTime u * 1000 % 2 ^ 64))))
    ∧ (∀ (id : BitVec 8) (t1 : Nat) (t2 t3 : BitVec 64), (tlAt u p).delay = some (id.toNat, t1) → ∃ d,
      exec (.delayRespReceive p id t2 t3) s = .next (delayRefresh (wr (tlUpd u p (fun t => { t with delay := none })) WLT_LINK_DELAY p d) p))
    ∧ exec (.fillerReceive p false false) s = .next u ∧ exec (.fillerReceive p true false) s = .next (inc u FILLER_DEL p)
    ∧ exec (.fillerReceive p true true) s = .next (raise (inc (slotsIn s p 1) EB_FAULT p) 0x480 p))
  ∧ (∀ (s : State) (p : Fin 64), (tlAt s p).delay.isSome = true →
    exec (.delayRespTimeout p) s = .next (inc (tlUpd s p (fun t => { t with delay := none })) DELAY_MISS p))

/-- Exchanges of the link. A request repeats four times and then fails, counted (R299); a retrain asked for is acknowledged and begins (R300); a
spare takes a failing lane's place and GO makes the end that began ask for what was lost (R303); a width exchange narrows the port (R307); a
lane that loses lock is counted and gets the spare, or T_LL runs until it is back (R281, R308); what the partner's RESUME says is kept and
sent again (R311); pairs are declared and undone (R313, R321), and flows return (R318). Where it rests on the model's choices it follows
assumptions 80, 83, 162, 163. -/
def Obligations.LinkExchanges : Prop :=
  (∀ (s : State) (p : Fin 64) (sub arg n : Nat), striped s p = true → (tlAt s p).req = some (sub, arg, n) →
    (n < 4 → exec (.controlRequestRepeat p) s
      = .next (tlUpd (if sub = 0x15 then sideOut s p sub arg else ctlOut s p sub arg []) p (fun t => { t with req := some (sub, arg, n + 1) })))
    ∧ (4 ≤ n → ∀ u, u = reqDone (inc s CTL_FAIL p) p →
      (sub = 0x15 → exec (.controlRequestRepeat p) s = .next (tllStart u p))
      ∧ (sub = 0x10 → exec (.controlRequestRepeat p) s = .next (wr u WLT_STATUS_LEAK_LOW p 0))
      ∧ (sub = 0x12 → exec (.controlRequestRepeat p) s = .next u)))
  ∧ (∀ (s u : State) (p : Fin 64), striped s p = true → inBlockReset s 9 = false → u = slotIn s p →
    (∀ f, yields u p 0x10 = true → exec (.retrainReqReceive p f) s = .next (retrainGo (ctlOut u p 0x11 (if f then 1 else 0) []) p f))
    ∧ (∀ f a n, (tlAt u p).req = some (0x10, a, n) → exec (.retrainAckReceive p f) s = .next (retrainGo (reqDone u p) p f))
    ∧ (∀ (l : BitVec 3) (w : BitVec 2), yields u p 0x12 = true → w.toNat ≤ 1 → exec (.widthReqReceive p l w) s
        = .next (narrow (ctlOut (ctlOut (reqDone u p) p 0x13 (widthArg l.toNat w.toNat) []) p 0x14 (widthArg l.toNat w.toNat) []) p l.toNat w.toNat))
    ∧ (∀ (l : BitVec 3) (w : BitVec 2) (n : Nat), (tlAt u p).req = some (0x12, widthArg l.toNat w.toNat, n) → exec (.widthAckReceive p l w) s
        = .next (narrow (reqDone (ctlOut u p 0x14 (widthArg l.toNat w.toNat) []) p) p l.toNat w.toNat))
    ∧ (∀ (l : BitVec 3) (w : BitVec 2),
      (widthOf (tlAt u p).rxw ≤ widthOf w.toNat → exec (.widthGoReceive p l w) s = .next u)
      ∧ (widthOf w.toNat < widthOf (tlAt u p).rxw → exec (.widthGoReceive p l w) s = .next (tlUpd u p (fun t => { t with
          rxw := w.toNat, rxLanes := (keptLanes w.toNat l.toNat).filterMap (fun g => t.rxLanes[g]?) }))))
    ∧ (∀ a b c n l, (tlAt u p).same = true → exec (.resumeReceive p a b c n l) s = .next (resumeTake u p a b c n.toNat (l.map (·.toNat)))))
  ∧ (∀ (s u : State) (p : Fin 64), striped s p = true → inBlockReset s 9 = false → u = sideIn s p →
    (∀ l : BitVec 3, (tlAt u p).req = none → spareFree u p = true → yields u p 0x15 = true →
      exec (.spareReqReceive p l) s
        = .next (spareSwap (sideOut (sideOut (reqDone u p) p 0x16 l.toNat) p 0x17 l.toNat) p l.toNat))
    ∧ (∀ (l : BitVec 3) (n : Nat), (tlAt u p).req = some (0x15, l.toNat, n) → exec (.spareAckReceive p l) s
        = .next (spareSwap (tlUpd (reqDone (sideOut u p 0x17 l.toNat) p) p (fun t => { t with spareGo := true })) p l.toNat))
    ∧ (∀ l : BitVec 3, rd u WLT_STATUS_SPARE p = 2 → rd u WLT_STATUS_SPARE_FOR p = l.toNat → ∀ (n : Nat) (v : State), spareLane u p = some n →
      v = tlUpd u p (fun t => { t with rxLanes := t.rxLanes.set l.toNat n, sbRx := [] }) →
      ((tlAt v p).spareGo = true → exec (.spareGoReceive p l) s = .next (nakOut (tlUpd v p (fun t => { t with spareGo := false })) p 2))
      ∧ ((tlAt v p).spareGo = false → exec (.spareGoReceive p l) s = .next v)))
  ∧ (∀ (s : State) (p : Fin 64), striped s p = true →
    ((tlAt s p).resume = true → exec (.resumeRepeatTimer p) s = .next (resumeOut s p))
    ∧ (∀ (u : State) (o : Option Nat), u = tlSet s p { tlAt s p with corr := [] } →
      o = (List.range (widthOf (rd s PRT_STATUS_CUR_WIDTH p))).find? (fun l => decide (rd s WLT_CTL2_CORR_MAX p < nget (tlAt s p).corr l 0)) →
      (o = none → exec (.corrWindowExpiry p) s = .next u)
      ∧ (∀ l, o = some l → (tlAt s p).req = none → (spareFree u p = true → exec (.corrWindowExpiry p) s = .next (request u p 0x15 l))
        ∧ (spareFree u p = false → bit u WLT_CTL_WIDTH_EN p = true → 0 < rd s PRT_STATUS_CUR_WIDTH p → rd s PRT_STATUS_CUR_WIDTH p ≤ 2 →
          exec (.corrWindowExpiry p) s = .next (request u p 0x12 (widthArg l (rd s PRT_STATUS_CUR_WIDTH p - 1)))))))
  ∧ (∀ (s u : State) (p : Fin 64) (l : Fin 5) (n : Nat), isTlink s p = true → laneAt s p l = some n → u = wr (inc s LAN_LOCK_LOSS n) LAN_STATUS_LOCK n 0 →
    (tstate u p = tCONFIG ∨ tstate u p = tLOCK → exec (.laneLockLoss p l) s = .next (laneRestart u p l))
    ∧ (tstate u p ≠ tCONFIG → tstate u p ≠ tLOCK → striped u p = false → exec (.laneLockLoss p l) s = .next u)
    ∧ (tstate u p ≠ tCONFIG → tstate u p ≠ tLOCK → striped u p = true →
      (l.val = 4 → rd u WLT_STATUS_SPARE p = 1 → exec (.laneLockLoss p l) s = .next (raise (wr u WLT_STATUS_SPARE p 3) 0x489 p))
      ∧ (l.val < 4 → (rd u WLT_STATUS_OUT_LANES p).testBit l.val = false → ∀ v, v = tlUpd u p (fun t => { t with lost := l.val :: t.lost.filter (· != l.val) }) →
        (spareFree v p = true → (tlAt v p).req = none → exec (.laneLockLoss p l) s = .next (request v p 0x15 l))
        ∧ (spareFree v p = false → exec (.laneLockLoss p l) s = .next (tllStart v p))))
    ∧ exec (.laneLockRegain p l) s = .next (tlUpd (wr s LAN_STATUS_LOCK n 1) p (fun t =>
        { t with lost := t.lost.filter (· != l.val), tll := t.tll && !(t.lost.filter (· != l.val)).isEmpty })))
  ∧ (∀ (s u : State) (m : Master) (k : Fin 32) (a b : Nat), taken s m (WLT_PAIR_CTL_EN.off + 0x20 * k.val) → u = acked s m →
    a = rd u WLT_PAIR_CTL_PORT_A k → b = rd u WLT_PAIR_CTL_PORT_B k →
    (bit u WLT_PAIR_CTL_EN k = true ∨ a = b ∨ isTlink u a = false ∨ isTlink u b = false → exec (.pairEnable m k) s = .next u)
    ∧ (bit u WLT_PAIR_CTL_EN k = false → a ≠ b → isTlink u a = true → isTlink u b = true → pairOf u a = none → pairOf u b = none →
      exec (.pairEnable m k) s = .next (pairUps (wr (wr u WLT_PAIR_CTL_EN k 1) WLT_PAIR_STATUS_STATE k 1) a))
    ∧ (∃ x, exec (.pairDisable m k) s = .next (wr (wr { wr (wr (wr u WLT_PAIR_CTL_EN k 0) WLT_PAIR_STATUS_STATE k 0) WLT_PAIR_STATUS_DEV_ID k 0
        with prt := x } WLT_PAIR_STATUS_UP_A k 0) WLT_PAIR_STATUS_UP_B k 0)))
  ∧ (∀ (s : State) (k : Fin 32) (c : Fin 8), exec (.pairFlowReturn k c) s = .next { s with prt := { s.prt with
      stay := s.prt.stay.filter (fun e => e != rd s WLT_PAIR_CTL_PORT_A k * 8 + c.val && e != rd s WLT_PAIR_CTL_PORT_B k * 8 + c.val) } })

/-- Training and rates. A training stitch is read off its lane, and the lane sends the next one in answer (assumption 164); one that cannot be
read, or whose number fits no lane, is counted and the lane starts over (R277, R278), a mirrored one sets RX_INV (R269); LOCK or CONFIG that
lasts too long fails the training, a fast one falls back to a full one (R276, R278); RATE_REQ and RATE_ACK agree on the lower code and PAUSE
begins (R279); after PAUSE, EQ; EQ that lasts too long falls to the next lower code, at the lowest to a full training (R280); SOAK passed
settles the rate. A data stitch passes its checks and acts; one that overflows the retiming buffer is lost (R273, R275, R286). Where it
rests on the model's choices it follows assumptions 77, 78, 79, 107, 164, 161, 108. -/
def Obligations.TrainingAndRates : Prop :=
  (∀ (s u : State) (p : Fin 64) (l : Fin 5) (lv : List (Fin 4)) (eq : EqReport) (n : Nat) (r : State × (Bool → Bytes)), training s p = true → inBlockReset s 1 = false →
    (lanesOf s p)[l.val]? = some n → laneBad s n = false → r = trainLane (laneHeard s p n) p n (lv.map (·.val)) →
    u = trainTake (trainFixed r.1 p n (r.2 false)) p n l (r.2 false) (r.2 true) eq →
    (training u p = true → exec (.trainingStitchReceive p l lv eq) s = .next (trainOut u p n))
    ∧ (training u p = false → exec (.trainingStitchReceive p l lv eq) s = .next u))
  ∧ (∀ (s : State) (p n l g : Nat) (raw mirrored : Bytes) (eq : EqReport), g = rd s LAN_STATUS_LOGICAL n →
    (trainRead raw = none → (hasMarker raw = true ∨ hasMarker mirrored = false) →
      trainTake s p n l raw mirrored eq = laneRestart (inc s TS_BAD p) p g)
    ∧ (trainRead raw = none → hasMarker raw = false → hasMarker mirrored = true →
      trainTake s p n l raw mirrored eq = wr (laneRestart (inc s TS_BAD p) p g) LAN_STATUS_RX_INV n 1)
    ∧ (∀ x, trainRead raw = some x → x.logical = g → trainTake s p n l raw mirrored eq = trainGood s p n g x eq)
    ∧ (∀ x, trainRead raw = some x → x.logical ≠ g → x.logical ≠ revLogical s p l →
      trainTake s p n l raw mirrored eq = laneRestart (inc s TS_BAD p) p g))
  ∧ (∀ (s : State) (p : Fin 64), isTlink s p = true →
    (tstate s p = tLOCK → exec (.trainingLockTimeout p) s = .next (tlTrainFail s p))
    ∧ (tstate s p = tCONFIG → (tlAt s p).fast = true → exec (.trainingConfigTimeout p) s = .next (fastFail s p false))
    ∧ (tstate s p = tCONFIG → (tlAt s p).fast = false → exec (.trainingConfigTimeout p) s = .next (tlTrainFail s p))
    ∧ (tstate s p = tEQ → exec (.eqTimeout p) s = .next (attemptFail s p))
    ∧ (tstate s p = tSOAK → exec (.soakPass p) s = .next (settle (tstateSet s p tRUN) p (tlAt s p).code (tlAt s p).target))
    ∧ (tstate s p = tPAUSE → ∀ u, u = tlUpd (tstateSet s p tEQ) p (fun t => { t with
        ts1 := [], ts2 := [], after := 0, sendTs2 := false, eqP := []
        eDown := rd s WLT_SEQ_E p, oDown := rd s WLT_OLDEST_O p, noReplay := false, fast := false }) →
      exec (.ratePauseEnd p) s = .next (trainOuts (forEach (lanesOf u p) (wr u TL_PHY_STATUS_RX_OK p 0) (fun s l => wr s TLN_EQ_EQ_DONE l 0)) p))
    ∧ (tstate s p ≠ tLOCK → exec (.trainingLockTimeout p) s = .next s))
  ∧ (∀ (s u v : State) (p : Fin 64) (k : BitVec 4) (t c : Nat), striped s p = true → inBlockReset s 9 = false →
    u = slotIn s p → striped u p = true → tstate u p = tRUN → inBlockReset u 1 = false → running u = true → bit u PRT_STATUS_STEP_DONE p = false →
    yields u p 0x20 = true → t = targetRate u p (rd u TL_PARTNER_MAX_RATE p) → c = max 1 (min k.toNat t) →
    v = tlUpd (ctlOut u p 0x21 c []) p (fun x => { x with target := t }) →
    (c ≤ rd v PRT_STATUS_RATE p → exec (.rateReqReceive p k) s = .next (settle (reqDone v p) p (rd v PRT_STATUS_RATE p) t))
    ∧ (rd v PRT_STATUS_RATE p < c → exec (.rateReqReceive p k) s = .next (pauseAt v p c)))
  ∧ (∀ (s u : State) (p : Fin 64) (k : BitVec 4) (a n : Nat), striped s p = true → inBlockReset s 9 = false → u = slotIn s p → striped u p = true →
    (tlAt u p).req = some (0x20, a, n) →
    (rd u PRT_STATUS_RATE p < k.toNat → exec (.rateAckReceive p k) s = .next (pauseAt u p k.toNat))
    ∧ (k.toNat ≤ rd u PRT_STATUS_RATE p →
      exec (.rateAckReceive p k) s = .next (settle (reqDone u p) p (rd u PRT_STATUS_RATE p) (tlAt u p).target)))
  ∧ (∀ (s : State) (p : Fin 64), 1 < (tlAt s p).code → attemptFail s p = pauseAt (inc s RATE_FALL p) p ((tlAt s p).code - 1))
  ∧ (∀ (s : State) (p : Fin 64) (lv af : List (List (Fin 4))),
    (striped s p = false ∨ inBlockReset s 9 = true → ∀ b, exec (.dataStitchReceive p lv af b) s = .next s)
    ∧ (striped s p = true → inBlockReset s 9 = false → ∀ (r : State × Bytes × Bool) (u : Bool → State),
      r = slotRead s p (lv.map (·.map (·.val))) (af.map (·.map (·.val))) →
      u true = raise (inc r.1 EB_FAULT p) 0x480 p → u false = stitchArrive r.1 p r.2.1 r.2.2 → ∀ b,
      (striped (u b) p = true → exec (.dataStitchReceive p lv af b) s = .next (sideTake (u b) p))
      ∧ (striped (u b) p = false → exec (.dataStitchReceive p lv af b) s = .next (u b))))
  ∧ (∀ (s t : State) (p : Nat) (raw fixedBytes : Bytes) (fixed : List Nat) (x : Stitch), fecScan raw = (fixedBytes, fixed, false) →
    corrected s p fixed = t → soakOver t p = false → stitchRead raw (rd t WLT_SEQ_E p) = .ok x → stitchArrive s p raw false = stitchGood t p x)
  ∧ (∀ (s : State) (p : Nat) (raw fixedBytes : Bytes) (fixed : List Nat), fecScan raw = (fixedBytes, fixed, true) →
    stitchArrive s p raw false = stitchBad (inc (corrected s p fixed) FEC_UNCORR p) p)

/-- Images, clusters, engines and mailboxes. Staging writes clear VERIFIED, and a check that runs ends CHANGED; VERIFY ends with the first
failure of R399 and its source, or VERIFIED; INSTALL without VERIFIED answers RESULT 7, else copies into EMPTY and FENCED clusters, which
become READY (R399, R400). SWAP names the sibling and what forbids it (R402); a drained cluster loads, and loaded it runs (R402, R403);
RESTORE needs VERIFIED, RECLAIM returns work; a hand-off makes the target serve the work, or leaves it unserved (R401, R404). A watchdog is
reported and a fenced engine restored (R405); a mailbox request opens once, is answered with its words, and cleared by ACK (R407). Where it
rests on the model's choices it follows assumptions 111, 112, 113, 114, 118. -/
def Obligations.ImagesAndClusters : Prop :=
  (∀ (s u : State) (m : Master) (off : BitVec 21) (d : Bytes), taken s m (0x4000000 + off.toNat) → u = acked s m → d ≠ [] →
    exec (.stagingWrite m off d) s = .next { wr u CKR_IMG_STATUS_VERIFIED 0 0 with ckr := { u.ckr with
      stg := cputs u.ckr.stg off.toNat (d.take (0x200000 - off.toNat)), changed := u.ckr.changed || u.ckr.verifying } })
  ∧ (∀ (s u : State) (m : Master), taken s m CKR_IMG_CMD_VERIFY.off → u = acked s m →
    (bit u CKR_IMG_STATUS_BUSY = true → exec (.imageVerify m) s = .next u)
    ∧ (bit u CKR_IMG_STATUS_BUSY = false → exec (.imageVerify m) s
      = .next { wr u CKR_IMG_STATUS_BUSY 0 1 with ckr := { u.ckr with verifying := true, changed := false } }))
  ∧ (∀ (s : State) (r : Nat), s.ckr.verifying = true → r = (if s.ckr.changed then 6 else imageCheck s) → ∀ u,
    u = { wr (wr s CKR_IMG_STATUS_BUSY 0 0) CKR_IMG_STATUS_RESULT 0 r with ckr := { s.ckr with verifying := false, changed := false } } →
    (r = 0 → exec .imageVerifyDone s = .next (wr (wr u CKR_IMG_VERSION 0 (stgWord u 8)) CKR_IMG_STATUS_VERIFIED 0 1))
    ∧ (r = 6 → exec .imageVerifyDone s = .next (wr u CKR_IMG_STATUS_VERIFIED 0 0))
    ∧ (r ≠ 0 → r ≠ 6 → exec .imageVerifyDone s = .next (raise (wr u CKR_IMG_STATUS_VERIFIED 0 0) 0x478)))
  ∧ (∀ (s u v : State) (m : Master) (mask : BitVec 8), taken s m CKR_IMG_CMD_INSTALL.off → u = wr (acked s m) CKR_IMG_CMD_MASK 0 mask.toNat →
    bit u CKR_IMG_STATUS_BUSY = false →
    (bit u CKR_IMG_STATUS_VERIFIED = false → exec (.imageInstall m mask) s = .next (wr u CKR_IMG_STATUS_RESULT 0 7))
    ∧ (bit u CKR_IMG_STATUS_VERIFIED = true → ∀ w, v = wr (wr u CKR_IMG_STATUS_BUSY 0 1) CKR_IMG_STATUS_RESULT 0 0 →
      w = forEach (installable v (rd u CKR_IMG_CMD_MASK)) v imageCopy →
      exec (.imageInstall m mask) s = .next { w with ckr := { w.ckr with installing := some (rd u CKR_IMG_CMD_MASK) } }))
  ∧ (∀ (s u : State) (mask : Nat), s.ckr.installing = some mask → u = { wr s CKR_IMG_STATUS_BUSY 0 0 with ckr := { s.ckr with installing := none } } →
    exec .imageInstallDone s = .next (forEach (installable u mask) u (fun s k =>
      if cluState s k == 5 then cluUnfence (cluTo (enginesHeld s k) k 1) k else cluTo (enginesHeld s k) k 1)))
  ∧ (∀ (s u : State) (m : Master) (k : Fin 8), taken s m (CKR_CLU_CMD_SWAP.off + 0x20 * k.val) → u = acked s m →
    (cluState u k ≠ 2 → exec (.clusterSwap m k) s = .next u)
    ∧ (cluState u k = 2 → swapResult u k ≠ 0 → exec (.clusterSwap m k) s = .next (wr u CKR_CLU_CMD_RESULT k (swapResult u k)))
    ∧ (cluState u k = 2 → swapResult u k = 0 → ∀ v l, v = wr u CKR_CLU_CMD_RESULT k 0 →
      l = (List.range 8).filter (fun j => rd v CKR_CLU_STATUS_SERVING j == k.val) →
      exec (.clusterSwap m k) s = .next (forEach l (cluStops (cluTo (forEach l v jobsStay) k 3) k)
        (fun s j => if j = k.val then handGo s k (rd s CKR_CLU_CTL_SIB k) else handGo s j j))))
  ∧ (∀ (s : State) (k : Fin 8), cluState s k = 3 → (jobsOn s k = [] → s.rng.tags = [] → exec (.clusterDrainEnd k false) s = .next (cluLoading s k))
    ∧ exec (.clusterDrainEnd k true) s = .next (cluLoading (tagsCut (forEach (jobsOn s k) s (fun s e => jobAgain s e.1 e.2)) k) k))
  ∧ (∀ (s : State) (k : Fin 8), cluState s k = 4 → s.ckr.reset.contains k.val = false → exec (.clusterLoadDone k) s = .next (cluRuns s k))
  ∧ (∀ (s u : State) (m : Master) (k : Fin 8), taken s m (CKR_CLU_CMD_RESTORE.off + 0x20 * k.val) → u = acked s m →
    (cluState u k ≠ 5 → exec (.clusterRestore m k) s = .next u)
    ∧ (cluState u k = 5 → bit u CKR_IMG_STATUS_VERIFIED = false → exec (.clusterRestore m k) s = .next (wr u CKR_CLU_CMD_RESULT k 2))
    ∧ (cluState u k = 5 → bit u CKR_IMG_STATUS_VERIFIED = true →
      exec (.clusterRestore m k) s = .next (cluUnfence (wr (cluLoading (enginesHeld u k) k) CKR_CLU_CMD_RESULT k 0) k)))
  ∧ (∀ (s u : State) (m : Master) (k : Fin 8), taken s m (CKR_CLU_CMD_RECLAIM.off + 0x20 * k.val) → u = acked s m →
    (cluState u k = 2 → rd u CKR_CLU_STATUS_SERVING k ≠ k.val →
      exec (.clusterReclaim m k) s = .next (wr (handGo u k k) CKR_CLU_CMD_RESULT k 0))
    ∧ (cluState u k ≠ 2 → exec (.clusterReclaim m k) s = .next u))
  ∧ (∀ (s : State) (k : Fin 8) (t : Nat), nget? s.ckr.hand k = some t →
    (cluState s t = 2 → ∀ u, u = jobsStay s k → exec (.workHandoffDone k) s = .next (pumpAll (wr (wr { u with
      ckr := { u.ckr with hand := ndel u.ckr.hand k } } CKR_CLU_STATUS_SERVING k t) CKR_CLU_STATUS_UNSERVED k 0)))
    ∧ (cluState s t ≠ 2 → exec (.workHandoffDone k) s = .next (handGo s k t)))
  ∧ (∀ (s : State) (k t : Nat), cluState s t ≠ 2 →
    handGo s k t = raise (wr { s with ckr := { s.ckr with hand := ndel s.ckr.hand k } } CKR_CLU_STATUS_UNSERVED k 1) 0x479 k)
  ∧ (∀ (s : State) (e : Fin 96), (engState s e = 1 → exec (.engineWatchdog e) s = .next (raise (wr s CKR_ENG_STATUS_CAUSE e 3) (0x400 + e) e))
    ∧ (engState s e ≠ 1 → exec (.engineWatchdog e) s = .next s))
  ∧ (∀ (s u : State) (m : Master) (e : Fin 96), taken s m (CKR_ENG_CTL_RESTORE.off + 0x10 * e.val) → u = acked s m →
    (engState u e = 2 → cluState u (e.val / 12) = 2 → exec (.engineRestore m e true) s
      = .next (fenceFree (wr (wr u CKR_ENG_STATUS_STATE e 1) CKR_ENG_STATUS_CAUSE e 0) (fun x => x == 0x400 + e.val)))
    ∧ exec (.engineRestore m e false) s = .next u)
  ∧ (∀ (s u : State) (m : Master) (k : Fin 8), taken s m (CKR_MBX_CTL_REQ.off + 0x100 * k.val) → u = acked s m →
    (bit u CKR_MBX_CTL_REQ k = true → exec (.mailboxRequest m k) s = .next (wr u CKR_MBX_CTL_BUSY k 1))
    ∧ (bit u CKR_MBX_CTL_REQ k = false → ∀ v, v = wr (wr u CKR_MBX_CTL_REQ k 1) CKR_MBX_CTL_ABORT k 0 →
      (cluState v k = 2 → exec (.mailboxRequest m k) s = .next v)
      ∧ (cluState v k ≠ 2 → exec (.mailboxRequest m k) s = .next (wr (wr v CKR_MBX_CTL_ACK k 1) CKR_MBX_CTL_ABORT k 1)))
    ∧ (bit u CKR_MBX_CTL_ACK k = true → exec (.mailboxAckClear m k) s = .next (wr (wr u CKR_MBX_CTL_ACK k 0) CKR_MBX_CTL_REQ k 0))
    ∧ (bit u CKR_MBX_CTL_ACK k = false → exec (.mailboxAckClear m k) s = .next u))
  ∧ (∀ (s u : State) (k : Fin 8) (l : List (BitVec 32)), bit s CKR_MBX_CTL_REQ k = true → bit s CKR_MBX_CTL_ACK k = false → cluState s k = 2 →
    u = wr (forEach (List.range 16) s (fun s i => wr s CKR_MBX_RSP (k * 16 + i) (l.getD i 0).toNat)) CKR_MBX_CTL_ACK k 1 →
    (bit u CKR_MBX_CTL_IRQ_EN k = false → exec (.mailboxResponse k l) s = .next u)
    ∧ (bit u CKR_MBX_CTL_IRQ_EN k = true → exec (.mailboxResponse k l) s = .next (msixSignal u 16 (rd u CKR_MBX_VEC) 0 none)))

/-- A fault source asserts (R430 to R433, R441). What the detection itself does comes first: a failed gate entry holds the LAST mask (R133), an
uncorrectable AWT entry goes out of force. Where it is implemented, its pair is not broken and LIVE is 0, LIVE sets, COUNT counts the
change, STICKY sets with the time of its first change, and the charged partition of Table 17-2 is taken. An occurrence outside every shadow
is recorded and reacts; a shadowed one is recorded once per source and shadow. One that is LIVE changes nothing. LIVE clears with the rails,
unless a pair of the source is broken. Where it rests on the model's choices it follows assumptions 4, 146, 147, 124, 125, 123. -/
def Obligations.FaultOccurrences : Prop :=
  (∀ (s u v w x : State) (src : BitVec 12) (inst : BitVec 32) (pt : Option (Fin 16)) (c : Option Nat),
    u = detected { s with detect := s.detect.erase ⟨src.toNat, inst.toNat, pt.map (·.val)⟩ } src.toNat inst.toNat →
    ((sevImpl src.toNat = 0 ∨ pairBroken u src.toNat inst.toNat = true ∨ bit u FLT_SEV_LIVE src.toNat = true) →
      exec (.faultAssert src inst pt) s = .next u)
    ∧ (sevImpl src.toNat ≠ 0 → pairBroken u src.toNat inst.toNat = false → bit u FLT_SEV_LIVE src.toNat = false → src.toNat ≠ 0x601 →
      v = inc (wr u FLT_SEV_LIVE src.toNat 1) FLT_COUNT src.toNat →
      w = (if bit u FLT_SEV_STICKY src.toNat then v else fltStick v src.toNat) → c = charged w src.toNat inst.toNat (pt.map (·.val)) →
      x = wr (wrb w FLT_SEV_PT_V src.toNat c.isSome) FLT_SEV_PARTITION src.toNat (c.getD 0) →
      (shadowed x src.toNat = false → exec (.faultAssert src inst pt) s
        = .next (fltReact x src.toNat inst.toNat c (if bit u FLT_SEV_STICKY src.toNat then 2 else 1) (!bit u FLT_SEV_STICKY src.toNat) false))
      ∧ (shadowed x src.toNat = true → x.flt.once.contains src.toNat = false → ∀ y, y = { x with flt := { x.flt with once := src.toNat :: x.flt.once, due := x.flt.due.filter (fun d => d.1 != src.toNat) ++ [(src.toNat, inst.toNat, c)] } } →
        exec (.faultAssert src inst pt) s = .next (fltRecord y { src := src.toNat, kind := if bit u FLT_SEV_STICKY src.toNat then 2 else 1, shadow := true, prog := rd y FLT_SEV_SEV src.toNat, pt := c, before := mode y, after := mode y, inst := inst.toNat }))
      ∧ (shadowed x src.toNat = true → x.flt.once.contains src.toNat = true → bit u FLT_SEV_STICKY src.toNat = true →
        exec (.faultAssert src inst pt) s = .next { x with flt := { x.flt with due := x.flt.due.filter (fun d => d.1 != src.toNat) ++ [(src.toNat, inst.toNat, c)] } })))
  ∧ (∀ (s : State) (n inst : Nat), (n < 3 ∨ n = 7 ∨ n = 8 ∨ (9 ≤ n ∧ n < 0x185) ∨ (0x188 < n ∧ n < 0x191) ∨ (0x191 < n ∧ n < 0x300) ∨ (0x300 < n ∧ n < 0x48E) ∨ 0x48E < n) →
    detected s n inst = s)
  ∧ (∀ (s u : State) (p v i b : Nat), b = activeBank s p →
    (v % 2 = 1 → gateBad s p v = { s with gate := { s.gate with badEnt := entIdx p (1 - b) (v / 2 % 64) :: s.gate.badEnt } })
    ∧ (v % 2 = 0 → u = { s with gate := { s.gate with badEnt := entIdx p b (v / 2 % 64) :: s.gate.badEnt } } → lastEntry u p b = some i →
      gateBad s p v = wr { u with gate := { u.gate with latched := nput u.gate.latched p (rd u SHK_GATE_ENT_OPEN (entIdx p b i)) } } SHK_GATE_STATUS_VALID p 0))
  ∧ (∀ (s u : State) (i : Nat), bit s AWT_W0_VALID i = true →
      u = wr (if bit s AWT_W0_LOCK i then { s with awt := { s.awt with awlShut := true } } else s) AWT_W0_VALID i 0 →
      awtBad s i = wrb u AWT_STATUS_OVERLAP 0 (bit u AWT_STATUS_OVERLAP && anyConflict u))
  ∧ (∀ (s : State) (src : BitVec 12),
    ((∀ j ∈ s.flt.broken, fltPathSrc j ≠ src.toNat) → exec (.faultDeassert src) s = .next (wr s FLT_SEV_LIVE src.toNat 0))
    ∧ ((∃ j ∈ s.flt.broken, fltPathSrc j = src.toNat) → exec (.faultDeassert src) s = .next s))
  ∧ (∀ (s : State) (n : Nat), fltStick s n = (let u := wr (wr s FLT_SEV_STICKY n 1) FLT_TIME n (devTime s)
      if bit u FLT_FIRST_VALID then u else wr (wr (wr u FLT_FIRST_SRC 0 n) FLT_FIRST_VALID 0 1) FLT_FIRST_TIME 0 (devTime s)))
  ∧ (∀ (s : State) (j : Fin 1335), (s.flt.broken.contains j.val = true → exec (.railBroken j) s = .next s)
    ∧ (s.flt.broken.contains j.val = false → exec (.railBroken j) s
      = .next (occur (wr { s with flt := { s.flt with broken := j.val :: s.flt.broken } } FLT_SEV_PATH_BROKEN (fltPathSrc j) 1) (0x900 + j.val) (fltPathInst j) none (some 3) false)))
  ∧ (∀ (s u v w : State) (j : Fin 1335), (s.flt.broken.contains j.val = false → ∀ b, exec (.railRestored j b) s = .next s)
    ∧ (s.flt.broken.contains j.val = true → u = { s with flt := { s.flt with broken := s.flt.broken.filter (· != j.val) } } →
      v = wr (wrb u FLT_SEV_PATH_BROKEN (fltPathSrc j) (u.flt.broken.any (fun i => fltPathSrc i == fltPathSrc j))) FLT_SEV_LIVE (0x900 + j.val) 0 →
      w = fltRecord v { src := 0x900 + j.val, kind := 4, prog := rd v FLT_SEV_SEV (0x900 + j.val), before := mode v, after := mode v, inst := fltPathInst j } →
      sevImpl (fltPathSrc j) ≠ 0 →
      exec (.railRestored j false) s = .next (wr w FLT_SEV_LIVE (fltPathSrc j) 0)
      ∧ (bit w FLT_SEV_LIVE (fltPathSrc j) = true → exec (.railRestored j true) s = .next w)
      ∧ (bit w FLT_SEV_LIVE (fltPathSrc j) = false → exec (.railRestored j true) s = .next (occur w (fltPathSrc j) (fltPathInst j) none none false))))

/-- The severity that reacts; a reaction that is replaced raises source 0x605 (R436, R437, R442, R443): SEV, one above it within 10 ms after the
release of the block's BLOCK reset; the fourth BLOCK of one block within 1 s becomes FENCE; PART with no charged partition and BLOCK with no
target become FENCE, and FENCE with no target becomes SAFE. Where it rests on the model's choices it follows assumption 124. -/
def Obligations.SeverityApplied : Prop :=
  (∀ (s : State) (n inst k : Nat) (pt : Option Nat) (al inj : Bool), ∃ t : State,
    fltReact s n inst pt k al inj = if (appliedOf s n pt).rep then raise t 0x605 n else t)
  ∧ ∀ (s : State) (n : Nat) (pt : Option Nat) (p : Nat), p = (if n / 128 < 18 ∧ (rd s FLT_BLK_STATE (n / 128) = 2 ∨ rd s FLT_BLK_STATE (n / 128) = 3)
      then min 5 (rd s FLT_SEV_SEV n + 1) else rd s FLT_SEV_SEV n) →
    ((p = 0 ∨ p = 1 ∨ p = 5) → (appliedOf s n pt).sev = p ∧ (appliedOf s n pt).rep = false ∧ (appliedOf s n pt).lim = false)
    ∧ (p = 2 → (appliedOf s n pt).sev = (if fenceTarget n then 2 else 5) ∧ ((appliedOf s n pt).rep = true ↔ fenceTarget n = false))
    ∧ (p = 3 → blockTarget n = false → (appliedOf s n pt).sev = (if fenceTarget n then 2 else 5) ∧ (appliedOf s n pt).rep = true)
    ∧ (p = 3 → blockTarget n = true → inBlockReset s (n / 128) = false → wideReset s = false → 3 ≤ blkRecent s (n / 128) →
      (appliedOf s n pt).sev = (if fenceTarget n then 2 else 5) ∧ (appliedOf s n pt).lim = true)
    ∧ (p = 3 → blockTarget n = true → (inBlockReset s (n / 128) = true ∨ blkRecent s (n / 128) < 3) →
      (appliedOf s n pt).sev = 3 ∧ (appliedOf s n pt).rep = false ∧ (appliedOf s n pt).lim = false)
    ∧ (p = 4 → pt.isSome = true → (appliedOf s n pt).sev = 4 ∧ (appliedOf s n pt).rep = false)
    ∧ (p = 4 → pt = none → (appliedOf s n pt).sev = (if fenceTarget n then 2 else 5) ∧ (appliedOf s n pt).rep = true)
    ∧ ((appliedOf s n pt).esc = true ↔ n / 128 < 18 ∧ (rd s FLT_BLK_STATE (n / 128) = 2 ∨ rd s FLT_BLK_STATE (n / 128) = 3))

/-- The fault record ring (R447, R448): the record of number SEQ goes to slot SEQ mod 64 of retained memory with its CRC, SEQ counts on, and a
record over an unread one is counted in FLT_RING_LOST and raises the ring-overwrite source. -/
def Obligations.FaultRecordRing : Prop :=
  ∀ (s u : State) (r : FltRec) (q : Nat), s.wf = true → q = rd s FLT_RING_SEQ → u = fltRecord s r →
    (fltBody s r).length = 30
    ∧ u.flt.ret = cputs s.flt.ret (q % 64 * 32) (fltBody s r ++ leBytes 2 (crc16 (fltBody s r)))
    ∧ rd u FLT_RING_SEQ = (q + 1) % 65536
    ∧ ((q + 65536 - rd s FLT_RING_RD) % 65536 < 64 → u.detect = s.detect ∧ rd u FLT_RING_LOST = rd s FLT_RING_LOST)
    ∧ (64 ≤ (q + 65536 - rd s FLT_RING_RD) % 65536 → u.detect = s.detect ++ [⟨0x602, 0, none⟩]
      ∧ rd u FLT_RING_LOST = min (rd s FLT_RING_LOST + 1) (2 ^ 32 - 1))

/-- The collector's own commands. A 1 to STICKY clears STICKY and COUNT; of a LIVE source STICKY sets again with COUNT 1, FIRST at the time of
the write and a record of kind FIRST, and no reaction (R433); CLEAR_ALL does so for every source. RESTORE is refused with LIVE or NO_FENCE,
or lifts the fence (R438). The self-check sets or clears SELF_OK and raises 0x604 (R549); a read-back mismatch raises 0x603 (R450). FLT_INJ
acts in FACTORY only, on the source as KIND says, until its pulse ends (R457). Scrubbing changes no content (R453). What follows a BLOCK
reset (R439, R441, R442): its release is recorded with kind RELEASE, the shadow runs on, and what the reset held goes on; at the end of the
shadow the escalation window opens, and sources no shadow covers any more that are still LIVE react as if they had just asserted; at its end
the block is idle again. Where it rests on the model's choices it follows assumptions 126, 18, 128, 127, 31. -/
def Obligations.CollectorCommands : Prop :=
  ((∀ (s u : State) (m : Master) (src : BitVec 12), taken s m (FLT_SEV_STICKY.off + 16 * src.toNat) → u = acked s m → sevImpl src.toNat ≠ 0 →
      (bit u FLT_SEV_STICKY src.toNat = false → exec (.faultStickyClear m src) s = .next u)
      ∧ (bit u FLT_SEV_STICKY src.toNat = true → ∀ v w, v = wr (wr u FLT_SEV_STICKY src.toNat 0) FLT_COUNT src.toNat 0 →
        w = wr (fltStick v src.toNat) FLT_COUNT src.toNat 1 →
        (bit v FLT_SEV_LIVE src.toNat = false → exec (.faultStickyClear m src) s = .next v)
        ∧ (bit v FLT_SEV_LIVE src.toNat = true → exec (.faultStickyClear m src) s
          = .next (fltRecord w { src := src.toNat, kind := 1, applied := rd w FLT_SEV_APPLIED src.toNat, prog := rd w FLT_SEV_SEV src.toNat, pt := if bit w FLT_SEV_PT_V src.toNat then some (rd w FLT_SEV_PARTITION src.toNat) else none, before := mode w, after := mode w, inst := 0 }))))
    ∧ (∀ (s u : State) (m : Master), taken s m FLT_CMD_CLEAR_ALL.off → u = acked s m →
      exec (.faultClearAll m) s = .next (forEach (setIdx u FLT_SEV_STICKY) u stickyClear))
    ∧ (∀ (s u : State) (m : Master) (src : BitVec 12), taken s m FLT_CMD_RESTORE.off → u = wr (acked s m) FLT_CMD_SRC 0 src.toNat →
      (bit u FLT_SEV_LIVE src.toNat = true → exec (.faultRestore m src) s = .next (wr u FLT_CMD_RESULT 0 2))
      ∧ (bit u FLT_SEV_LIVE src.toNat = false → (bit u FLT_SEV_FENCED src.toNat = false ∨ src.toNat / 128 = 8 ∨ src.toNat / 128 = 11 ∨ src.toNat / 128 = 16) →
        exec (.faultRestore m src) s = .next (wr u FLT_CMD_RESULT 0 1))
      ∧ (bit u FLT_SEV_LIVE src.toNat = false → bit u FLT_SEV_FENCED src.toNat = true → (src.toNat / 128 = 1 ∨ src.toNat / 128 = 2 ∨ src.toNat / 128 = 4) →
        exec (.faultRestore m src) s = .next (fenceFree (wr u FLT_CMD_RESULT 0 0) (· == src.toNat))))
    ∧ (∀ s : State, exec (.collectorSelfCheck true) s = .next (wr s FLT_STATUS_SELF_OK 0 1)
      ∧ exec (.collectorSelfCheck false) s = .next (raise (wr s FLT_STATUS_SELF_OK 0 0) 0x604)
      ∧ exec .pairReadbackMismatch s = .next (raise s 0x603) ∧ exec .scrubPass s = .next s)
    ∧ (∀ (s u : State) (m : Master), taken s m FLT_INJ_GO.off → u = acked s m →
      (mode u ≠ 11 → exec (.faultInject m) s = .next u)
      ∧ (mode u = 11 → bit u FLT_INJ_GO = false → sevImpl (rd u FLT_INJ_SRC) ≠ 0 →
        ∀ v, v = { wr u FLT_INJ_GO 0 1 with flt := { u.flt with inj := some (rd u FLT_INJ_SRC, if bit u FLT_SEV_LIVE (rd u FLT_INJ_SRC) then 3 else rd u FLT_INJ_KIND) } } →
        (rd u FLT_INJ_KIND = 0 → pairBroken v (rd u FLT_INJ_SRC) 0 = false → bit u FLT_SEV_LIVE (rd u FLT_INJ_SRC) = false →
          exec (.faultInject m) s = .next (occur v (rd u FLT_INJ_SRC) 0 none none true))
        ∧ (rd u FLT_INJ_KIND = 2 → pairBroken v (rd u FLT_INJ_SRC) 0 = false → bit u FLT_SEV_LIVE (rd u FLT_INJ_SRC) = false →
          exec (.faultInject m) s = .next (wr (occur v (rd u FLT_INJ_SRC) 0 none none true) FLT_SEV_LIVE (rd u FLT_INJ_SRC) 0))
        ∧ (rd u FLT_INJ_KIND = 1 → ∀ j, (List.range 1335).find? (fun j => fltPathSrc j == rd u FLT_INJ_SRC) = some j →
          exec (.faultInject m) s = .next (railBreak v j true))))
    ∧ (∀ (s u : State) (n k : Nat), s.flt.inj = some (n, k) → u = { wr s FLT_INJ_GO 0 0 with flt := { s.flt with inj := none } } →
      (k ≠ 0 → exec .faultInjectEnd s = .next u)
      ∧ (k = 0 → s.flt.broken = [] → exec .faultInjectEnd s = .next (wr u FLT_SEV_LIVE n 0))))
  ∧ ((∀ (s u : State) (b : Fin 18) (x : Nat × Nat), rd s FLT_BLK_STATE b = 1 → x = nget s.flt.blkSrc b (0, 0) → u = waitEnd (wr s FLT_BLK_STATE b 2) (80 + b.val) →
      exec (.blockResetRelease b) s = .next (blockResume (fltRecord u { src := x.1, kind := 5, prog := rd u FLT_SEV_SEV x.1, before := mode u, after := mode u, inst := x.2 }) b))
    ∧ (∀ (s : State) (b : Fin 18), rd s FLT_BLK_STATE b ≠ 1 → exec (.blockResetRelease b) s = .next s)
    ∧ (∀ (s u v : State) (b : Fin 18) (l : List (Nat × Nat × Option Nat)), rd s FLT_BLK_STATE b = 2 → u = wr s FLT_BLK_STATE b 3 →
      l = u.flt.due.filter (fun d => !shadowed u d.1) →
      v = { u with flt := { u.flt with due := u.flt.due.filter (fun d => !l.contains d), once := u.flt.once.filter (fun n => !l.any (·.1 == n)) } } →
      exec (.shadowEnd b) s = .next (forEach l v (fun s d => if bit s FLT_SEV_LIVE d.1 then fltReact s d.1 d.2.1 d.2.2 2 false false else s)))
    ∧ (∀ (s : State) (b : Fin 18), (rd s FLT_BLK_STATE b = 3 → exec (.escalationWindowEnd b) s = .next (wr s FLT_BLK_STATE b 0))
      ∧ (rd s FLT_BLK_STATE b ≠ 3 → exec (.escalationWindowEnd b) s = .next s)
      ∧ (rd s FLT_BLK_STATE b ≠ 2 → exec (.shadowEnd b) s = .next s))
    ∧ (∀ (s : State) (n : Nat), shadowed s n = true ↔ (((bistRunning s).contains .lbist = true ∨ (bistRunning s).contains .mbist = true) ∧ bistCovers s n = true)
        ∨ ∃ b, b < 18 ∧ (rd s FLT_BLK_STATE b = 1 ∨ rd s FLT_BLK_STATE b = 2) ∧ (rd s FLT_DEP b).testBit (n / 128) = true))

/-- The hold-up test (R418 to R421, Table 16-1): a test that is due samples V0 and turns the sink on, or is skipped and counted; V1, and 2 ms
later V2, end it. A V0 at or below Vmin, or a drop above 80 mV, is not valid; a valid one gives C = 0.2 mC / ΔV, with ΔV at least 0.5 mV,
the energy, the budget and its judgement. A result 30 s old no longer counts (R417). The budget and DUR_ON. From the latest valid test the
part computes energy and budget with the parameters as they stand, in whole cells, a negative one as 0 (R419); with P_drain 0 the formula
has no value (assumption 119). The test passes if its parameters are above 0 and the budget is above 0 and at least PWD_HU_MIN (R420). A
parameter write computes and judges again (R419). DUR_ON is 1 only with EN, PASS, a result not 30 s old and no DRAIN since (R417). RESTORE
rebuilds the fenced groups of its mask (R412). Where it rests on the model's choices it follows assumptions 120, 121, 122, 119. -/
def Obligations.HoldUpAndGroups : Prop :=
  ((∀ (s u : State) (m : Master), taken s m PWD_HU_CTL_EN.off → u = acked s m →
      exec (.heelEnable m) s = .next (durEval (wr u PWD_HU_CTL_EN 0 1))
      ∧ exec (.heelMeasure m) s = .next { u with heel := { u.heel with asked := true } })
    ∧ (∀ (s u : State) (v0 : BitVec 16) (ch : Bool), s.pwr.on = true → s.heel.v0 = none →
      ((bit s PWD_HU_CTL_EN = true ∧ s.heel.setup = true) ∨ s.heel.asked = true) → u = { s with heel := { s.heel with asked := false } } →
      ((warnWire u = true ∨ mode u = 8 ∨ ch = true) → exec (.heelTestTimer v0 ch) s = .next (wr (inc u HU_SKIPS) PWD_HU_STATUS_RESULT 0 1))
      ∧ (warnWire u = false → mode u ≠ 8 → ch = false → exec (.heelTestTimer v0 ch) s
        = .next { wr u PWD_HU_STATUS_BUSY 0 1 with heel := { u.heel with v0 := some v0.toNat, v1 := none } }))
    ∧ (∀ (s : State) (v0 : BitVec 16) (ch : Bool), s.heel.v0.isSome = true → exec (.heelTestTimer v0 ch) s = .next s)
    ∧ (∀ (s : State) (v1 : BitVec 32), s.heel.v0.isSome = true → s.heel.v1 = none →
      exec (.heelV1Sample v1) s = .next { s with heel := { s.heel with v1 := some v1.toNat } })
    ∧ (∀ (s u : State) (v0 v1 dv : Nat) (v2 : BitVec 32), s.heel.v0 = some v0 → s.heel.v1 = some v1 → dv = v1 - v2.toNat →
      u = wr (wr { inc (wr s PWD_HU_STATUS_BUSY 0 0) HU_TESTS with heel := { s.heel with v0 := none, v1 := none } } PWD_HU_V0 0 v0) PWD_HU_DV 0 (min dv 65535) →
      (v0 ≤ rd u PWD_HU_VMIN → exec (.heelTestDone v2) s = .next (heelInvalid u 4))
      ∧ (rd u PWD_HU_VMIN < v0 → 8000 < dv → exec (.heelTestDone v2) s = .next (heelInvalid u 2))
      ∧ (rd u PWD_HU_VMIN < v0 → dv ≤ 8000 → ∀ c v w, c = 20000000 / max 50 dv →
        v = { wr u PWD_HU_CAP 0 c with heel := { u.heel with valid := some (v0, dv, c), validAt := u.now, old := false, bad := false, drained := false } } →
        w = heelJudge (heelBudget v) →
        exec (.heelTestDone v2) s = .next (durEval (raiseIf (!bit w PWD_HU_STATUS_PASS)
          { w with heel := { w.heel with retry := w.heel.retry && !bit w PWD_HU_STATUS_PASS } } 0x761))))
    ∧ (∀ (s : State) (r : Nat), heelInvalid s r = durEval (raise (wr (wr { s with heel := { s.heel with bad := true, drained := false } } PWD_HU_STATUS_RESULT 0 r) PWD_HU_STATUS_PASS 0 0) 0x760))
    ∧ (∀ s : State, (s.heel.valid.isSome = true → s.heel.old = false →
        exec .heelResultExpiry s = .next (durEval (raise { s with heel := { s.heel with old := true } } 0x762)))
      ∧ (s.heel.valid = none → exec .heelResultExpiry s = .next s)))
  ∧ ((∀ (s : State) (v0 dv c x : Nat), s.heel.valid = some (v0, dv, c) → x = v0 * v0 - rd s PWD_HU_VMIN * rd s PWD_HU_VMIN → rd s PWD_HU_PDRAIN ≠ 0 →
      ∀ u, u = wr s PWD_HU_ENERGY 0 (10 * x / (1000 * max 50 dv)) → s.wf = true →
      heelBudget s = wr u PWD_HU_BUDGET 0 (min (rd s PWD_HU_RATE * (10 * rd s PWD_HU_ETA * x - 1000 * max 50 dv * rd s PWD_HU_PDRAIN * rd s PWD_HU_TFIXED)
        / (256000 * max 50 dv * rd s PWD_HU_PDRAIN)) 0xFFFFFFFF))
    ∧ (∀ (s : State) (dv : Nat), (heelResult s dv = 0 ∨ heelResult s dv = 3) ↔
        0 < rd s PWD_HU_ETA ∧ 0 < rd s PWD_HU_PDRAIN ∧ 0 < rd s PWD_HU_RATE ∧ 0 < rd s PWD_HU_BUDGET ∧ rd s PWD_HU_MIN ≤ rd s PWD_HU_BUDGET)
    ∧ (∀ s : State, durEval s = release (overBudget (let on := bit s PWD_HU_CTL_EN && bit s PWD_HU_STATUS_PASS && s.heel.valid.isSome && !s.heel.bad && !s.heel.old && !s.heel.drained
        raiseIf (bit s OFM_STATUS_DUR_ON && !on) (wrb s OFM_STATUS_DUR_ON 0 on) 0x763)))
    ∧ (∀ (s u v : State) (m : Master) (which : Fin 6) (x : BitVec 32), taken s m (PWD_HU_ETA.off + 4 * which.val) → u = acked s m →
      v = heelBudget (match which.val with
        | 0 => wr u PWD_HU_ETA 0 (min (x.toNat % 1024) 1000)
        | 1 => wr u PWD_HU_VMIN 0 x.toNat
        | 2 => wr u PWD_HU_PDRAIN 0 x.toNat
        | 3 => wr u PWD_HU_TFIXED 0 x.toNat
        | 4 => wr u PWD_HU_RATE 0 x.toNat
        | _ => wr u PWD_HU_MIN 0 x.toNat) →
      exec (.heelParamWrite m which x) s = .next (durEval (if v.heel.bad then v else heelJudge v)))
    ∧ (∀ (s u : State) (m : Master) (mask : BitVec 4) (l : List Nat), taken s m OFM_CMD_RESTORE.off → u = acked s m → u.heel.rebuild = [] →
      l = (List.range 4).filter (fun q => mask.toNat.testBit q && (rd u OFM_STATUS_FENCED).testBit q) →
      (l ≠ [] → ∀ v, v = wr (forEach l u (fun s q => grpBit s OFM_STATUS_READY q false)) OFM_CMD_RESULT 0 1 →
        exec (.ofmRestore m mask) s = .next { v with heel := { v.heel with rebuild := v.heel.rebuild ++ l, notFenced := (List.range 4).any (fun q => mask.toNat.testBit q && !(rd u OFM_STATUS_FENCED).testBit q) } })
      ∧ (l = [] → 0 < mask.toNat → exec (.ofmRestore m mask) s = .next (wr u OFM_CMD_RESULT 0 2)))
    ∧ (∀ (s u v : State) (q : Fin 4), s.heel.rebuild.contains q.val = true → u = grpReady (grpBit s OFM_STATUS_FENCED q false) q →
      v = fenceFree { u with heel := { u.heel with rebuild := u.heel.rebuild.filter (· != q.val) } }
        (fun n => (0x580 ≤ n && n < 0x590 && n % 4 == q) || (0x800 ≤ n && n < 0x810 && (n - 0x800) / 4 == q)) →
      (v.heel.rebuild.any (· < 4) = true → exec (.ofmRestoreDone q) s = .next (release v))
      ∧ (v.heel.rebuild.any (· < 4) = false → exec (.ofmRestoreDone q) s = .next (release (wr v OFM_CMD_RESULT 0 (if v.heel.notFenced then 2 else 0)))))
    ∧ (∀ (s u : State) (q : Fin 4), s.heel.rebuild.contains q.val = false → s.heel.rebuild.contains (4 + q.val) = true → u = grpReady s q →
      exec (.ofmRestoreDone q) s = .next (release { u with heel := { u.heel with rebuild := u.heel.rebuild.filter (· != 4 + q.val) } })))

/-- Self-tests (R498 to R504): a running test that ends sets its results, sources and PASS or FAIL; one past twice its time ends FAIL with ABORT
= TIMEOUT; one whose conditions fail ends ABORTED with ABORT = CONDITIONS, and the others go on. After the last the part returns to SETUP as
by a WARM, with CAUSE BIST done (R501). Secrets (R508, R509). CLEAR and VERIFY need the key; CLEAR acts only in SETUP: sessions, the key
store and every IDE key slot are gone, the seed path closes, retained memory and the backup registers clear if asked, and CLEARED sets.
VERIFY ends FAILED with its source where a store is not zero, CHANGED where the key store was written meanwhile, or sets CLEARED_OK. The
certificate and the SPDM responder (R512 to R514): COMMIT sets CERT_VALID only if the leaf's key is the part's, else it raises the
certificate source. Requests are answered once TRIM_OK and ID_READY; after CLEAR, and without CERT_VALID for those that need the
certificate, with ERROR UnexpectedRequest; a 33rd KEY_EXCHANGE gets ERROR Busy. Where it rests on the model's choices it follows assumptions
135, 136, 137, 138, 87. -/
def Obligations.SelfTestsAndSecrets : Prop :=
  ((∀ (s : State) (t : Bist) (f : BistFound), (bistRunning s).contains t = false →
      exec (.bistTestDone t f) s = .next s ∧ exec (.bistTimeout t) s = .next s ∧ exec (.bistConditionsFail t) s = .next s)
    ∧ (∀ (s : State) (t : Bist) (f : BistFound), (bistRunning s).contains t = true →
      exec (.bistTestDone t f) s = .next (bistEnd (bistResult (bistFound s t f).1 t (if (bistFound s t f).2 then 1 else 2)) t)
      ∧ exec (.bistTimeout t) s = .next (bistEnd (raise (wr (bistResult s t 2) TST_BIST_STATUS_ABORT 0 1) 0x791) t)
      ∧ exec (.bistConditionsFail t) s = .next (bistEnd (raise (wr (bistResult s t 3) TST_BIST_STATUS_ABORT 0 2) 0x792) t))
    ∧ (∀ (s u : State) (f : BistFound), u = wrb (wrb (wrb s TST_LBIST_RES_CORE_FAIL 0 (f.domains.getLsbD 0)) TST_LBIST_RES_CKR_FAIL 0 (f.domains.getLsbD 1)) TST_LBIST_RES_LACE_FAIL 0 (f.domains.getLsbD 2) →
      bistFound s .lbist f = (raiseIf (f.domains.getLsbD 2) (raiseIf (f.domains.getLsbD 1) (raiseIf (f.domains.getLsbD 0) u 0x780) 0x781) 0x782, f.domains == 0))
    ∧ (∀ (s u : State) (f : BistFound), u = wr (wr s TST_MBIST_RES_REPAIRS 0 f.repairs.toNat) TST_MBIST_RES_UNREPAIRABLE 0 f.unrepairable.toNat →
      bistFound s .mbist f = (raiseIf (f.unrepairable != 0) (if f.repairs != 0 then raise (wr u TST_BIST_STATUS_REPAIRED 0 1) 0x783 else u) 0x784, f.unrepairable == 0))
    ∧ (∀ (s : State) (f : BistFound), (bistFound s .ovf f).2 = true ↔ ∀ q, q < 4 → f.retired.getD q 0 ≤ 65536)
    ∧ (∀ (s u : State) (t : Bist), u = { bistUnshadow s t with tst := { (bistUnshadow s t).tst with left := (bistUnshadow s t).tst.left.filter (· != t) } } →
      (u.tst.left ≠ [] → bistEnd s t = u)
      ∧ (u.tst.left = [] → bistEnd s t = bistReturn (wr u TST_BIST_STATUS_RUNNING 0 0))))
  ∧ ((∀ (s u : State) (m : Master) (key : BitVec 8) (r : Bool), taken s m TST_SEC_CMD_CLEAR.off → u = acked s m →
      (key ≠ 0xA5 → exec (.secretsClear m key r) s = .next (wr u TST_SEC_CMD_RESULT 0 3))
      ∧ (key = 0xA5 → mode u ≠ 3 → exec (.secretsClear m key r) s = .next (wr u TST_SEC_CMD_RESULT 0 2))
      ∧ (key = 0xA5 → mode u = 3 → u.tst.verifying = false → exec (.secretsClear m key r) s = .next (wr (secretsGone u r) TST_SEC_CMD_RESULT 0 0)))
    ∧ (∀ (s t : State) (r : Bool), s.wf = true → t = secretsGone s r →
      t.tst.keys = false ∧ t.tst.seedOpen = false ∧ t.tst.exchange = none ∧ t.tst.retClr = r ∧ t.prt.ide = []
      ∧ rd t TST_SEC_STATUS_SESSIONS = 0 ∧ rd t TST_SEC_STATUS_CLEARED = 1 ∧ rd t TST_SEC_STATUS_CLEARED_OK = 0
      ∧ (r = false → t.flt = s.flt) ∧ (r = true → t.flt.ret = [] ∧ ∀ i, i < 8 → rd t GLB_BKP i = 0))
    ∧ (∀ (s u : State) (m : Master) (key : BitVec 8), taken s m TST_SEC_CMD_VERIFY.off → u = acked s m →
      (key ≠ 0xA5 → exec (.secretsVerify m key) s = .next (wr u TST_SEC_CMD_RESULT 0 3))
      ∧ (key = 0xA5 → u.tst.verifying = false → exec (.secretsVerify m key) s
        = .next { wr u TST_SEC_CMD_RESULT 0 1 with tst := { u.tst with verifying := true, changed := false } }))
    ∧ (∀ (s u : State), s.tst.verifying = true → u = { s with tst := { s.tst with verifying := false, changed := false } } →
      (s.tst.changed = true → exec .secretsVerifyDone s = .next (wr u TST_SEC_CMD_RESULT 0 4))
      ∧ (s.tst.changed = false → (s.tst.keys = true ∨ s.tst.seedOpen = true ∨ s.prt.ide ≠ []
          ∨ (s.tst.retClr = true ∧ (s.flt.ret ≠ [] ∨ ∃ i, i < 8 ∧ rd s GLB_BKP i ≠ 0))) →
        exec .secretsVerifyDone s = .next (raise (wr u TST_SEC_CMD_RESULT 0 5) 0x793))
      ∧ (s.tst.changed = false → s.tst.keys = false → s.tst.seedOpen = false → s.prt.ide = [] →
          (s.tst.retClr = true → s.flt.ret = [] ∧ ∀ i, i < 8 → rd s GLB_BKP i = 0) →
        exec .secretsVerifyDone s = .next (wr (wr u TST_SEC_CMD_RESULT 0 0) TST_SEC_STATUS_CLEARED_OK 0 1))))
  ∧ ((∀ (s u : State) (m : Master) (ok : Bool), taken s m TST_CERT_CTL_COMMIT.off → u = acked s m →
      ok = Config.leafMatches (cgets u.tst.cert 0 (min (rd u TST_CERT_CTL_LEN) 8192)) →
      (ok = true → exec (.certCommit m) s = .next (wr u TST_CERT_CTL_CERT_VALID 0 1))
      ∧ (ok = false → exec (.certCommit m) s = .next (raise (wr u TST_CERT_CTL_CERT_VALID 0 0) 0x799)))
    ∧ (∀ (s : State) (via : SpdmVia) (r : SpdmReq), (bit s RST_TRIM_TRIM_OK = false ∨ bit s TST_SEC_STATUS_ID_READY = false) →
      exec (.spdmRequest via r) s = .next s)
    ∧ (∀ (s : State) (via : SpdmVia), bit s RST_TRIM_TRIM_OK = true → bit s TST_SEC_STATUS_ID_READY = true →
      (bit s TST_SEC_STATUS_CLEARED = true → ∀ r, exec (.spdmRequest via r) s = .next (spdmSay s via "ERROR UnexpectedRequest" []))
      ∧ (bit s TST_CERT_CTL_CERT_VALID = false → ∀ r, r = SpdmReq.getDigests ∨ r = .getCertificate ∨ r = .challenge ∨ r = .keyExchange →
        exec (.spdmRequest via r) s = .next (spdmSay s via "ERROR UnexpectedRequest" []))
      ∧ (bit s TST_SEC_STATUS_CLEARED = false →
        exec (.spdmRequest via .getVersion) s = .next (spdmSay s via "VERSION" [0x12, 0x13])
        ∧ exec (.spdmRequest via .endSession) s = .next (spdmSay (wr s TST_SEC_STATUS_SESSIONS 0 (rd s TST_SEC_STATUS_SESSIONS - 1)) via "END_SESSION_ACK" [])
        ∧ (∀ i : Fin 256, 1 ≤ i.val → i.val ≤ 10 → exec (.spdmRequest via (.getMeasurements i)) s = .next (spdmSay s via "MEASUREMENTS" (measurement s i)))
        ∧ (bit s TST_CERT_CTL_CERT_VALID = true →
          exec (.spdmRequest via .getCertificate) s = .next (spdmSay s via "CERTIFICATE" (cgets s.tst.cert 0 (min (rd s TST_CERT_CTL_LEN) 8192)))
          ∧ (32 ≤ rd s TST_SEC_STATUS_SESSIONS → exec (.spdmRequest via .keyExchange) s = .next (spdmSay s via "ERROR Busy" []))
          ∧ (rd s TST_SEC_STATUS_SESSIONS < 32 → ∀ u, u = keyWritten (wr s TST_SEC_STATUS_SESSIONS 0 (rd s TST_SEC_STATUS_SESSIONS + 1)) →
            exec (.spdmRequest via .keyExchange) s = .next (spdmSay { u with tst := { u.tst with exchange := some via } } via "KEY_EXCHANGE_RSP" [])))))
    ∧ (∀ (s : State) (via : SpdmVia) (what : String) (d : Bytes),
      (doeFn s via = none → spdmSay s via what d = emit s (.spdm via what d))
      ∧ (∀ f m, doeFn s via = some f → m = nget s.prt.doe f {} → what.startsWith "K" = false →
        spdmSay s via what d = doeSet (emit s (.spdm via what d)) f { m with busy := false, rd := doeObject 1 (Config.spdmBytes what d) })))
end

