-- ==== Sys2Proof/Laws/Regs.lean ====
section
/-! SUPPORT. Laws of the sorted maps and of the register store: read after write, writes elsewhere, and the canonical form that
every operation keeps. -/

namespace Sys2Proof.Machine

/-! ### Sorted maps -/

section Maps
variable {α : Type}

/-- Keys strictly rising, all above `b`. -/
theorem nsorted_cons (b : Nat) (k : Nat) (v : α) (m : NMap α) :
    nsorted (some b) ((k, v) :: m) = (decide (b < k) && nsorted (some k) m) := rfl

theorem nsorted_mono {b c : Nat} (h : b ≤ c) : ∀ {m : NMap α}, nsorted (some c) m = true → nsorted (some b) m = true
  | [], _ => rfl
  | (k, v) :: m, hs => by
    simp only [nsorted, Bool.and_eq_true, decide_eq_true_eq] at hs ⊢
    exact ⟨by omega, hs.2⟩

theorem nsorted_none_of {b : Nat} : ∀ {m : NMap α}, nsorted (some b) m = true → nsorted none m = true
  | [], _ => rfl
  | (k, v) :: m, hs => by
    simp only [nsorted, Bool.and_eq_true] at hs ⊢
    exact hs.2

theorem nput_sorted_some {b k : Nat} (v : α) (hk : b < k) :
    ∀ {m : NMap α}, nsorted (some b) m = true → nsorted (some b) (nput m k v) = true
  | [], _ => by simp [nput, nsorted, hk]
  | (j, w) :: m, hs => by
    simp only [nsorted, Bool.and_eq_true, decide_eq_true_eq] at hs
    unfold nput
    split
    · subst_vars; simp [nsorted, hk, hs.2]
    · split
      · simp [nsorted, hk, hs.2]; assumption
      · simp only [nsorted, Bool.and_eq_true, decide_eq_true_eq]
        exact ⟨hs.1, nput_sorted_some v (by omega) hs.2⟩

/-- A write keeps the canonical form. -/
theorem nput_sorted (k : Nat) (v : α) : ∀ {m : NMap α}, nsorted none m = true → nsorted none (nput m k v) = true
  | [], _ => rfl
  | (j, w) :: m, hs => by
    unfold nput
    split
    · subst_vars; exact hs
    · split
      · simp only [nsorted, Bool.and_eq_true, decide_eq_true_eq]; exact ⟨by assumption, hs⟩
      · exact nput_sorted_some v (by omega) hs

theorem ndel_sorted_some {b : Nat} (k : Nat) :
    ∀ {m : NMap α}, nsorted (some b) m = true → nsorted (some b) (ndel m k) = true
  | [], _ => rfl
  | (j, w) :: m, hs => by
    have hs' := hs
    simp only [nsorted, Bool.and_eq_true, decide_eq_true_eq] at hs
    unfold ndel
    split
    · exact nsorted_mono (by omega) hs.2
    · split
      · exact hs'
      · simp only [nsorted, Bool.and_eq_true, decide_eq_true_eq]
        exact ⟨hs.1, ndel_sorted_some k hs.2⟩

/-- Removing an entry keeps the canonical form. -/
theorem ndel_sorted (k : Nat) : ∀ {m : NMap α}, nsorted none m = true → nsorted none (ndel m k) = true
  | [], _ => rfl
  | (j, w) :: m, hs => by
    unfold ndel
    split
    · exact nsorted_none_of hs
    · split
      · exact hs
      · exact ndel_sorted_some k hs

theorem nset_sorted [DecidableEq α] (d : α) (k : Nat) (v : α) {m : NMap α} (h : nsorted none m = true) :
    nsorted none (nset d m k v) = true := by
  unfold nset; split
  · exact ndel_sorted k h
  · exact nput_sorted k v h

theorem nget?_below {b k : Nat} (hk : k ≤ b) : ∀ {m : NMap α}, nsorted (some b) m = true → nget? m k = none
  | [], _ => rfl
  | (j, w) :: m, hs => by
    simp only [nsorted, Bool.and_eq_true, decide_eq_true_eq] at hs
    unfold nget?
    rw [if_neg (by omega), if_pos (by omega)]

/-- What was written is read. -/
theorem nget?_nput_self (k : Nat) (v : α) : ∀ m : NMap α, nget? (nput m k v) k = some v
  | [] => by simp [nput, nget?]
  | (j, w) :: m => by
    unfold nput
    split
    · simp [nget?]
    · split
      · simp [nget?]
      · unfold nget?
        rw [if_neg (by assumption), if_neg (by assumption)]
        exact nget?_nput_self k v m

/-- A write leaves every other key alone. -/
theorem nget?_nput_ne {k l : Nat} (hne : l ≠ k) (v : α) :
    ∀ {m : NMap α}, nsorted none m = true → nget? (nput m k v) l = nget? m l
  | [], _ => by simp only [nput, nget?]; split <;> (try split) <;> simp_all
  | (j, w) :: m, hs => by
    unfold nput
    split
    · subst_vars
      simp only [nget?]
      rw [if_neg (Ne.symm hne), if_neg (Ne.symm hne)]
    · split
      · rename_i h1 h2
        by_cases hl : l < k
        · rw [nget?, if_neg (by omega), if_pos hl]
          rw [nget?, if_neg (by omega), if_pos (by omega)]
        · rw [nget?, if_neg (by omega), if_neg hl]
      · rename_i h1 h2
        simp only [nget?]
        split
        · rfl
        · split
          · rfl
          · exact nget?_nput_ne hne v (nsorted_none_of hs)

theorem nget?_ndel_self (k : Nat) : ∀ {m : NMap α}, nsorted none m = true → nget? (ndel m k) k = none
  | [], _ => rfl
  | (j, w) :: m, hs => by
    unfold ndel
    split
    · subst_vars; exact nget?_below (Nat.le_refl _) hs
    · split
      · rename_i h1 h2; rw [nget?, if_neg h1, if_pos h2]
      · rename_i h1 h2
        rw [nget?, if_neg h1, if_neg h2]
        exact nget?_ndel_self k (nsorted_none_of hs)

theorem nget?_ndel_ne {k l : Nat} (hne : l ≠ k) : ∀ {m : NMap α}, nsorted none m = true → nget? (ndel m k) l = nget? m l
  | [], _ => rfl
  | (j, w) :: m, hs => by
    unfold ndel
    split
    · subst_vars
      by_cases hl : l < j
      · rw [nget?_below (Nat.le_of_lt hl) hs, nget?, if_neg (by omega), if_pos hl]
      · rw [nget?, if_neg (by omega), if_neg hl]
    · split
      · rfl
      · simp only [nget?]
        split
        · rfl
        · split
          · rfl
          · exact nget?_ndel_ne hne (nsorted_none_of hs)

/-- Read after a write of the same key. -/
theorem nget_nset_self [DecidableEq α] (d : α) (k : Nat) (v : α) {m : NMap α} (h : nsorted none m = true) :
    nget (nset d m k v) k d = v := by
  unfold nget nset
  split
  · rw [nget?_ndel_self k h]; simp_all
  · rw [nget?_nput_self]; rfl

/-- Read after a write of another key. -/
theorem nget_nset_ne [DecidableEq α] (d e : α) {k l : Nat} (hne : l ≠ k) (v : α) {m : NMap α} (h : nsorted none m = true) :
    nget (nset d m k v) l e = nget m l e := by
  unfold nget nset
  split
  · rw [nget?_ndel_ne hne h]
  · rw [nget?_nput_ne hne v h]

theorem mem_nput {k : Nat} {v : α} {e : Nat × α} : ∀ {m : NMap α}, e ∈ nput m k v → e = (k, v) ∨ e ∈ m
  | [], h => by simp_all [nput]
  | (j, w) :: m, h => by
    unfold nput at h
    split at h
    · rcases List.mem_cons.mp h with h | h
      · exact .inl h
      · exact .inr (List.mem_cons_of_mem _ h)
    · split at h
      · rcases List.mem_cons.mp h with h | h
        · exact .inl h
        · exact .inr h
      · rcases List.mem_cons.mp h with h | h
        · exact .inr (h ▸ List.mem_cons_self)
        · rcases mem_nput h with h | h
          · exact .inl h
          · exact .inr (List.mem_cons_of_mem _ h)

theorem mem_ndel {k : Nat} {e : Nat × α} : ∀ {m : NMap α}, e ∈ ndel m k → e ∈ m
  | [], h => h
  | (j, w) :: m, h => by
    unfold ndel at h
    split at h
    · exact List.mem_cons_of_mem _ h
    · split at h
      · exact h
      · rcases List.mem_cons.mp h with h | h
        · exact h ▸ List.mem_cons_self
        · exact List.mem_cons_of_mem _ (mem_ndel h)

theorem nsorted_filter_some (p : Nat × α → Bool) :
    ∀ {b : Nat} {m : NMap α}, nsorted (some b) m = true → nsorted (some b) (m.filter p) = true
  | _, [], _ => rfl
  | b, (j, w) :: m, hs => by
    simp only [nsorted, Bool.and_eq_true, decide_eq_true_eq] at hs
    rw [List.filter_cons]
    split
    · simp only [nsorted, Bool.and_eq_true, decide_eq_true_eq]
      exact ⟨hs.1, nsorted_filter_some p hs.2⟩
    · exact nsorted_filter_some p (nsorted_mono (by omega) hs.2)

/-- Leaving entries out keeps the canonical form. -/
theorem nsorted_filter (p : Nat × α → Bool) {m : NMap α} (h : nsorted none m = true) : nsorted none (m.filter p) = true := by
  match m with
  | [] => rfl
  | (j, w) :: m =>
    rw [List.filter_cons]
    split
    · exact nsorted_filter_some p (b := j) h
    · exact nsorted_none_of (nsorted_filter_some p (b := j) h)

end Maps

/-! ### The register store -/

/-- A field's key keeps its width. -/
theorem keyWidth_fkey (f : Fld) (i : Nat) : keyWidth (fkey f i) = f.width % 128 := by
  unfold keyWidth fkey
  have h : reachCode f.reach < 16 := by cases f.reach <;> decide
  omega

/-- The canonical form says: keys rise, values fit. -/
theorem rwf_iff (r : Regs) : rwf r = true ↔ nsorted none r = true ∧ ∀ e ∈ r, e.2 < 2 ^ keyWidth e.1 := by
  simp [rwf, rfits, List.all_eq_true]

/-- The empty store, every register at its reset value, has the canonical form. -/
theorem rwf_nil : rwf [] = true := rfl

/-- A write keeps the canonical form. -/
theorem rwf_rset {r : Regs} (h : rwf r = true) (f : Fld) (i v : Nat) : rwf (rset r f i v) = true := by
  rw [rwf_iff] at h ⊢
  refine ⟨nset_sorted _ _ _ h.1, fun e he => ?_⟩
  unfold rset nset at he
  split at he
  · exact h.2 e (mem_ndel he)
  · rcases mem_nput he with rfl | he
    · rw [keyWidth_fkey]; exact Nat.mod_lt _ (Nat.two_pow_pos _)
    · exact h.2 e he

/-- A counter keeps the canonical form. -/
theorem rwf_rbump {r : Regs} (h : rwf r = true) (f : Fld) (i n : Nat) : rwf (rbump r f i n) = true := rwf_rset h f i _

/-- A reset keeps the canonical form. -/
theorem rwf_rreset {r : Regs} (h : rwf r = true) (hit : Nat → Bool) : rwf (rreset r hit) = true := by
  rw [rwf_iff] at h ⊢
  exact ⟨nsorted_filter _ h.1, fun e he => h.2 e (List.mem_of_mem_filter he)⟩

/-- A field reads as what was written, cut to its width. -/
theorem rget_rset_self {r : Regs} (h : rwf r = true) (f : Fld) (i v : Nat) :
    rget (rset r f i v) f i = v % 2 ^ (f.width % 128) :=
  nget_nset_self _ _ _ ((rwf_iff r).mp h).1

/-- A write of one field leaves every field with another key alone. -/
theorem rget_rset_ne {r : Regs} (h : rwf r = true) (f g : Fld) (i j v : Nat) (hne : fkey g j ≠ fkey f i) :
    rget (rset r f i v) g j = rget r g j :=
  nget_nset_ne _ _ hne _ ((rwf_iff r).mp h).1

/-- Fields at different places have different keys. -/
theorem fkey_ne_of_place {f g : Fld} (i j : Nat) (h : f.off * 64 + f.lsb % 64 ≠ g.off * 64 + g.lsb % 64) :
    fkey f i ≠ fkey g j := by
  unfold fkey
  have hf : reachCode f.reach < 16 := by cases f.reach <;> decide
  have hg : reachCode g.reach < 16 := by cases g.reach <;> decide
  omega

/-- Instances of one field have different keys. -/
theorem fkey_ne_of_inst (f : Fld) {i j : Nat} (hi : i < 16777216) (hj : j < 16777216) (h : i ≠ j) : fkey f i ≠ fkey f j := by
  unfold fkey; omega

end Sys2Proof.Machine
end

