-- ==== Sys2Proof/Laws/Bytes.lean ====
section
/-! SUPPORT. Laws of the byte stores: they are sorted maps whose absent byte is 0. -/

namespace Sys2Proof.Machine

theorem cdel_eq_ndel (m : List Host.Cell) (a : Nat) : cdel m a = ndel m a := by
  induction m with
  | nil => rfl
  | cons e m ih => obtain ⟨b, v⟩ := e; simp only [cdel, ndel, ih]

theorem cins_eq_nput (m : List Host.Cell) (a : Nat) (v : Byte) : cins m a v = nput m a v := by
  induction m with
  | nil => rfl
  | cons e m ih => obtain ⟨b, w⟩ := e; simp only [cins, nput, ih]

theorem cget_eq_nget (m : List Host.Cell) (a : Nat) : cget m a = nget m a 0 := by
  induction m with
  | nil => rfl
  | cons e m ih =>
    obtain ⟨b, w⟩ := e
    simp only [cget, nget, nget?]
    split
    · rfl
    · split
      · rfl
      · exact ih

theorem cput_eq_nset (m : List Host.Cell) (a : Nat) (v : Byte) : cput m a v = nset 0 m a v := by
  unfold cput nset; rw [cdel_eq_ndel, cins_eq_nput]

theorem Memory.wf_iff (m : List Host.Cell) : Memory.wf m = true ↔ nsorted none m = true ∧ ∀ e ∈ m, e.2 ≠ 0 := by
  simp [Memory.wf, List.all_eq_true]

/-- A write of one byte keeps the canonical form. -/
theorem wf_cput {m : List Host.Cell} (h : Memory.wf m = true) (a : Nat) (v : Byte) : Memory.wf (cput m a v) = true := by
  rw [Memory.wf_iff] at h ⊢
  rw [cput_eq_nset]
  refine ⟨nset_sorted _ _ _ h.1, fun e he => ?_⟩
  unfold nset at he
  split at he
  · exact h.2 e (mem_ndel he)
  · rcases mem_nput he with rfl | he
    · assumption
    · exact h.2 e he

/-- A write of several bytes keeps the canonical form. -/
theorem wf_cputs : ∀ (l : Bytes) {m : List Host.Cell} (_ : Memory.wf m = true) (a : Nat), Memory.wf (cputs m a l) = true
  | [], _, h, _ => h
  | v :: l, _, h, a => wf_cputs l (wf_cput h a v) (a + 1)

/-- Leaving bytes out keeps the canonical form. -/
theorem wf_filter {m : List Host.Cell} (h : Memory.wf m = true) (p : Host.Cell → Bool) : Memory.wf (m.filter p) = true := by
  rw [Memory.wf_iff] at h ⊢
  exact ⟨nsorted_filter _ h.1, fun e he => h.2 e (List.mem_of_mem_filter he)⟩

/-- The byte written is read. -/
theorem cget_cput_self {m : List Host.Cell} (h : Memory.wf m = true) (a : Nat) (v : Byte) : cget (cput m a v) a = v := by
  rw [cget_eq_nget, cput_eq_nset]; exact nget_nset_self _ _ _ ((Memory.wf_iff m).mp h).1

/-- A write of one byte leaves every other alone. -/
theorem cget_cput_ne {m : List Host.Cell} (h : Memory.wf m = true) {a b : Nat} (hne : b ≠ a) (v : Byte) :
    cget (cput m a v) b = cget m b := by
  rw [cget_eq_nget, cput_eq_nset, nget_nset_ne _ _ hne _ ((Memory.wf_iff m).mp h).1, ← cget_eq_nget]

/-- A write of several bytes leaves the bytes below it and above it alone. -/
theorem cget_cputs_outside : ∀ (l : Bytes) {m : List Host.Cell} (_ : Memory.wf m = true) (a b : Nat),
    (b < a ∨ a + l.length ≤ b) → cget (cputs m a l) b = cget m b
  | [], _, _, _, _, _ => rfl
  | v :: l, m, h, a, b, hb => by
    simp only [List.length_cons] at hb
    rw [cputs, cget_cputs_outside l (wf_cput h a v) (a + 1) b (by omega), cget_cput_ne h (by omega)]

/-- The bytes written are read. -/
theorem cget_cputs_inside : ∀ (l : Bytes) {m : List Host.Cell} (_ : Memory.wf m = true) (a i : Nat) (hi : i < l.length),
    cget (cputs m a l) (a + i) = l[i]
  | v :: l, m, h, a, 0, _ => by
    rw [cputs, cget_cputs_outside l (wf_cput h a v) (a + 1) (a + 0) (by omega)]
    exact cget_cput_self h a v
  | v :: l, m, h, a, i + 1, hi => by
    have := cget_cputs_inside l (wf_cput h a v) (a + 1) i (by simpa using hi)
    rw [cputs, show a + (i + 1) = a + 1 + i by omega, this]; rfl

end Sys2Proof.Machine
end

