-- ==== Sys2Proof/Laws/Exec.lean ====
section
/-! SUPPORT. Which meaning each command has, one equation a command, so that no proof unfolds the dispatch; and what a step is with
a command in front of the queue and with none. -/

namespace Sys2Proof.Machine

variable (s : State)

/-- With a command in front of the queue a step is that command on the state without it. -/
theorem step_cons {c : Instr} {l : List Instr} (h : s.pending = c :: l) : step s = exec c { s with pending := l } := by
  simp [step, h]

/-- With an empty queue a step idles. -/
theorem step_nil (h : s.pending = []) : step s = .next (idle s) := by
  simp [step, h]

@[simp] theorem exec_modeRequestGo (m : Master) (target : BitVec 4) :
    exec (.modeRequestGo m target) s = Sys2Proof.Machine.execModeRequestGo m target s := rfl
@[simp] theorem exec_modeTransitionDone :
    exec .modeTransitionDone s = Sys2Proof.Machine.execModeTransitionDone s := rfl
@[simp] theorem exec_modeTransitionTimeout :
    exec .modeTransitionTimeout s = Sys2Proof.Machine.execModeTransitionTimeout s := rfl
@[simp] theorem exec_feedWarning :
    exec .feedWarning s = Sys2Proof.Machine.execFeedWarning s := rfl
@[simp] theorem exec_feedRecovered :
    exec .feedRecovered s = Sys2Proof.Machine.execFeedRecovered s := rfl
@[simp] theorem exec_testEnLowInFactory :
    exec .testEnLowInFactory s = Sys2Proof.Machine.execTestEnLowInFactory s := rfl
@[simp] theorem exec_testEnHighOutsideFactory :
    exec .testEnHighOutsideFactory s = Sys2Proof.Machine.execTestEnHighOutsideFactory s := rfl
@[simp] theorem exec_encoderCount (n : Fin 4) (a : Bool) (b : Bool) :
    exec (.encoderCount n a b) s = Sys2Proof.Machine.execEncoderCount n a b s := rfl
@[simp] theorem exec_encoderPairClassChange (n : Fin 4) (pair : Fin 3) (cls : Fin 4) :
    exec (.encoderPairClassChange n pair cls) s = Sys2Proof.Machine.execEncoderPairClassChange n pair cls s := rfl
@[simp] theorem exec_encLockChange (n : Fin 4) (held : Bool) :
    exec (.encLockChange n held) s = Sys2Proof.Machine.execEncLockChange n held s := rfl
@[simp] theorem exec_zEdge (n : Fin 4) :
    exec (.zEdge n) s = Sys2Proof.Machine.execZEdge n s := rfl
@[simp] theorem exec_encPosWrite (m : Master) (n : Fin 4) (v : BitVec 32) :
    exec (.encPosWrite m n v) s = Sys2Proof.Machine.execEncPosWrite m n v s := rfl
@[simp] theorem exec_laceTinEdge :
    exec .laceTinEdge s = Sys2Proof.Machine.execLaceTinEdge s := rfl
@[simp] theorem exec_timerSourceExpiry :
    exec .timerSourceExpiry s = Sys2Proof.Machine.execTimerSourceExpiry s := rfl
@[simp] theorem exec_tickStart :
    exec .tickStart s = Sys2Proof.Machine.execTickStart s := rfl
@[simp] theorem exec_tickLate :
    exec .tickLate s = Sys2Proof.Machine.execTickLate s := rfl
@[simp] theorem exec_timeOffsetWrite (m : Master) (v : BitVec 64) :
    exec (.timeOffsetWrite m v) s = Sys2Proof.Machine.execTimeOffsetWrite m v s := rfl
@[simp] theorem exec_tickPresetWrite (m : Master) (v : BitVec 48) :
    exec (.tickPresetWrite m v) s = Sys2Proof.Machine.execTickPresetWrite m v s := rfl
@[simp] theorem exec_tickSourceWrite (m : Master) (v : BitVec 32) :
    exec (.tickSourceWrite m v) s = Sys2Proof.Machine.execTickSourceWrite m v s := rfl
@[simp] theorem exec_tickRecordReceive (p : Fin 64) (r : TickRec) :
    exec (.tickRecordReceive p r) s = Sys2Proof.Machine.execTickRecordReceive p r s := rfl
@[simp] theorem exec_alignmentLost (cause : Fin 3) :
    exec (.alignmentLost cause) s = Sys2Proof.Machine.execAlignmentLost cause s := rfl
@[simp] theorem exec_triggerFire (m : Fin 16) :
    exec (.triggerFire m) s = Sys2Proof.Machine.execTriggerFire m s := rfl
@[simp] theorem exec_triggerFireWrite (by0 : Master) (m : Fin 16) :
    exec (.triggerFireWrite by0 m) s = Sys2Proof.Machine.execTriggerFireWrite by0 m s := rfl
@[simp] theorem exec_triggerPulseEnd (m : Fin 16) :
    exec (.triggerPulseEnd m) s = Sys2Proof.Machine.execTriggerPulseEnd m s := rfl
@[simp] theorem exec_packetIngress (p : Fin 64) (pk : Packet) :
    exec (.packetIngress p pk) s = Sys2Proof.Machine.execPacketIngress p pk s := rfl
@[simp] theorem exec_policerRelease (p : Fin 64) (k : PktKind) :
    exec (.policerRelease p k) s = Sys2Proof.Machine.execPolicerRelease p k s := rfl
@[simp] theorem exec_spillWriteDone (j : Fin 72) (o : Fin 72) (c : Fin 8) :
    exec (.spillWriteDone j o c) s = Sys2Proof.Machine.execSpillWriteDone j o c s := rfl
@[simp] theorem exec_readbackComplete (j : Fin 72) (o : Fin 72) (c : Fin 8) (r : Readback) :
    exec (.readbackComplete j o c r) s = Sys2Proof.Machine.execReadbackComplete j o c r s := rfl
@[simp] theorem exec_packetMatch :
    exec .packetMatch s = Sys2Proof.Machine.execPacketMatch s := rfl
@[simp] theorem exec_egressTransmit (p : Fin 64) (crP : Bool) (crNP : Bool) (crC : Bool) :
    exec (.egressTransmit p crP crNP crC) s = Sys2Proof.Machine.execEgressTransmit p crP crNP crC s := rfl
@[simp] theorem exec_ctCheckFail (o : Fin 64) :
    exec (.ctCheckFail o) s = Sys2Proof.Machine.execCtCheckFail o s := rfl
@[simp] theorem exec_ctUnderrun (o : Fin 64) :
    exec (.ctUnderrun o) s = Sys2Proof.Machine.execCtUnderrun o s := rfl
@[simp] theorem exec_ctHoldMaxExpiry (o : Fin 64) :
    exec (.ctHoldMaxExpiry o) s = Sys2Proof.Machine.execCtHoldMaxExpiry o s := rfl
@[simp] theorem exec_dataEndBadReceive (p : Fin 64) (pk : Packet) (o : Option (Fin 64)) :
    exec (.dataEndBadReceive p pk o) s = Sys2Proof.Machine.execDataEndBadReceive p pk o s := rfl
@[simp] theorem exec_returnWindowExpiry (p : Fin 64) :
    exec (.returnWindowExpiry p) s = Sys2Proof.Machine.execReturnWindowExpiry p s := rfl
@[simp] theorem exec_inputHeldTimeout (a : Fin 72) :
    exec (.inputHeldTimeout a) s = Sys2Proof.Machine.execInputHeldTimeout a s := rfl
@[simp] theorem exec_voqSelectWrite (m : Master) (v : BitVec 32) :
    exec (.voqSelectWrite m v) s = Sys2Proof.Machine.execVoqSelectWrite m v s := rfl
@[simp] theorem exec_gateBoundary (p : Fin 64) :
    exec (.gateBoundary p) s = Sys2Proof.Machine.execGateBoundary p s := rfl
@[simp] theorem exec_gateCommitGo (m : Master) :
    exec (.gateCommitGo m) s = Sys2Proof.Machine.execGateCommitGo m s := rfl
@[simp] theorem exec_gateCommitDone :
    exec .gateCommitDone s = Sys2Proof.Machine.execGateCommitDone s := rfl
@[simp] theorem exec_gateCommitCancel (m : Master) :
    exec (.gateCommitCancel m) s = Sys2Proof.Machine.execGateCommitCancel m s := rfl
@[simp] theorem exec_tickMinWrite (m : Master) (v : BitVec 32) :
    exec (.tickMinWrite m v) s = Sys2Proof.Machine.execTickMinWrite m v s := rfl
@[simp] theorem exec_shaperRateWrite (m : Master) (pol : Bool) (p : Fin 64) (c : Fin 8) (v : BitVec 20) :
    exec (.shaperRateWrite m pol p c v) s = Sys2Proof.Machine.execShaperRateWrite m pol p c v s := rfl
@[simp] theorem exec_shaperBurstWrite (m : Master) (pol : Bool) (p : Fin 64) (c : Fin 8) (v : BitVec 24) :
    exec (.shaperBurstWrite m pol p c v) s = Sys2Proof.Machine.execShaperBurstWrite m pol p c v s := rfl
@[simp] theorem exec_windowEnable (m : Master) (w : Fin 256) :
    exec (.windowEnable m w) s = Sys2Proof.Machine.execWindowEnable m w s := rfl
@[simp] theorem exec_windowDisable (m : Master) (w : Fin 256) :
    exec (.windowDisable m w) s = Sys2Proof.Machine.execWindowDisable m w s := rfl
@[simp] theorem exec_memberApply (m : Master) :
    exec (.memberApply m) s = Sys2Proof.Machine.execMemberApply m s := rfl
@[simp] theorem exec_memberLoad (m : Master) :
    exec (.memberLoad m) s = Sys2Proof.Machine.execMemberLoad m s := rfl
@[simp] theorem exec_puDecisionDone (u : Fin 65536) :
    exec (.puDecisionDone u) s = Sys2Proof.Machine.execPuDecisionDone u s := rfl
@[simp] theorem exec_missHoldExpiry (u : Fin 65536) :
    exec (.missHoldExpiry u) s = Sys2Proof.Machine.execMissHoldExpiry u s := rfl
@[simp] theorem exec_sealWrite (p : Fin 64) (w : Fin 256) (off : BitVec 12) (data : Bytes) :
    exec (.sealWrite p w off data) s = Sys2Proof.Machine.execSealWrite p w off data s := rfl
@[simp] theorem exec_graceExpiry (u : Fin 65536) :
    exec (.graceExpiry u) s = Sys2Proof.Machine.execGraceExpiry u s := rfl
@[simp] theorem exec_flushReadIssue (u : Fin 65536) :
    exec (.flushReadIssue u) s = Sys2Proof.Machine.execFlushReadIssue u s := rfl
@[simp] theorem exec_flushComplete (u : Fin 65536) (st : CplStatus) :
    exec (.flushComplete u st) s = Sys2Proof.Machine.execFlushComplete u st s := rfl
@[simp] theorem exec_recordPost (g : Fin 16384) :
    exec (.recordPost g) s = Sys2Proof.Machine.execRecordPost g s := rfl
@[simp] theorem exec_remotePathTimeout (pool : Fin 1024) (mb : Fin 64) :
    exec (.remotePathTimeout pool mb) s = Sys2Proof.Machine.execRemotePathTimeout pool mb s := rfl
@[simp] theorem exec_bufferRingReadDone (pool : Fin 1024) (mb : Fin 64) (st : CplStatus) (entries : List (BitVec 64)) :
    exec (.bufferRingReadDone pool mb st entries) s = Sys2Proof.Machine.execBufferRingReadDone pool mb st entries s := rfl
@[simp] theorem exec_doorbell (pt : Fin 16) (sl : Fin 1024) (off : BitVec 12) (data : List (Byte × Bool)) :
    exec (.doorbell pt sl off data) s = Sys2Proof.Machine.execDoorbell pt sl off data s := rfl
@[simp] theorem exec_fetchComplete (q : QPRef) (st : CplStatus) (descs : List Bytes) :
    exec (.fetchComplete q st descs) s = Sys2Proof.Machine.execFetchComplete q st descs s := rfl
@[simp] theorem exec_jobStart (q : QPRef) :
    exec (.jobStart q) s = Sys2Proof.Machine.execJobStart q s := rfl
@[simp] theorem exec_nop (q : QPRef) :
    exec (.nop q) s = Sys2Proof.Machine.execNop q s := rfl
@[simp] theorem exec_copy (q : QPRef) :
    exec (.copy q) s = Sys2Proof.Machine.execCopy q s := rfl
@[simp] theorem exec_placeCopy (q : QPRef) :
    exec (.placeCopy q) s = Sys2Proof.Machine.execPlaceCopy q s := rfl
@[simp] theorem exec_fill (q : QPRef) :
    exec (.fill q) s = Sys2Proof.Machine.execFill q s := rfl
@[simp] theorem exec_seal (q : QPRef) :
    exec (.seal q) s = Sys2Proof.Machine.execSeal q s := rfl
@[simp] theorem exec_waitTick (q : QPRef) :
    exec (.waitTick q) s = Sys2Proof.Machine.execWaitTick q s := rfl
@[simp] theorem exec_waitTickTimeout (q : QPRef) :
    exec (.waitTickTimeout q) s = Sys2Proof.Machine.execWaitTickTimeout q s := rfl
@[simp] theorem exec_fence (q : QPRef) :
    exec (.fence q) s = Sys2Proof.Machine.execFence q s := rfl
@[simp] theorem exec_recordOnly (q : QPRef) :
    exec (.recordOnly q) s = Sys2Proof.Machine.execRecordOnly q s := rfl
@[simp] theorem exec_resize (q : QPRef) :
    exec (.resize q) s = Sys2Proof.Machine.execResize q s := rfl
@[simp] theorem exec_resizeTimeout (q : QPRef) :
    exec (.resizeTimeout q) s = Sys2Proof.Machine.execResizeTimeout q s := rfl
@[simp] theorem exec_dmaReadCompletion (pt : Fin 16) (tag : BitVec 14) (st : CplStatus) (data : Bytes) :
    exec (.dmaReadCompletion pt tag st data) s = Sys2Proof.Machine.execDmaReadCompletion pt tag st data s := rfl
@[simp] theorem exec_completionTimeout (pt : Fin 16) (tag : BitVec 14) :
    exec (.completionTimeout pt tag) s = Sys2Proof.Machine.execCompletionTimeout pt tag s := rfl
@[simp] theorem exec_tagQuarantineExpiry (pt : Fin 16) (tag : BitVec 14) :
    exec (.tagQuarantineExpiry pt tag) s = Sys2Proof.Machine.execTagQuarantineExpiry pt tag s := rfl
@[simp] theorem exec_completionEntryWrite (q : QPRef) :
    exec (.completionEntryWrite q) s = Sys2Proof.Machine.execCompletionEntryWrite q s := rfl
@[simp] theorem exec_msixModTimer (q : QPRef) :
    exec (.msixModTimer q) s = Sys2Proof.Machine.execMsixModTimer q s := rfl
@[simp] theorem exec_msixUnmask (f : FnRef) (vec : Fin 2048) (fnMask : Bool) :
    exec (.msixUnmask f vec fnMask) s = Sys2Proof.Machine.execMsixUnmask f vec fnMask s := rfl
@[simp] theorem exec_qpEnable (q : QPRef) :
    exec (.qpEnable q) s = Sys2Proof.Machine.execQpEnable q s := rfl
@[simp] theorem exec_qpDisable (q : QPRef) :
    exec (.qpDisable q) s = Sys2Proof.Machine.execQpDisable q s := rfl
@[simp] theorem exec_qpResume (q : QPRef) :
    exec (.qpResume q) s = Sys2Proof.Machine.execQpResume q s := rfl
@[simp] theorem exec_qpStopped (q : QPRef) :
    exec (.qpStopped q) s = Sys2Proof.Machine.execQpStopped q s := rfl
@[simp] theorem exec_portEnable (m : Master) (p : Fin 64) :
    exec (.portEnable m p) s = Sys2Proof.Machine.execPortEnable m p s := rfl
@[simp] theorem exec_portDisable (m : Master) (p : Fin 64) :
    exec (.portDisable m p) s = Sys2Proof.Machine.execPortDisable m p s := rfl
@[simp] theorem exec_portRetrain (m : Master) (p : Fin 64) :
    exec (.portRetrain m p) s = Sys2Proof.Machine.execPortRetrain m p s := rfl
@[simp] theorem exec_portStopped (p : Fin 64) :
    exec (.portStopped p) s = Sys2Proof.Machine.execPortStopped p s := rfl
@[simp] theorem exec_detectDone (p : Fin 64) (found : BitVec 17) (shorted : Shorts) :
    exec (.detectDone p found shorted) s = Sys2Proof.Machine.execDetectDone p found shorted s := rfl
@[simp] theorem exec_detectRetry (p : Fin 64) :
    exec (.detectRetry p) s = Sys2Proof.Machine.execDetectRetry p s := rfl
@[simp] theorem exec_linkUp (p : Fin 64) (width : Fin 5) (flit : Bool) (reversed : Bool) (rx : RxLanes) :
    exec (.linkUp p width flit reversed rx) s = Sys2Proof.Machine.execLinkUp p width flit reversed rx s := rfl
@[simp] theorem exec_stepUpStart (p : Fin 64) (partnerMax : BitVec 3) :
    exec (.stepUpStart p partnerMax) s = Sys2Proof.Machine.execStepUpStart p partnerMax s := rfl
@[simp] theorem exec_stepDone (p : Fin 64) (rate : BitVec 3) (width : Fin 5) :
    exec (.stepDone p rate width) s = Sys2Proof.Machine.execStepDone p rate width s := rfl
@[simp] theorem exec_portLinkDown (p : Fin 64) (receivers : Bool) :
    exec (.portLinkDown p receivers) s = Sys2Proof.Machine.execPortLinkDown p receivers s := rfl
@[simp] theorem exec_refclkLost (q : Fin 4) (tl : Bool) :
    exec (.refclkLost q tl) s = Sys2Proof.Machine.execRefclkLost q tl s := rfl
@[simp] theorem exec_refclkGood (q : Fin 4) (tl : Bool) :
    exec (.refclkGood q tl) s = Sys2Proof.Machine.execRefclkGood q tl s := rfl
@[simp] theorem exec_strapRead (ohms : Nat) :
    exec (.strapRead ohms) s = Sys2Proof.Machine.execStrapRead ohms s := rfl
@[simp] theorem exec_configRequest (p : Fin 64) (type1 : Bool) (bus : BitVec 8) (dev : BitVec 5) (fn : BitVec 3) (reg : BitVec 10) (w : Option (BitVec 32)) (rid : BitVec 16) (tag : BitVec 14) :
    exec (.configRequest p type1 bus dev fn reg w rid tag) s = Sys2Proof.Machine.execConfigRequest p type1 bus dev fn reg w rid tag s := rfl
@[simp] theorem exec_dpcTrigger (p : Fin 64) :
    exec (.dpcTrigger p) s = Sys2Proof.Machine.execDpcTrigger p s := rfl
@[simp] theorem exec_dpcStatusClear (p : Fin 64) :
    exec (.dpcStatusClear p) s = Sys2Proof.Machine.execDpcStatusClear p s := rfl
@[simp] theorem exec_slotPowerControlWrite (host : Bool) (n : Fin 16) (on : Bool) :
    exec (.slotPowerControlWrite host n on) s = Sys2Proof.Machine.execSlotPowerControlWrite host n on s := rfl
@[simp] theorem exec_slotPgRise (n : Fin 16) :
    exec (.slotPgRise n) s = Sys2Proof.Machine.execSlotPgRise n s := rfl
@[simp] theorem exec_slotPgFall (n : Fin 16) :
    exec (.slotPgFall n) s = Sys2Proof.Machine.execSlotPgFall n s := rfl
@[simp] theorem exec_secondaryBusReset (b : BridgeRef) (on : Bool) :
    exec (.secondaryBusReset b on) s = Sys2Proof.Machine.execSecondaryBusReset b on s := rfl
@[simp] theorem exec_hotResetReceived (p : Fin 64) :
    exec (.hotResetReceived p) s = Sys2Proof.Machine.execHotResetReceived p s := rfl
@[simp] theorem exec_perstAssert (pt : Fin 16) :
    exec (.perstAssert pt) s = Sys2Proof.Machine.execPerstAssert pt s := rfl
@[simp] theorem exec_perstRelease (pt : Fin 16) (w : PulseLen) :
    exec (.perstRelease pt w) s = Sys2Proof.Machine.execPerstRelease pt w s := rfl
@[simp] theorem exec_partResetRelease (pt : Fin 16) :
    exec (.partResetRelease pt) s = Sys2Proof.Machine.execPartResetRelease pt s := rfl
@[simp] theorem exec_ptmRequestTimer (p : Fin 64) :
    exec (.ptmRequestTimer p) s = Sys2Proof.Machine.execPtmRequestTimer p s := rfl
@[simp] theorem exec_ptmExchange (p : Fin 64) (host : BitVec 64) :
    exec (.ptmExchange p host) s = Sys2Proof.Machine.execPtmExchange p host s := rfl
@[simp] theorem exec_vdmReceive (p : Fin 64) (type0 : Bool) (m : VdmBody) (route : VdmRoute) :
    exec (.vdmReceive p type0 m route) s = Sys2Proof.Machine.execVdmReceive p type0 m route s := rfl
@[simp] theorem exec_ideKeyProg (o : IdeOwner) (tx : Bool) (km : IdeKm) :
    exec (.ideKeyProg o tx km) s = Sys2Proof.Machine.execIdeKeyProg o tx km s := rfl
@[simp] theorem exec_flr (pt : Fin 16) :
    exec (.flr pt) s = Sys2Proof.Machine.execFlr pt s := rfl
@[simp] theorem exec_dataStitchReceive (p : Fin 64) (levels : List (List (Fin 4))) (after : List (List (Fin 4))) (overflow : Bool) :
    exec (.dataStitchReceive p levels after overflow) s = Sys2Proof.Machine.execDataStitchReceive p levels after overflow s := rfl
@[simp] theorem exec_fillerReceive (p : Fin 64) (aboveHalf : Bool) (overflow : Bool) :
    exec (.fillerReceive p aboveHalf overflow) s = Sys2Proof.Machine.execFillerReceive p aboveHalf overflow s := rfl
@[simp] theorem exec_fillerDue (p : Fin 64) :
    exec (.fillerDue p) s = Sys2Proof.Machine.execFillerDue p s := rfl
@[simp] theorem exec_trainingStitchReceive (p : Fin 64) (l : Fin 5) (levels : List (Fin 4)) (eq : EqReport) :
    exec (.trainingStitchReceive p l levels eq) s = Sys2Proof.Machine.execTrainingStitchReceive p l levels eq s := rfl
@[simp] theorem exec_trainingLockTimeout (p : Fin 64) :
    exec (.trainingLockTimeout p) s = Sys2Proof.Machine.execTrainingLockTimeout p s := rfl
@[simp] theorem exec_trainingConfigTimeout (p : Fin 64) :
    exec (.trainingConfigTimeout p) s = Sys2Proof.Machine.execTrainingConfigTimeout p s := rfl
@[simp] theorem exec_rateReqReceive (p : Fin 64) (code : BitVec 4) :
    exec (.rateReqReceive p code) s = Sys2Proof.Machine.execRateReqReceive p code s := rfl
@[simp] theorem exec_rateAckReceive (p : Fin 64) (code : BitVec 4) :
    exec (.rateAckReceive p code) s = Sys2Proof.Machine.execRateAckReceive p code s := rfl
@[simp] theorem exec_ratePauseEnd (p : Fin 64) :
    exec (.ratePauseEnd p) s = Sys2Proof.Machine.execRatePauseEnd p s := rfl
@[simp] theorem exec_eqTimeout (p : Fin 64) :
    exec (.eqTimeout p) s = Sys2Proof.Machine.execEqTimeout p s := rfl
@[simp] theorem exec_soakPass (p : Fin 64) :
    exec (.soakPass p) s = Sys2Proof.Machine.execSoakPass p s := rfl
@[simp] theorem exec_laneLockLoss (p : Fin 64) (l : Fin 5) :
    exec (.laneLockLoss p l) s = Sys2Proof.Machine.execLaneLockLoss p l s := rfl
@[simp] theorem exec_laneLockRegain (p : Fin 64) (l : Fin 5) :
    exec (.laneLockRegain p l) s = Sys2Proof.Machine.execLaneLockRegain p l s := rfl
@[simp] theorem exec_ackTimer (p : Fin 64) :
    exec (.ackTimer p) s = Sys2Proof.Machine.execAckTimer p s := rfl
@[simp] theorem exec_ackReceive (p : Fin 64) (seq : BitVec 16) :
    exec (.ackReceive p seq) s = Sys2Proof.Machine.execAckReceive p seq s := rfl
@[simp] theorem exec_nakReceive (p : Fin 64) (seq : BitVec 16) (reason : BitVec 2) :
    exec (.nakReceive p seq reason) s = Sys2Proof.Machine.execNakReceive p seq reason s := rfl
@[simp] theorem exec_nakTimerExpiry (p : Fin 64) :
    exec (.nakTimerExpiry p) s = Sys2Proof.Machine.execNakTimerExpiry p s := rfl
@[simp] theorem exec_replayTimerExpiry (p : Fin 64) :
    exec (.replayTimerExpiry p) s = Sys2Proof.Machine.execReplayTimerExpiry p s := rfl
@[simp] theorem exec_creditTimer (p : Fin 64) :
    exec (.creditTimer p) s = Sys2Proof.Machine.execCreditTimer p s := rfl
@[simp] theorem exec_creditReceive (p : Fin 64) (counts : List (BitVec 16)) :
    exec (.creditReceive p counts) s = Sys2Proof.Machine.execCreditReceive p counts s := rfl
@[simp] theorem exec_auditTimer (p : Fin 64) :
    exec (.auditTimer p) s = Sys2Proof.Machine.execAuditTimer p s := rfl
@[simp] theorem exec_auditReceive (p : Fin 64) (cum : List (BitVec 32)) (mate : BitVec 6) (paired : Bool) :
    exec (.auditReceive p cum mate paired) s = Sys2Proof.Machine.execAuditReceive p cum mate paired s := rfl
@[simp] theorem exec_creditRetrainStart (p : Fin 64) :
    exec (.creditRetrainStart p) s = Sys2Proof.Machine.execCreditRetrainStart p s := rfl
@[simp] theorem exec_delayMeasureTimer (p : Fin 64) :
    exec (.delayMeasureTimer p) s = Sys2Proof.Machine.execDelayMeasureTimer p s := rfl
@[simp] theorem exec_delayReqReceive (p : Fin 64) (id : BitVec 8) (t1 : BitVec 64) :
    exec (.delayReqReceive p id t1) s = Sys2Proof.Machine.execDelayReqReceive p id t1 s := rfl
@[simp] theorem exec_delayRespReceive (p : Fin 64) (id : BitVec 8) (t2 : BitVec 64) (t3 : BitVec 64) :
    exec (.delayRespReceive p id t2 t3) s = Sys2Proof.Machine.execDelayRespReceive p id t2 t3 s := rfl
@[simp] theorem exec_delayRespTimeout (p : Fin 64) :
    exec (.delayRespTimeout p) s = Sys2Proof.Machine.execDelayRespTimeout p s := rfl
@[simp] theorem exec_controlRequestRepeat (p : Fin 64) :
    exec (.controlRequestRepeat p) s = Sys2Proof.Machine.execControlRequestRepeat p s := rfl
@[simp] theorem exec_retrainReqReceive (p : Fin 64) (full : Bool) :
    exec (.retrainReqReceive p full) s = Sys2Proof.Machine.execRetrainReqReceive p full s := rfl
@[simp] theorem exec_retrainAckReceive (p : Fin 64) (full : Bool) :
    exec (.retrainAckReceive p full) s = Sys2Proof.Machine.execRetrainAckReceive p full s := rfl
@[simp] theorem exec_spareReqReceive (p : Fin 64) (l : BitVec 3) :
    exec (.spareReqReceive p l) s = Sys2Proof.Machine.execSpareReqReceive p l s := rfl
@[simp] theorem exec_spareAckReceive (p : Fin 64) (l : BitVec 3) :
    exec (.spareAckReceive p l) s = Sys2Proof.Machine.execSpareAckReceive p l s := rfl
@[simp] theorem exec_spareGoReceive (p : Fin 64) (l : BitVec 3) :
    exec (.spareGoReceive p l) s = Sys2Proof.Machine.execSpareGoReceive p l s := rfl
@[simp] theorem exec_widthReqReceive (p : Fin 64) (l : BitVec 3) (w : BitVec 2) :
    exec (.widthReqReceive p l w) s = Sys2Proof.Machine.execWidthReqReceive p l w s := rfl
@[simp] theorem exec_widthAckReceive (p : Fin 64) (l : BitVec 3) (w : BitVec 2) :
    exec (.widthAckReceive p l w) s = Sys2Proof.Machine.execWidthAckReceive p l w s := rfl
@[simp] theorem exec_widthGoReceive (p : Fin 64) (l : BitVec 3) (w : BitVec 2) :
    exec (.widthGoReceive p l w) s = Sys2Proof.Machine.execWidthGoReceive p l w s := rfl
@[simp] theorem exec_corrWindowExpiry (p : Fin 64) :
    exec (.corrWindowExpiry p) s = Sys2Proof.Machine.execCorrWindowExpiry p s := rfl
@[simp] theorem exec_tLlExpiry (p : Fin 64) :
    exec (.tLlExpiry p) s = Sys2Proof.Machine.execTLlExpiry p s := rfl
@[simp] theorem exec_deadTimeout (p : Fin 64) :
    exec (.deadTimeout p) s = Sys2Proof.Machine.execDeadTimeout p s := rfl
@[simp] theorem exec_resumeReceive (p : Fin 64) (noReplay : Bool) (seen : Bool) (kept : Bool) (nextExp : BitVec 16) (free : List (BitVec 16)) :
    exec (.resumeReceive p noReplay seen kept nextExp free) s = Sys2Proof.Machine.execResumeReceive p noReplay seen kept nextExp free s := rfl
@[simp] theorem exec_resumeRepeatTimer (p : Fin 64) :
    exec (.resumeRepeatTimer p) s = Sys2Proof.Machine.execResumeRepeatTimer p s := rfl
@[simp] theorem exec_resumeTimeout (p : Fin 64) :
    exec (.resumeTimeout p) s = Sys2Proof.Machine.execResumeTimeout p s := rfl
@[simp] theorem exec_pairEnable (m : Master) (k : Fin 32) :
    exec (.pairEnable m k) s = Sys2Proof.Machine.execPairEnable m k s := rfl
@[simp] theorem exec_pairDisable (m : Master) (k : Fin 32) :
    exec (.pairDisable m k) s = Sys2Proof.Machine.execPairDisable m k s := rfl
@[simp] theorem exec_pairFlowReturn (k : Fin 32) (c : Fin 8) :
    exec (.pairFlowReturn k c) s = Sys2Proof.Machine.execPairFlowReturn k c s := rfl
@[simp] theorem exec_proxyCompletion (p : Fin 64) (pk : Packet) :
    exec (.proxyCompletion p pk) s = Sys2Proof.Machine.execProxyCompletion p pk s := rfl
@[simp] theorem exec_returnEntryStale (p : Fin 64) (tag : BitVec 14) :
    exec (.returnEntryStale p tag) s = Sys2Proof.Machine.execReturnEntryStale p tag s := rfl
@[simp] theorem exec_noticeReceive (p : Fin 64) (n : Notice) (ttl : BitVec 4) :
    exec (.noticeReceive p n ttl) s = Sys2Proof.Machine.execNoticeReceive p n ttl s := rfl
@[simp] theorem exec_fabDevWrite (m : Master) (d : Fin 64) (v : BitVec 32) :
    exec (.fabDevWrite m d v) s = Sys2Proof.Machine.execFabDevWrite m d v s := rfl
@[simp] theorem exec_apertureEnable (m : Master) (n : Fin 16) (j : Fin 4) :
    exec (.apertureEnable m n j) s = Sys2Proof.Machine.execApertureEnable m n j s := rfl
@[simp] theorem exec_partitionEnable (m : Master) (n : Fin 16) :
    exec (.partitionEnable m n) s = Sys2Proof.Machine.execPartitionEnable m n s := rfl
@[simp] theorem exec_partitionDisable (m : Master) (n : Fin 16) :
    exec (.partitionDisable m n) s = Sys2Proof.Machine.execPartitionDisable m n s := rfl
@[simp] theorem exec_remapValidWrite (m : Master) (j : Fin 4096) (v : BitVec 64) :
    exec (.remapValidWrite m j v) s = Sys2Proof.Machine.execRemapValidWrite m j v s := rfl
@[simp] theorem exec_sliceCreate (m : Master) :
    exec (.sliceCreate m) s = Sys2Proof.Machine.execSliceCreate m s := rfl
@[simp] theorem exec_sliceDelete (m : Master) :
    exec (.sliceDelete m) s = Sys2Proof.Machine.execSliceDelete m s := rfl
@[simp] theorem exec_sliceRecreate (m : Master) :
    exec (.sliceRecreate m) s = Sys2Proof.Machine.execSliceRecreate m s := rfl
@[simp] theorem exec_sliceReset (m : Master) :
    exec (.sliceReset m) s = Sys2Proof.Machine.execSliceReset m s := rfl
@[simp] theorem exec_sliceLoad (m : Master) :
    exec (.sliceLoad m) s = Sys2Proof.Machine.execSliceLoad m s := rfl
@[simp] theorem exec_xwCommit (m : Master) (win : Fin 512) (all : Bool) :
    exec (.xwCommit m win all) s = Sys2Proof.Machine.execXwCommit m win all s := rfl
@[simp] theorem exec_xwDrained :
    exec .xwDrained s = Sys2Proof.Machine.execXwDrained s := rfl
@[simp] theorem exec_vfFlrTimeout (j : Fin 4096) :
    exec (.vfFlrTimeout j) s = Sys2Proof.Machine.execVfFlrTimeout j s := rfl
@[simp] theorem exec_awtEntryCommit (m : Master) (j : Fin 8192) (w0 : BitVec 64) :
    exec (.awtEntryCommit m j w0) s = Sys2Proof.Machine.execAwtEntryCommit m j w0 s := rfl
@[simp] theorem exec_awtOverlapCheckDone :
    exec .awtOverlapCheckDone s = Sys2Proof.Machine.execAwtOverlapCheckDone s := rfl
@[simp] theorem exec_awtFence (m : Master) :
    exec (.awtFence m) s = Sys2Proof.Machine.execAwtFence m s := rfl
@[simp] theorem exec_awtFenceDone :
    exec .awtFenceDone s = Sys2Proof.Machine.execAwtFenceDone s := rfl
@[simp] theorem exec_awtFenceTimeout :
    exec .awtFenceTimeout s = Sys2Proof.Machine.execAwtFenceTimeout s := rfl
@[simp] theorem exec_awtBankSwap (m : Master) (n : Fin 16) :
    exec (.awtBankSwap m n) s = Sys2Proof.Machine.execAwtBankSwap m n s := rfl
@[simp] theorem exec_awtBankDrained (n : Fin 16) :
    exec (.awtBankDrained n) s = Sys2Proof.Machine.execAwtBankDrained n s := rfl
@[simp] theorem exec_awlAccess (m : Master) :
    exec (.awlAccess m) s = Sys2Proof.Machine.execAwlAccess m s := rfl
@[simp] theorem exec_awlReadComplete (st : CplStatus) (data : BitVec 64) :
    exec (.awlReadComplete st data) s = Sys2Proof.Machine.execAwlReadComplete st data s := rfl
@[simp] theorem exec_awlReadTimeout :
    exec .awlReadTimeout s = Sys2Proof.Machine.execAwlReadTimeout s := rfl
@[simp] theorem exec_stagingWrite (m : Master) (off : BitVec 21) (data : Bytes) :
    exec (.stagingWrite m off data) s = Sys2Proof.Machine.execStagingWrite m off data s := rfl
@[simp] theorem exec_imageVerify (m : Master) :
    exec (.imageVerify m) s = Sys2Proof.Machine.execImageVerify m s := rfl
@[simp] theorem exec_imageVerifyDone :
    exec .imageVerifyDone s = Sys2Proof.Machine.execImageVerifyDone s := rfl
@[simp] theorem exec_imageInstall (m : Master) (mask : BitVec 8) :
    exec (.imageInstall m mask) s = Sys2Proof.Machine.execImageInstall m mask s := rfl
@[simp] theorem exec_imageInstallDone :
    exec .imageInstallDone s = Sys2Proof.Machine.execImageInstallDone s := rfl
@[simp] theorem exec_clusterSwap (m : Master) (k : Fin 8) :
    exec (.clusterSwap m k) s = Sys2Proof.Machine.execClusterSwap m k s := rfl
@[simp] theorem exec_clusterDrainEnd (k : Fin 8) (timedOut : Bool) :
    exec (.clusterDrainEnd k timedOut) s = Sys2Proof.Machine.execClusterDrainEnd k timedOut s := rfl
@[simp] theorem exec_clusterLoadDone (k : Fin 8) :
    exec (.clusterLoadDone k) s = Sys2Proof.Machine.execClusterLoadDone k s := rfl
@[simp] theorem exec_clusterRestore (m : Master) (k : Fin 8) :
    exec (.clusterRestore m k) s = Sys2Proof.Machine.execClusterRestore m k s := rfl
@[simp] theorem exec_clusterReclaim (m : Master) (k : Fin 8) :
    exec (.clusterReclaim m k) s = Sys2Proof.Machine.execClusterReclaim m k s := rfl
@[simp] theorem exec_workHandoffDone (k : Fin 8) :
    exec (.workHandoffDone k) s = Sys2Proof.Machine.execWorkHandoffDone k s := rfl
@[simp] theorem exec_engineWatchdog (e : Fin 96) :
    exec (.engineWatchdog e) s = Sys2Proof.Machine.execEngineWatchdog e s := rfl
@[simp] theorem exec_engineRestore (m : Master) (e : Fin 96) (pass : Bool) :
    exec (.engineRestore m e pass) s = Sys2Proof.Machine.execEngineRestore m e pass s := rfl
@[simp] theorem exec_mailboxRequest (m : Master) (k : Fin 8) :
    exec (.mailboxRequest m k) s = Sys2Proof.Machine.execMailboxRequest m k s := rfl
@[simp] theorem exec_mailboxResponse (k : Fin 8) (words : List (BitVec 32)) :
    exec (.mailboxResponse k words) s = Sys2Proof.Machine.execMailboxResponse k words s := rfl
@[simp] theorem exec_mailboxAckClear (m : Master) (k : Fin 8) :
    exec (.mailboxAckClear m k) s = Sys2Proof.Machine.execMailboxAckClear m k s := rfl
@[simp] theorem exec_ofmRestore (m : Master) (mask : BitVec 4) :
    exec (.ofmRestore m mask) s = Sys2Proof.Machine.execOfmRestore m mask s := rfl
@[simp] theorem exec_ofmRestoreDone (q : Fin 4) :
    exec (.ofmRestoreDone q) s = Sys2Proof.Machine.execOfmRestoreDone q s := rfl
@[simp] theorem exec_ofmQuotaWrite (m : Master) (n : Fin 16) (c : Fin 8) (v : BitVec 16) :
    exec (.ofmQuotaWrite m n c v) s = Sys2Proof.Machine.execOfmQuotaWrite m n c v s := rfl
@[simp] theorem exec_durTcWrite (m : Master) (v : BitVec 8) :
    exec (.durTcWrite m v) s = Sys2Proof.Machine.execDurTcWrite m v s := rfl
@[simp] theorem exec_heelEnable (m : Master) :
    exec (.heelEnable m) s = Sys2Proof.Machine.execHeelEnable m s := rfl
@[simp] theorem exec_heelMeasure (m : Master) :
    exec (.heelMeasure m) s = Sys2Proof.Machine.execHeelMeasure m s := rfl
@[simp] theorem exec_heelTestTimer (v0 : BitVec 16) (charging : Bool) :
    exec (.heelTestTimer v0 charging) s = Sys2Proof.Machine.execHeelTestTimer v0 charging s := rfl
@[simp] theorem exec_heelV1Sample (v1 : BitVec 32) :
    exec (.heelV1Sample v1) s = Sys2Proof.Machine.execHeelV1Sample v1 s := rfl
@[simp] theorem exec_heelTestDone (v2 : BitVec 32) :
    exec (.heelTestDone v2) s = Sys2Proof.Machine.execHeelTestDone v2 s := rfl
@[simp] theorem exec_heelParamWrite (m : Master) (which : Fin 6) (v : BitVec 32) :
    exec (.heelParamWrite m which v) s = Sys2Proof.Machine.execHeelParamWrite m which v s := rfl
@[simp] theorem exec_heelResultExpiry :
    exec .heelResultExpiry s = Sys2Proof.Machine.execHeelResultExpiry s := rfl
@[simp] theorem exec_faultAssert (src : BitVec 12) (inst : BitVec 32) (pt : Option (Fin 16)) :
    exec (.faultAssert src inst pt) s = Sys2Proof.Machine.execFaultAssert src inst pt s := rfl
@[simp] theorem exec_faultDeassert (src : BitVec 12) :
    exec (.faultDeassert src) s = Sys2Proof.Machine.execFaultDeassert src s := rfl
@[simp] theorem exec_railBroken (j : Fin 1335) :
    exec (.railBroken j) s = Sys2Proof.Machine.execRailBroken j s := rfl
@[simp] theorem exec_railRestored (j : Fin 1335) (level : Bool) :
    exec (.railRestored j level) s = Sys2Proof.Machine.execRailRestored j level s := rfl
@[simp] theorem exec_blockResetRelease (b : Fin 18) :
    exec (.blockResetRelease b) s = Sys2Proof.Machine.execBlockResetRelease b s := rfl
@[simp] theorem exec_shadowEnd (b : Fin 18) :
    exec (.shadowEnd b) s = Sys2Proof.Machine.execShadowEnd b s := rfl
@[simp] theorem exec_escalationWindowEnd (b : Fin 18) :
    exec (.escalationWindowEnd b) s = Sys2Proof.Machine.execEscalationWindowEnd b s := rfl
@[simp] theorem exec_faultStickyClear (m : Master) (src : BitVec 12) :
    exec (.faultStickyClear m src) s = Sys2Proof.Machine.execFaultStickyClear m src s := rfl
@[simp] theorem exec_faultClearAll (m : Master) :
    exec (.faultClearAll m) s = Sys2Proof.Machine.execFaultClearAll m s := rfl
@[simp] theorem exec_faultRestore (m : Master) (src : BitVec 12) :
    exec (.faultRestore m src) s = Sys2Proof.Machine.execFaultRestore m src s := rfl
@[simp] theorem exec_collectorSelfCheck (pass : Bool) :
    exec (.collectorSelfCheck pass) s = Sys2Proof.Machine.execCollectorSelfCheck pass s := rfl
@[simp] theorem exec_pairReadbackMismatch :
    exec .pairReadbackMismatch s = Sys2Proof.Machine.execPairReadbackMismatch s := rfl
@[simp] theorem exec_faultInject (m : Master) :
    exec (.faultInject m) s = Sys2Proof.Machine.execFaultInject m s := rfl
@[simp] theorem exec_faultInjectEnd :
    exec .faultInjectEnd s = Sys2Proof.Machine.execFaultInjectEnd s := rfl
@[simp] theorem exec_scrubPass :
    exec .scrubPass s = Sys2Proof.Machine.execScrubPass s := rfl
@[simp] theorem exec_porAssert :
    exec .porAssert s = Sys2Proof.Machine.execPorAssert s := rfl
@[simp] theorem exec_porRelease :
    exec .porRelease s = Sys2Proof.Machine.execPorRelease s := rfl
@[simp] theorem exec_rstNAssert :
    exec .rstNAssert s = Sys2Proof.Machine.execRstNAssert s := rfl
@[simp] theorem exec_rstNRelease (w : PulseLen) :
    exec (.rstNRelease w) s = Sys2Proof.Machine.execRstNRelease w s := rfl
@[simp] theorem exec_rstCmdWarm (m : Master) (key : BitVec 8) :
    exec (.rstCmdWarm m key) s = Sys2Proof.Machine.execRstCmdWarm m key s := rfl
@[simp] theorem exec_rstCmdPart (m : Master) (key : BitVec 8) (pt : Fin 16) :
    exec (.rstCmdPart m key pt) s = Sys2Proof.Machine.execRstCmdPart m key pt s := rfl
@[simp] theorem exec_rstCmdPort (m : Master) (key : BitVec 8) (p : Fin 64) :
    exec (.rstCmdPort m key p) s = Sys2Proof.Machine.execRstCmdPort m key p s := rfl
@[simp] theorem exec_resetPulseEnd (r : ResetRef) :
    exec (.resetPulseEnd r) s = Sys2Proof.Machine.execResetPulseEnd r s := rfl
@[simp] theorem exec_trimAttemptDone (ok : Bool) (word : BitVec 16) :
    exec (.trimAttemptDone ok word) s = Sys2Proof.Machine.execTrimAttemptDone ok word s := rfl
@[simp] theorem exec_startupDone :
    exec .startupDone s = Sys2Proof.Machine.execStartupDone s := rfl
@[simp] theorem exec_mgmtRead (addr : BitVec 32) (n : BitVec 8) (pec : Bool) :
    exec (.mgmtRead addr n pec) s = Sys2Proof.Machine.execMgmtRead addr n pec s := rfl
@[simp] theorem exec_mgmtWrite (addr : BitVec 32) (data : List (BitVec 32)) (pec : Bool) :
    exec (.mgmtWrite addr data pec) s = Sys2Proof.Machine.execMgmtWrite addr data pec s := rfl
@[simp] theorem exec_mgmtLast (pec : Bool) :
    exec (.mgmtLast pec) s = Sys2Proof.Machine.execMgmtLast pec s := rfl
@[simp] theorem exec_mgmtMctp (req : SpdmReq) (pec : Bool) :
    exec (.mgmtMctp req pec) s = Sys2Proof.Machine.execMgmtMctp req pec s := rfl
@[simp] theorem exec_mgmtWarm (key : BitVec 16) (pec : Bool) :
    exec (.mgmtWarm key pec) s = Sys2Proof.Machine.execMgmtWarm key pec s := rfl
@[simp] theorem exec_mgmtCold (key : BitVec 16) (pec : Bool) :
    exec (.mgmtCold key pec) s = Sys2Proof.Machine.execMgmtCold key pec s := rfl
@[simp] theorem exec_sysRefclkLost :
    exec .sysRefclkLost s = Sys2Proof.Machine.execSysRefclkLost s := rfl
@[simp] theorem exec_pllLockLoss (which : Fin 5) :
    exec (.pllLockLoss which) s = Sys2Proof.Machine.execPllLockLoss which s := rfl
@[simp] theorem exec_crossingTimeout :
    exec .crossingTimeout s = Sys2Proof.Machine.execCrossingTimeout s := rfl
@[simp] theorem exec_feedLow (f : Fin 2) :
    exec (.feedLow f) s = Sys2Proof.Machine.execFeedLow f s := rfl
@[simp] theorem exec_feedNotLow (f : Fin 2) :
    exec (.feedNotLow f) s = Sys2Proof.Machine.execFeedNotLow f s := rfl
@[simp] theorem exec_feedReverseCurrent (f : Fin 2) :
    exec (.feedReverseCurrent f) s = Sys2Proof.Machine.execFeedReverseCurrent f s := rfl
@[simp] theorem exec_feedReversed (f : Fin 2) :
    exec (.feedReversed f) s = Sys2Proof.Machine.execFeedReversed f s := rfl
@[simp] theorem exec_feedReversedClear (f : Fin 2) :
    exec (.feedReversedClear f) s = Sys2Proof.Machine.execFeedReversedClear f s := rfl
@[simp] theorem exec_feedOvervoltage (f : Fin 2) :
    exec (.feedOvervoltage f) s = Sys2Proof.Machine.execFeedOvervoltage f s := rfl
@[simp] theorem exec_busUndervoltage :
    exec .busUndervoltage s = Sys2Proof.Machine.execBusUndervoltage s := rfl
@[simp] theorem exec_busUvRecovered :
    exec .busUvRecovered s = Sys2Proof.Machine.execBusUvRecovered s := rfl
@[simp] theorem exec_pwrfailReadback :
    exec .pwrfailReadback s = Sys2Proof.Machine.execPwrfailReadback s := rfl
@[simp] theorem exec_slotRampComplete (n : Fin 16) :
    exec (.slotRampComplete n) s = Sys2Proof.Machine.execSlotRampComplete n s := rfl
@[simp] theorem exec_slotQualified (n : Fin 16) :
    exec (.slotQualified n) s = Sys2Proof.Machine.execSlotQualified n s := rfl
@[simp] theorem exec_slotTimerTrip (n : Fin 16) :
    exec (.slotTimerTrip n) s = Sys2Proof.Machine.execSlotTimerTrip n s := rfl
@[simp] theorem exec_slotFastTrip (n : Fin 16) :
    exec (.slotFastTrip n) s = Sys2Proof.Machine.execSlotFastTrip n s := rfl
@[simp] theorem exec_slotCoolEnd (n : Fin 16) :
    exec (.slotCoolEnd n) s = Sys2Proof.Machine.execSlotCoolEnd n s := rfl
@[simp] theorem exec_slotFetFault (n : Fin 16) (kind : Fin 3) :
    exec (.slotFetFault n kind) s = Sys2Proof.Machine.execSlotFetFault n kind s := rfl
@[simp] theorem exec_slotClrFet (m : Master) (n : Fin 16) :
    exec (.slotClrFet m n) s = Sys2Proof.Machine.execSlotClrFet m n s := rfl
@[simp] theorem exec_bistTestDone (t : Bist) (f : BistFound) :
    exec (.bistTestDone t f) s = Sys2Proof.Machine.execBistTestDone t f s := rfl
@[simp] theorem exec_bistTimeout (t : Bist) :
    exec (.bistTimeout t) s = Sys2Proof.Machine.execBistTimeout t s := rfl
@[simp] theorem exec_bistConditionsFail (t : Bist) :
    exec (.bistConditionsFail t) s = Sys2Proof.Machine.execBistConditionsFail t s := rfl
@[simp] theorem exec_secretsClear (m : Master) (key : BitVec 8) (clrRetained : Bool) :
    exec (.secretsClear m key clrRetained) s = Sys2Proof.Machine.execSecretsClear m key clrRetained s := rfl
@[simp] theorem exec_secretsVerify (m : Master) (key : BitVec 8) :
    exec (.secretsVerify m key) s = Sys2Proof.Machine.execSecretsVerify m key s := rfl
@[simp] theorem exec_secretsVerifyDone :
    exec .secretsVerifyDone s = Sys2Proof.Machine.execSecretsVerifyDone s := rfl
@[simp] theorem exec_certCommit (m : Master) :
    exec (.certCommit m) s = Sys2Proof.Machine.execCertCommit m s := rfl
@[simp] theorem exec_spdmRequest (via : SpdmVia) (r : SpdmReq) :
    exec (.spdmRequest via r) s = Sys2Proof.Machine.execSpdmRequest via r s := rfl
@[simp] theorem exec_jtagInstruction (j : JtagIr) :
    exec (.jtagInstruction j) s = Sys2Proof.Machine.execJtagInstruction j s := rfl
@[simp] theorem exec_tempWarn (j : Fin 10) :
    exec (.tempWarn j) s = Sys2Proof.Machine.execTempWarn j s := rfl
@[simp] theorem exec_tempCrit (j : Fin 10) :
    exec (.tempCrit j) s = Sys2Proof.Machine.execTempCrit j s := rfl
@[simp] theorem exec_tempSensorFail (j : Fin 10) :
    exec (.tempSensorFail j) s = Sys2Proof.Machine.execTempSensorFail j s := rfl
@[simp] theorem exec_supplyOutOfRange (j : Fin 8) :
    exec (.supplyOutOfRange j) s = Sys2Proof.Machine.execSupplyOutOfRange j s := rfl
@[simp] theorem exec_registerWrite (ws : List RegWr) :
    exec (.registerWrite ws) s = Sys2Proof.Machine.execRegisterWrite ws s := rfl
@[simp] theorem exec_registerTimeout (m : Master) (off : BitVec 28) :
    exec (.registerTimeout m off) s = Sys2Proof.Machine.execRegisterTimeout m off s := rfl
@[simp] theorem exec_timerSourceLock :
    exec .timerSourceLock s = Sys2Proof.Machine.execTimerSourceLock s := rfl
@[simp] theorem exec_sysRefclkGood :
    exec .sysRefclkGood s = Sys2Proof.Machine.execSysRefclkGood s := rfl
@[simp] theorem exec_hotResetEnd (p : Fin 64) :
    exec (.hotResetEnd p) s = Sys2Proof.Machine.execHotResetEnd p s := rfl
@[simp] theorem exec_pcieTrainingFail (r : RxFail) :
    exec (.pcieTrainingFail r) s = Sys2Proof.Machine.execPcieTrainingFail r s := rfl
@[simp] theorem exec_vfConfigHoldEnd (j : Fin 4096) :
    exec (.vfConfigHoldEnd j) s = Sys2Proof.Machine.execVfConfigHoldEnd j s := rfl
@[simp] theorem exec_powerDieStart :
    exec .powerDieStart s = Sys2Proof.Machine.execPowerDieStart s := rfl
@[simp] theorem exec_powerDieStop :
    exec .powerDieStop s = Sys2Proof.Machine.execPowerDieStop s := rfl
@[simp] theorem exec_feedOvClear (f : Fin 2) :
    exec (.feedOvClear f) s = Sys2Proof.Machine.execFeedOvClear f s := rfl
@[simp] theorem exec_registerRead (m : Master) (off : BitVec 28) (len : Nat) :
    exec (.registerRead m off len) s = Sys2Proof.Machine.execRegisterRead m off len s := rfl

end Sys2Proof.Machine
end

