-- ==== Sys2Proof/Laws/Keep.lean ====
section
/-! SUPPORT. What every command keeps, `Keep`: the state stays sound and the queue of waiting commands stays as it is. Here its
rules for the shared shapes; the KeepX files have one lemma for each operation of X.lean. -/

namespace Sys2Proof.Machine

/-- The state is sound and the commands that wait are `L`. -/
structure Keep (L : List Instr) (s : State) : Prop where
  regs : rwf s.regs = true
  ret : Memory.wf s.flt.ret = true
  stg : Memory.wf s.ckr.stg = true
  cert : Memory.wf s.tst.cert = true
  img : ∀ e ∈ s.ckr.img, Memory.wf e.2 = true
  pend : s.pending = L

/-- The answer is a next state that keeps. -/
def KeepRes (L : List Instr) (r : Res) : Prop := ∃ t, r = .next t ∧ Keep L t

variable {L : List Instr} {s : State}

theorem keep_iff (L : List Instr) (s : State) : Keep L s ↔ s.wf = true ∧ s.pending = L := by
  constructor
  · intro h
    refine ⟨?_, h.pend⟩
    simp only [State.wf, Bool.and_eq_true, List.all_eq_true]
    exact ⟨⟨⟨⟨h.regs, h.ret⟩, h.stg⟩, h.cert⟩, h.img⟩
  · rintro ⟨h, hp⟩
    simp only [State.wf, Bool.and_eq_true, List.all_eq_true] at h
    exact ⟨h.1.1.1.1, h.1.1.1.2, h.1.1.2, h.1.2, h.2, hp⟩

theorem KeepRes.next (h : Keep L s) : KeepRes L (.next s) := ⟨s, rfl, h⟩

/-- A change of anything else keeps. -/
theorem Keep.upd {t : State} (h : Keep L s) (hr : t.regs = s.regs) (hm : t.flt.ret = s.flt.ret) (hs : t.ckr.stg = s.ckr.stg)
    (hc : t.tst.cert = s.tst.cert) (hi : t.ckr.img = s.ckr.img) (hp : t.pending = s.pending) : Keep L t :=
  ⟨hr ▸ h.regs, hm ▸ h.ret, hs ▸ h.stg, hc ▸ h.cert, hi ▸ h.img, hp ▸ h.pend⟩

/-- The parts of a state that `Keep` speaks of. -/
def KeepOf (L : List Instr) (regs : Regs) (ret stg cert : List Host.Cell) (img : NMap (List Host.Cell)) (pend : List Instr) : Prop :=
  rwf regs = true ∧ Memory.wf ret = true ∧ Memory.wf stg = true ∧ Memory.wf cert = true ∧ (∀ e ∈ img, Memory.wf e.2 = true) ∧ pend = L

/-- A state written out keeps if the parts that `Keep` speaks of do. -/
theorem keep_mk {now mgmtStatus regs pending out detect free cfg slices shk gate awt lce plc rng fab prt rst tr ckr heel flt pwr tst bus} :
    Keep L ⟨now, mgmtStatus, regs, pending, out, detect, free, cfg, slices, shk, gate, awt, lce, plc, rng, fab, prt, rst, tr, ckr, heel, flt, pwr, tst, bus⟩ ↔
      KeepOf L regs flt.ret ckr.stg tst.cert ckr.img pending :=
  ⟨fun h => ⟨h.regs, h.ret, h.stg, h.cert, h.img, h.pend⟩, fun h => ⟨h.1, h.2.1, h.2.2.1, h.2.2.2.1, h.2.2.2.2.1, h.2.2.2.2.2⟩⟩

/-- A change of anything else keeps. -/
theorem Keep.parts (h : Keep L s) : KeepOf L s.regs s.flt.ret s.ckr.stg s.tst.cert s.ckr.img s.pending :=
  ⟨h.regs, h.ret, h.stg, h.cert, h.img, h.pend⟩

/-- The first part of a pair that a match took apart. -/
theorem Keep.of_fst {α : Type} {r : State × α} {t : State} {x : α} (hq : r = (t, x)) (h : Keep L r.1) : Keep L t := by
  rw [hq] at h; exact h

/-! ### The operations of Ops.lean -/

theorem wr_keep (f : Fld) (i v : Nat) (h : Keep L s) : Keep L (wr s f i v) :=
  ⟨rwf_rset h.regs f i v, h.ret, h.stg, h.cert, h.img, h.pend⟩

theorem wrb_keep (f : Fld) (i : Nat) (b : Bool) (h : Keep L s) : Keep L (wrb s f i b) := wr_keep f i _ h

theorem inc_keep (f : Fld) (i n : Nat) (h : Keep L s) : Keep L (inc s f i n) :=
  ⟨rwf_rbump h.regs f i n, h.ret, h.stg, h.cert, h.img, h.pend⟩

theorem rreset_keep (hit : Nat → Bool) (h : Keep L s) : Keep L { s with regs := rreset s.regs hit } :=
  ⟨rwf_rreset h.regs hit, h.ret, h.stg, h.cert, h.img, h.pend⟩

theorem raise_keep (src inst : Nat) (pt : Option Nat) (h : Keep L s) : Keep L (raise s src inst pt) := h.upd rfl rfl rfl rfl rfl rfl

theorem waitEnd_keep (k : Nat) (h : Keep L s) : Keep L (waitEnd s k) := h.upd rfl rfl rfl rfl rfl rfl

theorem raiseIf_keep (c : Bool) (src inst : Nat) (pt : Option Nat) (h : Keep L s) : Keep L (raiseIf c s src inst pt) := by
  unfold raiseIf; split
  · exact raise_keep _ _ _ h
  · exact h

theorem resCheck_keep (r v src inst : Nat) (h : Keep L s) : Keep L (resCheck s r v src inst) := raiseIf_keep _ _ _ _ h

theorem moveCheck_keep (a lo base src inst : Nat) (h : Keep L s) : Keep L (moveCheck s a lo base src inst) := raiseIf_keep _ _ _ _ h

theorem emit_keep (e : Emit) (h : Keep L s) : Keep L (emit s e) := h.upd rfl rfl rfl rfl rfl rfl

/-- What each action keeps, the sequence keeps. -/
theorem foldl_keep {α : Type} (f : State → α → State) (hf : ∀ t e, Keep L t → Keep L (f t e)) :
    ∀ (l : List α) {s : State}, Keep L s → Keep L (l.foldl f s)
  | [], _, h => h
  | e :: l, _, h => foldl_keep f hf l (hf _ e h)

theorem forEach_keep {α : Type} (l : List α) (f : State → α → State) (h : Keep L s) (hf : ∀ t e, Keep L t → Keep L (f t e)) :
    Keep L (forEach l s f) := foldl_keep f hf l h

/-- The same for a sequence that carries a value along. -/
theorem foldl_keep_fst {α β : Type} (f : State × β → α → State × β) (hf : ∀ t e, Keep L t.1 → Keep L (f t e).1) :
    ∀ (l : List α) {s : State × β}, Keep L s.1 → Keep L (l.foldl f s).1
  | [], _, h => h
  | e :: l, _, h => foldl_keep_fst f hf l (hf _ e h)

theorem fenceFree_keep (hit : Nat → Bool) (h : Keep L s) : Keep L (fenceFree s hit) := by
  have h1 := forEach_keep ((setIdx s FLT_SEV_FENCED).filter hit) (fun s n => wr s FLT_SEV_FENCED n 0) h
    (fun t e ht => wr_keep _ _ _ ht)
  unfold fenceFree
  extract_lets t
  split
  · exact wr_keep _ _ _ h1
  · exact h1

theorem accDenied_keep (m : Master) (code : Nat) (h : Keep L s) : Keep L (accDenied s m code) := by
  cases m
  · exact h
  · exact h.upd rfl rfl rfl rfl rfl rfl
  · exact wr_keep _ _ _ h

theorem asMaster_keep (m : Master) (off : Nat) (f : State → State) (h : Keep L s) (hf : ∀ t, Keep L t → Keep L (f t)) :
    Keep L (asMaster s m off f) := by
  unfold asMaster
  split
  · exact accDenied_keep _ _ h
  split
  · exact accDenied_keep _ _ (inc_keep _ _ _ h)
  · apply hf; split
    · exact h.upd rfl rfl rfl rfl rfl rfl
    · exact h

end Sys2Proof.Machine
end

