-- ==== Sys2Proof/Laws/KeepAwt.lean ====
section
/-! SUPPORT. What the operations of Awt.lean keep. -/

namespace Sys2Proof.Machine

variable {L : List Instr}

theorem awtLog_keep (s : State) (r : AccReq) (reason : Nat) (hk : Keep L s) :
    Keep L (awtLog s r reason) := by
  unfold awtLog
  repeat' with_reducible first
    | assumption | apply wr_keep | apply wrb_keep | intro _ | split | (simp only [keep_mk]; apply Keep.parts)
    | refine Keep.of_fst (by assumption) ?_
    | (extract_lets +onlyGivenNames x
       first
         | (refine (fun (hx : Keep L x) => ?_) ?_
            on_goal 1 => clear_value x
            on_goal 2 => subst x)
         | (refine (fun (hx : Keep L x.1) => ?_) ?_
            on_goal 1 => clear_value x
            on_goal 2 => subst x)
         | clear_value x)

theorem overlapRaise_keep (s : State) (reason : Nat) (hk : Keep L s) : Keep L (overlapRaise s reason) := by
  unfold overlapRaise; split
  · exact raise_keep _ _ _ hk
  · exact hk

theorem awtDeny_keep (s : State) (r : AccReq) (reason : Nat) (hk : Keep L s) :
    Keep L (awtDeny s r reason) := by
  unfold awtDeny
  repeat' with_reducible first
    | assumption | apply overlapRaise_keep | apply awtLog_keep | apply inc_keep | apply raise_keep | intro _ | split
    | (simp only [keep_mk]; apply Keep.parts) | refine Keep.of_fst (by assumption) ?_
    | (extract_lets +onlyGivenNames x
       first
         | (refine (fun (hx : Keep L x) => ?_) ?_
            on_goal 1 => clear_value x
            on_goal 2 => subst x)
         | (refine (fun (hx : Keep L x.1) => ?_) ?_
            on_goal 1 => clear_value x
            on_goal 2 => subst x)
         | clear_value x)

theorem awtOpen_keep (s : State) (a : OpenAcc) (hk : Keep L s) :
    Keep L (awtOpen s a) := by
  unfold awtOpen
  repeat' with_reducible first
    | assumption | intro _ | split | (simp only [keep_mk]; apply Keep.parts) | refine Keep.of_fst (by assumption) ?_

theorem awtClose_keep (s : State) (done : OpenAcc → Bool) (hk : Keep L s) :
    Keep L (awtClose s done) := by
  unfold awtClose
  repeat' with_reducible first
    | assumption | intro _ | split | (simp only [keep_mk]; apply Keep.parts) | refine Keep.of_fst (by assumption) ?_

theorem awtClosePosted_keep (s : State) (id : Nat) (hk : Keep L s) :
    Keep L (awtClosePosted s id) := by
  unfold awtClosePosted
  repeat' with_reducible first
    | assumption | apply awtClose_keep | intro _ | split | (simp only [keep_mk]; apply Keep.parts)
    | refine Keep.of_fst (by assumption) ?_

theorem awtCloseNp_keep (s : State) (rid tag : Nat) (hk : Keep L s) :
    Keep L (awtCloseNp s rid tag) := by
  unfold awtCloseNp
  repeat' with_reducible first
    | assumption | apply awtClose_keep | intro _ | split | (simp only [keep_mk]; apply Keep.parts)
    | refine Keep.of_fst (by assumption) ?_

theorem awtStore_keep (s : State) (i w0 w1 w2 w3 : Nat) (hk : Keep L s) :
    Keep L (awtStore s i w0 w1 w2 w3) := by
  unfold awtStore
  repeat' with_reducible first
    | assumption | apply wr_keep | intro _ | split | (simp only [keep_mk]; apply Keep.parts)
    | refine Keep.of_fst (by assumption) ?_
    | (extract_lets +onlyGivenNames x
       first
         | (refine (fun (hx : Keep L x) => ?_) ?_
            on_goal 1 => clear_value x
            on_goal 2 => subst x)
         | (refine (fun (hx : Keep L x.1) => ?_) ?_
            on_goal 1 => clear_value x
            on_goal 2 => subst x)
         | clear_value x)

theorem awtShadowWrite_keep (s : State) (i w v : Nat) (hk : Keep L s) :
    Keep L (awtShadowWrite s i w v) := by
  unfold awtShadowWrite
  repeat' with_reducible first
    | assumption | intro _ | split | (simp only [keep_mk]; apply Keep.parts) | refine Keep.of_fst (by assumption) ?_

theorem awtLockHit_keep (s : State) (m : Master) (hk : Keep L s) :
    Keep L (awtLockHit s m) := by
  unfold awtLockHit
  repeat' with_reducible first
    | assumption | apply inc_keep | apply raise_keep | apply wr_keep | intro _ | split
    | (simp only [keep_mk]; apply Keep.parts) | refine Keep.of_fst (by assumption) ?_
    | (extract_lets +onlyGivenNames x
       first
         | (refine (fun (hx : Keep L x) => ?_) ?_
            on_goal 1 => clear_value x
            on_goal 2 => subst x)
         | (refine (fun (hx : Keep L x.1) => ?_) ?_
            on_goal 1 => clear_value x
            on_goal 2 => subst x)
         | clear_value x)

theorem awtCommit_keep (s : State) (m : Master) (i w0 : Nat) (hk : Keep L s) :
    Keep L (awtCommit s m i w0) := by
  unfold awtCommit
  repeat' with_reducible first
    | assumption | apply awtLockHit_keep | apply awtStore_keep | apply wr_keep | apply wrb_keep | intro _ | split
    | (simp only [keep_mk]; apply Keep.parts) | refine Keep.of_fst (by assumption) ?_
    | (extract_lets +onlyGivenNames x
       first
         | (refine (fun (hx : Keep L x) => ?_) ?_
            on_goal 1 => clear_value x
            on_goal 2 => subst x)
         | (refine (fun (hx : Keep L x.1) => ?_) ?_
            on_goal 1 => clear_value x
            on_goal 2 => subst x)
         | clear_value x)

theorem execAwtEntryCommit_keep (m : Master) (i : Fin 8192) (w0 : BitVec 64) (s : State) (hk : Keep L s) :
    KeepRes L (execAwtEntryCommit m i w0 s) := by
  unfold execAwtEntryCommit
  refine KeepRes.next ?_
  repeat' with_reducible first
    | assumption | apply asMaster_keep | apply awtCommit_keep | intro _ | split | (simp only [keep_mk]; apply Keep.parts)
    | refine Keep.of_fst (by assumption) ?_

theorem awtCompared_keep (s : State) (i : Nat) (hk : Keep L s) :
    Keep L (awtCompared s i) := by
  unfold awtCompared
  repeat' with_reducible first
    | assumption | apply raise_keep | apply wr_keep | apply wrb_keep | intro _ | split
    | (simp only [keep_mk]; apply Keep.parts) | refine Keep.of_fst (by assumption) ?_
    | (extract_lets +onlyGivenNames x
       first
         | (refine (fun (hx : Keep L x) => ?_) ?_
            on_goal 1 => clear_value x
            on_goal 2 => subst x)
         | (refine (fun (hx : Keep L x.1) => ?_) ?_
            on_goal 1 => clear_value x
            on_goal 2 => subst x)
         | clear_value x)

theorem execAwtOverlapCheckDone_keep (s : State) (hk : Keep L s) :
    KeepRes L (execAwtOverlapCheckDone s) := by
  unfold execAwtOverlapCheckDone
  refine KeepRes.next ?_
  repeat' with_reducible first
    | assumption | apply awtCompared_keep | apply wrb_keep | intro _ | split | (simp only [keep_mk]; apply Keep.parts)
    | refine Keep.of_fst (by assumption) ?_
    | (extract_lets +onlyGivenNames x
       first
         | (refine (fun (hx : Keep L x) => ?_) ?_
            on_goal 1 => clear_value x
            on_goal 2 => subst x)
         | (refine (fun (hx : Keep L x.1) => ?_) ?_
            on_goal 1 => clear_value x
            on_goal 2 => subst x)
         | clear_value x)

theorem awtFenceEnd_keep (s : State) (hk : Keep L s) :
    Keep L (awtFenceEnd s) := by
  unfold awtFenceEnd
  repeat' with_reducible first
    | assumption | apply wr_keep | intro _ | split | (simp only [keep_mk]; apply Keep.parts)
    | refine Keep.of_fst (by assumption) ?_

theorem awtFenceStart_keep (s : State) (hk : Keep L s) :
    Keep L (awtFenceStart s) := by
  unfold awtFenceStart
  repeat' with_reducible first
    | assumption | apply wr_keep | intro _ | split | (simp only [keep_mk]; apply Keep.parts)
    | refine Keep.of_fst (by assumption) ?_

theorem execAwtFence_keep (m : Master) (s : State) (hk : Keep L s) :
    KeepRes L (execAwtFence m s) := by
  unfold execAwtFence
  refine KeepRes.next ?_
  repeat' with_reducible first
    | assumption | apply asMaster_keep | apply awtFenceStart_keep | intro _ | split | (simp only [keep_mk]; apply Keep.parts)
    | refine Keep.of_fst (by assumption) ?_

theorem execAwtFenceDone_keep (s : State) (hk : Keep L s) :
    KeepRes L (execAwtFenceDone s) := by
  unfold execAwtFenceDone
  refine KeepRes.next ?_
  repeat' with_reducible first
    | assumption | apply awtFenceEnd_keep | intro _ | split | (simp only [keep_mk]; apply Keep.parts)
    | refine Keep.of_fst (by assumption) ?_

theorem awtStale_keep (s : State) (n : Nat) (hk : Keep L s) :
    Keep L (awtStale s n) := by
  unfold awtStale
  repeat' with_reducible first
    | assumption | apply inc_keep | apply raise_keep | apply wr_keep | intro _ | split
    | (simp only [keep_mk]; apply Keep.parts) | refine Keep.of_fst (by assumption) ?_

theorem execAwtFenceTimeout_keep (s : State) (hk : Keep L s) :
    KeepRes L (execAwtFenceTimeout s) := by
  unfold execAwtFenceTimeout
  refine KeepRes.next ?_
  repeat' with_reducible first
    | assumption | apply awtFenceEnd_keep | apply awtStale_keep | intro _ | split | (simp only [keep_mk]; apply Keep.parts)
    | refine Keep.of_fst (by assumption) ?_
    | (extract_lets +onlyGivenNames x
       first
         | (refine (fun (hx : Keep L x) => ?_) ?_
            on_goal 1 => clear_value x
            on_goal 2 => subst x)
         | (refine (fun (hx : Keep L x.1) => ?_) ?_
            on_goal 1 => clear_value x
            on_goal 2 => subst x)
         | clear_value x)

theorem bankSwap_keep (s : State) (n : Nat) (hk : Keep L s) :
    Keep L (bankSwap s n) := by
  unfold bankSwap
  repeat' with_reducible first
    | assumption | apply wr_keep | intro _ | split | (simp only [keep_mk]; apply Keep.parts)
    | refine Keep.of_fst (by assumption) ?_
    | (extract_lets +onlyGivenNames x
       first
         | (refine (fun (hx : Keep L x) => ?_) ?_
            on_goal 1 => clear_value x
            on_goal 2 => subst x)
         | (refine (fun (hx : Keep L x.1) => ?_) ?_
            on_goal 1 => clear_value x
            on_goal 2 => subst x)
         | clear_value x)

theorem execAwtBankSwap_keep (m : Master) (n : Fin 16) (s : State) (hk : Keep L s) :
    KeepRes L (execAwtBankSwap m n s) := by
  unfold execAwtBankSwap
  refine KeepRes.next ?_
  repeat' with_reducible first
    | assumption | apply asMaster_keep | apply bankSwap_keep | intro _ | split | (simp only [keep_mk]; apply Keep.parts)
    | refine Keep.of_fst (by assumption) ?_

theorem execAwtBankDrained_keep (n : Fin 16) (s : State) (hk : Keep L s) :
    KeepRes L (execAwtBankDrained n s) := by
  unfold execAwtBankDrained
  refine KeepRes.next ?_
  repeat' with_reducible first
    | assumption | apply awtStale_keep | apply wr_keep | intro _ | split | (simp only [keep_mk]; apply Keep.parts)
    | refine Keep.of_fst (by assumption) ?_
    | (extract_lets +onlyGivenNames x
       first
         | (refine (fun (hx : Keep L x) => ?_) ?_
            on_goal 1 => clear_value x
            on_goal 2 => subst x)
         | (refine (fun (hx : Keep L x.1) => ?_) ?_
            on_goal 1 => clear_value x
            on_goal 2 => subst x)
         | clear_value x)

end Sys2Proof.Machine
end

