-- ==== Sys2Proof/Laws/KeepBridges.lean ====
section
/-! SUPPORT. What the operations of Bridges.lean keep. -/

namespace Sys2Proof.Machine

variable {L : List Instr}

theorem cfgPut_keep (s : State) (f dw v : Nat) (hk : Keep L s) :
    Keep L (cfgPut s f dw v) := by
  unfold cfgPut
  repeat' with_reducible first
    | assumption | intro _ | split | (simp only [keep_mk]; apply Keep.parts) | refine Keep.of_fst (by assumption) ?_

theorem fabUpd_keep (s : State) (f : Fabric → Fabric) (hk : Keep L s) :
    Keep L (fabUpd s f) := by
  unfold fabUpd
  repeat' with_reducible first
    | assumption | intro _ | split | (simp only [keep_mk]; apply Keep.parts) | refine Keep.of_fst (by assumption) ?_

theorem retCount_keep (s : State) (p : Nat) (hk : Keep L s) :
    Keep L (retCount s p) := by
  unfold retCount
  repeat' with_reducible first
    | assumption | apply wr_keep | intro _ | split | (simp only [keep_mk]; apply Keep.parts)
    | refine Keep.of_fst (by assumption) ?_

theorem retDel_keep (s : State) (p t : Nat) (hk : Keep L s) :
    Keep L (retDel s p t) := by
  unfold retDel
  repeat' with_reducible first
    | assumption | apply fabUpd_keep | apply retCount_keep | intro _ | split | (simp only [keep_mk]; apply Keep.parts)
    | refine Keep.of_fst (by assumption) ?_

end Sys2Proof.Machine
end

