-- ==== Sys2Proof/Laws/KeepSched.lean ====
section
/-! SUPPORT. What the operations of Sched.lean keep. -/

namespace Sys2Proof.Machine

variable {L : List Instr}

theorem tokensSet_keep (s : State) (p c : Nat) (pol : Bool) (t : Int) (hk : Keep L s) :
    Keep L (tokensSet s p c pol t) := by
  unfold tokensSet
  repeat' with_reducible first
    | assumption | intro _ | split | (simp only [keep_mk]; apply Keep.parts) | refine Keep.of_fst (by assumption) ?_

theorem charge_keep (s : State) (p c : Nat) (pol : Bool) (pk : Packet) (hk : Keep L s) :
    Keep L (charge s p c pol pk) := by
  unfold charge
  repeat' with_reducible first
    | assumption | apply tokensSet_keep | intro _ | split | (simp only [keep_mk]; apply Keep.parts)
    | refine Keep.of_fst (by assumption) ?_

theorem deficitSet_keep (s : State) (o c : Nat) (v : Int) (hk : Keep L s) :
    Keep L (deficitSet s o c v) := by
  unfold deficitSet
  repeat' with_reducible first
    | assumption | intro _ | split | (simp only [keep_mk]; apply Keep.parts) | refine Keep.of_fst (by assumption) ?_

theorem classChoice_keep (s : State) (o : Nat) (cand : List Nat) (hk : Keep L s) :
    Keep L (classChoice s o cand).1 := by
  unfold classChoice
  repeat' with_reducible first
    | assumption | apply deficitSet_keep | apply foldl_keep | apply foldl_keep_fst | intro _ | split
    | (simp only [keep_mk]; apply Keep.parts) | refine Keep.of_fst (by assumption) ?_
    | (extract_lets +onlyGivenNames x
       first
         | (refine (fun (hx : Keep L x) => ?_) ?_
            on_goal 1 => clear_value x
            on_goal 2 => subst x)
         | (refine (fun (hx : Keep L x.1) => ?_) ?_
            on_goal 1 => clear_value x
            on_goal 2 => subst x)
         | clear_value x)

theorem onAccept_keep (s : State) (o c : Nat) (pk : Packet) (hk : Keep L s) :
    Keep L (onAccept s o c pk) := by
  unfold onAccept
  repeat' with_reducible first
    | assumption | apply charge_keep | apply deficitSet_keep | intro _ | split | (simp only [keep_mk]; apply Keep.parts)
    | refine Keep.of_fst (by assumption) ?_
    | (extract_lets +onlyGivenNames x
       first
         | (refine (fun (hx : Keep L x) => ?_) ?_
            on_goal 1 => clear_value x
            on_goal 2 => subst x)
         | (refine (fun (hx : Keep L x.1) => ?_) ?_
            on_goal 1 => clear_value x
            on_goal 2 => subst x)
         | clear_value x)

theorem gateBegin_keep (s : State) (p : Nat) (hk : Keep L s) :
    Keep L (gateBegin s p) := by
  unfold gateBegin
  repeat' with_reducible first
    | assumption | apply wr_keep | intro _ | split | (simp only [keep_mk]; apply Keep.parts)
    | refine Keep.of_fst (by assumption) ?_
    | (extract_lets +onlyGivenNames x
       first
         | (refine (fun (hx : Keep L x) => ?_) ?_
            on_goal 1 => clear_value x
            on_goal 2 => subst x)
         | (refine (fun (hx : Keep L x.1) => ?_) ?_
            on_goal 1 => clear_value x
            on_goal 2 => subst x)
         | clear_value x)

theorem execGateBoundary_keep (p : Fin 64) (s : State) (hk : Keep L s) :
    KeepRes L (execGateBoundary p s) := by
  unfold execGateBoundary
  refine KeepRes.next ?_
  repeat' with_reducible first
    | assumption | apply wr_keep | intro _ | split | (simp only [keep_mk]; apply Keep.parts)
    | refine Keep.of_fst (by assumption) ?_
    | (extract_lets +onlyGivenNames x
       first
         | (refine (fun (hx : Keep L x) => ?_) ?_
            on_goal 1 => clear_value x
            on_goal 2 => subst x)
         | (refine (fun (hx : Keep L x.1) => ?_) ?_
            on_goal 1 => clear_value x
            on_goal 2 => subst x)
         | clear_value x)

theorem tooLongClear_keep (s : State) (p : Nat) (hk : Keep L s) :
    Keep L (tooLongClear s p) := by
  unfold tooLongClear
  repeat' with_reducible first
    | assumption | apply wr_keep | intro _ | split | (simp only [keep_mk]; apply Keep.parts)
    | refine Keep.of_fst (by assumption) ?_

theorem disarm_keep (s : State) (p : Nat) (hk : Keep L s) :
    Keep L (disarm s p) := by
  unfold disarm
  repeat' with_reducible first
    | assumption | apply wr_keep | intro _ | split | (simp only [keep_mk]; apply Keep.parts)
    | refine Keep.of_fst (by assumption) ?_

theorem arm_keep (s : State) (p : Nat) (hk : Keep L s) :
    Keep L (arm s p) := by
  unfold arm
  repeat' with_reducible first
    | assumption | apply wr_keep | intro _ | split | (simp only [keep_mk]; apply Keep.parts)
    | refine Keep.of_fst (by assumption) ?_

theorem bankSwitch_keep (s : State) (p : Nat) (hk : Keep L s) :
    Keep L (bankSwitch s p) := by
  unfold bankSwitch
  repeat' with_reducible first
    | assumption | apply disarm_keep | apply gateBegin_keep | apply tooLongClear_keep | apply wr_keep | intro _ | split
    | (simp only [keep_mk]; apply Keep.parts) | refine Keep.of_fst (by assumption) ?_
    | (extract_lets +onlyGivenNames x
       first
         | (refine (fun (hx : Keep L x) => ?_) ?_
            on_goal 1 => clear_value x
            on_goal 2 => subst x)
         | (refine (fun (hx : Keep L x.1) => ?_) ?_
            on_goal 1 => clear_value x
            on_goal 2 => subst x)
         | clear_value x)

theorem gateCommitStart_keep (s : State) (hk : Keep L s) :
    Keep L (gateCommitStart s) := by
  unfold gateCommitStart
  repeat' with_reducible first
    | assumption | apply wr_keep | intro _ | split | (simp only [keep_mk]; apply Keep.parts)
    | refine Keep.of_fst (by assumption) ?_

theorem execGateCommitGo_keep (m : Master) (s : State) (hk : Keep L s) :
    KeepRes L (execGateCommitGo m s) := by
  unfold execGateCommitGo
  refine KeepRes.next ?_
  repeat' with_reducible first
    | assumption | apply asMaster_keep | apply gateCommitStart_keep | intro _ | split
    | (simp only [keep_mk]; apply Keep.parts) | refine Keep.of_fst (by assumption) ?_

theorem execGateCommitDone_keep (s : State) (hk : Keep L s) :
    KeepRes L (execGateCommitDone s) := by
  unfold execGateCommitDone
  refine KeepRes.next ?_
  repeat' with_reducible first
    | assumption | apply arm_keep | apply bankSwitch_keep | apply wr_keep | apply forEach_keep | intro _ | split
    | (simp only [keep_mk]; apply Keep.parts) | refine Keep.of_fst (by assumption) ?_
    | (extract_lets +onlyGivenNames x
       first
         | (refine (fun (hx : Keep L x) => ?_) ?_
            on_goal 1 => clear_value x
            on_goal 2 => subst x)
         | (refine (fun (hx : Keep L x.1) => ?_) ?_
            on_goal 1 => clear_value x
            on_goal 2 => subst x)
         | clear_value x)

theorem gateCommitCancel_keep (s : State) (hk : Keep L s) :
    Keep L (gateCommitCancel s) := by
  unfold gateCommitCancel
  repeat' with_reducible first
    | assumption | apply disarm_keep | apply tooLongClear_keep | apply wr_keep | apply forEach_keep | intro _ | split
    | (simp only [keep_mk]; apply Keep.parts) | refine Keep.of_fst (by assumption) ?_
    | (extract_lets +onlyGivenNames x
       first
         | (refine (fun (hx : Keep L x) => ?_) ?_
            on_goal 1 => clear_value x
            on_goal 2 => subst x)
         | (refine (fun (hx : Keep L x.1) => ?_) ?_
            on_goal 1 => clear_value x
            on_goal 2 => subst x)
         | clear_value x)

theorem execGateCommitCancel_keep (m : Master) (s : State) (hk : Keep L s) :
    KeepRes L (execGateCommitCancel m s) := by
  unfold execGateCommitCancel
  refine KeepRes.next ?_
  repeat' with_reducible first
    | assumption | apply asMaster_keep | apply gateCommitCancel_keep | intro _ | split
    | (simp only [keep_mk]; apply Keep.parts) | refine Keep.of_fst (by assumption) ?_

theorem gateTick_keep (s : State) (n t : Nat) (hk : Keep L s) :
    Keep L (gateTick s n t) := by
  unfold gateTick
  repeat' with_reducible first
    | assumption | apply bankSwitch_keep | apply inc_keep | apply wr_keep | apply forEach_keep | intro _ | split
    | (simp only [keep_mk]; apply Keep.parts) | refine Keep.of_fst (by assumption) ?_
    | (extract_lets +onlyGivenNames x
       first
         | (refine (fun (hx : Keep L x) => ?_) ?_
            on_goal 1 => clear_value x
            on_goal 2 => subst x)
         | (refine (fun (hx : Keep L x.1) => ?_) ?_
            on_goal 1 => clear_value x
            on_goal 2 => subst x)
         | clear_value x)

theorem tickMinSet_keep (s : State) (v : Nat) (hk : Keep L s) :
    Keep L (tickMinSet s v) := by
  unfold tickMinSet
  repeat' with_reducible first
    | assumption | apply raise_keep | apply wr_keep | apply forEach_keep | intro _ | split
    | (simp only [keep_mk]; apply Keep.parts) | refine Keep.of_fst (by assumption) ?_
    | (extract_lets +onlyGivenNames x
       first
         | (refine (fun (hx : Keep L x) => ?_) ?_
            on_goal 1 => clear_value x
            on_goal 2 => subst x)
         | (refine (fun (hx : Keep L x.1) => ?_) ?_
            on_goal 1 => clear_value x
            on_goal 2 => subst x)
         | clear_value x)

theorem tickMaxSet_keep (s : State) (v : Nat) (hk : Keep L s) :
    Keep L (tickMaxSet s v) := by
  unfold tickMaxSet
  repeat' with_reducible first
    | assumption | apply wr_keep | intro _ | split | (simp only [keep_mk]; apply Keep.parts)
    | refine Keep.of_fst (by assumption) ?_

theorem execTickMinWrite_keep (m : Master) (v : BitVec 32) (s : State) (hk : Keep L s) :
    KeepRes L (execTickMinWrite m v s) := by
  unfold execTickMinWrite
  refine KeepRes.next ?_
  repeat' with_reducible first
    | assumption | apply asMaster_keep | apply tickMinSet_keep | intro _ | split | (simp only [keep_mk]; apply Keep.parts)
    | refine Keep.of_fst (by assumption) ?_

theorem rateSet_keep (s : State) (pol : Bool) (p c v : Nat) (hk : Keep L s) :
    Keep L (rateSet s pol p c v) := by
  unfold rateSet
  repeat' with_reducible first
    | assumption | apply tokensSet_keep | apply wr_keep | intro _ | split | (simp only [keep_mk]; apply Keep.parts)
    | refine Keep.of_fst (by assumption) ?_
    | (extract_lets +onlyGivenNames x
       first
         | (refine (fun (hx : Keep L x) => ?_) ?_
            on_goal 1 => clear_value x
            on_goal 2 => subst x)
         | (refine (fun (hx : Keep L x.1) => ?_) ?_
            on_goal 1 => clear_value x
            on_goal 2 => subst x)
         | clear_value x)

theorem execShaperRateWrite_keep (m : Master) (pol : Bool) (p : Fin 64) (c : Fin 8) (v : BitVec 20) (s : State) (hk : Keep L s) :
    KeepRes L (execShaperRateWrite m pol p c v s) := by
  unfold execShaperRateWrite
  refine KeepRes.next ?_
  repeat' with_reducible first
    | assumption | apply asMaster_keep | apply rateSet_keep | intro _ | split | (simp only [keep_mk]; apply Keep.parts)
    | refine Keep.of_fst (by assumption) ?_

theorem burstSet_keep (s : State) (pol : Bool) (p c v : Nat) (hk : Keep L s) :
    Keep L (burstSet s pol p c v) := by
  unfold burstSet
  repeat' with_reducible first
    | assumption | apply tokensSet_keep | apply wr_keep | intro _ | split | (simp only [keep_mk]; apply Keep.parts)
    | refine Keep.of_fst (by assumption) ?_
    | (extract_lets +onlyGivenNames x
       first
         | (refine (fun (hx : Keep L x) => ?_) ?_
            on_goal 1 => clear_value x
            on_goal 2 => subst x)
         | (refine (fun (hx : Keep L x.1) => ?_) ?_
            on_goal 1 => clear_value x
            on_goal 2 => subst x)
         | clear_value x)

theorem execShaperBurstWrite_keep (m : Master) (pol : Bool) (p : Fin 64) (c : Fin 8) (v : BitVec 24) (s : State) (hk : Keep L s) :
    KeepRes L (execShaperBurstWrite m pol p c v s) := by
  unfold execShaperBurstWrite
  refine KeepRes.next ?_
  repeat' with_reducible first
    | assumption | apply asMaster_keep | apply burstSet_keep | intro _ | split | (simp only [keep_mk]; apply Keep.parts)
    | refine Keep.of_fst (by assumption) ?_

end Sys2Proof.Machine
end

