-- ==== Sys2Proof/Laws/KeepShank.lean ====
section
/-! SUPPORT. What the operations of Shank.lean keep. -/

namespace Sys2Proof.Machine

variable {L : List Instr}

theorem voqSet_keep (s : State) (k : Nat) (l : List QPkt) (hk : Keep L s) :
    Keep L (voqSet s k l) := by
  unfold voqSet
  repeat' with_reducible first
    | assumption | intro _ | split | (simp only [keep_mk]; apply Keep.parts) | refine Keep.of_fst (by assumption) ?_
    | (extract_lets +onlyGivenNames x
       first
         | (refine (fun (hx : Keep L x) => ?_) ?_
            on_goal 1 => clear_value x
            on_goal 2 => subst x)
         | (refine (fun (hx : Keep L x.1) => ?_) ?_
            on_goal 1 => clear_value x
            on_goal 2 => subst x)
         | clear_value x)

theorem durDone_keep (s : State) (hk : Keep L s) :
    Keep L (durDone s) := by
  unfold durDone
  repeat' with_reducible first
    | assumption | apply wr_keep | intro _ | split | (simp only [keep_mk]; apply Keep.parts)
    | refine Keep.of_fst (by assumption) ?_

theorem overBudget_keep (s : State) (hk : Keep L s) :
    Keep L (overBudget s) := by
  unfold overBudget
  repeat' with_reducible first
    | assumption | apply durDone_keep | apply raise_keep | apply wr_keep | intro _ | split
    | (simp only [keep_mk]; apply Keep.parts) | refine Keep.of_fst (by assumption) ?_
    | (extract_lets +onlyGivenNames x
       first
         | (refine (fun (hx : Keep L x) => ?_) ?_
            on_goal 1 => clear_value x
            on_goal 2 => subst x)
         | (refine (fun (hx : Keep L x.1) => ?_) ?_
            on_goal 1 => clear_value x
            on_goal 2 => subst x)
         | clear_value x)

theorem l1Leave_keep (s : State) (o : Nat) (hk : Keep L s) :
    Keep L (l1Leave s o) := by
  unfold l1Leave
  repeat' with_reducible first
    | assumption | apply emit_keep | intro _ | split | (simp only [keep_mk]; apply Keep.parts)
    | refine Keep.of_fst (by assumption) ?_

theorem stage_keep (s : State) (o : Nat) (st : Staged) (hk : Keep L s) :
    Keep L (stage s o st) := by
  unfold stage
  repeat' with_reducible first
    | assumption | apply l1Leave_keep | intro _ | split | (simp only [keep_mk]; apply Keep.parts)
    | refine Keep.of_fst (by assumption) ?_
    | (extract_lets +onlyGivenNames x
       first
         | (refine (fun (hx : Keep L x) => ?_) ?_
            on_goal 1 => clear_value x
            on_goal 2 => subst x)
         | (refine (fun (hx : Keep L x.1) => ?_) ?_
            on_goal 1 => clear_value x
            on_goal 2 => subst x)
         | clear_value x)

theorem takeSeq_keep (s : State) (hk : Keep L s) :
    Keep L (takeSeq s).1 := by
  unfold takeSeq
  repeat' with_reducible first
    | assumption | intro _ | split | (simp only [keep_mk]; apply Keep.parts) | refine Keep.of_fst (by assumption) ?_

theorem formed_keep (s : State) (o : Nat) (cls pt : Nat) (pk : Packet) (hk : Keep L s) :
    Keep L (formed s o cls pt pk) := by
  unfold formed
  repeat' with_reducible first
    | assumption | apply charge_keep | apply stage_keep | apply takeSeq_keep | intro _ | split
    | (simp only [keep_mk]; apply Keep.parts) | refine Keep.of_fst (by assumption) ?_
    | (extract_lets +onlyGivenNames x
       first
         | (refine (fun (hx : Keep L x) => ?_) ?_
            on_goal 1 => clear_value x
            on_goal 2 => subst x)
         | (refine (fun (hx : Keep L x.1) => ?_) ?_
            on_goal 1 => clear_value x
            on_goal 2 => subst x)
         | clear_value x)

theorem unwait_keep (s : State) (o : Nat) (hk : Keep L s) :
    Keep L (unwait s o) := by
  unfold unwait
  repeat' with_reducible first
    | assumption | apply stage_keep | apply forEach_keep | intro _ | split | (simp only [keep_mk]; apply Keep.parts)
    | refine Keep.of_fst (by assumption) ?_

theorem answer_keep (s : State) (a cls pt : Nat) (pk : Packet) (st : CplStatus) (hk : Keep L s) :
    Keep L (answer s a cls pt pk st) := by
  unfold answer
  repeat' with_reducible first
    | assumption | apply awtCloseNp_keep | apply emit_keep | apply formed_keep | intro _ | split
    | (simp only [keep_mk]; apply Keep.parts) | refine Keep.of_fst (by assumption) ?_
    | (extract_lets +onlyGivenNames x
       first
         | (refine (fun (hx : Keep L x) => ?_) ?_
            on_goal 1 => clear_value x
            on_goal 2 => subst x)
         | (refine (fun (hx : Keep L x.1) => ?_) ?_
            on_goal 1 => clear_value x
            on_goal 2 => subst x)
         | clear_value x)

theorem creditGive_keep (s : State) (a cls : Nat) (pk : Packet) (hk : Keep L s) :
    Keep L (creditGive s a cls pk) := by
  unfold creditGive
  repeat' with_reducible first
    | assumption | apply emit_keep | apply wr_keep | intro _ | split | (simp only [keep_mk]; apply Keep.parts)
    | refine Keep.of_fst (by assumption) ?_
    | (extract_lets +onlyGivenNames x
       first
         | (refine (fun (hx : Keep L x) => ?_) ?_
            on_goal 1 => clear_value x
            on_goal 2 => subst x)
         | (refine (fun (hx : Keep L x.1) => ?_) ?_
            on_goal 1 => clear_value x
            on_goal 2 => subst x)
         | clear_value x)

theorem creditBack_keep (s : State) (a cls : Nat) (pk : Packet) (hk : Keep L s) :
    Keep L (creditBack s a cls pk) := by
  unfold creditBack
  repeat' with_reducible first
    | assumption | apply creditGive_keep | intro _ | split | (simp only [keep_mk]; apply Keep.parts)
    | refine Keep.of_fst (by assumption) ?_

theorem creditsBack_keep (s : State) (hk : Keep L s) :
    Keep L (creditsBack s) := by
  unfold creditsBack
  repeat' with_reducible first
    | assumption | apply creditGive_keep | apply forEach_keep | intro _ | split | (simp only [keep_mk]; apply Keep.parts)
    | refine Keep.of_fst (by assumption) ?_

theorem enqueue_keep (s : State) (k : Nat) (q : QPkt) (spd : Nat) (hk : Keep L s) :
    Keep L (enqueue s k q spd) := by
  unfold enqueue
  repeat' with_reducible first
    | assumption | apply creditBack_keep | apply overBudget_keep | apply voqSet_keep | intro _ | split
    | (simp only [keep_mk]; apply Keep.parts) | refine Keep.of_fst (by assumption) ?_
    | (extract_lets +onlyGivenNames x
       first
         | (refine (fun (hx : Keep L x) => ?_) ?_
            on_goal 1 => clear_value x
            on_goal 2 => subst x)
         | (refine (fun (hx : Keep L x.1) => ?_) ?_
            on_goal 1 => clear_value x
            on_goal 2 => subst x)
         | clear_value x)

theorem hold_keep (s : State) (q : QPkt) (o : Nat) (pol budget : Bool) (hk : Keep L s) :
    Keep L (hold s q o pol budget) := by
  unfold hold
  repeat' with_reducible first
    | assumption | intro _ | split | (simp only [keep_mk]; apply Keep.parts) | refine Keep.of_fst (by assumption) ?_
    | (extract_lets +onlyGivenNames x
       first
         | (refine (fun (hx : Keep L x) => ?_) ?_
            on_goal 1 => clear_value x
            on_goal 2 => subst x)
         | (refine (fun (hx : Keep L x.1) => ?_) ?_
            on_goal 1 => clear_value x
            on_goal 2 => subst x)
         | clear_value x)

theorem store_keep (s : State) (q : QPkt) (o : Nat) (hk : Keep L s) :
    Keep L (store s q o) := by
  unfold store
  repeat' with_reducible first
    | assumption | apply enqueue_keep | apply hold_keep | apply inc_keep | apply raise_keep | intro _ | split
    | (simp only [keep_mk]; apply Keep.parts) | refine Keep.of_fst (by assumption) ?_
    | (extract_lets +onlyGivenNames x
       first
         | (refine (fun (hx : Keep L x) => ?_) ?_
            on_goal 1 => clear_value x
            on_goal 2 => subst x)
         | (refine (fun (hx : Keep L x.1) => ?_) ?_
            on_goal 1 => clear_value x
            on_goal 2 => subst x)
         | clear_value x)

theorem holdCount_keep (s : State) (a : Nat) (hk : Keep L s) :
    Keep L (holdCount s a) := by
  unfold holdCount
  repeat' with_reducible first
    | assumption | apply inc_keep | apply foldl_keep | apply foldl_keep_fst | intro _ | split
    | (simp only [keep_mk]; apply Keep.parts) | refine Keep.of_fst (by assumption) ?_
    | (extract_lets +onlyGivenNames x
       first
         | (refine (fun (hx : Keep L x) => ?_) ?_
            on_goal 1 => clear_value x
            on_goal 2 => subst x)
         | (refine (fun (hx : Keep L x.1) => ?_) ?_
            on_goal 1 => clear_value x
            on_goal 2 => subst x)
         | clear_value x)

theorem heldTime_keep (s : State) (h : HeldPkt) (hk : Keep L s) :
    Keep L (heldTime s h) := by
  unfold heldTime
  repeat' with_reducible first
    | assumption | apply inc_keep | intro _ | split | (simp only [keep_mk]; apply Keep.parts)
    | refine Keep.of_fst (by assumption) ?_
    | (extract_lets +onlyGivenNames x
       first
         | (refine (fun (hx : Keep L x) => ?_) ?_
            on_goal 1 => clear_value x
            on_goal 2 => subst x)
         | (refine (fun (hx : Keep L x.1) => ?_) ?_
            on_goal 1 => clear_value x
            on_goal 2 => subst x)
         | clear_value x)

theorem unhold_keep (s : State) (h : HeldPkt) (hk : Keep L s) :
    Keep L (unhold s h) := by
  unfold unhold
  repeat' with_reducible first
    | assumption | apply heldTime_keep | apply holdCount_keep | intro _ | split | (simp only [keep_mk]; apply Keep.parts)
    | refine Keep.of_fst (by assumption) ?_
    | (extract_lets +onlyGivenNames x
       first
         | (refine (fun (hx : Keep L x) => ?_) ?_
            on_goal 1 => clear_value x
            on_goal 2 => subst x)
         | (refine (fun (hx : Keep L x.1) => ?_) ?_
            on_goal 1 => clear_value x
            on_goal 2 => subst x)
         | clear_value x)

theorem release_keep (s : State) (hk : Keep L s) :
    Keep L (release s) := by
  unfold release
  repeat' with_reducible first
    | assumption | apply enqueue_keep | apply unhold_keep | apply forEach_keep | intro _ | split
    | (simp only [keep_mk]; apply Keep.parts) | refine Keep.of_fst (by assumption) ?_
    | (extract_lets +onlyGivenNames x
       first
         | (refine (fun (hx : Keep L x) => ?_) ?_
            on_goal 1 => clear_value x
            on_goal 2 => subst x)
         | (refine (fun (hx : Keep L x.1) => ?_) ?_
            on_goal 1 => clear_value x
            on_goal 2 => subst x)
         | clear_value x)

theorem unspill_keep (s : State) (k : Nat) (hk : Keep L s) :
    Keep L (unspill s k) := by
  unfold unspill
  repeat' with_reducible first
    | assumption | intro _ | split | (simp only [keep_mk]; apply Keep.parts) | refine Keep.of_fst (by assumption) ?_

theorem voqDrop_keep (s : State) (k : Nat) (gone : QPkt → Bool) (hk : Keep L s) :
    Keep L (voqDrop s k gone) := by
  unfold voqDrop
  repeat' with_reducible first
    | assumption | apply creditBack_keep | apply unspill_keep | apply voqSet_keep | apply forEach_keep | apply foldl_keep
    | apply foldl_keep_fst | intro _ | split | (simp only [keep_mk]; apply Keep.parts)
    | refine Keep.of_fst (by assumption) ?_
    | (extract_lets +onlyGivenNames x
       first
         | (refine (fun (hx : Keep L x) => ?_) ?_
            on_goal 1 => clear_value x
            on_goal 2 => subst x)
         | (refine (fun (hx : Keep L x.1) => ?_) ?_
            on_goal 1 => clear_value x
            on_goal 2 => subst x)
         | clear_value x)

theorem answerLost_keep (s : State) (o : Nat) (q : QPkt) (st : CplStatus) (hk : Keep L s) :
    Keep L (answerLost s o q st) := by
  unfold answerLost
  repeat' with_reducible first
    | assumption | apply answer_keep | apply retDel_keep | intro _ | split | (simp only [keep_mk]; apply Keep.parts)
    | refine Keep.of_fst (by assumption) ?_

theorem lose_keep (s : State) (o : Nat) (q : QPkt) (st : CplStatus) (upstream : Bool) (hk : Keep L s) :
    Keep L (lose s o q st upstream) := by
  unfold lose
  repeat' with_reducible first
    | assumption | apply answerLost_keep | apply awtClosePosted_keep | apply inc_keep | intro _ | split
    | (simp only [keep_mk]; apply Keep.parts) | refine Keep.of_fst (by assumption) ?_
    | (extract_lets +onlyGivenNames x
       first
         | (refine (fun (hx : Keep L x) => ?_) ?_
            on_goal 1 => clear_value x
            on_goal 2 => subst x)
         | (refine (fun (hx : Keep L x.1) => ?_) ?_
            on_goal 1 => clear_value x
            on_goal 2 => subst x)
         | clear_value x)

theorem flushPort_keep (s : State) (o : Nat) (st : CplStatus) (upstream : Bool) (hk : Keep L s) :
    Keep L (flushPort s o st upstream) := by
  unfold flushPort
  repeat' with_reducible first
    | assumption | apply creditBack_keep | apply fabUpd_keep | apply holdCount_keep | apply lose_keep | apply overBudget_keep
    | apply unhold_keep | apply voqDrop_keep | apply forEach_keep | intro _ | split | (simp only [keep_mk]; apply Keep.parts)
    | refine Keep.of_fst (by assumption) ?_
    | (extract_lets +onlyGivenNames x
       first
         | (refine (fun (hx : Keep L x) => ?_) ?_
            on_goal 1 => clear_value x
            on_goal 2 => subst x)
         | (refine (fun (hx : Keep L x.1) => ?_) ?_
            on_goal 1 => clear_value x
            on_goal 2 => subst x)
         | clear_value x)

theorem voqLose_keep (s : State) (k : Nat) (st : CplStatus) (gone : QPkt → Bool) (hk : Keep L s) :
    Keep L (voqLose s k st gone) := by
  unfold voqLose
  repeat' with_reducible first
    | assumption | apply lose_keep | apply voqDrop_keep | apply forEach_keep | intro _ | split
    | (simp only [keep_mk]; apply Keep.parts) | refine Keep.of_fst (by assumption) ?_

theorem dropGroup_keep (s : State) (q : Nat) (hk : Keep L s) :
    Keep L (dropGroup s q) := by
  unfold dropGroup
  repeat' with_reducible first
    | assumption | apply overBudget_keep | apply voqLose_keep | apply forEach_keep | intro _ | split
    | (simp only [keep_mk]; apply Keep.parts) | refine Keep.of_fst (by assumption) ?_

theorem discardAll_keep (s : State) (hk : Keep L s) :
    Keep L (discardAll s) := by
  unfold discardAll
  repeat' with_reducible first
    | assumption | apply holdCount_keep | apply inc_keep | apply overBudget_keep | apply forEach_keep | intro _ | split
    | (simp only [keep_mk]; apply Keep.parts) | refine Keep.of_fst (by assumption) ?_
    | (extract_lets +onlyGivenNames x
       first
         | (refine (fun (hx : Keep L x) => ?_) ?_
            on_goal 1 => clear_value x
            on_goal 2 => subst x)
         | (refine (fun (hx : Keep L x.1) => ?_) ?_
            on_goal 1 => clear_value x
            on_goal 2 => subst x)
         | clear_value x)

theorem grantOf_keep (s : State) (o : Nat) (rs : List Req) (hk : Keep L s) :
    Keep L (grantOf s o rs).1 := by
  unfold grantOf
  repeat' with_reducible first
    | assumption | apply classChoice_keep | intro _ | split | (simp only [keep_mk]; apply Keep.parts)
    | refine Keep.of_fst (by assumption) ?_
    | (extract_lets +onlyGivenNames x
       first
         | (refine (fun (hx : Keep L x) => ?_) ?_
            on_goal 1 => clear_value x
            on_goal 2 => subst x)
         | (refine (fun (hx : Keep L x.1) => ?_) ?_
            on_goal 1 => clear_value x
            on_goal 2 => subst x)
         | clear_value x)

theorem guardCount_keep (s : State) (busyI busyO : List Nat) (hk : Keep L s) :
    Keep L (guardCount s busyI busyO) := by
  unfold guardCount
  repeat' with_reducible first
    | assumption | apply grantOf_keep | apply inc_keep | apply forEach_keep | intro _ | split
    | (simp only [keep_mk]; apply Keep.parts) | refine Keep.of_fst (by assumption) ?_
    | (extract_lets +onlyGivenNames x
       first
         | (refine (fun (hx : Keep L x) => ?_) ?_
            on_goal 1 => clear_value x
            on_goal 2 => subst x)
         | (refine (fun (hx : Keep L x.1) => ?_) ?_
            on_goal 1 => clear_value x
            on_goal 2 => subst x)
         | clear_value x)

theorem voqTake_keep (s : State) (k n : Nat) (hk : Keep L s) :
    Keep L (voqTake s k n) := by
  unfold voqTake
  repeat' with_reducible first
    | assumption | apply voqSet_keep | intro _ | split | (simp only [keep_mk]; apply Keep.parts)
    | refine Keep.of_fst (by assumption) ?_

theorem puEgress_keep (s : State) (q : QPkt) (hk : Keep L s) :
    Keep L (puEgress s q) := by
  unfold puEgress
  repeat' with_reducible first
    | assumption | intro _ | split | (simp only [keep_mk]; apply Keep.parts) | refine Keep.of_fst (by assumption) ?_

theorem accept_keep (s : State) (r : Req) (hk : Keep L s) :
    Keep L (accept s r) := by
  unfold accept
  repeat' with_reducible first
    | assumption | apply onAccept_keep | apply puEgress_keep | apply stage_keep | apply voqTake_keep | intro _ | split
    | (simp only [keep_mk]; apply Keep.parts) | refine Keep.of_fst (by assumption) ?_
    | (extract_lets +onlyGivenNames x
       first
         | (refine (fun (hx : Keep L x) => ?_) ?_
            on_goal 1 => clear_value x
            on_goal 2 => subst x)
         | (refine (fun (hx : Keep L x.1) => ?_) ?_
            on_goal 1 => clear_value x
            on_goal 2 => subst x)
         | clear_value x)

theorem matchRound_keep (sb : State × List Nat × List Nat) (hk : Keep L sb.1) : Keep L (matchRound sb).1 := by
  obtain ⟨s, bi, bo⟩ := sb
  unfold matchRound
  dsimp only
  refine foldl_keep_fst _ ?_ _ ?_
  · intro t e ht
    split
    · split
      · exact accept_keep _ _ ht
      · exact ht
    · exact ht
  · refine foldl_keep_fst _ ?_ _ hk
    intro t e ht
    exact grantOf_keep _ _ _ ht

theorem clusterTake_keep (s : State) (o : Nat) (hk : Keep L s) :
    Keep L (clusterTake s o) := by
  unfold clusterTake
  repeat' with_reducible first
    | assumption | apply awtClosePosted_keep | apply emit_keep | apply forEach_keep | intro _ | split
    | (simp only [keep_mk]; apply Keep.parts) | refine Keep.of_fst (by assumption) ?_
    | (extract_lets +onlyGivenNames x
       first
         | (refine (fun (hx : Keep L x) => ?_) ?_
            on_goal 1 => clear_value x
            on_goal 2 => subst x)
         | (refine (fun (hx : Keep L x.1) => ?_) ?_
            on_goal 1 => clear_value x
            on_goal 2 => subst x)
         | clear_value x)

theorem xbarSlot_keep (s : State) (hk : Keep L s) :
    Keep L (xbarSlot s) := by
  unfold xbarSlot
  repeat' with_reducible first
    | assumption | apply clusterTake_keep | apply forEach_keep | intro _ | split | (simp only [keep_mk]; apply Keep.parts)
    | refine Keep.of_fst (by assumption) ?_
    | (extract_lets +onlyGivenNames x
       first
         | (refine (fun (hx : Keep L x) => ?_) ?_
            on_goal 1 => clear_value x
            on_goal 2 => subst x)
         | (refine (fun (hx : Keep L x.1) => ?_) ?_
            on_goal 1 => clear_value x
            on_goal 2 => subst x)
         | clear_value x)

theorem packetMatch_keep (s : State) (hk : Keep L s) :
    Keep L (packetMatch s) := by
  unfold packetMatch
  repeat' with_reducible first
    | assumption | apply guardCount_keep | apply matchRound_keep | apply overBudget_keep | apply release_keep
    | apply xbarSlot_keep | intro _ | split | (simp only [keep_mk]; apply Keep.parts) | refine Keep.of_fst (by assumption) ?_
    | (extract_lets +onlyGivenNames x
       first
         | (refine (fun (hx : Keep L x) => ?_) ?_
            on_goal 1 => clear_value x
            on_goal 2 => subst x)
         | (refine (fun (hx : Keep L x.1) => ?_) ?_
            on_goal 1 => clear_value x
            on_goal 2 => subst x)
         | clear_value x)

theorem execSpillWriteDone_keep (i o : Fin 72) (c : Fin 8) (s : State) (hk : Keep L s) :
    KeepRes L (execSpillWriteDone i o c s) := by
  unfold execSpillWriteDone
  refine KeepRes.next ?_
  repeat' with_reducible first
    | assumption | apply creditBack_keep | apply inc_keep | intro _ | split | (simp only [keep_mk]; apply Keep.parts)
    | refine Keep.of_fst (by assumption) ?_
    | (extract_lets +onlyGivenNames x
       first
         | (refine (fun (hx : Keep L x) => ?_) ?_
            on_goal 1 => clear_value x
            on_goal 2 => subst x)
         | (refine (fun (hx : Keep L x.1) => ?_) ?_
            on_goal 1 => clear_value x
            on_goal 2 => subst x)
         | clear_value x)

theorem readBack_keep (s : State) (k : Nat) (r : Readback) (hk : Keep L s) :
    Keep L (readBack s k r) := by
  unfold readBack
  repeat' with_reducible first
    | assumption | apply corrected_keep | apply inc_keep | apply overBudget_keep | apply raise_keep | apply release_keep
    | apply unspill_keep | apply voqLose_keep | apply voqSet_keep | intro _ | split | (simp only [keep_mk]; apply Keep.parts)
    | refine Keep.of_fst (by assumption) ?_
    | (extract_lets +onlyGivenNames x
       first
         | (refine (fun (hx : Keep L x) => ?_) ?_
            on_goal 1 => clear_value x
            on_goal 2 => subst x)
         | (refine (fun (hx : Keep L x.1) => ?_) ?_
            on_goal 1 => clear_value x
            on_goal 2 => subst x)
         | clear_value x)

theorem unstage_keep (s : State) (o : Nat) (n : Nat) (hk : Keep L s) :
    Keep L (unstage s o n) := by
  unfold unstage
  repeat' with_reducible first
    | assumption | apply unwait_keep | intro _ | split | (simp only [keep_mk]; apply Keep.parts)
    | refine Keep.of_fst (by assumption) ?_

theorem badAfterHead_keep (s : State) (o : Nat) (q : QPkt) (hk : Keep L s) :
    Keep L (badAfterHead s o q) := by
  unfold badAfterHead
  repeat' with_reducible first
    | assumption | apply answerLost_keep | apply awtClosePosted_keep | apply inc_keep | apply raise_keep | intro _ | split
    | (simp only [keep_mk]; apply Keep.parts) | refine Keep.of_fst (by assumption) ?_

theorem execInputHeldTimeout_keep (a : Fin 72) (s : State) (hk : Keep L s) :
    KeepRes L (execInputHeldTimeout a s) := by
  unfold execInputHeldTimeout
  refine KeepRes.next ?_
  repeat' with_reducible first
    | assumption | apply raise_keep | intro _ | split | (simp only [keep_mk]; apply Keep.parts)
    | refine Keep.of_fst (by assumption) ?_

theorem voqSelect_keep (s : State) (v : Nat) (hk : Keep L s) :
    Keep L (voqSelect s v) := by
  unfold voqSelect
  repeat' with_reducible first
    | assumption | apply wr_keep | intro _ | split | (simp only [keep_mk]; apply Keep.parts)
    | refine Keep.of_fst (by assumption) ?_
    | (extract_lets +onlyGivenNames x
       first
         | (refine (fun (hx : Keep L x) => ?_) ?_
            on_goal 1 => clear_value x
            on_goal 2 => subst x)
         | (refine (fun (hx : Keep L x.1) => ?_) ?_
            on_goal 1 => clear_value x
            on_goal 2 => subst x)
         | clear_value x)

theorem execVoqSelectWrite_keep (m : Master) (v : BitVec 32) (s : State) (hk : Keep L s) :
    KeepRes L (execVoqSelectWrite m v s) := by
  unfold execVoqSelectWrite
  refine KeepRes.next ?_
  repeat' with_reducible first
    | assumption | apply asMaster_keep | apply voqSelect_keep | intro _ | split | (simp only [keep_mk]; apply Keep.parts)
    | refine Keep.of_fst (by assumption) ?_

theorem ofmQuotaPut_keep (s : State) (i v : Nat) (hk : Keep L s) :
    Keep L (ofmQuotaPut s i v) := by
  unfold ofmQuotaPut
  repeat' with_reducible first
    | assumption | apply release_keep | apply wr_keep | intro _ | split | (simp only [keep_mk]; apply Keep.parts)
    | refine Keep.of_fst (by assumption) ?_

theorem durTcPut_keep (s : State) (v : Nat) (hk : Keep L s) :
    Keep L (durTcPut s v) := by
  unfold durTcPut
  repeat' with_reducible first
    | assumption | apply overBudget_keep | apply release_keep | apply wr_keep | intro _ | split
    | (simp only [keep_mk]; apply Keep.parts) | refine Keep.of_fst (by assumption) ?_

end Sys2Proof.Machine
end

