-- ==== Sys2Proof/Laws/KeepRoute.lean ====
section
/-! SUPPORT. What the operations of Route.lean keep. -/

namespace Sys2Proof.Machine

variable {L : List Instr}

theorem fabHop_keep (s : State) (d h : Nat) (hk : Keep L s) :
    Keep L (fabHop s d h).1 := by
  unfold fabHop
  repeat' with_reducible first
    | assumption | apply wr_keep | intro _ | split | (simp only [keep_mk]; apply Keep.parts)
    | refine Keep.of_fst (by assumption) ?_
    | (extract_lets +onlyGivenNames x
       first
         | (refine (fun (hx : Keep L x) => ?_) ?_
            on_goal 1 => clear_value x
            on_goal 2 => subst x)
         | (refine (fun (hx : Keep L x.1) => ?_) ?_
            on_goal 1 => clear_value x
            on_goal 2 => subst x)
         | clear_value x)

theorem aerLog_keep (s : State) (p n i : Nat) (pk : Packet) (hk : Keep L s) :
    Keep L (aerLog s p n i pk) := by
  unfold aerLog
  repeat' with_reducible first
    | assumption | apply cfgPut_keep | apply formed_keep | apply forEach_keep | intro _ | split
    | (simp only [keep_mk]; apply Keep.parts) | refine Keep.of_fst (by assumption) ?_
    | (extract_lets +onlyGivenNames x
       first
         | (refine (fun (hx : Keep L x) => ?_) ?_
            on_goal 1 => clear_value x
            on_goal 2 => subst x)
         | (refine (fun (hx : Keep L x.1) => ?_) ?_
            on_goal 1 => clear_value x
            on_goal 2 => subst x)
         | clear_value x)

theorem turnAwayQuiet_keep (s : State) (c : Cell) (st : CplStatus) (hk : Keep L s) :
    Keep L (turnAwayQuiet s c st) := by
  unfold turnAwayQuiet
  repeat' with_reducible first
    | assumption | apply answer_keep | apply creditBack_keep | intro _ | split | (simp only [keep_mk]; apply Keep.parts)
    | refine Keep.of_fst (by assumption) ?_
    | (extract_lets +onlyGivenNames x
       first
         | (refine (fun (hx : Keep L x) => ?_) ?_
            on_goal 1 => clear_value x
            on_goal 2 => subst x)
         | (refine (fun (hx : Keep L x.1) => ?_) ?_
            on_goal 1 => clear_value x
            on_goal 2 => subst x)
         | clear_value x)

theorem turnAway_keep (s : State) (c : Cell) (st : CplStatus) (hk : Keep L s) :
    Keep L (turnAway s c st) := by
  unfold turnAway
  repeat' with_reducible first
    | assumption | apply aerLog_keep | apply turnAwayQuiet_keep | intro _ | split | (simp only [keep_mk]; apply Keep.parts)
    | refine Keep.of_fst (by assumption) ?_

theorem toDown_keep (s : State) (o : Nat) (c : Cell) (upstream : Bool) (hk : Keep L s) :
    Keep L (toDown s o c upstream) := by
  unfold toDown
  repeat' with_reducible first
    | assumption | apply creditBack_keep | apply lose_keep | intro _ | split | (simp only [keep_mk]; apply Keep.parts)
    | refine Keep.of_fst (by assumption) ?_
    | (extract_lets +onlyGivenNames x
       first
         | (refine (fun (hx : Keep L x) => ?_) ?_
            on_goal 1 => clear_value x
            on_goal 2 => subst x)
         | (refine (fun (hx : Keep L x.1) => ?_) ?_
            on_goal 1 => clear_value x
            on_goal 2 => subst x)
         | clear_value x)

theorem storeTo_keep (s : State) (o : Nat) (c : Cell) (hk : Keep L s) :
    Keep L (storeTo s o c) := by
  unfold storeTo
  repeat' with_reducible first
    | assumption | apply aerLog_keep | apply creditBack_keep | apply inc_keep | apply store_keep | apply takeSeq_keep
    | apply toDown_keep | apply turnAwayQuiet_keep | intro _ | split | (simp only [keep_mk]; apply Keep.parts)
    | refine Keep.of_fst (by assumption) ?_
    | (extract_lets +onlyGivenNames x
       first
         | (refine (fun (hx : Keep L x) => ?_) ?_
            on_goal 1 => clear_value x
            on_goal 2 => subst x)
         | (refine (fun (hx : Keep L x.1) => ?_) ?_
            on_goal 1 => clear_value x
            on_goal 2 => subst x)
         | clear_value x)

theorem noRoute_keep (s : State) (d : Nat) (c : Cell) (hk : Keep L s) :
    Keep L (noRoute s d c) := by
  unfold noRoute
  repeat' with_reducible first
    | assumption | apply inc_keep | apply raise_keep | apply turnAway_keep | intro _ | split
    | (simp only [keep_mk]; apply Keep.parts) | refine Keep.of_fst (by assumption) ?_
    | (extract_lets +onlyGivenNames x
       first
         | (refine (fun (hx : Keep L x) => ?_) ?_
            on_goal 1 => clear_value x
            on_goal 2 => subst x)
         | (refine (fun (hx : Keep L x.1) => ?_) ?_
            on_goal 1 => clear_value x
            on_goal 2 => subst x)
         | clear_value x)

theorem toDevice_keep (s : State) (d : Nat) (c : Cell) (hk : Keep L s) :
    Keep L (toDevice s d c) := by
  unfold toDevice
  repeat' with_reducible first
    | assumption | apply fabHop_keep | apply noRoute_keep | apply storeTo_keep | intro _ | split
    | (simp only [keep_mk]; apply Keep.parts) | refine Keep.of_fst (by assumption) ?_

end Sys2Proof.Machine
end

