-- ==== Sys2Proof/Laws/KeepPlace.lean ====
section
/-! SUPPORT. What the operations of Place.lean keep. -/

namespace Sys2Proof.Machine

variable {L : List Instr}

theorem plcUpd_keep (s : State) (f : Plc → Plc) (hk : Keep L s) :
    Keep L (plcUpd s f) := by
  unfold plcUpd
  repeat' with_reducible first
    | assumption | intro _ | split | (simp only [keep_mk]; apply Keep.parts) | refine Keep.of_fst (by assumption) ?_

theorem puSet_keep (s : State) (u : Nat) (e : Pu) (hk : Keep L s) :
    Keep L (puSet s u e) := by
  unfold puSet
  repeat' with_reducible first
    | assumption | apply plcUpd_keep | intro _ | split | (simp only [keep_mk]; apply Keep.parts)
    | refine Keep.of_fst (by assumption) ?_

theorem plcStatus_keep (s : State) (hk : Keep L s) :
    Keep L (plcStatus s) := by
  unfold plcStatus
  repeat' with_reducible first
    | assumption | apply wr_keep | apply foldl_keep | apply foldl_keep_fst | intro _ | split
    | (simp only [keep_mk]; apply Keep.parts) | refine Keep.of_fst (by assumption) ?_

theorem winIdle_keep (s : State) (w : Nat) (hk : Keep L s) :
    Keep L (winIdle s w) := by
  unfold winIdle
  repeat' with_reducible first
    | assumption | apply plcUpd_keep | apply wr_keep | intro _ | split | (simp only [keep_mk]; apply Keep.parts)
    | refine Keep.of_fst (by assumption) ?_

theorem puFree_keep (s : State) (u : Nat) (keep : Bool) (hk : Keep L s) :
    Keep L (puFree s u keep) := by
  unfold puFree
  repeat' with_reducible first
    | assumption | apply puSet_keep | apply winIdle_keep | intro _ | split | (simp only [keep_mk]; apply Keep.parts)
    | refine Keep.of_fst (by assumption) ?_
    | (extract_lets +onlyGivenNames x
       first
         | (refine (fun (hx : Keep L x) => ?_) ?_
            on_goal 1 => clear_value x
            on_goal 2 => subst x)
         | (refine (fun (hx : Keep L x.1) => ?_) ?_
            on_goal 1 => clear_value x
            on_goal 2 => subst x)
         | clear_value x)

theorem memberSet_keep (s : State) (p m : Nat) (x : Member) (hk : Keep L s) :
    Keep L (memberSet s p m x) := by
  unfold memberSet
  repeat' with_reducible first
    | assumption | apply plcUpd_keep | intro _ | split | (simp only [keep_mk]; apply Keep.parts)
    | refine Keep.of_fst (by assumption) ?_

theorem recWait_keep (s : State) (r : PRec) (hk : Keep L s) :
    Keep L (recWait s r) := by
  unfold recWait
  repeat' with_reducible first
    | assumption | apply plcUpd_keep | intro _ | split | (simp only [keep_mk]; apply Keep.parts)
    | refine Keep.of_fst (by assumption) ?_

theorem recEvent_keep (s : State) (u : Nat) (r : PRec) (hk : Keep L s) :
    Keep L (recEvent s u r) := by
  unfold recEvent
  repeat' with_reducible first
    | assumption | apply plcUpd_keep | intro _ | split | (simp only [keep_mk]; apply Keep.parts)
    | refine Keep.of_fst (by assumption) ?_

theorem recDue_keep (s : State) (u : Nat) (hk : Keep L s) :
    Keep L (recDue s u) := by
  unfold recDue
  repeat' with_reducible first
    | assumption | apply puSet_keep | apply recWait_keep | intro _ | split | (simp only [keep_mk]; apply Keep.parts)
    | refine Keep.of_fst (by assumption) ?_
    | (extract_lets +onlyGivenNames x
       first
         | (refine (fun (hx : Keep L x) => ?_) ?_
            on_goal 1 => clear_value x
            on_goal 2 => subst x)
         | (refine (fun (hx : Keep L x.1) => ?_) ?_
            on_goal 1 => clear_value x
            on_goal 2 => subst x)
         | clear_value x)

theorem puEvent_keep (s : State) (u type tick bytes : Nat) (hk : Keep L s) :
    Keep L (puEvent s u type tick bytes) := by
  unfold puEvent
  repeat' with_reducible first
    | assumption | apply recEvent_keep | intro _ | split | (simp only [keep_mk]; apply Keep.parts)
    | refine Keep.of_fst (by assumption) ?_
    | (extract_lets +onlyGivenNames x
       first
         | (refine (fun (hx : Keep L x) => ?_) ?_
            on_goal 1 => clear_value x
            on_goal 2 => subst x)
         | (refine (fun (hx : Keep L x.1) => ?_) ?_
            on_goal 1 => clear_value x
            on_goal 2 => subst x)
         | clear_value x)

theorem sealPu_keep (s : State) (u reason : Nat) (hk : Keep L s) :
    Keep L (sealPu s u reason) := by
  unfold sealPu
  repeat' with_reducible first
    | assumption | apply inc_keep | apply puSet_keep | apply recDue_keep | intro _ | split
    | (simp only [keep_mk]; apply Keep.parts) | refine Keep.of_fst (by assumption) ?_
    | (extract_lets +onlyGivenNames x
       first
         | (refine (fun (hx : Keep L x) => ?_) ?_
            on_goal 1 => clear_value x
            on_goal 2 => subst x)
         | (refine (fun (hx : Keep L x.1) => ?_) ?_
            on_goal 1 => clear_value x
            on_goal 2 => subst x)
         | clear_value x)

theorem puBreak_keep (s : State) (u cause : Nat) (hk : Keep L s) :
    Keep L (puBreak s u cause) := by
  unfold puBreak
  repeat' with_reducible first
    | assumption | apply plcUpd_keep | apply puSet_keep | apply recDue_keep | intro _ | split
    | (simp only [keep_mk]; apply Keep.parts) | refine Keep.of_fst (by assumption) ?_
    | (extract_lets +onlyGivenNames x
       first
         | (refine (fun (hx : Keep L x) => ?_) ?_
            on_goal 1 => clear_value x
            on_goal 2 => subst x)
         | (refine (fun (hx : Keep L x.1) => ?_) ?_
            on_goal 1 => clear_value x
            on_goal 2 => subst x)
         | clear_value x)

theorem puFail_keep (s : State) (cause u : Nat) (hk : Keep L s) :
    Keep L (puFail s cause u) := by
  unfold puFail
  repeat' with_reducible first
    | assumption | apply inc_keep | apply puBreak_keep | apply puSet_keep | intro _ | split
    | (simp only [keep_mk]; apply Keep.parts) | refine Keep.of_fst (by assumption) ?_
    | (extract_lets +onlyGivenNames x
       first
         | (refine (fun (hx : Keep L x) => ?_) ?_
            on_goal 1 => clear_value x
            on_goal 2 => subst x)
         | (refine (fun (hx : Keep L x.1) => ?_) ?_
            on_goal 1 => clear_value x
            on_goal 2 => subst x)
         | clear_value x)

theorem memberFail_keep (s : State) (p m cause : Nat) (hk : Keep L s) :
    Keep L (memberFail s p m cause) := by
  unfold memberFail
  repeat' with_reducible first
    | assumption | apply memberSet_keep | apply puFail_keep | apply raise_keep | apply recWait_keep | apply forEach_keep
    | intro _ | split | (simp only [keep_mk]; apply Keep.parts) | refine Keep.of_fst (by assumption) ?_
    | (extract_lets +onlyGivenNames x
       first
         | (refine (fun (hx : Keep L x) => ?_) ?_
            on_goal 1 => clear_value x
            on_goal 2 => subst x)
         | (refine (fun (hx : Keep L x.1) => ?_) ?_
            on_goal 1 => clear_value x
            on_goal 2 => subst x)
         | clear_value x)

theorem membersOfPort_keep (s : State) (p : Nat) (hk : Keep L s) :
    Keep L (membersOfPort s p) := by
  unfold membersOfPort
  repeat' with_reducible first
    | assumption | apply memberFail_keep | apply forEach_keep | intro _ | split | (simp only [keep_mk]; apply Keep.parts)
    | refine Keep.of_fst (by assumption) ?_

theorem membersOfSlices_keep (s : State) (hit : Nat → Bool) (hk : Keep L s) :
    Keep L (membersOfSlices s hit) := by
  unfold membersOfSlices
  repeat' with_reducible first
    | assumption | apply memberFail_keep | apply forEach_keep | intro _ | split | (simp only [keep_mk]; apply Keep.parts)
    | refine Keep.of_fst (by assumption) ?_
    | (extract_lets +onlyGivenNames x
       first
         | (refine (fun (hx : Keep L x) => ?_) ?_
            on_goal 1 => clear_value x
            on_goal 2 => subst x)
         | (refine (fun (hx : Keep L x.1) => ?_) ?_
            on_goal 1 => clear_value x
            on_goal 2 => subst x)
         | clear_value x)

theorem takeBuf_keep (s : State) (p m : Nat) (hk : Keep L s) :
    Keep L (takeBuf s p m).1 := by
  unfold takeBuf
  repeat' with_reducible first
    | assumption | apply memberSet_keep | intro _ | split | (simp only [keep_mk]; apply Keep.parts)
    | refine Keep.of_fst (by assumption) ?_
    | (extract_lets +onlyGivenNames x
       first
         | (refine (fun (hx : Keep L x) => ?_) ?_
            on_goal 1 => clear_value x
            on_goal 2 => subst x)
         | (refine (fun (hx : Keep L x.1) => ?_) ?_
            on_goal 1 => clear_value x
            on_goal 2 => subst x)
         | clear_value x)

theorem pick_keep (s : State) (p win head ready size : Nat) (e : List Nat) (hk : Keep L s) :
    Keep L (pick s p win head ready size e).1 := by
  have hf : ∀ l : List Nat, Keep L (l.foldl (fun s m => plcUpd s (fun x =>
      { x with cur := nset 0 x.cur (p * 64 + m) (curOf s p m + (member s p m).weight) })) s) :=
    fun l => foldl_keep _ (fun t e ht => plcUpd_keep _ _ ht) l hk
  unfold pick
  repeat' with_reducible first
    | assumption | apply plcUpd_keep | apply inc_keep | intro _ | split | (simp only [keep_mk]; apply Keep.parts)
    | refine Keep.of_fst (by assumption) ?_ | exact hf _ | dsimp only

theorem decide'_keep (s : State) (p win head ready size : Nat) (hk : Keep L s) :
    Keep L (decide' s p win head ready size).1 := by
  unfold decide'
  repeat' with_reducible first
    | assumption | apply inc_keep | apply pick_keep | apply takeBuf_keep | apply wr_keep | intro _ | split
    | (simp only [keep_mk]; apply Keep.parts) | refine Keep.of_fst (by assumption) ?_
    | (extract_lets +onlyGivenNames x
       first
         | (refine (fun (hx : Keep L x) => ?_) ?_
            on_goal 1 => clear_value x
            on_goal 2 => subst x)
         | (refine (fun (hx : Keep L x.1) => ?_) ?_
            on_goal 1 => clear_value x
            on_goal 2 => subst x)
         | clear_value x)

theorem awtRefuse_keep (s : State) (c : Cell) (r : AccReq) (reason : Nat) (hk : Keep L s) :
    Keep L (awtRefuse s c r reason) := by
  unfold awtRefuse
  repeat' with_reducible first
    | assumption | apply awtDeny_keep | apply turnAway_keep | intro _ | split | (simp only [keep_mk]; apply Keep.parts)
    | refine Keep.of_fst (by assumption) ?_

theorem awtTrack_keep (s : State) (c : Cell) (owner : Nat) (hk : Keep L s) :
    Keep L (awtTrack s c owner) := by
  unfold awtTrack
  repeat' with_reducible first
    | assumption | apply awtOpen_keep | intro _ | split | (simp only [keep_mk]; apply Keep.parts)
    | refine Keep.of_fst (by assumption) ?_

theorem heldTimes_keep (s : State) (l : List HeldWr) (hk : Keep L s) :
    Keep L (heldTimes s l) := by
  unfold heldTimes
  repeat' with_reducible first
    | assumption | apply holdCount_keep | apply forEach_keep | intro _ | split | (simp only [keep_mk]; apply Keep.parts)
    | refine Keep.of_fst (by assumption) ?_

theorem puUnhold_keep (s : State) (u : Nat) (hk : Keep L s) :
    Keep L (puUnhold s u) := by
  unfold puUnhold
  repeat' with_reducible first
    | assumption | apply heldTimes_keep | apply puSet_keep | intro _ | split | (simp only [keep_mk]; apply Keep.parts)
    | refine Keep.of_fst (by assumption) ?_
    | (extract_lets +onlyGivenNames x
       first
         | (refine (fun (hx : Keep L x) => ?_) ?_
            on_goal 1 => clear_value x
            on_goal 2 => subst x)
         | (refine (fun (hx : Keep L x.1) => ?_) ?_
            on_goal 1 => clear_value x
            on_goal 2 => subst x)
         | clear_value x)

theorem missDiscard_keep (s : State) (u : Nat) (l : List HeldWr) (hk : Keep L s) :
    Keep L (missDiscard s u l) := by
  unfold missDiscard
  repeat' with_reducible first
    | assumption | apply creditBack_keep | apply inc_keep | apply puEvent_keep | apply puSet_keep | apply raise_keep
    | apply forEach_keep | intro _ | split | (simp only [keep_mk]; apply Keep.parts) | refine Keep.of_fst (by assumption) ?_
    | (extract_lets +onlyGivenNames x
       first
         | (refine (fun (hx : Keep L x) => ?_) ?_
            on_goal 1 => clear_value x
            on_goal 2 => subst x)
         | (refine (fun (hx : Keep L x.1) => ?_) ?_
            on_goal 1 => clear_value x
            on_goal 2 => subst x)
         | clear_value x)

theorem sealIfFull_keep (s : State) (u : Nat) (hk : Keep L s) :
    Keep L (sealIfFull s u) := by
  unfold sealIfFull
  repeat' with_reducible first
    | assumption | apply sealPu_keep | intro _ | split | (simp only [keep_mk]; apply Keep.parts)
    | refine Keep.of_fst (by assumption) ?_
    | (extract_lets +onlyGivenNames x
       first
         | (refine (fun (hx : Keep L x) => ?_) ?_
            on_goal 1 => clear_value x
            on_goal 2 => subst x)
         | (refine (fun (hx : Keep L x.1) => ?_) ?_
            on_goal 1 => clear_value x
            on_goal 2 => subst x)
         | clear_value x)

theorem ingCheck_keep (s : State) (u : Nat) (hk : Keep L s) :
    Keep L (ingCheck s u) := by
  unfold ingCheck
  repeat' with_reducible first
    | assumption | apply resCheck_keep | intro _ | split | (simp only [keep_mk]; apply Keep.parts)
    | refine Keep.of_fst (by assumption) ?_

theorem placeDenied_keep (s : State) (u : Nat) (c : Cell) (hk : Keep L s) :
    Keep L (placeDenied s u c) := by
  unfold placeDenied
  repeat' with_reducible first
    | assumption | apply creditBack_keep | apply inc_keep | apply ingCheck_keep | apply memberFail_keep | apply puSet_keep
    | apply raise_keep | apply sealIfFull_keep | intro _ | split | (simp only [keep_mk]; apply Keep.parts)
    | refine Keep.of_fst (by assumption) ?_
    | (extract_lets +onlyGivenNames x
       first
         | (refine (fun (hx : Keep L x) => ?_) ?_
            on_goal 1 => clear_value x
            on_goal 2 => subst x)
         | (refine (fun (hx : Keep L x.1) => ?_) ?_
            on_goal 1 => clear_value x
            on_goal 2 => subst x)
         | clear_value x)

theorem placeSend_keep (s : State) (u : Nat) (c : Cell) (off : Nat) (hk : Keep L s) :
    Keep L (placeSend s u c off) := by
  unfold placeSend
  repeat' with_reducible first
    | assumption | apply overlapRaise_keep | apply awtTrack_keep | apply ingCheck_keep | apply moveCheck_keep | apply placeDenied_keep
    | apply puSet_keep | apply sealIfFull_keep | apply storeTo_keep | apply toDevice_keep | intro _ | split
    | (simp only [keep_mk]; apply Keep.parts) | refine Keep.of_fst (by assumption) ?_
    | (extract_lets +onlyGivenNames x
       first
         | (refine (fun (hx : Keep L x) => ?_) ?_
            on_goal 1 => clear_value x
            on_goal 2 => subst x)
         | (refine (fun (hx : Keep L x.1) => ?_) ?_
            on_goal 1 => clear_value x
            on_goal 2 => subst x)
         | clear_value x)

theorem placeCount_keep (s : State) (u : Nat) (c : Cell) (off : Nat) (hk : Keep L s) :
    Keep L (placeCount s u c off) := by
  unfold placeCount
  repeat' with_reducible first
    | assumption | apply creditBack_keep | apply inc_keep | apply ingCheck_keep | apply placeSend_keep | apply puSet_keep
    | apply sealIfFull_keep | intro _ | split | (simp only [keep_mk]; apply Keep.parts)
    | refine Keep.of_fst (by assumption) ?_
    | (extract_lets +onlyGivenNames x
       first
         | (refine (fun (hx : Keep L x) => ?_) ?_
            on_goal 1 => clear_value x
            on_goal 2 => subst x)
         | (refine (fun (hx : Keep L x.1) => ?_) ?_
            on_goal 1 => clear_value x
            on_goal 2 => subst x)
         | clear_value x)

theorem placeLate_keep (s : State) (u : Nat) (c : Cell) (hk : Keep L s) :
    Keep L (placeLate s u c) := by
  unfold placeLate
  repeat' with_reducible first
    | assumption | apply creditBack_keep | apply inc_keep | apply puSet_keep | apply raise_keep | apply recEvent_keep
    | intro _ | split | (simp only [keep_mk]; apply Keep.parts) | refine Keep.of_fst (by assumption) ?_
    | (extract_lets +onlyGivenNames x
       first
         | (refine (fun (hx : Keep L x) => ?_) ?_
            on_goal 1 => clear_value x
            on_goal 2 => subst x)
         | (refine (fun (hx : Keep L x.1) => ?_) ?_
            on_goal 1 => clear_value x
            on_goal 2 => subst x)
         | clear_value x)

theorem placeHold_keep (s : State) (u : Nat) (c : Cell) (off : Nat) (sealWr : Bool) (hk : Keep L s) :
    Keep L (placeHold s u c off sealWr) := by
  unfold placeHold
  repeat' with_reducible first
    | assumption | apply puSet_keep | intro _ | split | (simp only [keep_mk]; apply Keep.parts)
    | refine Keep.of_fst (by assumption) ?_
    | (extract_lets +onlyGivenNames x
       first
         | (refine (fun (hx : Keep L x) => ?_) ?_
            on_goal 1 => clear_value x
            on_goal 2 => subst x)
         | (refine (fun (hx : Keep L x.1) => ?_) ?_
            on_goal 1 => clear_value x
            on_goal 2 => subst x)
         | clear_value x)

theorem puPlace_keep (s : State) (w u k : Nat) (hk : Keep L s) :
    Keep L (puPlace s w u k) := by
  unfold puPlace
  repeat' with_reducible first
    | assumption | apply puSet_keep | intro _ | split | (simp only [keep_mk]; apply Keep.parts)
    | refine Keep.of_fst (by assumption) ?_

theorem placeWrite_keep (s : State) (w x : Nat) (c : Cell) (hk : Keep L s) :
    Keep L (placeWrite s w x c) := by
  unfold placeWrite
  repeat' with_reducible first
    | assumption | apply hold_keep | apply missDiscard_keep | apply placeCount_keep | apply placeHold_keep
    | apply placeLate_keep | apply puPlace_keep | apply puSet_keep | intro _ | split
    | (simp only [keep_mk]; apply Keep.parts) | refine Keep.of_fst (by assumption) ?_
    | (extract_lets +onlyGivenNames x
       first
         | (refine (fun (hx : Keep L x) => ?_) ?_
            on_goal 1 => clear_value x
            on_goal 2 => subst x)
         | (refine (fun (hx : Keep L x.1) => ?_) ?_
            on_goal 1 => clear_value x
            on_goal 2 => subst x)
         | clear_value x)

theorem sealNamed_keep (s : State) (w head slot x : Nat) (hk : Keep L s) :
    Keep L (sealNamed s w head slot x).1 := by
  unfold sealNamed
  repeat' with_reducible first
    | assumption | apply inc_keep | apply puSet_keep | apply sealPu_keep | intro _ | split
    | (simp only [keep_mk]; apply Keep.parts) | refine Keep.of_fst (by assumption) ?_
    | (extract_lets +onlyGivenNames x
       first
         | (refine (fun (hx : Keep L x) => ?_) ?_
            on_goal 1 => clear_value x
            on_goal 2 => subst x)
         | (refine (fun (hx : Keep L x.1) => ?_) ?_
            on_goal 1 => clear_value x
            on_goal 2 => subst x)
         | clear_value x)

theorem sealWrite_keep (s : State) (w off : Nat) (c : Cell) (hk : Keep L s) :
    Keep L (sealWrite s w off c) := by
  unfold sealWrite
  repeat' with_reducible first
    | assumption | apply creditBack_keep | apply inc_keep | apply placeHold_keep | apply puPlace_keep | apply sealNamed_keep
    | intro _ | split | (simp only [keep_mk]; apply Keep.parts) | refine Keep.of_fst (by assumption) ?_
    | (extract_lets +onlyGivenNames x
       first
         | (refine (fun (hx : Keep L x) => ?_) ?_
            on_goal 1 => clear_value x
            on_goal 2 => subst x)
         | (refine (fun (hx : Keep L x.1) => ?_) ?_
            on_goal 1 => clear_value x
            on_goal 2 => subst x)
         | clear_value x)

theorem execSealWrite_keep (p : Fin 64) (w : Fin 256) (off : BitVec 12) (data : Bytes) (s : State) (hk : Keep L s) :
    KeepRes L (execSealWrite p w off data s) := by
  unfold execSealWrite
  refine KeepRes.next ?_
  repeat' with_reducible first
    | assumption | apply sealWrite_keep | apply wr_keep | intro _ | split | (simp only [keep_mk]; apply Keep.parts)
    | refine Keep.of_fst (by assumption) ?_
    | (extract_lets +onlyGivenNames x
       first
         | (refine (fun (hx : Keep L x) => ?_) ?_
            on_goal 1 => clear_value x
            on_goal 2 => subst x)
         | (refine (fun (hx : Keep L x.1) => ?_) ?_
            on_goal 1 => clear_value x
            on_goal 2 => subst x)
         | clear_value x)

theorem rehold_keep (s : State) (u : Nat) (hk : Keep L s) :
    Keep L (rehold s u) := by
  unfold rehold
  repeat' with_reducible first
    | assumption | apply placeWrite_keep | apply puUnhold_keep | apply sealWrite_keep | apply forEach_keep | intro _ | split
    | (simp only [keep_mk]; apply Keep.parts) | refine Keep.of_fst (by assumption) ?_
    | (extract_lets +onlyGivenNames x
       first
         | (refine (fun (hx : Keep L x) => ?_) ?_
            on_goal 1 => clear_value x
            on_goal 2 => subst x)
         | (refine (fun (hx : Keep L x.1) => ?_) ?_
            on_goal 1 => clear_value x
            on_goal 2 => subst x)
         | clear_value x)

theorem puDecide_keep (s : State) (u : Nat) (hk : Keep L s) :
    Keep L (puDecide s u) := by
  unfold puDecide
  repeat' with_reducible first
    | assumption | apply decide'_keep | apply inc_keep | apply puEvent_keep | apply puSet_keep | apply raise_keep
    | apply rehold_keep | intro _ | split | (simp only [keep_mk]; apply Keep.parts) | refine Keep.of_fst (by assumption) ?_
    | (extract_lets +onlyGivenNames x
       first
         | (refine (fun (hx : Keep L x) => ?_) ?_
            on_goal 1 => clear_value x
            on_goal 2 => subst x)
         | (refine (fun (hx : Keep L x.1) => ?_) ?_
            on_goal 1 => clear_value x
            on_goal 2 => subst x)
         | clear_value x)

theorem execPuDecisionDone_keep (u : Fin 65536) (s : State) (hk : Keep L s) :
    KeepRes L (execPuDecisionDone u s) := by
  unfold execPuDecisionDone
  refine KeepRes.next ?_
  repeat' with_reducible first
    | assumption | apply puDecide_keep | intro _ | split | (simp only [keep_mk]; apply Keep.parts)
    | refine Keep.of_fst (by assumption) ?_

theorem execMissHoldExpiry_keep (u : Fin 65536) (s : State) (hk : Keep L s) :
    KeepRes L (execMissHoldExpiry u s) := by
  unfold execMissHoldExpiry
  refine KeepRes.next ?_
  repeat' with_reducible first
    | assumption | apply missDiscard_keep | apply puFree_keep | apply puSet_keep | apply puUnhold_keep | intro _ | split
    | (simp only [keep_mk]; apply Keep.parts) | refine Keep.of_fst (by assumption) ?_
    | (extract_lets +onlyGivenNames x
       first
         | (refine (fun (hx : Keep L x) => ?_) ?_
            on_goal 1 => clear_value x
            on_goal 2 => subst x)
         | (refine (fun (hx : Keep L x.1) => ?_) ?_
            on_goal 1 => clear_value x
            on_goal 2 => subst x)
         | clear_value x)

theorem execGraceExpiry_keep (u : Fin 65536) (s : State) (hk : Keep L s) :
    KeepRes L (execGraceExpiry u s) := by
  unfold execGraceExpiry
  refine KeepRes.next ?_
  repeat' with_reducible first
    | assumption | apply sealPu_keep | intro _ | split | (simp only [keep_mk]; apply Keep.parts)
    | refine Keep.of_fst (by assumption) ?_

theorem windowOn_keep (s : State) (w : Nat) (hk : Keep L s) :
    Keep L (windowOn s w) := by
  unfold windowOn
  repeat' with_reducible first
    | assumption | apply plcStatus_keep | apply plcUpd_keep | apply wr_keep | intro _ | split
    | (simp only [keep_mk]; apply Keep.parts) | refine Keep.of_fst (by assumption) ?_
    | (extract_lets +onlyGivenNames x
       first
         | (refine (fun (hx : Keep L x) => ?_) ?_
            on_goal 1 => clear_value x
            on_goal 2 => subst x)
         | (refine (fun (hx : Keep L x.1) => ?_) ?_
            on_goal 1 => clear_value x
            on_goal 2 => subst x)
         | clear_value x)

theorem windowOff_keep (s : State) (w : Nat) (hk : Keep L s) :
    Keep L (windowOff s w) := by
  unfold windowOff
  repeat' with_reducible first
    | assumption | apply missDiscard_keep | apply plcStatus_keep | apply puFree_keep | apply puUnhold_keep
    | apply sealPu_keep | apply winIdle_keep | apply wr_keep | apply forEach_keep | intro _ | split
    | (simp only [keep_mk]; apply Keep.parts) | refine Keep.of_fst (by assumption) ?_
    | (extract_lets +onlyGivenNames x
       first
         | (refine (fun (hx : Keep L x) => ?_) ?_
            on_goal 1 => clear_value x
            on_goal 2 => subst x)
         | (refine (fun (hx : Keep L x.1) => ?_) ?_
            on_goal 1 => clear_value x
            on_goal 2 => subst x)
         | clear_value x)

theorem execWindowEnable_keep (m : Master) (w : Fin 256) (s : State) (hk : Keep L s) :
    KeepRes L (execWindowEnable m w s) := by
  unfold execWindowEnable
  refine KeepRes.next ?_
  repeat' with_reducible first
    | assumption | apply asMaster_keep | apply windowOn_keep | intro _ | split | (simp only [keep_mk]; apply Keep.parts)
    | refine Keep.of_fst (by assumption) ?_

theorem execWindowDisable_keep (m : Master) (w : Fin 256) (s : State) (hk : Keep L s) :
    KeepRes L (execWindowDisable m w s) := by
  unfold execWindowDisable
  refine KeepRes.next ?_
  repeat' with_reducible first
    | assumption | apply asMaster_keep | apply windowOff_keep | intro _ | split | (simp only [keep_mk]; apply Keep.parts)
    | refine Keep.of_fst (by assumption) ?_

theorem memberApply_keep (s : State) (hk : Keep L s) :
    Keep L (memberApply s) := by
  unfold memberApply
  repeat' with_reducible first
    | assumption | apply memberFail_keep | apply memberSet_keep | apply plcUpd_keep | apply wr_keep | intro _ | split
    | (simp only [keep_mk]; apply Keep.parts) | refine Keep.of_fst (by assumption) ?_
    | (extract_lets +onlyGivenNames x
       first
         | (refine (fun (hx : Keep L x) => ?_) ?_
            on_goal 1 => clear_value x
            on_goal 2 => subst x)
         | (refine (fun (hx : Keep L x.1) => ?_) ?_
            on_goal 1 => clear_value x
            on_goal 2 => subst x)
         | clear_value x)

theorem memberLoad_keep (s : State) (hk : Keep L s) :
    Keep L (memberLoad s) := by
  unfold memberLoad
  repeat' with_reducible first
    | assumption | apply wr_keep | apply wrb_keep | intro _ | split | (simp only [keep_mk]; apply Keep.parts)
    | refine Keep.of_fst (by assumption) ?_
    | (extract_lets +onlyGivenNames x
       first
         | (refine (fun (hx : Keep L x) => ?_) ?_
            on_goal 1 => clear_value x
            on_goal 2 => subst x)
         | (refine (fun (hx : Keep L x.1) => ?_) ?_
            on_goal 1 => clear_value x
            on_goal 2 => subst x)
         | clear_value x)

theorem execMemberApply_keep (m : Master) (s : State) (hk : Keep L s) :
    KeepRes L (execMemberApply m s) := by
  unfold execMemberApply
  refine KeepRes.next ?_
  repeat' with_reducible first
    | assumption | apply asMaster_keep | apply memberApply_keep | intro _ | split | (simp only [keep_mk]; apply Keep.parts)
    | refine Keep.of_fst (by assumption) ?_

theorem execMemberLoad_keep (m : Master) (s : State) (hk : Keep L s) :
    KeepRes L (execMemberLoad m s) := by
  unfold execMemberLoad
  refine KeepRes.next ?_
  repeat' with_reducible first
    | assumption | apply asMaster_keep | apply memberLoad_keep | intro _ | split | (simp only [keep_mk]; apply Keep.parts)
    | refine Keep.of_fst (by assumption) ?_

theorem execRemotePathTimeout_keep (pool : Fin 1024) (mb : Fin 64) (s : State) (hk : Keep L s) :
    KeepRes L (execRemotePathTimeout pool mb s) := by
  unfold execRemotePathTimeout
  refine KeepRes.next ?_
  repeat' with_reducible first
    | assumption | apply memberFail_keep | intro _ | split | (simp only [keep_mk]; apply Keep.parts)
    | refine Keep.of_fst (by assumption) ?_
    | (extract_lets +onlyGivenNames x
       first
         | (refine (fun (hx : Keep L x) => ?_) ?_
            on_goal 1 => clear_value x
            on_goal 2 => subst x)
         | (refine (fun (hx : Keep L x.1) => ?_) ?_
            on_goal 1 => clear_value x
            on_goal 2 => subst x)
         | clear_value x)

theorem placeBlock_keep (s : State) (hk : Keep L s) :
    Keep L (placeBlock s) := by
  unfold placeBlock
  repeat' with_reducible first
    | assumption | apply puBreak_keep | apply forEach_keep | intro _ | split | (simp only [keep_mk]; apply Keep.parts)
    | refine Keep.of_fst (by assumption) ?_

theorem placeRelease_keep (s : State) (hk : Keep L s) :
    Keep L (placeRelease s) := by
  unfold placeRelease
  repeat' with_reducible first
    | assumption | apply rehold_keep | apply forEach_keep | intro _ | split | (simp only [keep_mk]; apply Keep.parts)
    | refine Keep.of_fst (by assumption) ?_

end Sys2Proof.Machine
end

