-- ==== Sys2Proof/Laws/KeepForward.lean ====
section
/-! SUPPORT. What the operations of Forward.lean keep. -/

namespace Sys2Proof.Machine

variable {L : List Instr}

theorem proxyTake_keep (s : State) (o t : Nat) (c : Cell) (hk : Keep L s) :
    Keep L (proxyTake s o t c) := by
  unfold proxyTake
  repeat' with_reducible first
    | assumption | apply fabUpd_keep | apply retCount_keep | apply storeTo_keep | intro _ | split
    | (simp only [keep_mk]; apply Keep.parts) | refine Keep.of_fst (by assumption) ?_
    | (extract_lets +onlyGivenNames x
       first
         | (refine (fun (hx : Keep L x) => ?_) ?_
            on_goal 1 => clear_value x
            on_goal 2 => subst x)
         | (refine (fun (hx : Keep L x.1) => ?_) ?_
            on_goal 1 => clear_value x
            on_goal 2 => subst x)
         | clear_value x)

theorem proxyTo_keep (s : State) (o : Nat) (c : Cell) (hk : Keep L s) :
    Keep L (proxyTo s o c) := by
  unfold proxyTo
  repeat' with_reducible first
    | assumption | apply fabUpd_keep | apply proxyTake_keep | apply storeTo_keep | apply takeSeq_keep | intro _ | split
    | (simp only [keep_mk]; apply Keep.parts) | refine Keep.of_fst (by assumption) ?_
    | (extract_lets +onlyGivenNames x
       first
         | (refine (fun (hx : Keep L x) => ?_) ?_
            on_goal 1 => clear_value x
            on_goal 2 => subst x)
         | (refine (fun (hx : Keep L x.1) => ?_) ?_
            on_goal 1 => clear_value x
            on_goal 2 => subst x)
         | clear_value x)

theorem retRetry_keep (s : State) (hk : Keep L s) :
    Keep L (retRetry s) := by
  unfold retRetry
  repeat' with_reducible first
    | assumption | apply fabUpd_keep | apply holdCount_keep | apply inc_keep | apply proxyTake_keep | apply release_keep
    | apply forEach_keep | intro _ | split | (simp only [keep_mk]; apply Keep.parts) | refine Keep.of_fst (by assumption) ?_
    | (extract_lets +onlyGivenNames x
       first
         | (refine (fun (hx : Keep L x) => ?_) ?_
            on_goal 1 => clear_value x
            on_goal 2 => subst x)
         | (refine (fun (hx : Keep L x.1) => ?_) ?_
            on_goal 1 => clear_value x
            on_goal 2 => subst x)
         | clear_value x)

theorem retFree_keep (s : State) (p t : Nat) (hk : Keep L s) :
    Keep L (retFree s p t) := by
  unfold retFree
  repeat' with_reducible first
    | assumption | apply retDel_keep | apply retRetry_keep | intro _ | split | (simp only [keep_mk]; apply Keep.parts)
    | refine Keep.of_fst (by assumption) ?_

theorem proxyReturn_keep (s : State) (p : Nat) (pk : Packet) (e : RetEnt) (hk : Keep L s) :
    Keep L (proxyReturn s p pk e) := by
  unfold proxyReturn
  repeat' with_reducible first
    | assumption | apply fabUpd_keep | apply inc_keep | apply retFree_keep | apply storeTo_keep | apply toDevice_keep
    | intro _ | split | (simp only [keep_mk]; apply Keep.parts) | refine Keep.of_fst (by assumption) ?_
    | (extract_lets +onlyGivenNames x
       first
         | (refine (fun (hx : Keep L x) => ?_) ?_
            on_goal 1 => clear_value x
            on_goal 2 => subst x)
         | (refine (fun (hx : Keep L x.1) => ?_) ?_
            on_goal 1 => clear_value x
            on_goal 2 => subst x)
         | clear_value x)

theorem withAwt_keep (s : State) (c : Cell) (addr owner : Nat) (glob : Bool) (k : State → Cell → State)
    (hk : Keep L s) (hf : ∀ t c, Keep L t → Keep L (k t c)) : Keep L (withAwt s c addr owner glob k) := by
  unfold withAwt
  extract_lets
  split
  · exact fabUpd_keep _ _ hk
  split
  · exact awtRefuse_keep _ _ _ _ hk
  · exact hf _ _ (awtTrack_keep _ _ _ hk)

theorem intoWindow_keep (s : State) (w x : Nat) (c : Cell) (hk : Keep L s) :
    Keep L (intoWindow s w x c) := by
  unfold intoWindow
  repeat' with_reducible first
    | assumption | apply inc_keep | apply placeWrite_keep | apply turnAway_keep | intro _ | split
    | (simp only [keep_mk]; apply Keep.parts) | refine Keep.of_fst (by assumption) ?_

theorem intoSeal_keep (s : State) (w off : Nat) (c : Cell) (hk : Keep L s) :
    Keep L (intoSeal s w off c) := by
  unfold intoSeal
  repeat' with_reducible first
    | assumption | apply inc_keep | apply sealWrite_keep | apply turnAway_keep | intro _ | split
    | (simp only [keep_mk]; apply Keep.parts) | refine Keep.of_fst (by assumption) ?_

theorem takeGlobal_keep (s : State) (c : Cell) (hk : Keep L s) :
    Keep L (takeGlobal s c) := by
  unfold takeGlobal
  repeat' with_reducible first
    | assumption | apply inc_keep | apply intoSeal_keep | apply intoWindow_keep | apply moveCheck_keep | apply noRoute_keep
    | apply proxyTo_keep | apply turnAway_keep | apply withAwt_keep | intro _ | split
    | (simp only [keep_mk]; apply Keep.parts) | refine Keep.of_fst (by assumption) ?_
    | (extract_lets +onlyGivenNames x
       first
         | (refine (fun (hx : Keep L x) => ?_) ?_
            on_goal 1 => clear_value x
            on_goal 2 => subst x)
         | (refine (fun (hx : Keep L x.1) => ?_) ?_
            on_goal 1 => clear_value x
            on_goal 2 => subst x)
         | clear_value x)

theorem globalReq_keep (s : State) (g : Nat) (c : Cell) (hk : Keep L s) :
    Keep L (globalReq s g c) := by
  unfold globalReq
  repeat' with_reducible first
    | assumption | apply takeGlobal_keep | apply toDevice_keep | intro _ | split | (simp only [keep_mk]; apply Keep.parts)
    | refine Keep.of_fst (by assumption) ?_
    | (extract_lets +onlyGivenNames x
       first
         | (refine (fun (hx : Keep L x) => ?_) ?_
            on_goal 1 => clear_value x
            on_goal 2 => subst x)
         | (refine (fun (hx : Keep L x.1) => ?_) ?_
            on_goal 1 => clear_value x
            on_goal 2 => subst x)
         | clear_value x)

theorem gapCheck_keep (s : State) (n a : Nat) (hk : Keep L s) :
    Keep L (gapCheck s n a) := by
  unfold gapCheck
  repeat' with_reducible first
    | assumption | apply moveCheck_keep | intro _ | split | (simp only [keep_mk]; apply Keep.parts)
    | refine Keep.of_fst (by assumption) ?_

theorem toUp_keep (s : State) (n : Nat) (c : Cell) (hk : Keep L s) :
    Keep L (toUp s n c) := by
  unfold toUp
  repeat' with_reducible first
    | assumption | apply creditBack_keep | apply inc_keep | apply storeTo_keep | apply turnAway_keep | intro _ | split
    | (simp only [keep_mk]; apply Keep.parts) | refine Keep.of_fst (by assumption) ?_

theorem scopeChk_keep (s : State) (on : Bool) (c : Cell) (n : Nat) (k : State → Cell → State)
    (hk : Keep L s) (hf : ∀ t c, Keep L t → Keep L (k t c)) : Keep L (scopeChk s on c n k) := by
  unfold scopeChk
  split
  · exact withAwt_keep _ _ _ _ _ _ hk hf
  · exact hf _ _ hk

theorem bridgeReq_keep (s : State) (n : Nat) (fr : Origin) (c : Cell) (hk : Keep L s) :
    Keep L (bridgeReq s n fr c) := by
  unfold bridgeReq
  repeat' with_reducible first
    | assumption | apply aerLog_keep | apply scopeChk_keep | apply storeTo_keep | apply toUp_keep | apply turnAway_keep
    | apply turnAwayQuiet_keep | apply withAwt_keep | intro _ | split | (simp only [keep_mk]; apply Keep.parts)
    | refine Keep.of_fst (by assumption) ?_
    | (extract_lets +onlyGivenNames x
       first
         | (refine (fun (hx : Keep L x) => ?_) ?_
            on_goal 1 => clear_value x
            on_goal 2 => subst x)
         | (refine (fun (hx : Keep L x.1) => ?_) ?_
            on_goal 1 => clear_value x
            on_goal 2 => subst x)
         | clear_value x)

theorem intoPartition_keep (s : State) (n : Nat) (c : Cell) (hk : Keep L s) :
    Keep L (intoPartition s n c) := by
  unfold intoPartition
  repeat' with_reducible first
    | assumption | apply proxyTo_keep | apply toUp_keep | apply turnAway_keep | intro _ | split
    | (simp only [keep_mk]; apply Keep.parts) | refine Keep.of_fst (by assumption) ?_

theorem memReq_keep (s : State) (n : Nat) (fr : Origin) (c : Cell) (hk : Keep L s) :
    Keep L (memReq s n fr c) := by
  unfold memReq
  repeat' with_reducible first
    | assumption | apply bridgeReq_keep | apply fabUpd_keep | apply gapCheck_keep | apply globalReq_keep | apply inc_keep
    | apply intoPartition_keep | apply intoSeal_keep | apply intoWindow_keep | apply moveCheck_keep | apply turnAway_keep
    | apply withAwt_keep | intro _ | split | (simp only [keep_mk]; apply Keep.parts) | refine Keep.of_fst (by assumption) ?_
    | (extract_lets +onlyGivenNames x
       first
         | (refine (fun (hx : Keep L x) => ?_) ?_
            on_goal 1 => clear_value x
            on_goal 2 => subst x)
         | (refine (fun (hx : Keep L x.1) => ?_) ?_
            on_goal 1 => clear_value x
            on_goal 2 => subst x)
         | clear_value x)

theorem ioReq_keep (s : State) (n : Nat) (fr : Origin) (c : Cell) (hk : Keep L s) :
    Keep L (ioReq s n fr c) := by
  unfold ioReq
  repeat' with_reducible first
    | assumption | apply aerLog_keep | apply storeTo_keep | apply toUp_keep | apply turnAway_keep | apply turnAwayQuiet_keep
    | intro _ | split | (simp only [keep_mk]; apply Keep.parts) | refine Keep.of_fst (by assumption) ?_
    | (extract_lets +onlyGivenNames x
       first
         | (refine (fun (hx : Keep L x) => ?_) ?_
            on_goal 1 => clear_value x
            on_goal 2 => subst x)
         | (refine (fun (hx : Keep L x.1) => ?_) ?_
            on_goal 1 => clear_value x
            on_goal 2 => subst x)
         | clear_value x)

theorem cplStray_keep (s : State) (n : Nat) (c : Cell) (hk : Keep L s) :
    Keep L (cplStray s n c) := by
  unfold cplStray
  repeat' with_reducible first
    | assumption | apply aerLog_keep | apply creditBack_keep | intro _ | split | (simp only [keep_mk]; apply Keep.parts)
    | refine Keep.of_fst (by assumption) ?_

theorem cplIn_keep (s : State) (n : Nat) (c : Cell) (hk : Keep L s) :
    Keep L (cplIn s n c) := by
  unfold cplIn
  repeat' with_reducible first
    | assumption | apply cplStray_keep | apply storeTo_keep | intro _ | split | (simp only [keep_mk]; apply Keep.parts)
    | refine Keep.of_fst (by assumption) ?_
    | (extract_lets +onlyGivenNames x
       first
         | (refine (fun (hx : Keep L x) => ?_) ?_
            on_goal 1 => clear_value x
            on_goal 2 => subst x)
         | (refine (fun (hx : Keep L x.1) => ?_) ?_
            on_goal 1 => clear_value x
            on_goal 2 => subst x)
         | clear_value x)

end Sys2Proof.Machine
end

