-- ==== Sys2Proof/Laws/KeepRings.lean ====
section
/-! SUPPORT. What the operations of Rings.lean keep. -/

namespace Sys2Proof.Machine

variable {L : List Instr}

theorem rngUpd_keep (s : State) (f : Rings → Rings) (hk : Keep L s) :
    Keep L (rngUpd s f) := by
  unfold rngUpd
  repeat' with_reducible first
    | assumption | intro _ | split | (simp only [keep_mk]; apply Keep.parts) | refine Keep.of_fst (by assumption) ?_

theorem qpSet_keep (s : State) (k : Nat) (x : Qp) (hk : Keep L s) :
    Keep L (qpSet s k x) := by
  unfold qpSet
  repeat' with_reducible first
    | assumption | apply rngUpd_keep | intro _ | split | (simp only [keep_mk]; apply Keep.parts)
    | refine Keep.of_fst (by assumption) ?_

theorem tagFree_keep (s : State) (n t : Nat) (hk : Keep L s) :
    Keep L (tagFree s n t) := by
  unfold tagFree
  repeat' with_reducible first
    | assumption | apply rngUpd_keep | intro _ | split | (simp only [keep_mk]; apply Keep.parts)
    | refine Keep.of_fst (by assumption) ?_

theorem aimed_keep (s : State) (aim : Aim) (n : Nat) (c : Cell) (hk : Keep L s) :
    Keep L (aimed s aim n c) := by
  unfold aimed
  repeat' with_reducible first
    | assumption | apply globalReq_keep | apply memReq_keep | apply storeTo_keep | apply toDevice_keep | intro _ | split
    | (simp only [keep_mk]; apply Keep.parts) | refine Keep.of_fst (by assumption) ?_

theorem issueRead_keep (s : State) (n k sk cls : Nat) (pasid : Option (BitVec 20)) (aim : Aim) (why : Purpose) (a len : Nat)
    (attrs : Packet → Packet) (hk : Keep L s) : ∀ t, issueRead s n k sk cls pasid aim why a len attrs = some t → Keep L t := by
  intro t ht
  unfold issueRead at ht
  split at ht
  · cases ht
  · cases ht
    exact aimed_keep _ _ _ _ (rngUpd_keep _ _ hk)

/-- The read that was issued keeps. -/
theorem Keep.issued {s t : State} {n k sk cls : Nat} {pasid : Option (BitVec 20)} {aim : Aim} {why : Purpose} {a len : Nat}
    {attrs : Packet → Packet} (ht : issueRead s n k sk cls pasid aim why a len attrs = some t) (hk : Keep L s) : Keep L t :=
  issueRead_keep _ _ _ _ _ _ _ _ _ _ _ hk _ ht

theorem msixOut_keep (s : State) (f v cls : Nat) (via : Option Nat) (hk : Keep L s) :
    Keep L (msixOut s f v cls via) := by
  unfold msixOut
  repeat' with_reducible first
    | assumption | apply bridgeReq_keep | apply emit_keep | apply formed_keep | intro _ | split
    | (simp only [keep_mk]; apply Keep.parts) | refine Keep.of_fst (by assumption) ?_
    | (extract_lets +onlyGivenNames x
       first
         | (refine (fun (hx : Keep L x) => ?_) ?_
            on_goal 1 => clear_value x
            on_goal 2 => subst x)
         | (refine (fun (hx : Keep L x.1) => ?_) ?_
            on_goal 1 => clear_value x
            on_goal 2 => subst x)
         | clear_value x)

theorem msixSignal_keep (s : State) (f v cls : Nat) (via : Option Nat) (hk : Keep L s) :
    Keep L (msixSignal s f v cls via) := by
  unfold msixSignal
  repeat' with_reducible first
    | assumption | apply msixOut_keep | apply rngUpd_keep | intro _ | split | (simp only [keep_mk]; apply Keep.parts)
    | refine Keep.of_fst (by assumption) ?_
    | (extract_lets +onlyGivenNames x
       first
         | (refine (fun (hx : Keep L x) => ?_) ?_
            on_goal 1 => clear_value x
            on_goal 2 => subst x)
         | (refine (fun (hx : Keep L x.1) => ?_) ?_
            on_goal 1 => clear_value x
            on_goal 2 => subst x)
         | clear_value x)

theorem msixRelease_keep (s : State) (f v : Nat) (hk : Keep L s) :
    Keep L (msixRelease s f v) := by
  unfold msixRelease
  repeat' with_reducible first
    | assumption | apply msixOut_keep | apply rngUpd_keep | intro _ | split | (simp only [keep_mk]; apply Keep.parts)
    | refine Keep.of_fst (by assumption) ?_
    | (extract_lets +onlyGivenNames x
       first
         | (refine (fun (hx : Keep L x) => ?_) ?_
            on_goal 1 => clear_value x
            on_goal 2 => subst x)
         | (refine (fun (hx : Keep L x.1) => ?_) ?_
            on_goal 1 => clear_value x
            on_goal 2 => subst x)
         | clear_value x)

theorem execMsixUnmask_keep (f : FnRef) (vec : Fin 2048) (fnMask : Bool) (s : State) (hk : Keep L s) :
    KeepRes L (execMsixUnmask f vec fnMask s) := by
  unfold execMsixUnmask
  refine KeepRes.next ?_
  repeat' with_reducible first
    | assumption | apply cfgPut_keep | apply msixRelease_keep | apply rngUpd_keep | apply forEach_keep | intro _ | split
    | (simp only [keep_mk]; apply Keep.parts) | refine Keep.of_fst (by assumption) ?_
    | (extract_lets +onlyGivenNames x
       first
         | (refine (fun (hx : Keep L x) => ?_) ?_
            on_goal 1 => clear_value x
            on_goal 2 => subst x)
         | (refine (fun (hx : Keep L x.1) => ?_) ?_
            on_goal 1 => clear_value x
            on_goal 2 => subst x)
         | clear_value x)

theorem qpSignal_keep (s : State) (k : Nat) (hk : Keep L s) :
    Keep L (qpSignal s k) := by
  unfold qpSignal
  repeat' with_reducible first
    | assumption | apply msixSignal_keep | apply qpSet_keep | intro _ | split | (simp only [keep_mk]; apply Keep.parts)
    | refine Keep.of_fst (by assumption) ?_
    | (extract_lets +onlyGivenNames x
       first
         | (refine (fun (hx : Keep L x) => ?_) ?_
            on_goal 1 => clear_value x
            on_goal 2 => subst x)
         | (refine (fun (hx : Keep L x.1) => ?_) ?_
            on_goal 1 => clear_value x
            on_goal 2 => subst x)
         | clear_value x)

theorem entryPut_keep (s : State) (k cls j : Nat) (phased : Bool → Bytes) (now : Bool) (hk : Keep L s) :
    Keep L (entryPut s k cls j phased now).1 := by
  unfold entryPut
  repeat' with_reducible first
    | assumption | apply overlapRaise_keep | apply awtTrack_keep | apply memReq_keep | apply qpSet_keep | apply qpSignal_keep | apply wr_keep
    | apply wrb_keep | intro _ | split | (simp only [keep_mk]; apply Keep.parts) | refine Keep.of_fst (by assumption) ?_
    | (extract_lets +onlyGivenNames x
       first
         | (refine (fun (hx : Keep L x) => ?_) ?_
            on_goal 1 => clear_value x
            on_goal 2 => subst x)
         | (refine (fun (hx : Keep L x.1) => ?_) ?_
            on_goal 1 => clear_value x
            on_goal 2 => subst x)
         | clear_value x)

theorem execMsixModTimer_keep (q : QPRef) (s : State) (hk : Keep L s) :
    KeepRes L (execMsixModTimer q s) := by
  unfold execMsixModTimer
  refine KeepRes.next ?_
  repeat' with_reducible first
    | assumption | apply qpSignal_keep | intro _ | split | (simp only [keep_mk]; apply Keep.parts)
    | refine Keep.of_fst (by assumption) ?_
    | (extract_lets +onlyGivenNames x
       first
         | (refine (fun (hx : Keep L x) => ?_) ?_
            on_goal 1 => clear_value x
            on_goal 2 => subst x)
         | (refine (fun (hx : Keep L x.1) => ?_) ?_
            on_goal 1 => clear_value x
            on_goal 2 => subst x)
         | clear_value x)

theorem execRecordPost_keep (g : Fin 16384) (s : State) (hk : Keep L s) :
    KeepRes L (execRecordPost g s) := by
  unfold execRecordPost
  refine KeepRes.next ?_
  repeat' with_reducible first
    | assumption | apply entryPut_keep | apply inc_keep | apply plcUpd_keep | apply puFree_keep | apply raiseIf_keep
    | intro _ | split | (simp only [keep_mk]; apply Keep.parts) | refine Keep.of_fst (by assumption) ?_
    | (extract_lets +onlyGivenNames x
       first
         | (refine (fun (hx : Keep L x) => ?_) ?_
            on_goal 1 => clear_value x
            on_goal 2 => subst x)
         | (refine (fun (hx : Keep L x.1) => ?_) ?_
            on_goal 1 => clear_value x
            on_goal 2 => subst x)
         | clear_value x)

theorem flushDone_keep (s : State) (u : Nat) (st : CplStatus) (hk : Keep L s) :
    Keep L (flushDone s u st) := by
  unfold flushDone
  repeat' with_reducible first
    | assumption | apply memberFail_keep | apply recDue_keep | intro _ | split | (simp only [keep_mk]; apply Keep.parts)
    | refine Keep.of_fst (by assumption) ?_
    | (extract_lets +onlyGivenNames x
       first
         | (refine (fun (hx : Keep L x) => ?_) ?_
            on_goal 1 => clear_value x
            on_goal 2 => subst x)
         | (refine (fun (hx : Keep L x.1) => ?_) ?_
            on_goal 1 => clear_value x
            on_goal 2 => subst x)
         | clear_value x)

theorem execFlushReadIssue_keep (u : Fin 65536) (s : State) (hk : Keep L s) : KeepRes L (execFlushReadIssue u s) := by
  unfold execFlushReadIssue
  refine KeepRes.next ?_
  dsimp only
  repeat' with_reducible first
    | assumption | apply overlapRaise_keep | apply flushDone_keep | apply puSet_keep | intro _ | split | (simp only [keep_mk]; apply Keep.parts)
    | refine Keep.of_fst (by assumption) ?_ | refine Keep.issued (by assumption) ?_
    | (extract_lets +onlyGivenNames x
       first
         | (refine (fun (hx : Keep L x) => ?_) ?_
            on_goal 1 => clear_value x
            on_goal 2 => subst x)
         | (refine (fun (hx : Keep L x.1) => ?_) ?_
            on_goal 1 => clear_value x
            on_goal 2 => subst x)
         | clear_value x)

theorem tagsEnd_keep (s : State) (st : CplStatus) (mine : Purpose → Bool) (hk : Keep L s) :
    Keep L (tagsEnd s st mine) := by
  unfold tagsEnd
  repeat' with_reducible first
    | assumption | apply rngUpd_keep | intro _ | split | (simp only [keep_mk]; apply Keep.parts)
    | refine Keep.of_fst (by assumption) ?_
    | (extract_lets +onlyGivenNames x
       first
         | (refine (fun (hx : Keep L x) => ?_) ?_
            on_goal 1 => clear_value x
            on_goal 2 => subst x)
         | (refine (fun (hx : Keep L x.1) => ?_) ?_
            on_goal 1 => clear_value x
            on_goal 2 => subst x)
         | clear_value x)

theorem ringRead_keep (s : State) (p m : Nat) (hk : Keep L s) : Keep L (ringRead s p m) := by
  unfold ringRead
  repeat' with_reducible first
    | assumption | apply overlapRaise_keep | apply memberFail_keep | apply memberSet_keep | intro _ | split | (simp only [keep_mk]; apply Keep.parts)
    | refine Keep.of_fst (by assumption) ?_ | refine Keep.issued (by assumption) ?_
    | (extract_lets +onlyGivenNames x
       first
         | (refine (fun (hx : Keep L x) => ?_) ?_
            on_goal 1 => clear_value x
            on_goal 2 => subst x)
         | (refine (fun (hx : Keep L x.1) => ?_) ?_
            on_goal 1 => clear_value x
            on_goal 2 => subst x)
         | clear_value x)

theorem ringDone_keep (s : State) (p m : Nat) (st : CplStatus) (entries : List (BitVec 64)) (hk : Keep L s) :
    Keep L (ringDone s p m st entries) := by
  unfold ringDone
  repeat' with_reducible first
    | assumption | apply memberFail_keep | apply memberSet_keep | apply ringRead_keep | intro _ | split
    | (simp only [keep_mk]; apply Keep.parts) | refine Keep.of_fst (by assumption) ?_
    | (extract_lets +onlyGivenNames x
       first
         | (refine (fun (hx : Keep L x) => ?_) ?_
            on_goal 1 => clear_value x
            on_goal 2 => subst x)
         | (refine (fun (hx : Keep L x.1) => ?_) ?_
            on_goal 1 => clear_value x
            on_goal 2 => subst x)
         | clear_value x)

theorem ringAll_keep (s : State) (hk : Keep L s) :
    Keep L (ringAll s) := by
  unfold ringAll
  repeat' with_reducible first
    | assumption | apply ringRead_keep | apply forEach_keep | intro _ | split | (simp only [keep_mk]; apply Keep.parts)
    | refine Keep.of_fst (by assumption) ?_

theorem fetchFail_keep (s : State) (k : Nat) (hk : Keep L s) :
    Keep L (fetchFail s k) := by
  unfold fetchFail
  repeat' with_reducible first
    | assumption | apply inc_keep | apply qpSet_keep | apply wr_keep | intro _ | split
    | (simp only [keep_mk]; apply Keep.parts) | refine Keep.of_fst (by assumption) ?_
    | (extract_lets +onlyGivenNames x
       first
         | (refine (fun (hx : Keep L x) => ?_) ?_
            on_goal 1 => clear_value x
            on_goal 2 => subst x)
         | (refine (fun (hx : Keep L x.1) => ?_) ?_
            on_goal 1 => clear_value x
            on_goal 2 => subst x)
         | clear_value x)

theorem fetchNext_keep (s : State) (k : Nat) (hk : Keep L s) : Keep L (fetchNext s k) := by
  unfold fetchNext
  repeat' with_reducible first
    | assumption | apply overlapRaise_keep | apply fetchFail_keep | apply qpSet_keep | intro _ | split | (simp only [keep_mk]; apply Keep.parts)
    | refine Keep.of_fst (by assumption) ?_ | refine Keep.issued (by assumption) ?_
    | (extract_lets +onlyGivenNames x
       first
         | (refine (fun (hx : Keep L x) => ?_) ?_
            on_goal 1 => clear_value x
            on_goal 2 => subst x)
         | (refine (fun (hx : Keep L x.1) => ?_) ?_
            on_goal 1 => clear_value x
            on_goal 2 => subst x)
         | clear_value x)

theorem fetchDone_keep (s : State) (k : Nat) (st : CplStatus) (descs : List Bytes) (hk : Keep L s) :
    Keep L (fetchDone s k st descs) := by
  unfold fetchDone
  repeat' with_reducible first
    | assumption | apply fetchFail_keep | apply fetchNext_keep | apply qpSet_keep | intro _ | split
    | (simp only [keep_mk]; apply Keep.parts) | refine Keep.of_fst (by assumption) ?_
    | (extract_lets +onlyGivenNames x
       first
         | (refine (fun (hx : Keep L x) => ?_) ?_
            on_goal 1 => clear_value x
            on_goal 2 => subst x)
         | (refine (fun (hx : Keep L x.1) => ?_) ?_
            on_goal 1 => clear_value x
            on_goal 2 => subst x)
         | clear_value x)

theorem postBell_keep (s : State) (sk idx : Nat) (pm : Nat) (hk : Keep L s) :
    Keep L (postBell s sk idx pm) := by
  unfold postBell
  repeat' with_reducible first
    | assumption | apply inc_keep | apply memberSet_keep | apply ringRead_keep | intro _ | split
    | (simp only [keep_mk]; apply Keep.parts) | refine Keep.of_fst (by assumption) ?_
    | (extract_lets +onlyGivenNames x
       first
         | (refine (fun (hx : Keep L x) => ?_) ?_
            on_goal 1 => clear_value x
            on_goal 2 => subst x)
         | (refine (fun (hx : Keep L x.1) => ?_) ?_
            on_goal 1 => clear_value x
            on_goal 2 => subst x)
         | clear_value x)

theorem bell_keep (s : State) (sk r v : Nat) (hk : Keep L s) :
    Keep L (bell s sk r v) := by
  unfold bell
  repeat' with_reducible first
    | assumption | apply fetchNext_keep | apply inc_keep | apply postBell_keep | apply wr_keep | intro _ | split
    | (simp only [keep_mk]; apply Keep.parts) | refine Keep.of_fst (by assumption) ?_
    | (extract_lets +onlyGivenNames x
       first
         | (refine (fun (hx : Keep L x) => ?_) ?_
            on_goal 1 => clear_value x
            on_goal 2 => subst x)
         | (refine (fun (hx : Keep L x.1) => ?_) ?_
            on_goal 1 => clear_value x
            on_goal 2 => subst x)
         | clear_value x)

theorem doorbells_keep (s : State) (sk off : Nat) (data : List (Byte × Bool)) (hk : Keep L s) :
    Keep L (doorbells s sk off data) := by
  unfold doorbells
  repeat' with_reducible first
    | assumption | apply bell_keep | apply inc_keep | apply forEach_keep | intro _ | split
    | (simp only [keep_mk]; apply Keep.parts) | refine Keep.of_fst (by assumption) ?_
    | (extract_lets +onlyGivenNames x
       first
         | (refine (fun (hx : Keep L x) => ?_) ?_
            on_goal 1 => clear_value x
            on_goal 2 => subst x)
         | (refine (fun (hx : Keep L x.1) => ?_) ?_
            on_goal 1 => clear_value x
            on_goal 2 => subst x)
         | clear_value x)

theorem execDoorbell_keep (pt : Fin 16) (sl : Fin 1024) (off : BitVec 12) (data : List (Byte × Bool)) (s : State) (hk : Keep L s) :
    KeepRes L (execDoorbell pt sl off data s) := by
  unfold execDoorbell
  refine KeepRes.next ?_
  repeat' with_reducible first
    | assumption | apply doorbells_keep | intro _ | split | (simp only [keep_mk]; apply Keep.parts)
    | refine Keep.of_fst (by assumption) ?_

end Sys2Proof.Machine
end

