-- ==== Sys2Proof/Laws/KeepJobs.lean ====
section
/-! SUPPORT. What the operations of Jobs.lean keep. -/

namespace Sys2Proof.Machine

variable {L : List Instr}

theorem jobSet_keep (s : State) (k : Nat) (j : Job) (hk : Keep L s) :
    Keep L (jobSet s k j) := by
  unfold jobSet
  repeat' with_reducible first
    | assumption | apply qpSet_keep | intro _ | split | (simp only [keep_mk]; apply Keep.parts)
    | refine Keep.of_fst (by assumption) ?_
    | (extract_lets +onlyGivenNames x
       first
         | (refine (fun (hx : Keep L x) => ?_) ?_
            on_goal 1 => clear_value x
            on_goal 2 => subst x)
         | (refine (fun (hx : Keep L x.1) => ?_) ?_
            on_goal 1 => clear_value x
            on_goal 2 => subst x)
         | clear_value x)

theorem retireOne_keep (s : State) (k : Nat) (j : Job) (hk : Keep L s) :
    Keep L (retireOne s k j) := by
  unfold retireOne
  repeat' with_reducible first
    | assumption | apply inc_keep | apply qpSet_keep | apply wr_keep | intro _ | split
    | (simp only [keep_mk]; apply Keep.parts) | refine Keep.of_fst (by assumption) ?_
    | (extract_lets +onlyGivenNames x
       first
         | (refine (fun (hx : Keep L x) => ?_) ?_
            on_goal 1 => clear_value x
            on_goal 2 => subst x)
         | (refine (fun (hx : Keep L x.1) => ?_) ?_
            on_goal 1 => clear_value x
            on_goal 2 => subst x)
         | clear_value x)

theorem haltIfDone_keep (s : State) (k : Nat) (hk : Keep L s) :
    Keep L (haltIfDone s k) := by
  unfold haltIfDone
  repeat' with_reducible first
    | assumption | apply qpSet_keep | apply wr_keep | intro _ | split | (simp only [keep_mk]; apply Keep.parts)
    | refine Keep.of_fst (by assumption) ?_
    | (extract_lets +onlyGivenNames x
       first
         | (refine (fun (hx : Keep L x) => ?_) ?_
            on_goal 1 => clear_value x
            on_goal 2 => subst x)
         | (refine (fun (hx : Keep L x.1) => ?_) ?_
            on_goal 1 => clear_value x
            on_goal 2 => subst x)
         | clear_value x)

theorem retire_keep (s : State) (k : Nat) (hk : Keep L s) :
    Keep L (retire s k) := by
  unfold retire
  repeat' with_reducible first
    | assumption | apply haltIfDone_keep | apply retireOne_keep | apply foldl_keep | apply foldl_keep_fst | intro _ | split
    | (simp only [keep_mk]; apply Keep.parts) | refine Keep.of_fst (by assumption) ?_

theorem jobEnd_keep (s : State) (k id status : Nat) (hk : Keep L s) :
    Keep L (jobEnd s k id status) := by
  unfold jobEnd
  repeat' with_reducible first
    | assumption | apply awtClose_keep | apply jobSet_keep | apply qpSet_keep | apply retire_keep | intro _ | split
    | (simp only [keep_mk]; apply Keep.parts) | refine Keep.of_fst (by assumption) ?_
    | (extract_lets +onlyGivenNames x
       first
         | (refine (fun (hx : Keep L x) => ?_) ?_
            on_goal 1 => clear_value x
            on_goal 2 => subst x)
         | (refine (fun (hx : Keep L x.1) => ?_) ?_
            on_goal 1 => clear_value x
            on_goal 2 => subst x)
         | clear_value x)

theorem writeStep_keep (s : State) (k cl : Nat) (j : Job) (hk : Keep L s) :
    ∀ t, writeStep s k cl j = some t → Keep L t.1 := by
  intro t ht
  unfold writeStep at ht
  extract_lets at ht
  split at ht
  · cases ht
  · cases ht
    exact resCheck_keep _ _ _ _ (aimed_keep _ _ _ _ (awtTrack_keep _ _ _ hk))

theorem writeAll_keep (k cl : Nat) : ∀ (n : Nat) (s : State) (j : Job), Keep L s → Keep L (writeAll k cl n s j)
  | 0, _, _, hk => hk
  | n + 1, s, j, hk => by
    unfold writeAll
    split
    · rename_i t i _ ht
      exact writeAll_keep k cl n _ i (jobSet_keep _ _ _ (writeStep_keep _ _ _ _ hk _ ht))
    · exact hk

theorem readStep_keep (s : State) (k cl : Nat) (j : Job) (hk : Keep L s) :
    ∀ t, readStep s k cl j = some t → Keep L t.1 := by
  intro t ht
  unfold readStep at ht
  extract_lets at ht
  split at ht
  · cases ht
  · rw [Option.map_eq_some_iff] at ht
    obtain ⟨u, hu, rfl⟩ := ht
    exact issueRead_keep _ _ _ _ _ _ _ _ _ _ _ hk _ hu

theorem flushStep_keep (s : State) (k cl : Nat) (j : Job) (hk : Keep L s) : ∀ t, flushStep s k cl j = some t → Keep L t := by
  intro t ht
  unfold flushStep at ht
  split at ht
  · cases ht
  · rw [Option.map_eq_some_iff] at ht
    obtain ⟨u, hu, rfl⟩ := ht
    exact jobSet_keep _ _ _ (issueRead_keep _ _ _ _ _ _ _ _ _ _ _ hk _ hu)

theorem jobProve_keep (s : State) (k id status : Nat) (hk : Keep L s) : Keep L (jobProve s k id status) := by
  unfold jobProve
  dsimp only
  repeat' with_reducible first
    | assumption | apply jobEnd_keep | apply jobSet_keep | apply qpSet_keep | intro _ | split
    | (simp only [keep_mk]; apply Keep.parts) | refine Keep.of_fst (by assumption) ?_

theorem jobOp_keep (s : State) (k cl : Nat) (blk : Bool) (j : Job) (hk : Keep L s) :
    ∀ t, jobOp s k cl blk j = some t → Keep L t.1 := by
  intro t ht
  unfold jobOp at ht
  split at ht
  · split at ht
    · rename_i u i n hu
      cases ht
      split at hu
      · cases hu
      · exact jobSet_keep _ _ _ (writeStep_keep _ _ _ _ hk _ hu)
    · split at ht
      · cases ht; exact jobProve_keep _ _ _ _ hk
      · split at ht
        · rw [Option.map_eq_some_iff] at ht
          obtain ⟨u, hu, rfl⟩ := ht
          exact jobSet_keep _ _ _ (readStep_keep _ _ _ _ hk _ hu)
        · cases ht
  · split at ht
    · rw [Option.map_eq_some_iff] at ht
      obtain ⟨u, hu, rfl⟩ := ht
      exact flushStep_keep _ _ _ _ hk _ hu
    · cases ht
  · cases ht

theorem jobsOp_keep (s : State) (k cl : Nat) (hk : Keep L s) : ∀ (l : List Job) (blk : Bool) (t : State × Nat),
    jobsOp s k cl l blk = some t → Keep L t.1
  | [], _, _, ht => by cases ht
  | j :: l, blk, t, ht => by
    unfold jobsOp at ht
    split at ht
    · rename_i r hr
      cases ht
      split at hr
      · exact jobOp_keep _ _ _ _ _ hk _ hr
      · cases hr
    · exact jobsOp_keep s k cl hk l _ t ht

theorem ringOp_keep (s : State) (k cl : Nat) (hk : Keep L s) : ∀ t, ringOp s k cl = some t → Keep L t.1 := by
  intro t ht
  unfold ringOp at ht
  split at ht
  · cases ht
  · exact jobsOp_keep _ _ _ hk _ _ _ ht

theorem drrStep_keep (s : State) (cl : Nat) (hk : Keep L s) : ∀ t, drrStep s cl = some t → Keep L t := by
  intro t ht
  unfold drrStep at ht
  extract_lets +onlyGivenNames ready slices u at ht
  have hu : Keep L u := rngUpd_keep _ _ hk
  clear_value ready slices u
  dsimp only at ht
  split at ht
  · cases ht
  split at ht
  · cases ht; exact rngUpd_keep _ _ hu
  split at ht
  · cases ht; exact rngUpd_keep _ _ hu
  split at ht
  · cases ht; exact rngUpd_keep _ _ hu
  rename_i hr
  split at ht
  · cases ht; exact rngUpd_keep _ _ hu
  · cases ht; exact rngUpd_keep _ _ (ringOp_keep _ _ _ hu _ hr)

theorem serve_keep (cl : Nat) : ∀ (n : Nat) (s : State), Keep L s → Keep L (serve cl n s)
  | 0, _, hk => hk
  | n + 1, s, hk => by
    unfold serve
    split
    · rename_i t ht
      exact serve_keep cl n t (drrStep_keep _ _ hk _ ht)
    · exact rngUpd_keep _ _ hk

theorem pump_keep (s : State) (hk : Keep L s) :
    Keep L (pump s) := by
  unfold pump
  repeat' with_reducible first
    | assumption | apply serve_keep | apply forEach_keep | intro _ | split | (simp only [keep_mk]; apply Keep.parts)
    | refine Keep.of_fst (by assumption) ?_

theorem awlTry_keep (s : State) (hk : Keep L s) :
    Keep L (awlTry s) := by
  unfold awlTry
  repeat' with_reducible first
    | assumption | apply aimed_keep | apply awtTrack_keep | apply rngUpd_keep | intro _ | split
    | (simp only [keep_mk]; apply Keep.parts) | refine Keep.of_fst (by assumption) ?_
    | (extract_lets +onlyGivenNames x
       first
         | (refine (fun (hx : Keep L x) => ?_) ?_
            on_goal 1 => clear_value x
            on_goal 2 => subst x)
         | (refine (fun (hx : Keep L x.1) => ?_) ?_
            on_goal 1 => clear_value x
            on_goal 2 => subst x)
         | clear_value x)

theorem pumpAll_keep (s : State) (hk : Keep L s) :
    Keep L (pumpAll s) := by
  unfold pumpAll
  repeat' with_reducible first
    | assumption | apply awlTry_keep | apply fetchNext_keep | apply pump_keep | apply ringAll_keep | apply forEach_keep
    | intro _ | split | (simp only [keep_mk]; apply Keep.parts) | refine Keep.of_fst (by assumption) ?_

theorem jobFail_keep (s : State) (k id status : Nat) (hk : Keep L s) : Keep L (jobFail s k id status) := by
  unfold jobFail
  split
  · split
    · exact pump_keep _ (jobSet_keep _ _ _ hk)
    · exact hk
  · exact hk

theorem execJobStart_keep (q : QPRef) (s : State) (hk : Keep L s) :
    KeepRes L (execJobStart q s) := by
  unfold execJobStart
  refine KeepRes.next ?_
  repeat' with_reducible first
    | assumption | apply fetchFail_keep | apply jobEnd_keep | apply qpSet_keep | apply rngUpd_keep | apply wr_keep | intro _
    | split | (simp only [keep_mk]; apply Keep.parts) | refine Keep.of_fst (by assumption) ?_
    | (extract_lets +onlyGivenNames x
       first
         | (refine (fun (hx : Keep L x) => ?_) ?_
            on_goal 1 => clear_value x
            on_goal 2 => subst x)
         | (refine (fun (hx : Keep L x.1) => ?_) ?_
            on_goal 1 => clear_value x
            on_goal 2 => subst x)
         | clear_value x)

theorem onJob_keep (q : QPRef) (op : Nat) (s : State) (f : State → Nat → Job → State) (hk : Keep L s)
    (hf : ∀ k j, Keep L (f s k j)) : Keep L (onJob q op s f) := by
  unfold onJob
  split
  · exact hf _ _
  · exact hk

theorem jobOpen_keep (s : State) (k : Nat) (j : Job) (hk : Keep L s) :
    Keep L (jobOpen s k j) := by
  unfold jobOpen
  repeat' with_reducible first
    | assumption | apply awtOpen_keep | intro _ | split | (simp only [keep_mk]; apply Keep.parts)
    | refine Keep.of_fst (by assumption) ?_

theorem jobRefuse_keep (s : State) (k id : Nat) (glob : Bool) (a len : Nat) (need : Need) (st : Nat) (hk : Keep L s) :
    Keep L (jobRefuse s k id glob a len need st) := by
  unfold jobRefuse
  repeat' with_reducible first
    | assumption | apply jobEnd_keep | apply overlapRaise_keep

theorem execNop_keep (q : QPRef) (s : State) (hk : Keep L s) :
    KeepRes L (execNop q s) := by
  unfold execNop
  refine KeepRes.next ?_
  repeat' with_reducible first
    | assumption | apply jobEnd_keep | apply onJob_keep | intro _ | split | (simp only [keep_mk]; apply Keep.parts)
    | refine Keep.of_fst (by assumption) ?_

theorem execCopy_keep (q : QPRef) (s : State) (hk : Keep L s) :
    KeepRes L (execCopy q s) := by
  unfold execCopy
  refine KeepRes.next ?_
  repeat' with_reducible first
    | assumption | apply jobRefuse_keep | apply jobEnd_keep | apply jobOpen_keep | apply jobSet_keep | apply onJob_keep | apply pump_keep | intro _
    | split | (simp only [keep_mk]; apply Keep.parts) | refine Keep.of_fst (by assumption) ?_
    | (extract_lets +onlyGivenNames x
       first
         | (refine (fun (hx : Keep L x) => ?_) ?_
            on_goal 1 => clear_value x
            on_goal 2 => subst x)
         | (refine (fun (hx : Keep L x.1) => ?_) ?_
            on_goal 1 => clear_value x
            on_goal 2 => subst x)
         | clear_value x)

theorem execPlaceCopy_keep (q : QPRef) (s : State) (hk : Keep L s) : KeepRes L (execPlaceCopy q s) := by
  unfold execPlaceCopy
  refine KeepRes.next (onJob_keep _ _ _ _ hk (fun k j => ?_))
  extract_lets +onlyGivenNames d p taken
  have ht : Keep L (taken s).1 := by
    subst taken
    dsimp only
    split
    · exact hk
    · exact decide'_keep _ _ _ _ _ _ hk
  clear_value taken d p
  split
  · exact jobRefuse_keep _ _ _ _ _ _ _ _ hk
  split
  · rename_i t heq
    exact jobEnd_keep _ _ _ _ (inc_keep _ _ _ (Keep.of_fst heq ht))
  · rename_i t ch heq
    extract_lets u
    have h1 : Keep L u := jobSet_keep _ _ _ (Keep.of_fst heq ht)
    split
    · exact jobRefuse_keep _ _ _ _ _ _ _ _ h1
    · exact pump_keep _ (jobOpen_keep _ _ _ h1)

theorem execFill_keep (q : QPRef) (s : State) (hk : Keep L s) :
    KeepRes L (execFill q s) := by
  unfold execFill
  refine KeepRes.next ?_
  repeat' with_reducible first
    | assumption | apply jobRefuse_keep | apply jobEnd_keep | apply jobOpen_keep | apply jobSet_keep | apply onJob_keep | apply pump_keep | intro _
    | split | (simp only [keep_mk]; apply Keep.parts) | refine Keep.of_fst (by assumption) ?_
    | (extract_lets +onlyGivenNames x
       first
         | (refine (fun (hx : Keep L x) => ?_) ?_
            on_goal 1 => clear_value x
            on_goal 2 => subst x)
         | (refine (fun (hx : Keep L x.1) => ?_) ?_
            on_goal 1 => clear_value x
            on_goal 2 => subst x)
         | clear_value x)

theorem execSeal_keep (q : QPRef) (s : State) (hk : Keep L s) :
    KeepRes L (execSeal q s) := by
  unfold execSeal
  refine KeepRes.next ?_
  repeat' with_reducible first
    | assumption | apply jobEnd_keep | apply onJob_keep | apply sealNamed_keep | intro _ | split
    | (simp only [keep_mk]; apply Keep.parts) | refine Keep.of_fst (by assumption) ?_

theorem execWaitTick_keep (q : QPRef) (s : State) (hk : Keep L s) :
    KeepRes L (execWaitTick q s) := by
  unfold execWaitTick
  refine KeepRes.next ?_
  repeat' with_reducible first
    | assumption | apply jobEnd_keep | apply jobSet_keep | apply onJob_keep | intro _ | split
    | (simp only [keep_mk]; apply Keep.parts) | refine Keep.of_fst (by assumption) ?_
    | (extract_lets +onlyGivenNames x
       first
         | (refine (fun (hx : Keep L x) => ?_) ?_
            on_goal 1 => clear_value x
            on_goal 2 => subst x)
         | (refine (fun (hx : Keep L x.1) => ?_) ?_
            on_goal 1 => clear_value x
            on_goal 2 => subst x)
         | clear_value x)

theorem waitTicks_keep (s : State) (hk : Keep L s) :
    Keep L (waitTicks s) := by
  unfold waitTicks
  repeat' with_reducible first
    | assumption | apply jobEnd_keep | apply forEach_keep | intro _ | split | (simp only [keep_mk]; apply Keep.parts)
    | refine Keep.of_fst (by assumption) ?_
    | (extract_lets +onlyGivenNames x
       first
         | (refine (fun (hx : Keep L x) => ?_) ?_
            on_goal 1 => clear_value x
            on_goal 2 => subst x)
         | (refine (fun (hx : Keep L x.1) => ?_) ?_
            on_goal 1 => clear_value x
            on_goal 2 => subst x)
         | clear_value x)

theorem execWaitTickTimeout_keep (q : QPRef) (s : State) (hk : Keep L s) :
    KeepRes L (execWaitTickTimeout q s) := by
  unfold execWaitTickTimeout
  refine KeepRes.next ?_
  repeat' with_reducible first
    | assumption | apply jobEnd_keep | intro _ | split | (simp only [keep_mk]; apply Keep.parts)
    | refine Keep.of_fst (by assumption) ?_
    | (extract_lets +onlyGivenNames x
       first
         | (refine (fun (hx : Keep L x) => ?_) ?_
            on_goal 1 => clear_value x
            on_goal 2 => subst x)
         | (refine (fun (hx : Keep L x.1) => ?_) ?_
            on_goal 1 => clear_value x
            on_goal 2 => subst x)
         | clear_value x)

theorem execFence_keep (q : QPRef) (s : State) (hk : Keep L s) :
    KeepRes L (execFence q s) := by
  unfold execFence
  refine KeepRes.next ?_
  repeat' with_reducible first
    | assumption | apply jobEnd_keep | apply jobSet_keep | apply onJob_keep | apply pump_keep | apply qpSet_keep | intro _
    | split | (simp only [keep_mk]; apply Keep.parts) | refine Keep.of_fst (by assumption) ?_
    | (extract_lets +onlyGivenNames x
       first
         | (refine (fun (hx : Keep L x) => ?_) ?_
            on_goal 1 => clear_value x
            on_goal 2 => subst x)
         | (refine (fun (hx : Keep L x.1) => ?_) ?_
            on_goal 1 => clear_value x
            on_goal 2 => subst x)
         | clear_value x)

theorem execRecordOnly_keep (q : QPRef) (s : State) (hk : Keep L s) :
    KeepRes L (execRecordOnly q s) := by
  unfold execRecordOnly
  refine KeepRes.next ?_
  repeat' with_reducible first
    | assumption | apply jobEnd_keep | apply onJob_keep | intro _ | split | (simp only [keep_mk]; apply Keep.parts)
    | refine Keep.of_fst (by assumption) ?_

theorem jobFlushed_keep (s : State) (k id : Nat) (st : CplStatus) (hk : Keep L s) :
    Keep L (jobFlushed s k id st) := by
  unfold jobFlushed
  repeat' with_reducible first
    | assumption | apply jobEnd_keep | apply jobSet_keep | apply memberFail_keep | apply pump_keep | apply recWait_keep
    | intro _ | split | (simp only [keep_mk]; apply Keep.parts) | refine Keep.of_fst (by assumption) ?_
    | (extract_lets +onlyGivenNames x
       first
         | (refine (fun (hx : Keep L x) => ?_) ?_
            on_goal 1 => clear_value x
            on_goal 2 => subst x)
         | (refine (fun (hx : Keep L x.1) => ?_) ?_
            on_goal 1 => clear_value x
            on_goal 2 => subst x)
         | clear_value x)

theorem awlDone_keep (s : State) (st : CplStatus) (data : Nat) (hk : Keep L s) :
    Keep L (awlDone s st data) := by
  unfold awlDone
  repeat' with_reducible first
    | assumption | apply wr_keep | intro _ | split | (simp only [keep_mk]; apply Keep.parts)
    | refine Keep.of_fst (by assumption) ?_
    | (extract_lets +onlyGivenNames x
       first
         | (refine (fun (hx : Keep L x) => ?_) ?_
            on_goal 1 => clear_value x
            on_goal 2 => subst x)
         | (refine (fun (hx : Keep L x.1) => ?_) ?_
            on_goal 1 => clear_value x
            on_goal 2 => subst x)
         | clear_value x)

theorem readEnds_keep (s : State) (p : Purpose) (st : CplStatus) (buf : Bytes) (hk : Keep L s) :
    Keep L (readEnds s p st buf) := by
  unfold readEnds
  repeat' with_reducible first
    | assumption | apply awlDone_keep | apply fetchDone_keep | apply flushDone_keep | apply jobFail_keep
    | apply jobFlushed_keep | apply pump_keep | apply ringDone_keep | intro _ | split
    | (simp only [keep_mk]; apply Keep.parts) | refine Keep.of_fst (by assumption) ?_

theorem readData_keep (s : State) (u : TagUse) (data : Bytes) (hk : Keep L s) :
    Keep L (readData s u data) := by
  unfold readData
  repeat' with_reducible first
    | assumption | apply jobSet_keep | intro _ | split | (simp only [keep_mk]; apply Keep.parts)
    | refine Keep.of_fst (by assumption) ?_

theorem pieceActs_keep (s : State) (u : TagUse) (st : CplStatus) (data : Bytes) (hk : Keep L s) :
    Keep L (pieceActs s u st data) := by
  unfold pieceActs
  repeat' with_reducible first
    | assumption | apply pump_keep | apply readData_keep | apply readEnds_keep | intro _ | split
    | (simp only [keep_mk]; apply Keep.parts) | refine Keep.of_fst (by assumption) ?_
    | (extract_lets +onlyGivenNames x
       first
         | (refine (fun (hx : Keep L x) => ?_) ?_
            on_goal 1 => clear_value x
            on_goal 2 => subst x)
         | (refine (fun (hx : Keep L x.1) => ?_) ?_
            on_goal 1 => clear_value x
            on_goal 2 => subst x)
         | clear_value x)

theorem execDmaReadCompletion_keep (pt : Fin 16) (tag : BitVec 14) (st : CplStatus) (data : Bytes) (s : State) (hk : Keep L s) :
    KeepRes L (execDmaReadCompletion pt tag st data s) := by
  unfold execDmaReadCompletion
  refine KeepRes.next ?_
  repeat' with_reducible first
    | assumption | apply awtCloseNp_keep | apply inc_keep | apply pieceActs_keep | apply pumpAll_keep | apply rngUpd_keep
    | apply tagFree_keep | intro _ | split | (simp only [keep_mk]; apply Keep.parts) | refine Keep.of_fst (by assumption) ?_
    | (extract_lets +onlyGivenNames x
       first
         | (refine (fun (hx : Keep L x) => ?_) ?_
            on_goal 1 => clear_value x
            on_goal 2 => subst x)
         | (refine (fun (hx : Keep L x.1) => ?_) ?_
            on_goal 1 => clear_value x
            on_goal 2 => subst x)
         | clear_value x)

theorem execCompletionTimeout_keep (pt : Fin 16) (tag : BitVec 14) (s : State) (hk : Keep L s) :
    KeepRes L (execCompletionTimeout pt tag s) := by
  unfold execCompletionTimeout
  refine KeepRes.next ?_
  repeat' with_reducible first
    | assumption | apply readEnds_keep | apply rngUpd_keep | intro _ | split | (simp only [keep_mk]; apply Keep.parts)
    | refine Keep.of_fst (by assumption) ?_
    | (extract_lets +onlyGivenNames x
       first
         | (refine (fun (hx : Keep L x) => ?_) ?_
            on_goal 1 => clear_value x
            on_goal 2 => subst x)
         | (refine (fun (hx : Keep L x.1) => ?_) ?_
            on_goal 1 => clear_value x
            on_goal 2 => subst x)
         | clear_value x)

theorem execTagQuarantineExpiry_keep (pt : Fin 16) (tag : BitVec 14) (s : State) (hk : Keep L s) :
    KeepRes L (execTagQuarantineExpiry pt tag s) := by
  unfold execTagQuarantineExpiry
  refine KeepRes.next ?_
  repeat' with_reducible first
    | assumption | apply pumpAll_keep | apply tagFree_keep | intro _ | split | (simp only [keep_mk]; apply Keep.parts)
    | refine Keep.of_fst (by assumption) ?_

theorem execFlushComplete_keep (u : Fin 65536) (st : CplStatus) (s : State) (hk : Keep L s) :
    KeepRes L (execFlushComplete u st s) := by
  unfold execFlushComplete
  refine KeepRes.next ?_
  repeat' with_reducible first
    | assumption | apply flushDone_keep | apply pumpAll_keep | apply tagsEnd_keep | intro _ | split
    | (simp only [keep_mk]; apply Keep.parts) | refine Keep.of_fst (by assumption) ?_

theorem execBufferRingReadDone_keep (pool : Fin 1024) (mb : Fin 64) (st : CplStatus) (entries : List (BitVec 64)) (s : State) (hk : Keep L s) :
    KeepRes L (execBufferRingReadDone pool mb st entries s) := by
  unfold execBufferRingReadDone
  refine KeepRes.next ?_
  repeat' with_reducible first
    | assumption | apply pumpAll_keep | apply ringDone_keep | apply tagsEnd_keep | intro _ | split
    | (simp only [keep_mk]; apply Keep.parts) | refine Keep.of_fst (by assumption) ?_

theorem execFetchComplete_keep (q : QPRef) (st : CplStatus) (descs : List Bytes) (s : State) (hk : Keep L s) :
    KeepRes L (execFetchComplete q st descs s) := by
  unfold execFetchComplete
  refine KeepRes.next ?_
  repeat' with_reducible first
    | assumption | apply fetchDone_keep | apply pumpAll_keep | apply tagsEnd_keep | intro _ | split
    | (simp only [keep_mk]; apply Keep.parts) | refine Keep.of_fst (by assumption) ?_

theorem cqWaited_keep (s : State) (k : Nat) (hk : Keep L s) :
    Keep L (cqWaited s k) := by
  unfold cqWaited
  repeat' with_reducible first
    | assumption | apply inc_keep | apply qpSet_keep | intro _ | split | (simp only [keep_mk]; apply Keep.parts)
    | refine Keep.of_fst (by assumption) ?_

theorem entryDone_keep (s : State) (k : Nat) (hk : Keep L s) :
    Keep L (entryDone s k) := by
  unfold entryDone
  repeat' with_reducible first
    | assumption | apply fetchFail_keep | apply fetchNext_keep | apply pump_keep | apply qpSet_keep | apply retire_keep
    | apply retireOne_keep | intro _ | split | (simp only [keep_mk]; apply Keep.parts)
    | refine Keep.of_fst (by assumption) ?_
    | (extract_lets +onlyGivenNames x
       first
         | (refine (fun (hx : Keep L x) => ?_) ?_
            on_goal 1 => clear_value x
            on_goal 2 => subst x)
         | (refine (fun (hx : Keep L x.1) => ?_) ?_
            on_goal 1 => clear_value x
            on_goal 2 => subst x)
         | clear_value x)

theorem execCompletionEntryWrite_keep (q : QPRef) (s : State) (hk : Keep L s) :
    KeepRes L (execCompletionEntryWrite q s) := by
  unfold execCompletionEntryWrite
  refine KeepRes.next ?_
  repeat' with_reducible first
    | assumption | apply cqWaited_keep | apply entryDone_keep | apply entryPut_keep | apply qpSet_keep | intro _ | split
    | (simp only [keep_mk]; apply Keep.parts) | refine Keep.of_fst (by assumption) ?_
    | (extract_lets +onlyGivenNames x
       first
         | (refine (fun (hx : Keep L x) => ?_) ?_
            on_goal 1 => clear_value x
            on_goal 2 => subst x)
         | (refine (fun (hx : Keep L x.1) => ?_) ?_
            on_goal 1 => clear_value x
            on_goal 2 => subst x)
         | clear_value x)

theorem qpEnable_keep (s : State) (k : Nat) (hk : Keep L s) :
    Keep L (qpEnable s k) := by
  unfold qpEnable
  repeat' with_reducible first
    | assumption | apply qpSet_keep | apply wr_keep | intro _ | split | (simp only [keep_mk]; apply Keep.parts)
    | refine Keep.of_fst (by assumption) ?_
    | (extract_lets +onlyGivenNames x
       first
         | (refine (fun (hx : Keep L x) => ?_) ?_
            on_goal 1 => clear_value x
            on_goal 2 => subst x)
         | (refine (fun (hx : Keep L x.1) => ?_) ?_
            on_goal 1 => clear_value x
            on_goal 2 => subst x)
         | clear_value x)

theorem qpStop_keep (s : State) (k : Nat) (hk : Keep L s) :
    Keep L (qpStop s k) := by
  unfold qpStop
  repeat' with_reducible first
    | assumption | apply awtClose_keep | apply qpSet_keep | apply rngUpd_keep | apply wr_keep | apply forEach_keep | intro _
    | split | (simp only [keep_mk]; apply Keep.parts) | refine Keep.of_fst (by assumption) ?_
    | (extract_lets +onlyGivenNames x
       first
         | (refine (fun (hx : Keep L x) => ?_) ?_
            on_goal 1 => clear_value x
            on_goal 2 => subst x)
         | (refine (fun (hx : Keep L x.1) => ?_) ?_
            on_goal 1 => clear_value x
            on_goal 2 => subst x)
         | clear_value x)

theorem qpResume_keep (s : State) (k : Nat) (hk : Keep L s) :
    Keep L (qpResume s k) := by
  unfold qpResume
  repeat' with_reducible first
    | assumption | apply fetchNext_keep | apply pump_keep | apply qpSet_keep | apply wr_keep | intro _ | split
    | (simp only [keep_mk]; apply Keep.parts) | refine Keep.of_fst (by assumption) ?_
    | (extract_lets +onlyGivenNames x
       first
         | (refine (fun (hx : Keep L x) => ?_) ?_
            on_goal 1 => clear_value x
            on_goal 2 => subst x)
         | (refine (fun (hx : Keep L x.1) => ?_) ?_
            on_goal 1 => clear_value x
            on_goal 2 => subst x)
         | clear_value x)

theorem execQpEnable_keep (q : QPRef) (s : State) (hk : Keep L s) :
    KeepRes L (execQpEnable q s) := by
  unfold execQpEnable
  refine KeepRes.next ?_
  repeat' with_reducible first
    | assumption | apply qpEnable_keep | intro _ | split | (simp only [keep_mk]; apply Keep.parts)
    | refine Keep.of_fst (by assumption) ?_

theorem execQpDisable_keep (q : QPRef) (s : State) (hk : Keep L s) :
    KeepRes L (execQpDisable q s) := by
  unfold execQpDisable
  refine KeepRes.next ?_
  repeat' with_reducible first
    | assumption | apply qpStop_keep | intro _ | split | (simp only [keep_mk]; apply Keep.parts)
    | refine Keep.of_fst (by assumption) ?_

theorem execQpResume_keep (q : QPRef) (s : State) (hk : Keep L s) :
    KeepRes L (execQpResume q s) := by
  unfold execQpResume
  refine KeepRes.next ?_
  repeat' with_reducible first
    | assumption | apply qpResume_keep | intro _ | split | (simp only [keep_mk]; apply Keep.parts)
    | refine Keep.of_fst (by assumption) ?_

theorem execQpStopped_keep (q : QPRef) (s : State) (hk : Keep L s) :
    KeepRes L (execQpStopped q s) := by
  unfold execQpStopped
  refine KeepRes.next ?_
  repeat' with_reducible first
    | assumption | apply wr_keep | intro _ | split | (simp only [keep_mk]; apply Keep.parts)
    | refine Keep.of_fst (by assumption) ?_
    | (extract_lets +onlyGivenNames x
       first
         | (refine (fun (hx : Keep L x) => ?_) ?_
            on_goal 1 => clear_value x
            on_goal 2 => subst x)
         | (refine (fun (hx : Keep L x.1) => ?_) ?_
            on_goal 1 => clear_value x
            on_goal 2 => subst x)
         | clear_value x)

theorem jobCut_keep (s : State) (k id : Nat) (hk : Keep L s) :
    Keep L (jobCut s k id) := by
  unfold jobCut
  repeat' with_reducible first
    | assumption | apply awtClose_keep | apply jobSet_keep | apply qpSet_keep | apply rngUpd_keep | apply writeAll_keep
    | intro _ | split | (simp only [keep_mk]; apply Keep.parts) | refine Keep.of_fst (by assumption) ?_
    | (extract_lets +onlyGivenNames x
       first
         | (refine (fun (hx : Keep L x) => ?_) ?_
            on_goal 1 => clear_value x
            on_goal 2 => subst x)
         | (refine (fun (hx : Keep L x.1) => ?_) ?_
            on_goal 1 => clear_value x
            on_goal 2 => subst x)
         | clear_value x)

theorem jobsCut_keep (s : State) (hk : Keep L s) :
    Keep L (jobsCut s) := by
  unfold jobsCut
  repeat' with_reducible first
    | assumption | apply jobCut_keep | apply forEach_keep | intro _ | split | (simp only [keep_mk]; apply Keep.parts)
    | refine Keep.of_fst (by assumption) ?_

theorem pumpFreed_keep (s t : State) (hk : Keep L t) :
    Keep L (pumpFreed s t) := by
  unfold pumpFreed
  repeat' with_reducible first
    | assumption | apply pumpAll_keep | intro _ | split | (simp only [keep_mk]; apply Keep.parts)
    | refine Keep.of_fst (by assumption) ?_

theorem execPacketMatch_keep (s : State) (hk : Keep L s) :
    KeepRes L (execPacketMatch s) := by
  unfold execPacketMatch
  refine KeepRes.next ?_
  repeat' with_reducible first
    | assumption | apply packetMatch_keep | apply pumpFreed_keep | intro _ | split | (simp only [keep_mk]; apply Keep.parts)
    | refine Keep.of_fst (by assumption) ?_

theorem execReadbackComplete_keep (i o : Fin 72) (c : Fin 8) (r : Readback) (s : State) (hk : Keep L s) :
    KeepRes L (execReadbackComplete i o c r s) := by
  unfold execReadbackComplete
  refine KeepRes.next ?_
  repeat' with_reducible first
    | assumption | apply pumpFreed_keep | apply readBack_keep | intro _ | split | (simp only [keep_mk]; apply Keep.parts)
    | refine Keep.of_fst (by assumption) ?_

theorem ofmQuotaSet_keep (s : State) (i v : Nat) (hk : Keep L s) :
    Keep L (ofmQuotaSet s i v) := by
  unfold ofmQuotaSet
  repeat' with_reducible first
    | assumption | apply ofmQuotaPut_keep | apply pumpFreed_keep | intro _ | split | (simp only [keep_mk]; apply Keep.parts)
    | refine Keep.of_fst (by assumption) ?_

theorem durTcSet_keep (s : State) (v : Nat) (hk : Keep L s) :
    Keep L (durTcSet s v) := by
  unfold durTcSet
  repeat' with_reducible first
    | assumption | apply durTcPut_keep | apply pumpFreed_keep | intro _ | split | (simp only [keep_mk]; apply Keep.parts)
    | refine Keep.of_fst (by assumption) ?_

theorem execOfmQuotaWrite_keep (m : Master) (n : Fin 16) (c : Fin 8) (v : BitVec 16) (s : State) (hk : Keep L s) :
    KeepRes L (execOfmQuotaWrite m n c v s) := by
  unfold execOfmQuotaWrite
  refine KeepRes.next ?_
  repeat' with_reducible first
    | assumption | apply asMaster_keep | apply ofmQuotaSet_keep | intro _ | split | (simp only [keep_mk]; apply Keep.parts)
    | refine Keep.of_fst (by assumption) ?_

theorem execDurTcWrite_keep (m : Master) (v : BitVec 8) (s : State) (hk : Keep L s) :
    KeepRes L (execDurTcWrite m v s) := by
  unfold execDurTcWrite
  refine KeepRes.next ?_
  repeat' with_reducible first
    | assumption | apply asMaster_keep | apply durTcSet_keep | intro _ | split | (simp only [keep_mk]; apply Keep.parts)
    | refine Keep.of_fst (by assumption) ?_

end Sys2Proof.Machine
end

