-- ==== Sys2Proof/Laws/KeepSlices.lean ====
section
/-! SUPPORT. What the operations of Slices.lean keep. -/

namespace Sys2Proof.Machine

variable {L : List Instr}

theorem pageReset_keep (s : State) (hit : Nat → Bool) (pair : Nat → Bool) (wide : Bool) (hk : Keep L s) :
    Keep L (pageReset s hit pair wide) := rreset_keep _ hk

theorem slicesStop_keep (s : State) (hit : Nat → Bool) (hk : Keep L s) :
    Keep L (slicesStop s hit) := by
  unfold slicesStop
  repeat' with_reducible first
    | assumption | apply pageReset_keep | apply qpStop_keep | apply forEach_keep | intro _ | split
    | (simp only [keep_mk]; apply Keep.parts) | refine Keep.of_fst (by assumption) ?_
    | (extract_lets +onlyGivenNames x
       first
         | (refine (fun (hx : Keep L x) => ?_) ?_
            on_goal 1 => clear_value x
            on_goal 2 => subst x)
         | (refine (fun (hx : Keep L x.1) => ?_) ?_
            on_goal 1 => clear_value x
            on_goal 2 => subst x)
         | clear_value x)

theorem ptnStat_keep (s : State) (hk : Keep L s) :
    Keep L (ptnStat s) := by
  unfold ptnStat
  repeat' with_reducible first
    | assumption | apply raiseIf_keep | apply wr_keep | apply wrb_keep | apply forEach_keep | intro _ | split
    | (simp only [keep_mk]; apply Keep.parts) | refine Keep.of_fst (by assumption) ?_
    | (extract_lets +onlyGivenNames x
       first
         | (refine (fun (hx : Keep L x) => ?_) ?_
            on_goal 1 => clear_value x
            on_goal 2 => subst x)
         | (refine (fun (hx : Keep L x.1) => ?_) ?_
            on_goal 1 => clear_value x
            on_goal 2 => subst x)
         | clear_value x)

theorem slcResult_keep (s : State) (r : Nat) (hk : Keep L s) :
    Keep L (slcResult s r) := by
  unfold slcResult
  repeat' with_reducible first
    | assumption | apply wr_keep | intro _ | split | (simp only [keep_mk]; apply Keep.parts)
    | refine Keep.of_fst (by assumption) ?_

theorem slcCreate_keep (s : State) (hk : Keep L s) :
    Keep L (slcCreate s) := by
  unfold slcCreate
  repeat' with_reducible first
    | assumption | apply pageReset_keep | apply ptnStat_keep | apply slcResult_keep | intro _ | split
    | (simp only [keep_mk]; apply Keep.parts) | refine Keep.of_fst (by assumption) ?_
    | (extract_lets +onlyGivenNames x
       first
         | (refine (fun (hx : Keep L x) => ?_) ?_
            on_goal 1 => clear_value x
            on_goal 2 => subst x)
         | (refine (fun (hx : Keep L x.1) => ?_) ?_
            on_goal 1 => clear_value x
            on_goal 2 => subst x)
         | clear_value x)

theorem slcDelete_keep (s : State) (hk : Keep L s) :
    Keep L (slcDelete s) := by
  unfold slcDelete
  repeat' with_reducible first
    | assumption | apply ptnStat_keep | apply slcResult_keep | intro _ | split | (simp only [keep_mk]; apply Keep.parts)
    | refine Keep.of_fst (by assumption) ?_
    | (extract_lets +onlyGivenNames x
       first
         | (refine (fun (hx : Keep L x) => ?_) ?_
            on_goal 1 => clear_value x
            on_goal 2 => subst x)
         | (refine (fun (hx : Keep L x.1) => ?_) ?_
            on_goal 1 => clear_value x
            on_goal 2 => subst x)
         | clear_value x)

theorem slcRecreate_keep (s : State) (hk : Keep L s) :
    Keep L (slcRecreate s) := by
  unfold slcRecreate
  repeat' with_reducible first
    | assumption | apply pageReset_keep | apply plcUpd_keep | apply slcResult_keep | apply wr_keep | apply forEach_keep
    | apply foldl_keep | apply foldl_keep_fst | intro _ | split | (simp only [keep_mk]; apply Keep.parts)
    | refine Keep.of_fst (by assumption) ?_
    | (extract_lets +onlyGivenNames x
       first
         | (refine (fun (hx : Keep L x) => ?_) ?_
            on_goal 1 => clear_value x
            on_goal 2 => subst x)
         | (refine (fun (hx : Keep L x.1) => ?_) ?_
            on_goal 1 => clear_value x
            on_goal 2 => subst x)
         | clear_value x)

theorem slcReset_keep (s : State) (hk : Keep L s) :
    Keep L (slcReset s) := by
  unfold slcReset
  repeat' with_reducible first
    | assumption | apply membersOfSlices_keep | apply slcResult_keep | apply slicesStop_keep | apply wr_keep | intro _
    | split | (simp only [keep_mk]; apply Keep.parts) | refine Keep.of_fst (by assumption) ?_
    | (extract_lets +onlyGivenNames x
       first
         | (refine (fun (hx : Keep L x) => ?_) ?_
            on_goal 1 => clear_value x
            on_goal 2 => subst x)
         | (refine (fun (hx : Keep L x.1) => ?_) ?_
            on_goal 1 => clear_value x
            on_goal 2 => subst x)
         | clear_value x)

theorem slcLoad_keep (s : State) (hk : Keep L s) :
    Keep L (slcLoad s) := by
  unfold slcLoad
  repeat' with_reducible first
    | assumption | apply slcResult_keep | apply wr_keep | apply wrb_keep | intro _ | split
    | (simp only [keep_mk]; apply Keep.parts) | refine Keep.of_fst (by assumption) ?_
    | (extract_lets +onlyGivenNames x
       first
         | (refine (fun (hx : Keep L x) => ?_) ?_
            on_goal 1 => clear_value x
            on_goal 2 => subst x)
         | (refine (fun (hx : Keep L x.1) => ?_) ?_
            on_goal 1 => clear_value x
            on_goal 2 => subst x)
         | clear_value x)

theorem execSliceCreate_keep (m : Master) (s : State) (hk : Keep L s) :
    KeepRes L (execSliceCreate m s) := by
  unfold execSliceCreate
  refine KeepRes.next ?_
  repeat' with_reducible first
    | assumption | apply asMaster_keep | apply slcCreate_keep | intro _ | split | (simp only [keep_mk]; apply Keep.parts)
    | refine Keep.of_fst (by assumption) ?_

theorem execSliceDelete_keep (m : Master) (s : State) (hk : Keep L s) :
    KeepRes L (execSliceDelete m s) := by
  unfold execSliceDelete
  refine KeepRes.next ?_
  repeat' with_reducible first
    | assumption | apply asMaster_keep | apply slcDelete_keep | intro _ | split | (simp only [keep_mk]; apply Keep.parts)
    | refine Keep.of_fst (by assumption) ?_

theorem execSliceRecreate_keep (m : Master) (s : State) (hk : Keep L s) :
    KeepRes L (execSliceRecreate m s) := by
  unfold execSliceRecreate
  refine KeepRes.next ?_
  repeat' with_reducible first
    | assumption | apply asMaster_keep | apply slcRecreate_keep | intro _ | split | (simp only [keep_mk]; apply Keep.parts)
    | refine Keep.of_fst (by assumption) ?_

theorem execSliceReset_keep (m : Master) (s : State) (hk : Keep L s) :
    KeepRes L (execSliceReset m s) := by
  unfold execSliceReset
  refine KeepRes.next ?_
  repeat' with_reducible first
    | assumption | apply asMaster_keep | apply slcReset_keep | intro _ | split | (simp only [keep_mk]; apply Keep.parts)
    | refine Keep.of_fst (by assumption) ?_

theorem execSliceLoad_keep (m : Master) (s : State) (hk : Keep L s) :
    KeepRes L (execSliceLoad m s) := by
  unfold execSliceLoad
  refine KeepRes.next ?_
  repeat' with_reducible first
    | assumption | apply asMaster_keep | apply slcLoad_keep | intro _ | split | (simp only [keep_mk]; apply Keep.parts)
    | refine Keep.of_fst (by assumption) ?_

theorem rszLast_keep (s : State) (d : Bytes) (r : Nat) (hk : Keep L s) :
    Keep L (rszLast s d r) := by
  unfold rszLast
  repeat' with_reducible first
    | assumption | apply wr_keep | intro _ | split | (simp only [keep_mk]; apply Keep.parts)
    | refine Keep.of_fst (by assumption) ?_

theorem rszApply_keep (s : State) (k : Nat) (j : Job) (hk : Keep L s) :
    Keep L (rszApply s k j) := by
  unfold rszApply
  repeat' with_reducible first
    | assumption | apply forEach_keep | apply wr_keep | apply jobEnd_keep | apply pageReset_keep | apply rszLast_keep | intro _ | split
    | (simp only [keep_mk]; apply Keep.parts) | refine Keep.of_fst (by assumption) ?_
    | (extract_lets +onlyGivenNames x
       first
         | (refine (fun (hx : Keep L x) => ?_) ?_
            on_goal 1 => clear_value x
            on_goal 2 => subst x)
         | (refine (fun (hx : Keep L x.1) => ?_) ?_
            on_goal 1 => clear_value x
            on_goal 2 => subst x)
         | clear_value x)

theorem execResize_keep (q : QPRef) (s : State) (hk : Keep L s) :
    KeepRes L (execResize q s) := by
  unfold execResize
  refine KeepRes.next ?_
  repeat' with_reducible first
    | assumption | apply jobEnd_keep | apply jobSet_keep | apply onJob_keep | apply rszApply_keep | apply rszLast_keep
    | intro _ | split | (simp only [keep_mk]; apply Keep.parts) | refine Keep.of_fst (by assumption) ?_
    | (extract_lets +onlyGivenNames x
       first
         | (refine (fun (hx : Keep L x) => ?_) ?_
            on_goal 1 => clear_value x
            on_goal 2 => subst x)
         | (refine (fun (hx : Keep L x.1) => ?_) ?_
            on_goal 1 => clear_value x
            on_goal 2 => subst x)
         | clear_value x)

theorem resizeTicks_keep (s : State) (hk : Keep L s) :
    Keep L (resizeTicks s) := by
  unfold resizeTicks
  repeat' with_reducible first
    | assumption | apply rszApply_keep | apply forEach_keep | intro _ | split | (simp only [keep_mk]; apply Keep.parts)
    | refine Keep.of_fst (by assumption) ?_

theorem execResizeTimeout_keep (q : QPRef) (s : State) (hk : Keep L s) :
    KeepRes L (execResizeTimeout q s) := by
  unfold execResizeTimeout
  refine KeepRes.next ?_
  repeat' with_reducible first
    | assumption | apply jobEnd_keep | apply rszLast_keep | intro _ | split | (simp only [keep_mk]; apply Keep.parts)
    | refine Keep.of_fst (by assumption) ?_
    | (extract_lets +onlyGivenNames x
       first
         | (refine (fun (hx : Keep L x) => ?_) ?_
            on_goal 1 => clear_value x
            on_goal 2 => subst x)
         | (refine (fun (hx : Keep L x.1) => ?_) ?_
            on_goal 1 => clear_value x
            on_goal 2 => subst x)
         | clear_value x)

theorem placeTake_keep (s : State) (n p : Nat) (hk : Keep L s) :
    Keep L (placeTake s n p) := by
  unfold placeTake
  repeat' with_reducible first
    | assumption | apply fabUpd_keep | intro _ | split | (simp only [keep_mk]; apply Keep.parts)
    | refine Keep.of_fst (by assumption) ?_
    | (extract_lets +onlyGivenNames x
       first
         | (refine (fun (hx : Keep L x) => ?_) ?_
            on_goal 1 => clear_value x
            on_goal 2 => subst x)
         | (refine (fun (hx : Keep L x.1) => ?_) ?_
            on_goal 1 => clear_value x
            on_goal 2 => subst x)
         | clear_value x)

theorem placesFix_keep (s : State) (n : Nat) (hk : Keep L s) :
    Keep L (placesFix s n) := by
  unfold placesFix
  repeat' with_reducible first
    | assumption | apply fabUpd_keep | apply placeTake_keep | apply forEach_keep | intro _ | split
    | (simp only [keep_mk]; apply Keep.parts) | refine Keep.of_fst (by assumption) ?_
    | (extract_lets +onlyGivenNames x
       first
         | (refine (fun (hx : Keep L x) => ?_) ?_
            on_goal 1 => clear_value x
            on_goal 2 => subst x)
         | (refine (fun (hx : Keep L x.1) => ?_) ?_
            on_goal 1 => clear_value x
            on_goal 2 => subst x)
         | clear_value x)

theorem remapWrite_keep (s : State) (i v : Nat) (hk : Keep L s) : Keep L (remapWrite s i v) := by
  unfold remapWrite
  dsimp only
  repeat' with_reducible first
    | assumption | apply fabUpd_keep | apply placeTake_keep | apply wr_keep | intro _ | split
    | (simp only [keep_mk]; apply Keep.parts) | refine Keep.of_fst (by assumption) ?_

theorem execRemapValidWrite_keep (m : Master) (i : Fin 4096) (v : BitVec 64) (s : State) (hk : Keep L s) :
    KeepRes L (execRemapValidWrite m i v s) := by
  unfold execRemapValidWrite
  refine KeepRes.next ?_
  repeat' with_reducible first
    | assumption | apply asMaster_keep | apply remapWrite_keep | intro _ | split | (simp only [keep_mk]; apply Keep.parts)
    | refine Keep.of_fst (by assumption) ?_

theorem xwRetire_keep (s : State) (xs : List Nat) (hk : Keep L s) :
    Keep L (xwRetire s xs) := by
  unfold xwRetire
  repeat' with_reducible first
    | assumption | intro _ | split | (simp only [keep_mk]; apply Keep.parts) | refine Keep.of_fst (by assumption) ?_
    | (extract_lets +onlyGivenNames x
       first
         | (refine (fun (hx : Keep L x) => ?_) ?_
            on_goal 1 => clear_value x
            on_goal 2 => subst x)
         | (refine (fun (hx : Keep L x.1) => ?_) ?_
            on_goal 1 => clear_value x
            on_goal 2 => subst x)
         | clear_value x)

theorem xwCommit_keep (s : State) (win : Nat) (all : Bool) (hk : Keep L s) :
    Keep L (xwCommit s win all) := by
  unfold xwCommit
  repeat' with_reducible first
    | assumption | apply fabUpd_keep | apply wr_keep | apply wrb_keep | apply xwRetire_keep | apply foldl_keep
    | apply foldl_keep_fst | intro _ | split | (simp only [keep_mk]; apply Keep.parts)
    | refine Keep.of_fst (by assumption) ?_
    | (extract_lets +onlyGivenNames x
       first
         | (refine (fun (hx : Keep L x) => ?_) ?_
            on_goal 1 => clear_value x
            on_goal 2 => subst x)
         | (refine (fun (hx : Keep L x.1) => ?_) ?_
            on_goal 1 => clear_value x
            on_goal 2 => subst x)
         | clear_value x)

theorem execXwCommit_keep (m : Master) (win : Fin 512) (all : Bool) (s : State) (hk : Keep L s) :
    KeepRes L (execXwCommit m win all s) := by
  unfold execXwCommit
  refine KeepRes.next ?_
  repeat' with_reducible first
    | assumption | apply asMaster_keep | apply xwCommit_keep | intro _ | split | (simp only [keep_mk]; apply Keep.parts)
    | refine Keep.of_fst (by assumption) ?_

theorem execXwDrained_keep (s : State) (hk : Keep L s) :
    KeepRes L (execXwDrained s) := by
  unfold execXwDrained
  refine KeepRes.next ?_
  repeat' with_reducible first
    | assumption | apply wr_keep | intro _ | split | (simp only [keep_mk]; apply Keep.parts)
    | refine Keep.of_fst (by assumption) ?_

theorem awlEnd_keep (s : State) (code : Nat) (hk : Keep L s) :
    Keep L (awlEnd s code) := by
  unfold awlEnd
  repeat' with_reducible first
    | assumption | apply wr_keep | intro _ | split | (simp only [keep_mk]; apply Keep.parts)
    | refine Keep.of_fst (by assumption) ?_

theorem awlLocked_keep (s : State) (r : AccReq) (hk : Keep L s) :
    Keep L (awlLocked s r) := by
  unfold awlLocked
  repeat' with_reducible first
    | assumption | apply awlEnd_keep | apply awtLog_keep | apply inc_keep | apply raise_keep | intro _ | split
    | (simp only [keep_mk]; apply Keep.parts) | refine Keep.of_fst (by assumption) ?_

theorem awlGo_keep (s : State) (hk : Keep L s) :
    Keep L (awlGo s) := by
  unfold awlGo
  repeat' with_reducible first
    | assumption | apply aimed_keep | apply awlEnd_keep | apply awlLocked_keep | apply awlTry_keep | apply awtDeny_keep
    | apply awtTrack_keep | apply wr_keep | intro _ | split | (simp only [keep_mk]; apply Keep.parts)
    | refine Keep.of_fst (by assumption) ?_
    | (extract_lets +onlyGivenNames x
       first
         | (refine (fun (hx : Keep L x) => ?_) ?_
            on_goal 1 => clear_value x
            on_goal 2 => subst x)
         | (refine (fun (hx : Keep L x.1) => ?_) ?_
            on_goal 1 => clear_value x
            on_goal 2 => subst x)
         | clear_value x)

theorem execAwlAccess_keep (m : Master) (s : State) (hk : Keep L s) :
    KeepRes L (execAwlAccess m s) := by
  unfold execAwlAccess
  refine KeepRes.next ?_
  repeat' with_reducible first
    | assumption | apply asMaster_keep | apply awlGo_keep | intro _ | split | (simp only [keep_mk]; apply Keep.parts)
    | refine Keep.of_fst (by assumption) ?_

theorem execAwlReadComplete_keep (st : CplStatus) (data : BitVec 64) (s : State) (hk : Keep L s) :
    KeepRes L (execAwlReadComplete st data s) := by
  unfold execAwlReadComplete
  refine KeepRes.next ?_
  repeat' with_reducible first
    | assumption | apply awlDone_keep | apply pumpAll_keep | apply rngUpd_keep | intro _ | split
    | (simp only [keep_mk]; apply Keep.parts) | refine Keep.of_fst (by assumption) ?_

theorem execAwlReadTimeout_keep (s : State) (hk : Keep L s) :
    KeepRes L (execAwlReadTimeout s) := by
  unfold execAwlReadTimeout
  refine KeepRes.next ?_
  repeat' with_reducible first
    | assumption | apply awlEnd_keep | apply rngUpd_keep | intro _ | split | (simp only [keep_mk]; apply Keep.parts)
    | refine Keep.of_fst (by assumption) ?_

end Sys2Proof.Machine
end

