-- ==== Sys2Proof/Laws/KeepClickers.lean ====
section
/-! SUPPORT. What the operations of Clickers.lean keep. -/

namespace Sys2Proof.Machine

variable {L : List Instr}

theorem ckrUpd_keep (s : State) (f : Ckr → Ckr) (hk : Keep L s) (hs : (f s.ckr).stg = s.ckr.stg) (hi : (f s.ckr).img = s.ckr.img) :
    Keep L (ckrUpd s f) := hk.upd rfl rfl hs rfl hi rfl

theorem cluTo_keep (s : State) (k v : Nat) (hk : Keep L s) :
    Keep L (cluTo s k v) := by
  unfold cluTo
  repeat' with_reducible first
    | assumption | apply wr_keep | intro _ | split | (simp only [keep_mk]; apply Keep.parts)
    | refine Keep.of_fst (by assumption) ?_

theorem stagingPut_keep (s : State) (off : Nat) (data : Bytes) (hk : Keep L s) : Keep L (stagingPut s off data) := by
  unfold stagingPut
  split
  · exact hk
  · have h1 := wr_keep CKR_IMG_STATUS_VERIFIED 0 0 hk
    exact ⟨h1.regs, h1.ret, wf_cputs _ h1.stg _, h1.cert, h1.img, h1.pend⟩

theorem execStagingWrite_keep (m : Master) (off : BitVec 21) (data : Bytes) (s : State) (hk : Keep L s) :
    KeepRes L (execStagingWrite m off data s) := by
  unfold execStagingWrite
  refine KeepRes.next ?_
  repeat' with_reducible first
    | assumption | apply asMaster_keep | apply stagingPut_keep | intro _ | split | (simp only [keep_mk]; apply Keep.parts)
    | refine Keep.of_fst (by assumption) ?_

theorem imageVerify_keep (s : State) (hk : Keep L s) :
    Keep L (imageVerify s) := by
  unfold imageVerify
  repeat' with_reducible first
    | assumption | apply ckrUpd_keep | apply wr_keep | rfl | intro _ | split | (simp only [keep_mk]; apply Keep.parts)
    | refine Keep.of_fst (by assumption) ?_

theorem execImageVerify_keep (m : Master) (s : State) (hk : Keep L s) :
    KeepRes L (execImageVerify m s) := by
  unfold execImageVerify
  refine KeepRes.next ?_
  repeat' with_reducible first
    | assumption | apply asMaster_keep | apply imageVerify_keep | intro _ | split | (simp only [keep_mk]; apply Keep.parts)
    | refine Keep.of_fst (by assumption) ?_

theorem execImageVerifyDone_keep (s : State) (hk : Keep L s) :
    KeepRes L (execImageVerifyDone s) := by
  unfold execImageVerifyDone
  refine KeepRes.next ?_
  repeat' with_reducible first
    | assumption | apply ckrUpd_keep | apply raiseIf_keep | apply wr_keep | apply wrb_keep | rfl | intro _ | split
    | (simp only [keep_mk]; apply Keep.parts) | refine Keep.of_fst (by assumption) ?_
    | (extract_lets +onlyGivenNames x
       first
         | (refine (fun (hx : Keep L x) => ?_) ?_
            on_goal 1 => clear_value x
            on_goal 2 => subst x)
         | (refine (fun (hx : Keep L x.1) => ?_) ?_
            on_goal 1 => clear_value x
            on_goal 2 => subst x)
         | clear_value x)

theorem imageCopy_keep (s : State) (k : Nat) (hk : Keep L s) : Keep L (imageCopy s k) := by
  refine wr_keep _ _ _ ⟨hk.regs, hk.ret, hk.stg, hk.cert, fun e he => ?_, hk.pend⟩
  rcases mem_nput he with rfl | he
  · exact wf_filter hk.stg _
  · exact hk.img e he

theorem imageInstall_keep (s : State) (hk : Keep L s) :
    Keep L (imageInstall s) := by
  unfold imageInstall
  repeat' with_reducible first
    | assumption | apply ckrUpd_keep | apply imageCopy_keep | apply wr_keep | rfl | apply forEach_keep | intro _ | split
    | (simp only [keep_mk]; apply Keep.parts) | refine Keep.of_fst (by assumption) ?_
    | (extract_lets +onlyGivenNames x
       first
         | (refine (fun (hx : Keep L x) => ?_) ?_
            on_goal 1 => clear_value x
            on_goal 2 => subst x)
         | (refine (fun (hx : Keep L x.1) => ?_) ?_
            on_goal 1 => clear_value x
            on_goal 2 => subst x)
         | clear_value x)

theorem execImageInstall_keep (m : Master) (mask : BitVec 8) (s : State) (hk : Keep L s) :
    KeepRes L (execImageInstall m mask s) := by
  unfold execImageInstall
  refine KeepRes.next ?_
  repeat' with_reducible first
    | assumption | apply asMaster_keep | apply imageInstall_keep | apply wr_keep | intro _ | split
    | (simp only [keep_mk]; apply Keep.parts) | refine Keep.of_fst (by assumption) ?_

theorem enginesFrom_keep (s : State) (k a b : Nat) (hk : Keep L s) :
    Keep L (enginesFrom s k a b) := by
  unfold enginesFrom
  repeat' with_reducible first
    | assumption | apply wr_keep | apply forEach_keep | intro _ | split | (simp only [keep_mk]; apply Keep.parts)
    | refine Keep.of_fst (by assumption) ?_

theorem enginesHeld_keep (s : State) (k : Nat) (hk : Keep L s) :
    Keep L (enginesHeld s k) := by
  unfold enginesHeld
  repeat' with_reducible first
    | assumption | apply enginesFrom_keep | intro _ | split | (simp only [keep_mk]; apply Keep.parts)
    | refine Keep.of_fst (by assumption) ?_

theorem cluUnfence_keep (s : State) (k : Nat) (hk : Keep L s) :
    Keep L (cluUnfence s k) := by
  unfold cluUnfence
  repeat' with_reducible first
    | assumption | apply fenceFree_keep | intro _ | split | (simp only [keep_mk]; apply Keep.parts)
    | refine Keep.of_fst (by assumption) ?_

theorem execImageInstallDone_keep (s : State) (hk : Keep L s) :
    KeepRes L (execImageInstallDone s) := by
  unfold execImageInstallDone
  refine KeepRes.next ?_
  repeat' with_reducible first
    | assumption | apply ckrUpd_keep | apply cluTo_keep | apply cluUnfence_keep | apply enginesHeld_keep | apply wr_keep
    | rfl | apply forEach_keep | intro _ | split | (simp only [keep_mk]; apply Keep.parts)
    | refine Keep.of_fst (by assumption) ?_
    | (extract_lets +onlyGivenNames x
       first
         | (refine (fun (hx : Keep L x) => ?_) ?_
            on_goal 1 => clear_value x
            on_goal 2 => subst x)
         | (refine (fun (hx : Keep L x.1) => ?_) ?_
            on_goal 1 => clear_value x
            on_goal 2 => subst x)
         | clear_value x)

theorem jobAgain_keep (s : State) (k : Nat) (j : Job) (hk : Keep L s) :
    Keep L (jobAgain s k j) := by
  unfold jobAgain
  repeat' with_reducible first
    | assumption | apply awtClose_keep | apply ckrUpd_keep | apply jobSet_keep | rfl | intro _ | split
    | (simp only [keep_mk]; apply Keep.parts) | refine Keep.of_fst (by assumption) ?_
    | (extract_lets +onlyGivenNames x
       first
         | (refine (fun (hx : Keep L x) => ?_) ?_
            on_goal 1 => clear_value x
            on_goal 2 => subst x)
         | (refine (fun (hx : Keep L x.1) => ?_) ?_
            on_goal 1 => clear_value x
            on_goal 2 => subst x)
         | clear_value x)

theorem tagsCut_keep (s : State) (k : Nat) (hk : Keep L s) :
    Keep L (tagsCut s k) := by
  unfold tagsCut
  repeat' with_reducible first
    | assumption | apply memberSet_keep | apply puSet_keep | apply qpSet_keep | apply rngUpd_keep | apply forEach_keep
    | intro _ | split | (simp only [keep_mk]; apply Keep.parts) | refine Keep.of_fst (by assumption) ?_
    | (extract_lets +onlyGivenNames x
       first
         | (refine (fun (hx : Keep L x) => ?_) ?_
            on_goal 1 => clear_value x
            on_goal 2 => subst x)
         | (refine (fun (hx : Keep L x.1) => ?_) ?_
            on_goal 1 => clear_value x
            on_goal 2 => subst x)
         | clear_value x)

theorem jobsStay_keep (s : State) (k : Nat) (hk : Keep L s) :
    Keep L (jobsStay s k) := by
  unfold jobsStay
  repeat' with_reducible first
    | assumption | apply ckrUpd_keep | rfl | apply forEach_keep | intro _ | split | (simp only [keep_mk]; apply Keep.parts)
    | refine Keep.of_fst (by assumption) ?_

theorem unserved_keep (s : State) (k : Nat) (hk : Keep L s) :
    Keep L (unserved s k) := by
  unfold unserved
  repeat' with_reducible first
    | assumption | apply raise_keep | apply wr_keep | intro _ | split | (simp only [keep_mk]; apply Keep.parts)
    | refine Keep.of_fst (by assumption) ?_

theorem handGo_keep (s : State) (k t : Nat) (hk : Keep L s) :
    Keep L (handGo s k t) := by
  unfold handGo
  repeat' with_reducible first
    | assumption | apply ckrUpd_keep | apply unserved_keep | rfl | intro _ | split | (simp only [keep_mk]; apply Keep.parts)
    | refine Keep.of_fst (by assumption) ?_

theorem cluStops_keep (s : State) (k : Nat) (hk : Keep L s) :
    Keep L (cluStops s k) := by
  unfold cluStops
  repeat' with_reducible first
    | assumption | apply awlEnd_keep | apply wr_keep | intro _ | split | (simp only [keep_mk]; apply Keep.parts)
    | refine Keep.of_fst (by assumption) ?_
    | (extract_lets +onlyGivenNames x
       first
         | (refine (fun (hx : Keep L x) => ?_) ?_
            on_goal 1 => clear_value x
            on_goal 2 => subst x)
         | (refine (fun (hx : Keep L x.1) => ?_) ?_
            on_goal 1 => clear_value x
            on_goal 2 => subst x)
         | clear_value x)

theorem cluLeaves_keep (s : State) (k to' : Nat) (hk : Keep L s) :
    Keep L (cluLeaves s k to') := by
  unfold cluLeaves
  repeat' with_reducible first
    | assumption | apply cluStops_keep | apply cluTo_keep | apply handGo_keep | apply jobAgain_keep | apply tagsCut_keep
    | apply forEach_keep | intro _ | split | (simp only [keep_mk]; apply Keep.parts) | refine Keep.of_fst (by assumption) ?_
    | (extract_lets +onlyGivenNames x
       first
         | (refine (fun (hx : Keep L x) => ?_) ?_
            on_goal 1 => clear_value x
            on_goal 2 => subst x)
         | (refine (fun (hx : Keep L x.1) => ?_) ?_
            on_goal 1 => clear_value x
            on_goal 2 => subst x)
         | clear_value x)

theorem execWorkHandoffDone_keep (k : Fin 8) (s : State) (hk : Keep L s) :
    KeepRes L (execWorkHandoffDone k s) := by
  unfold execWorkHandoffDone
  refine KeepRes.next ?_
  repeat' with_reducible first
    | assumption | apply ckrUpd_keep | apply handGo_keep | apply jobsStay_keep | apply pumpAll_keep | apply wr_keep | rfl
    | intro _ | split | (simp only [keep_mk]; apply Keep.parts) | refine Keep.of_fst (by assumption) ?_
    | (extract_lets +onlyGivenNames x
       first
         | (refine (fun (hx : Keep L x) => ?_) ?_
            on_goal 1 => clear_value x
            on_goal 2 => subst x)
         | (refine (fun (hx : Keep L x.1) => ?_) ?_
            on_goal 1 => clear_value x
            on_goal 2 => subst x)
         | clear_value x)

theorem cluSwap_keep (s : State) (k : Nat) (hk : Keep L s) :
    Keep L (cluSwap s k) := by
  unfold cluSwap
  repeat' with_reducible first
    | assumption | apply cluStops_keep | apply cluTo_keep | apply handGo_keep | apply jobsStay_keep | apply wr_keep
    | apply forEach_keep | intro _ | split | (simp only [keep_mk]; apply Keep.parts) | refine Keep.of_fst (by assumption) ?_
    | (extract_lets +onlyGivenNames x
       first
         | (refine (fun (hx : Keep L x) => ?_) ?_
            on_goal 1 => clear_value x
            on_goal 2 => subst x)
         | (refine (fun (hx : Keep L x.1) => ?_) ?_
            on_goal 1 => clear_value x
            on_goal 2 => subst x)
         | clear_value x)

theorem execClusterSwap_keep (m : Master) (k : Fin 8) (s : State) (hk : Keep L s) :
    KeepRes L (execClusterSwap m k s) := by
  unfold execClusterSwap
  refine KeepRes.next ?_
  repeat' with_reducible first
    | assumption | apply asMaster_keep | apply cluSwap_keep | intro _ | split | (simp only [keep_mk]; apply Keep.parts)
    | refine Keep.of_fst (by assumption) ?_

theorem cluLoading_keep (s : State) (k : Nat) (hk : Keep L s) :
    Keep L (cluLoading s k) := by
  unfold cluLoading
  repeat' with_reducible first
    | assumption | apply cluTo_keep | apply enginesFrom_keep | apply imageCopy_keep | intro _ | split
    | (simp only [keep_mk]; apply Keep.parts) | refine Keep.of_fst (by assumption) ?_

theorem execClusterDrainEnd_keep (k : Fin 8) (timedOut : Bool) (s : State) (hk : Keep L s) :
    KeepRes L (execClusterDrainEnd k timedOut s) := by
  unfold execClusterDrainEnd
  refine KeepRes.next ?_
  repeat' with_reducible first
    | assumption | apply cluLoading_keep | apply jobAgain_keep | apply tagsCut_keep | apply forEach_keep | intro _ | split
    | (simp only [keep_mk]; apply Keep.parts) | refine Keep.of_fst (by assumption) ?_
    | (extract_lets +onlyGivenNames x
       first
         | (refine (fun (hx : Keep L x) => ?_) ?_
            on_goal 1 => clear_value x
            on_goal 2 => subst x)
         | (refine (fun (hx : Keep L x.1) => ?_) ?_
            on_goal 1 => clear_value x
            on_goal 2 => subst x)
         | clear_value x)

theorem cluRuns_keep (s : State) (k : Nat) (hk : Keep L s) :
    Keep L (cluRuns s k) := by
  unfold cluRuns
  repeat' with_reducible first
    | assumption | apply ckrUpd_keep | apply cluTo_keep | apply enginesFrom_keep | apply handGo_keep | rfl
    | apply forEach_keep | intro _ | split | (simp only [keep_mk]; apply Keep.parts) | refine Keep.of_fst (by assumption) ?_
    | (extract_lets +onlyGivenNames x
       first
         | (refine (fun (hx : Keep L x) => ?_) ?_
            on_goal 1 => clear_value x
            on_goal 2 => subst x)
         | (refine (fun (hx : Keep L x.1) => ?_) ?_
            on_goal 1 => clear_value x
            on_goal 2 => subst x)
         | clear_value x)

theorem execClusterLoadDone_keep (k : Fin 8) (s : State) (hk : Keep L s) :
    KeepRes L (execClusterLoadDone k s) := by
  unfold execClusterLoadDone
  refine KeepRes.next ?_
  repeat' with_reducible first
    | assumption | apply cluRuns_keep | intro _ | split | (simp only [keep_mk]; apply Keep.parts)
    | refine Keep.of_fst (by assumption) ?_

theorem clustersStart_keep (s : State) (hk : Keep L s) :
    Keep L (clustersStart s) := by
  unfold clustersStart
  repeat' with_reducible first
    | assumption | apply cluRuns_keep | apply wr_keep | apply forEach_keep | intro _ | split
    | (simp only [keep_mk]; apply Keep.parts) | refine Keep.of_fst (by assumption) ?_

theorem cluBlock_keep (s : State) (k : Nat) (hk : Keep L s) : Keep L (cluBlock s k) := by
  unfold cluBlock
  extract_lets st t
  have ht : Keep L t := ckrUpd_keep _ _ hk rfl rfl
  clear_value st t
  split
  · split
    · exact cluLoading_keep _ _ (cluLeaves_keep _ _ _ ht)
    · have h1 := enginesHeld_keep _ k (cluLeaves_keep _ k 0 ht)
      generalize enginesHeld (cluLeaves t k 0) k = u at h1 ⊢
      exact ⟨h1.regs, h1.ret, h1.stg, h1.cert, fun e he => h1.img e (mem_ndel he), h1.pend⟩
  · exact ht

theorem cluFence_keep (s : State) (k : Nat) (hk : Keep L s) :
    Keep L (cluFence s k) := by
  unfold cluFence
  repeat' with_reducible first
    | assumption | apply cluLeaves_keep | apply enginesFrom_keep | intro _ | split | (simp only [keep_mk]; apply Keep.parts)
    | refine Keep.of_fst (by assumption) ?_

theorem cluRestore_keep (s : State) (k : Nat) (hk : Keep L s) :
    Keep L (cluRestore s k) := by
  unfold cluRestore
  repeat' with_reducible first
    | assumption | apply cluLoading_keep | apply cluUnfence_keep | apply enginesHeld_keep | apply wr_keep | intro _ | split
    | (simp only [keep_mk]; apply Keep.parts) | refine Keep.of_fst (by assumption) ?_

theorem execClusterRestore_keep (m : Master) (k : Fin 8) (s : State) (hk : Keep L s) :
    KeepRes L (execClusterRestore m k s) := by
  unfold execClusterRestore
  refine KeepRes.next ?_
  repeat' with_reducible first
    | assumption | apply asMaster_keep | apply cluRestore_keep | intro _ | split | (simp only [keep_mk]; apply Keep.parts)
    | refine Keep.of_fst (by assumption) ?_

theorem cluReclaim_keep (s : State) (k : Nat) (hk : Keep L s) :
    Keep L (cluReclaim s k) := by
  unfold cluReclaim
  repeat' with_reducible first
    | assumption | apply handGo_keep | apply wr_keep | intro _ | split | (simp only [keep_mk]; apply Keep.parts)
    | refine Keep.of_fst (by assumption) ?_

theorem execClusterReclaim_keep (m : Master) (k : Fin 8) (s : State) (hk : Keep L s) :
    KeepRes L (execClusterReclaim m k s) := by
  unfold execClusterReclaim
  refine KeepRes.next ?_
  repeat' with_reducible first
    | assumption | apply asMaster_keep | apply cluReclaim_keep | intro _ | split | (simp only [keep_mk]; apply Keep.parts)
    | refine Keep.of_fst (by assumption) ?_

theorem engFence_keep (s : State) (e : Nat) (hk : Keep L s) :
    Keep L (engFence s e) := by
  unfold engFence
  repeat' with_reducible first
    | assumption | apply cluFence_keep | apply wr_keep | intro _ | split | (simp only [keep_mk]; apply Keep.parts)
    | refine Keep.of_fst (by assumption) ?_
    | (extract_lets +onlyGivenNames x
       first
         | (refine (fun (hx : Keep L x) => ?_) ?_
            on_goal 1 => clear_value x
            on_goal 2 => subst x)
         | (refine (fun (hx : Keep L x.1) => ?_) ?_
            on_goal 1 => clear_value x
            on_goal 2 => subst x)
         | clear_value x)

theorem execEngineWatchdog_keep (e : Fin 96) (s : State) (hk : Keep L s) :
    KeepRes L (execEngineWatchdog e s) := by
  unfold execEngineWatchdog
  refine KeepRes.next ?_
  repeat' with_reducible first
    | assumption | apply raise_keep | apply wr_keep | intro _ | split | (simp only [keep_mk]; apply Keep.parts)
    | refine Keep.of_fst (by assumption) ?_

theorem engRestore_keep (s : State) (e : Nat) (pass : Bool) (hk : Keep L s) :
    Keep L (engRestore s e pass) := by
  unfold engRestore
  repeat' with_reducible first
    | assumption | apply fenceFree_keep | apply wr_keep | intro _ | split | (simp only [keep_mk]; apply Keep.parts)
    | refine Keep.of_fst (by assumption) ?_

theorem execEngineRestore_keep (m : Master) (e : Fin 96) (pass : Bool) (s : State) (hk : Keep L s) :
    KeepRes L (execEngineRestore m e pass s) := by
  unfold execEngineRestore
  refine KeepRes.next ?_
  repeat' with_reducible first
    | assumption | apply asMaster_keep | apply engRestore_keep | intro _ | split | (simp only [keep_mk]; apply Keep.parts)
    | refine Keep.of_fst (by assumption) ?_

theorem mbxReq_keep (s : State) (k : Nat) (hk : Keep L s) :
    Keep L (mbxReq s k) := by
  unfold mbxReq
  repeat' with_reducible first
    | assumption | apply wr_keep | intro _ | split | (simp only [keep_mk]; apply Keep.parts)
    | refine Keep.of_fst (by assumption) ?_
    | (extract_lets +onlyGivenNames x
       first
         | (refine (fun (hx : Keep L x) => ?_) ?_
            on_goal 1 => clear_value x
            on_goal 2 => subst x)
         | (refine (fun (hx : Keep L x.1) => ?_) ?_
            on_goal 1 => clear_value x
            on_goal 2 => subst x)
         | clear_value x)

theorem execMailboxRequest_keep (m : Master) (k : Fin 8) (s : State) (hk : Keep L s) :
    KeepRes L (execMailboxRequest m k s) := by
  unfold execMailboxRequest
  refine KeepRes.next ?_
  repeat' with_reducible first
    | assumption | apply asMaster_keep | apply mbxReq_keep | intro _ | split | (simp only [keep_mk]; apply Keep.parts)
    | refine Keep.of_fst (by assumption) ?_

theorem execMailboxResponse_keep (k : Fin 8) (words : List (BitVec 32)) (s : State) (hk : Keep L s) :
    KeepRes L (execMailboxResponse k words s) := by
  unfold execMailboxResponse
  refine KeepRes.next ?_
  repeat' with_reducible first
    | assumption | apply msixSignal_keep | apply wr_keep | apply forEach_keep | intro _ | split
    | (simp only [keep_mk]; apply Keep.parts) | refine Keep.of_fst (by assumption) ?_
    | (extract_lets +onlyGivenNames x
       first
         | (refine (fun (hx : Keep L x) => ?_) ?_
            on_goal 1 => clear_value x
            on_goal 2 => subst x)
         | (refine (fun (hx : Keep L x.1) => ?_) ?_
            on_goal 1 => clear_value x
            on_goal 2 => subst x)
         | clear_value x)

theorem mbxClear_keep (s : State) (k : Nat) (hk : Keep L s) :
    Keep L (mbxClear s k) := by
  unfold mbxClear
  repeat' with_reducible first
    | assumption | apply wr_keep | intro _ | split | (simp only [keep_mk]; apply Keep.parts)
    | refine Keep.of_fst (by assumption) ?_

theorem execMailboxAckClear_keep (m : Master) (k : Fin 8) (s : State) (hk : Keep L s) :
    KeepRes L (execMailboxAckClear m k s) := by
  unfold execMailboxAckClear
  refine KeepRes.next ?_
  repeat' with_reducible first
    | assumption | apply asMaster_keep | apply mbxClear_keep | intro _ | split | (simp only [keep_mk]; apply Keep.parts)
    | refine Keep.of_fst (by assumption) ?_

end Sys2Proof.Machine
end

