-- ==== Sys2Proof/Laws/KeepFabric.lean ====
section
/-! SUPPORT. What the operations of Fabric.lean keep. -/

namespace Sys2Proof.Machine

variable {L : List Instr}

theorem fabStatus_keep (s : State) (hk : Keep L s) :
    Keep L (fabStatus s) := by
  unfold fabStatus
  repeat' with_reducible first
    | assumption | apply wr_keep | apply wrb_keep | intro _ | split | (simp only [keep_mk]; apply Keep.parts)
    | refine Keep.of_fst (by assumption) ?_
    | (extract_lets +onlyGivenNames x
       first
         | (refine (fun (hx : Keep L x) => ?_) ?_
            on_goal 1 => clear_value x
            on_goal 2 => subst x)
         | (refine (fun (hx : Keep L x.1) => ?_) ?_
            on_goal 1 => clear_value x
            on_goal 2 => subst x)
         | clear_value x)

theorem nbrUpdate_keep (s : State) (p : Nat) (hk : Keep L s) :
    Keep L (nbrUpdate s p) := by
  unfold nbrUpdate
  repeat' with_reducible first
    | assumption | apply fabStatus_keep | apply inc_keep | apply raise_keep | apply wr_keep | apply wrb_keep | intro _
    | split | (simp only [keep_mk]; apply Keep.parts) | refine Keep.of_fst (by assumption) ?_
    | (extract_lets +onlyGivenNames x
       first
         | (refine (fun (hx : Keep L x) => ?_) ?_
            on_goal 1 => clear_value x
            on_goal 2 => subst x)
         | (refine (fun (hx : Keep L x.1) => ?_) ?_
            on_goal 1 => clear_value x
            on_goal 2 => subst x)
         | clear_value x)

theorem clashCheck_keep (s : State) (p : Nat) (hk : Keep L s) :
    Keep L (clashCheck s p) := by
  unfold clashCheck
  repeat' with_reducible first
    | assumption | apply fabStatus_keep | apply raiseIf_keep | apply wrb_keep | intro _ | split
    | (simp only [keep_mk]; apply Keep.parts) | refine Keep.of_fst (by assumption) ?_
    | (extract_lets +onlyGivenNames x
       first
         | (refine (fun (hx : Keep L x) => ?_) ?_
            on_goal 1 => clear_value x
            on_goal 2 => subst x)
         | (refine (fun (hx : Keep L x.1) => ?_) ?_
            on_goal 1 => clear_value x
            on_goal 2 => subst x)
         | clear_value x)

theorem noticeOut_keep (s : State) (n : Notice) (ttl : Nat) (except : Option Nat) (hk : Keep L s) :
    Keep L (noticeOut s n ttl except) := by
  unfold noticeOut
  repeat' with_reducible first
    | assumption | apply formed_keep | apply forEach_keep | intro _ | split | (simp only [keep_mk]; apply Keep.parts)
    | refine Keep.of_fst (by assumption) ?_

theorem noticeSend_keep (s : State) (kind source part sev : Nat) (hk : Keep L s) :
    Keep L (noticeSend s kind source part sev) := by
  unfold noticeSend
  repeat' with_reducible first
    | assumption | apply fabUpd_keep | apply inc_keep | apply noticeOut_keep | intro _ | split
    | (simp only [keep_mk]; apply Keep.parts) | refine Keep.of_fst (by assumption) ?_
    | (extract_lets +onlyGivenNames x
       first
         | (refine (fun (hx : Keep L x) => ?_) ?_
            on_goal 1 => clear_value x
            on_goal 2 => subst x)
         | (refine (fun (hx : Keep L x.1) => ?_) ?_
            on_goal 1 => clear_value x
            on_goal 2 => subst x)
         | clear_value x)

theorem noticeLog_keep (s : State) (n : Notice) (hk : Keep L s) :
    Keep L (noticeLog s n) := by
  unfold noticeLog
  repeat' with_reducible first
    | assumption | apply wr_keep | apply forEach_keep | intro _ | split | (simp only [keep_mk]; apply Keep.parts)
    | refine Keep.of_fst (by assumption) ?_
    | (extract_lets +onlyGivenNames x
       first
         | (refine (fun (hx : Keep L x) => ?_) ?_
            on_goal 1 => clear_value x
            on_goal 2 => subst x)
         | (refine (fun (hx : Keep L x.1) => ?_) ?_
            on_goal 1 => clear_value x
            on_goal 2 => subst x)
         | clear_value x)

theorem noticeTake_keep (s : State) (p : Nat) (n : Notice) (ttl : Nat) (hk : Keep L s) :
    Keep L (noticeTake s p n ttl) := by
  unfold noticeTake
  repeat' with_reducible first
    | assumption | apply fabUpd_keep | apply inc_keep | apply noticeLog_keep | apply noticeOut_keep | apply raiseIf_keep
    | intro _ | split | (simp only [keep_mk]; apply Keep.parts) | refine Keep.of_fst (by assumption) ?_
    | (extract_lets +onlyGivenNames x
       first
         | (refine (fun (hx : Keep L x) => ?_) ?_
            on_goal 1 => clear_value x
            on_goal 2 => subst x)
         | (refine (fun (hx : Keep L x.1) => ?_) ?_
            on_goal 1 => clear_value x
            on_goal 2 => subst x)
         | clear_value x)

theorem execNoticeReceive_keep (p : Fin 64) (n : Notice) (ttl : BitVec 4) (s : State) (hk : Keep L s) :
    KeepRes L (execNoticeReceive p n ttl s) := by
  unfold execNoticeReceive
  refine KeepRes.next ?_
  repeat' with_reducible first
    | assumption | apply noticeTake_keep | intro _ | split | (simp only [keep_mk]; apply Keep.parts)
    | refine Keep.of_fst (by assumption) ?_

theorem devWrite_keep (s : State) (d v : Nat) (hk : Keep L s) :
    Keep L (devWrite s d v) := by
  unfold devWrite
  repeat' with_reducible first
    | assumption | apply wr_keep | intro _ | split | (simp only [keep_mk]; apply Keep.parts)
    | refine Keep.of_fst (by assumption) ?_
    | (extract_lets +onlyGivenNames x
       first
         | (refine (fun (hx : Keep L x) => ?_) ?_
            on_goal 1 => clear_value x
            on_goal 2 => subst x)
         | (refine (fun (hx : Keep L x.1) => ?_) ?_
            on_goal 1 => clear_value x
            on_goal 2 => subst x)
         | clear_value x)

theorem execFabDevWrite_keep (m : Master) (d : Fin 64) (v : BitVec 32) (s : State) (hk : Keep L s) :
    KeepRes L (execFabDevWrite m d v s) := by
  unfold execFabDevWrite
  refine KeepRes.next ?_
  repeat' with_reducible first
    | assumption | apply asMaster_keep | apply devWrite_keep | intro _ | split | (simp only [keep_mk]; apply Keep.parts)
    | refine Keep.of_fst (by assumption) ?_

theorem gapEnable_keep (s : State) (n j : Nat) (hk : Keep L s) :
    Keep L (gapEnable s n j) := by
  unfold gapEnable
  repeat' with_reducible first
    | assumption | apply wr_keep | intro _ | split | (simp only [keep_mk]; apply Keep.parts)
    | refine Keep.of_fst (by assumption) ?_
    | (extract_lets +onlyGivenNames x
       first
         | (refine (fun (hx : Keep L x) => ?_) ?_
            on_goal 1 => clear_value x
            on_goal 2 => subst x)
         | (refine (fun (hx : Keep L x.1) => ?_) ?_
            on_goal 1 => clear_value x
            on_goal 2 => subst x)
         | clear_value x)

theorem execApertureEnable_keep (m : Master) (n : Fin 16) (j : Fin 4) (s : State) (hk : Keep L s) :
    KeepRes L (execApertureEnable m n j s) := by
  unfold execApertureEnable
  refine KeepRes.next ?_
  repeat' with_reducible first
    | assumption | apply asMaster_keep | apply gapEnable_keep | intro _ | split | (simp only [keep_mk]; apply Keep.parts)
    | refine Keep.of_fst (by assumption) ?_

theorem execProxyCompletion_keep (p : Fin 64) (pk : Packet) (s : State) (hk : Keep L s) :
    KeepRes L (execProxyCompletion p pk s) := by
  unfold execProxyCompletion
  refine KeepRes.next ?_
  repeat' with_reducible first
    | assumption | apply proxyReturn_keep | intro _ | split | (simp only [keep_mk]; apply Keep.parts)
    | refine Keep.of_fst (by assumption) ?_

theorem execReturnEntryStale_keep (p : Fin 64) (tag : BitVec 14) (s : State) (hk : Keep L s) :
    KeepRes L (execReturnEntryStale p tag s) := by
  unfold execReturnEntryStale
  refine KeepRes.next ?_
  repeat' with_reducible first
    | assumption | apply awtCloseNp_keep | apply inc_keep | apply retFree_keep | intro _ | split
    | (simp only [keep_mk]; apply Keep.parts) | refine Keep.of_fst (by assumption) ?_
    | (extract_lets +onlyGivenNames x
       first
         | (refine (fun (hx : Keep L x) => ?_) ?_
            on_goal 1 => clear_value x
            on_goal 2 => subst x)
         | (refine (fun (hx : Keep L x.1) => ?_) ?_
            on_goal 1 => clear_value x
            on_goal 2 => subst x)
         | clear_value x)

end Sys2Proof.Machine
end

