-- ==== Sys2Proof/Laws/KeepPorts.lean ====
section
/-! SUPPORT. What the operations of Ports.lean keep. -/

namespace Sys2Proof.Machine

variable {L : List Instr}

theorem prtUpd_keep (s : State) (f : Ports → Ports) (hk : Keep L s) :
    Keep L (prtUpd s f) := by
  unfold prtUpd
  repeat' with_reducible first
    | assumption | intro _ | split | (simp only [keep_mk]; apply Keep.parts) | refine Keep.of_fst (by assumption) ?_

theorem portState_keep (s : State) (p st : Nat) (hk : Keep L s) :
    Keep L (portState s p st) := by
  unfold portState
  repeat' with_reducible first
    | assumption | apply wr_keep | intro _ | split | (simp only [keep_mk]; apply Keep.parts)
    | refine Keep.of_fst (by assumption) ?_

theorem laneJoin_keep (s : State) (p l i : Nat) (hk : Keep L s) :
    Keep L (laneJoin s p l i) := by
  unfold laneJoin
  repeat' with_reducible first
    | assumption | apply wr_keep | intro _ | split | (simp only [keep_mk]; apply Keep.parts)
    | refine Keep.of_fst (by assumption) ?_
    | (extract_lets +onlyGivenNames x
       first
         | (refine (fun (hx : Keep L x) => ?_) ?_
            on_goal 1 => clear_value x
            on_goal 2 => subst x)
         | (refine (fun (hx : Keep L x.1) => ?_) ?_
            on_goal 1 => clear_value x
            on_goal 2 => subst x)
         | clear_value x)

theorem laneLeave_keep (s : State) (l : Nat) (hk : Keep L s) :
    Keep L (laneLeave s l) := by
  unfold laneLeave
  repeat' with_reducible first
    | assumption | apply wr_keep | intro _ | split | (simp only [keep_mk]; apply Keep.parts)
    | refine Keep.of_fst (by assumption) ?_
    | (extract_lets +onlyGivenNames x
       first
         | (refine (fun (hx : Keep L x) => ?_) ?_
            on_goal 1 => clear_value x
            on_goal 2 => subst x)
         | (refine (fun (hx : Keep L x.1) => ?_) ?_
            on_goal 1 => clear_value x
            on_goal 2 => subst x)
         | clear_value x)

theorem lanesJoin_keep (s : State) (p : Nat) (hk : Keep L s) :
    Keep L (lanesJoin s p) := by
  unfold lanesJoin
  repeat' with_reducible first
    | assumption | apply laneJoin_keep | apply forEach_keep | intro _ | split | (simp only [keep_mk]; apply Keep.parts)
    | refine Keep.of_fst (by assumption) ?_

theorem portEnable_keep (s : State) (p : Nat) (hk : Keep L s) :
    Keep L (portEnable s p) := by
  unfold portEnable
  repeat' with_reducible first
    | assumption | apply lanesJoin_keep | apply placeTake_keep | apply portState_keep | apply ptnStat_keep | apply wr_keep
    | intro _ | split | (simp only [keep_mk]; apply Keep.parts) | refine Keep.of_fst (by assumption) ?_
    | (extract_lets +onlyGivenNames x
       first
         | (refine (fun (hx : Keep L x) => ?_) ?_
            on_goal 1 => clear_value x
            on_goal 2 => subst x)
         | (refine (fun (hx : Keep L x.1) => ?_) ?_
            on_goal 1 => clear_value x
            on_goal 2 => subst x)
         | clear_value x)

theorem portEnableCmd_keep (s : State) (p : Nat) (hk : Keep L s) :
    Keep L (portEnableCmd s p) := by
  unfold portEnableCmd
  repeat' with_reducible first
    | assumption | apply portEnable_keep | apply prtUpd_keep | intro _ | split | (simp only [keep_mk]; apply Keep.parts)
    | refine Keep.of_fst (by assumption) ?_

theorem execPortEnable_keep (m : Master) (p : Fin 64) (s : State) (hk : Keep L s) :
    KeepRes L (execPortEnable m p s) := by
  unfold execPortEnable
  refine KeepRes.next ?_
  repeat' with_reducible first
    | assumption | apply asMaster_keep | apply portEnableCmd_keep | intro _ | split | (simp only [keep_mk]; apply Keep.parts)
    | refine Keep.of_fst (by assumption) ?_

theorem bridgeIrq_keep (s : State) (n f : Nat) (on : Bool) (hk : Keep L s) :
    Keep L (bridgeIrq s n f on) := by
  unfold bridgeIrq
  repeat' with_reducible first
    | assumption | apply formed_keep | intro _ | split | (simp only [keep_mk]; apply Keep.parts)
    | refine Keep.of_fst (by assumption) ?_
    | (extract_lets +onlyGivenNames x
       first
         | (refine (fun (hx : Keep L x) => ?_) ?_
            on_goal 1 => clear_value x
            on_goal 2 => subst x)
         | (refine (fun (hx : Keep L x.1) => ?_) ?_
            on_goal 1 => clear_value x
            on_goal 2 => subst x)
         | clear_value x)

theorem slotTell_keep (s : State) (p what : Nat) (hk : Keep L s) :
    Keep L (slotTell s p what) := by
  unfold slotTell
  repeat' with_reducible first
    | assumption | apply bridgeIrq_keep | intro _ | split | (simp only [keep_mk]; apply Keep.parts)
    | refine Keep.of_fst (by assumption) ?_
    | (extract_lets +onlyGivenNames x
       first
         | (refine (fun (hx : Keep L x) => ?_) ?_
            on_goal 1 => clear_value x
            on_goal 2 => subst x)
         | (refine (fun (hx : Keep L x.1) => ?_) ?_
            on_goal 1 => clear_value x
            on_goal 2 => subst x)
         | clear_value x)

theorem slotStat_keep (s : State) (p on off : Nat) (hk : Keep L s) :
    Keep L (slotStat s p on off) := by
  unfold slotStat
  repeat' with_reducible first
    | assumption | apply cfgPut_keep | apply slotTell_keep | intro _ | split | (simp only [keep_mk]; apply Keep.parts)
    | refine Keep.of_fst (by assumption) ?_
    | (extract_lets +onlyGivenNames x
       first
         | (refine (fun (hx : Keep L x) => ?_) ?_
            on_goal 1 => clear_value x
            on_goal 2 => subst x)
         | (refine (fun (hx : Keep L x.1) => ?_) ?_
            on_goal 1 => clear_value x
            on_goal 2 => subst x)
         | clear_value x)

theorem slotPresence_keep (s : State) (p : Nat) (b : Bool) (hk : Keep L s) :
    Keep L (slotPresence s p b) := by
  unfold slotPresence
  repeat' with_reducible first
    | assumption | apply slotStat_keep | intro _ | split | (simp only [keep_mk]; apply Keep.parts)
    | refine Keep.of_fst (by assumption) ?_

theorem laneClass_keep (s : State) (l c : Nat) (hk : Keep L s) :
    Keep L (laneClass s l c) := by
  unfold laneClass
  repeat' with_reducible first
    | assumption | apply raiseIf_keep | apply wr_keep | intro _ | split | (simp only [keep_mk]; apply Keep.parts)
    | refine Keep.of_fst (by assumption) ?_
    | (extract_lets +onlyGivenNames x
       first
         | (refine (fun (hx : Keep L x) => ?_) ?_
            on_goal 1 => clear_value x
            on_goal 2 => subst x)
         | (refine (fun (hx : Keep L x.1) => ?_) ?_
            on_goal 1 => clear_value x
            on_goal 2 => subst x)
         | clear_value x)

theorem lanesFound_keep (s : State) (p : Nat) (found shorted rxShort : Nat) (hk : Keep L s) :
    Keep L (lanesFound s p found shorted rxShort) := by
  unfold lanesFound
  repeat' with_reducible first
    | assumption | apply laneClass_keep | apply forEach_keep | intro _ | split | (simp only [keep_mk]; apply Keep.parts)
    | refine Keep.of_fst (by assumption) ?_
    | (extract_lets +onlyGivenNames x
       first
         | (refine (fun (hx : Keep L x) => ?_) ?_
            on_goal 1 => clear_value x
            on_goal 2 => subst x)
         | (refine (fun (hx : Keep L x.1) => ?_) ?_
            on_goal 1 => clear_value x
            on_goal 2 => subst x)
         | clear_value x)

theorem lanesRx_keep (s : State) (p : Nat) (rx : List (Fin 17 × Bool)) (hk : Keep L s) :
    Keep L (lanesRx s p rx) := by
  unfold lanesRx
  repeat' with_reducible first
    | assumption | apply laneClass_keep | apply forEach_keep | intro _ | split | (simp only [keep_mk]; apply Keep.parts)
    | refine Keep.of_fst (by assumption) ?_

theorem degradedLink_keep (s : State) (p target : Nat) (hk : Keep L s) :
    Keep L (degradedLink s p target) := by
  unfold degradedLink
  repeat' with_reducible first
    | assumption | apply wrb_keep | intro _ | split | (simp only [keep_mk]; apply Keep.parts)
    | refine Keep.of_fst (by assumption) ?_

theorem settle_keep (s : State) (p rate target : Nat) (hk : Keep L s) :
    Keep L (settle s p rate target) := by
  unfold settle
  repeat' with_reducible first
    | assumption | apply degradedLink_keep | apply portState_keep | apply raiseIf_keep | apply wr_keep | intro _ | split
    | (simp only [keep_mk]; apply Keep.parts) | refine Keep.of_fst (by assumption) ?_
    | (extract_lets +onlyGivenNames x
       first
         | (refine (fun (hx : Keep L x) => ?_) ?_
            on_goal 1 => clear_value x
            on_goal 2 => subst x)
         | (refine (fun (hx : Keep L x.1) => ?_) ?_
            on_goal 1 => clear_value x
            on_goal 2 => subst x)
         | clear_value x)

theorem tlSet_keep (s : State) (p : Nat) (t : Tl) (hk : Keep L s) :
    Keep L (tlSet s p t) := by
  unfold tlSet
  repeat' with_reducible first
    | assumption | apply prtUpd_keep | intro _ | split | (simp only [keep_mk]; apply Keep.parts)
    | refine Keep.of_fst (by assumption) ?_

theorem tlUpd_keep (s : State) (p : Nat) (f : Tl → Tl) (hk : Keep L s) :
    Keep L (tlUpd s p f) := by
  unfold tlUpd
  repeat' with_reducible first
    | assumption | apply tlSet_keep | intro _ | split | (simp only [keep_mk]; apply Keep.parts)
    | refine Keep.of_fst (by assumption) ?_

theorem presetLoad_keep (s : State) (hk : Keep L s) :
    Keep L (presetLoad s) := by
  unfold presetLoad
  repeat' with_reducible first
    | assumption | apply lanesJoin_keep | apply placesFix_keep | apply portState_keep | apply ptnStat_keep | apply wr_keep
    | apply wrb_keep | apply forEach_keep | intro _ | split | (simp only [keep_mk]; apply Keep.parts)
    | refine Keep.of_fst (by assumption) ?_
    | (extract_lets +onlyGivenNames x
       first
         | (refine (fun (hx : Keep L x) => ?_) ?_
            on_goal 1 => clear_value x
            on_goal 2 => subst x)
         | (refine (fun (hx : Keep L x.1) => ?_) ?_
            on_goal 1 => clear_value x
            on_goal 2 => subst x)
         | clear_value x)

theorem errsTake_keep (s : State) (p : Nat) (hk : Keep L s) :
    Keep L (errsTake s p) := by
  unfold errsTake
  repeat' with_reducible first
    | assumption | apply inc_keep | apply forEach_keep | intro _ | split | (simp only [keep_mk]; apply Keep.parts)
    | refine Keep.of_fst (by assumption) ?_
    | (extract_lets +onlyGivenNames x
       first
         | (refine (fun (hx : Keep L x) => ?_) ?_
            on_goal 1 => clear_value x
            on_goal 2 => subst x)
         | (refine (fun (hx : Keep L x.1) => ?_) ?_
            on_goal 1 => clear_value x
            on_goal 2 => subst x)
         | clear_value x)

theorem linkOff_keep (s : State) (p : Nat) (receivers keepStep : Bool) (hk : Keep L s) :
    Keep L (linkOff s p receivers keepStep) := by
  unfold linkOff
  repeat' with_reducible first
    | assumption | apply errsTake_keep | apply portState_keep | apply slotStat_keep | apply wr_keep | apply wrb_keep
    | apply forEach_keep | intro _ | split | (simp only [keep_mk]; apply Keep.parts) | refine Keep.of_fst (by assumption) ?_
    | (extract_lets +onlyGivenNames x
       first
         | (refine (fun (hx : Keep L x) => ?_) ?_
            on_goal 1 => clear_value x
            on_goal 2 => subst x)
         | (refine (fun (hx : Keep L x.1) => ?_) ?_
            on_goal 1 => clear_value x
            on_goal 2 => subst x)
         | clear_value x)

theorem countDown_keep (s : State) (p : Nat) (hk : Keep L s) :
    Keep L (countDown s p) := by
  unfold countDown
  repeat' with_reducible first
    | assumption | apply inc_keep | apply raise_keep | intro _ | split | (simp only [keep_mk]; apply Keep.parts)
    | refine Keep.of_fst (by assumption) ?_

theorem creditsDrop_keep (s : State) (p : Nat) (hk : Keep L s) :
    Keep L (creditsDrop s p) := by
  unfold creditsDrop
  repeat' with_reducible first
    | assumption | intro _ | split | (simp only [keep_mk]; apply Keep.parts) | refine Keep.of_fst (by assumption) ?_

theorem pcieDrop_keep (s : State) (p : Nat) (hk : Keep L s) :
    Keep L (pcieDrop s p) := by
  unfold pcieDrop
  repeat' with_reducible first
    | assumption | apply creditsDrop_keep | apply flushPort_keep | apply membersOfPort_keep | apply retRetry_keep | intro _
    | split | (simp only [keep_mk]; apply Keep.parts) | refine Keep.of_fst (by assumption) ?_

theorem dpcStatus_keep (s : State) (p : Nat) (b : Bool) (hk : Keep L s) :
    Keep L (dpcStatus s p b) := by
  unfold dpcStatus
  repeat' with_reducible first
    | assumption | apply cfgPut_keep | intro _ | split | (simp only [keep_mk]; apply Keep.parts)
    | refine Keep.of_fst (by assumption) ?_
    | (extract_lets +onlyGivenNames x
       first
         | (refine (fun (hx : Keep L x) => ?_) ?_
            on_goal 1 => clear_value x
            on_goal 2 => subst x)
         | (refine (fun (hx : Keep L x.1) => ?_) ?_
            on_goal 1 => clear_value x
            on_goal 2 => subst x)
         | clear_value x)

theorem dpcHold_keep (s : State) (p : Nat) (hk : Keep L s) :
    Keep L (dpcHold s p) := by
  unfold dpcHold
  repeat' with_reducible first
    | assumption | apply dpcStatus_keep | apply prtUpd_keep | intro _ | split | (simp only [keep_mk]; apply Keep.parts)
    | refine Keep.of_fst (by assumption) ?_

theorem execDetectRetry_keep (p : Fin 64) (s : State) (hk : Keep L s) :
    KeepRes L (execDetectRetry p s) := by
  unfold execDetectRetry
  refine KeepRes.next ?_
  repeat' with_reducible first
    | assumption | apply emit_keep | intro _ | split | (simp only [keep_mk]; apply Keep.parts)
    | refine Keep.of_fst (by assumption) ?_

end Sys2Proof.Machine
end

