-- ==== Sys2Proof/Laws/KeepStitch.lean ====
section
/-! SUPPORT. What the operations of Stitch.lean keep. -/

namespace Sys2Proof.Machine

variable {L : List Instr}

end Sys2Proof.Machine
end

