-- ==== Sys2Proof/Laws/KeepLine.lean ====
section
/-! SUPPORT. What the operations of Line.lean keep. -/

namespace Sys2Proof.Machine

variable {L : List Instr}

theorem tstateSet_keep (s : State) (p t : Nat) (hk : Keep L s) :
    Keep L (tstateSet s p t) := by
  unfold tstateSet
  repeat' with_reducible first
    | assumption | apply wr_keep | intro _ | split | (simp only [keep_mk]; apply Keep.parts)
    | refine Keep.of_fst (by assumption) ?_

theorem lineSet_keep (s : State) (n : Nat) (x : Line) (hk : Keep L s) :
    Keep L (lineSet s n x) := by
  unfold lineSet
  repeat' with_reducible first
    | assumption | apply prtUpd_keep | intro _ | split | (simp only [keep_mk]; apply Keep.parts)
    | refine Keep.of_fst (by assumption) ?_

theorem linesSeed_keep (s : State) (p : Nat) (hk : Keep L s) :
    Keep L (linesSeed s p) := by
  unfold linesSeed
  repeat' with_reducible first
    | assumption | apply lineSet_keep | apply forEach_keep | intro _ | split | (simp only [keep_mk]; apply Keep.parts)
    | refine Keep.of_fst (by assumption) ?_

theorem linesIdle_keep (s : State) (p : Nat) (hk : Keep L s) :
    Keep L (linesIdle s p) := by
  unfold linesIdle
  repeat' with_reducible first
    | assumption | apply lineSet_keep | apply forEach_keep | intro _ | split | (simp only [keep_mk]; apply Keep.parts)
    | refine Keep.of_fst (by assumption) ?_

theorem laneOut_keep (s : State) (p n k : Nat) (scr : Bool) (bytes : Bytes) (hk : Keep L s) :
    Keep L (laneOut s p n k scr bytes) := by
  unfold laneOut
  repeat' with_reducible first
    | assumption | apply emit_keep | apply lineSet_keep | intro _ | split | (simp only [keep_mk]; apply Keep.parts)
    | refine Keep.of_fst (by assumption) ?_
    | (extract_lets +onlyGivenNames x
       first
         | (refine (fun (hx : Keep L x) => ?_) ?_
            on_goal 1 => clear_value x
            on_goal 2 => subst x)
         | (refine (fun (hx : Keep L x.1) => ?_) ?_
            on_goal 1 => clear_value x
            on_goal 2 => subst x)
         | clear_value x)

theorem sideSlot_keep (s : State) (p k : Nat) (hk : Keep L s) :
    Keep L (sideSlot s p k) := by
  unfold sideSlot
  repeat' with_reducible first
    | assumption | apply laneOut_keep | apply tlUpd_keep | intro _ | split | (simp only [keep_mk]; apply Keep.parts)
    | refine Keep.of_fst (by assumption) ?_
    | (extract_lets +onlyGivenNames x
       first
         | (refine (fun (hx : Keep L x) => ?_) ?_
            on_goal 1 => clear_value x
            on_goal 2 => subst x)
         | (refine (fun (hx : Keep L x.1) => ?_) ?_
            on_goal 1 => clear_value x
            on_goal 2 => subst x)
         | clear_value x)

theorem slotOut_keep (s : State) (p : Nat) (raw : Bytes) (hk : Keep L s) :
    Keep L (slotOut s p raw) := by
  unfold slotOut
  repeat' with_reducible first
    | assumption | apply laneOut_keep | apply sideSlot_keep | apply forEach_keep | intro _ | split
    | (simp only [keep_mk]; apply Keep.parts) | refine Keep.of_fst (by assumption) ?_
    | (extract_lets +onlyGivenNames x
       first
         | (refine (fun (hx : Keep L x) => ?_) ?_
            on_goal 1 => clear_value x
            on_goal 2 => subst x)
         | (refine (fun (hx : Keep L x.1) => ?_) ?_
            on_goal 1 => clear_value x
            on_goal 2 => subst x)
         | clear_value x)

theorem takeCredit_keep (s : State) (p : Nat) (hk : Keep L s) :
    Keep L (takeCredit s p).1 := by
  unfold takeCredit
  repeat' with_reducible first
    | assumption | apply tlUpd_keep | intro _ | split | (simp only [keep_mk]; apply Keep.parts)
    | refine Keep.of_fst (by assumption) ?_
    | (extract_lets +onlyGivenNames x
       first
         | (refine (fun (hx : Keep L x) => ?_) ?_
            on_goal 1 => clear_value x
            on_goal 2 => subst x)
         | (refine (fun (hx : Keep L x.1) => ?_) ?_
            on_goal 1 => clear_value x
            on_goal 2 => subst x)
         | clear_value x)

theorem stitchOut_keep (s : State) (p type subtype : Nat) (payload : Bytes) (hk : Keep L s) :
    Keep L (stitchOut s p type subtype payload) := by
  unfold stitchOut
  repeat' with_reducible first
    | assumption | apply emit_keep | apply slotOut_keep | apply takeCredit_keep | intro _ | split
    | (simp only [keep_mk]; apply Keep.parts) | refine Keep.of_fst (by assumption) ?_
    | (extract_lets +onlyGivenNames x
       first
         | (refine (fun (hx : Keep L x) => ?_) ?_
            on_goal 1 => clear_value x
            on_goal 2 => subst x)
         | (refine (fun (hx : Keep L x.1) => ?_) ?_
            on_goal 1 => clear_value x
            on_goal 2 => subst x)
         | clear_value x)

theorem ctlOut_keep (s : State) (p sub arg : Nat) (body : Bytes) (hk : Keep L s) :
    Keep L (ctlOut s p sub arg body) := by
  unfold ctlOut
  repeat' with_reducible first
    | assumption | apply stitchOut_keep | intro _ | split | (simp only [keep_mk]; apply Keep.parts)
    | refine Keep.of_fst (by assumption) ?_

theorem sideOut_keep (s : State) (p sub arg : Nat) (hk : Keep L s) :
    Keep L (sideOut s p sub arg) := by
  unfold sideOut
  repeat' with_reducible first
    | assumption | apply emit_keep | apply laneOut_keep | apply tlUpd_keep | intro _ | split
    | (simp only [keep_mk]; apply Keep.parts) | refine Keep.of_fst (by assumption) ?_
    | (extract_lets +onlyGivenNames x
       first
         | (refine (fun (hx : Keep L x) => ?_) ?_
            on_goal 1 => clear_value x
            on_goal 2 => subst x)
         | (refine (fun (hx : Keep L x.1) => ?_) ?_
            on_goal 1 => clear_value x
            on_goal 2 => subst x)
         | clear_value x)

theorem tickOut_keep (s : State) (p : Nat) (rec : Bytes) (hk : Keep L s) :
    Keep L (tickOut s p rec) := by
  unfold tickOut
  repeat' with_reducible first
    | assumption | apply stitchOut_keep | apply tlUpd_keep | intro _ | split | (simp only [keep_mk]; apply Keep.parts)
    | refine Keep.of_fst (by assumption) ?_

theorem tickHeld_keep (s : State) (p : Nat) (hk : Keep L s) :
    Keep L (tickHeld s p) := by
  unfold tickHeld
  repeat' with_reducible first
    | assumption | apply stitchOut_keep | apply tlUpd_keep | intro _ | split | (simp only [keep_mk]; apply Keep.parts)
    | refine Keep.of_fst (by assumption) ?_

theorem goodStitch_keep (s : State) (p : Nat) (hk : Keep L s) :
    Keep L (goodStitch s p) := by
  unfold goodStitch
  repeat' with_reducible first
    | assumption | apply wr_keep | intro _ | split | (simp only [keep_mk]; apply Keep.parts)
    | refine Keep.of_fst (by assumption) ?_

theorem sideBytes_keep (s : State) (p : Nat) (b : Bytes) (viol : Bool) (hk : Keep L s) :
    Keep L (sideBytes s p b viol) := by
  unfold sideBytes
  repeat' with_reducible first
    | assumption | apply tlUpd_keep | intro _ | split | (simp only [keep_mk]; apply Keep.parts)
    | refine Keep.of_fst (by assumption) ?_

theorem sideNext_keep (s : State) (p : Nat) (hk : Keep L s) :
    Keep L (sideNext s p) := by
  unfold sideNext
  repeat' with_reducible first
    | assumption | apply tlUpd_keep | intro _ | split | (simp only [keep_mk]; apply Keep.parts)
    | refine Keep.of_fst (by assumption) ?_

theorem slotsIn_keep (s : State) (p n : Nat) (hk : Keep L s) : Keep L (slotsIn s p n) := by
  unfold slotsIn
  extract_lets +onlyGivenNames k go t
  have hg : ∀ t m, Keep L t → Keep L (go t m) := fun t m ht => lineSet_keep _ _ _ ht
  have ht : Keep L t := forEach_keep _ _ hk hg
  clear_value t
  split
  · exact ht
  · split
    · exact ht
    · exact tlUpd_keep _ _ _ (hg _ _ ht)

theorem sideIn_keep (s : State) (p : Nat) (hk : Keep L s) :
    Keep L (sideIn s p) := by
  unfold sideIn
  repeat' with_reducible first
    | assumption | apply lineSet_keep | apply tlUpd_keep | intro _ | split | (simp only [keep_mk]; apply Keep.parts)
    | refine Keep.of_fst (by assumption) ?_
    | (extract_lets +onlyGivenNames x
       first
         | (refine (fun (hx : Keep L x) => ?_) ?_
            on_goal 1 => clear_value x
            on_goal 2 => subst x)
         | (refine (fun (hx : Keep L x.1) => ?_) ?_
            on_goal 1 => clear_value x
            on_goal 2 => subst x)
         | clear_value x)

theorem slotIn_keep (s : State) (p : Nat) (hk : Keep L s) :
    Keep L (slotIn s p) := by
  unfold slotIn
  repeat' with_reducible first
    | assumption | apply goodStitch_keep | apply slotsIn_keep | intro _ | split | (simp only [keep_mk]; apply Keep.parts)
    | refine Keep.of_fst (by assumption) ?_

theorem laneIn_keep (s : State) (p n k : Nat) (levels after : List Nat) (hk : Keep L s) :
    Keep L (laneIn s p n k levels after).1 := by
  unfold laneIn
  repeat' with_reducible first
    | assumption | apply inc_keep | apply lineSet_keep | intro _ | split | (simp only [keep_mk]; apply Keep.parts)
    | refine Keep.of_fst (by assumption) ?_
    | (extract_lets +onlyGivenNames x
       first
         | (refine (fun (hx : Keep L x) => ?_) ?_
            on_goal 1 => clear_value x
            on_goal 2 => subst x)
         | (refine (fun (hx : Keep L x.1) => ?_) ?_
            on_goal 1 => clear_value x
            on_goal 2 => subst x)
         | clear_value x)

theorem slotRead_keep (s : State) (p : Nat) (levels after : List (List Nat)) (hk : Keep L s) :
    Keep L (slotRead s p levels after).1 := by
  unfold slotRead
  repeat' with_reducible first
    | assumption | apply laneIn_keep | apply sideBytes_keep | apply foldl_keep | apply foldl_keep_fst | intro _ | split
    | (simp only [keep_mk]; apply Keep.parts) | refine Keep.of_fst (by assumption) ?_
    | (extract_lets +onlyGivenNames x
       first
         | (refine (fun (hx : Keep L x) => ?_) ?_
            on_goal 1 => clear_value x
            on_goal 2 => subst x)
         | (refine (fun (hx : Keep L x.1) => ?_) ?_
            on_goal 1 => clear_value x
            on_goal 2 => subst x)
         | clear_value x)

end Sys2Proof.Machine
end

