-- ==== Sys2Proof/Laws/KeepTlink.lean ====
section
/-! SUPPORT. What the operations of Tlink.lean keep. -/

namespace Sys2Proof.Machine

variable {L : List Instr}

theorem requestOut_keep (s : State) (p sub arg : Nat) (hk : Keep L s) :
    Keep L (requestOut s p sub arg) := by
  unfold requestOut
  repeat' with_reducible first
    | assumption | apply ctlOut_keep | apply sideOut_keep | intro _ | split | (simp only [keep_mk]; apply Keep.parts)
    | refine Keep.of_fst (by assumption) ?_

theorem request_keep (s : State) (p sub arg : Nat) (hk : Keep L s) :
    Keep L (request s p sub arg) := by
  unfold request
  repeat' with_reducible first
    | assumption | apply requestOut_keep | apply tlUpd_keep | intro _ | split | (simp only [keep_mk]; apply Keep.parts)
    | refine Keep.of_fst (by assumption) ?_

theorem reqDone_keep (s : State) (p : Nat) (hk : Keep L s) :
    Keep L (reqDone s p) := by
  unfold reqDone
  repeat' with_reducible first
    | assumption | apply tlUpd_keep | intro _ | split | (simp only [keep_mk]; apply Keep.parts)
    | refine Keep.of_fst (by assumption) ?_

theorem heldCount_keep (s : State) (p : Nat) (hk : Keep L s) :
    Keep L (heldCount s p) := by
  unfold heldCount
  repeat' with_reducible first
    | assumption | apply wr_keep | apply foldl_keep | apply foldl_keep_fst | intro _ | split
    | (simp only [keep_mk]; apply Keep.parts) | refine Keep.of_fst (by assumption) ?_

theorem replayEmpty_keep (s : State) (p : Nat) (hk : Keep L s) :
    Keep L (replayEmpty s p) := by
  unfold replayEmpty
  repeat' with_reducible first
    | assumption | apply heldCount_keep | apply tlUpd_keep | intro _ | split | (simp only [keep_mk]; apply Keep.parts)
    | refine Keep.of_fst (by assumption) ?_

theorem movePackets_keep (s : State) (p m : Nat) (hk : Keep L s) :
    Keep L (movePackets s p m) := by
  unfold movePackets
  repeat' with_reducible first
    | assumption | apply replayEmpty_keep | apply voqSet_keep | apply forEach_keep | intro _ | split
    | (simp only [keep_mk]; apply Keep.parts) | refine Keep.of_fst (by assumption) ?_
    | (extract_lets +onlyGivenNames x
       first
         | (refine (fun (hx : Keep L x) => ?_) ?_
            on_goal 1 => clear_value x
            on_goal 2 => subst x)
         | (refine (fun (hx : Keep L x.1) => ?_) ?_
            on_goal 1 => clear_value x
            on_goal 2 => subst x)
         | clear_value x)

theorem windowEnd_keep (s : State) (p : Nat) (hk : Keep L s) :
    Keep L (windowEnd s p) := by
  unfold windowEnd
  repeat' with_reducible first
    | assumption | apply flushPort_keep | apply inc_keep | apply lose_keep | apply movePackets_keep | apply raise_keep
    | apply replayEmpty_keep | apply forEach_keep | intro _ | split | (simp only [keep_mk]; apply Keep.parts)
    | refine Keep.of_fst (by assumption) ?_
    | (extract_lets +onlyGivenNames x
       first
         | (refine (fun (hx : Keep L x) => ?_) ?_
            on_goal 1 => clear_value x
            on_goal 2 => subst x)
         | (refine (fun (hx : Keep L x.1) => ?_) ?_
            on_goal 1 => clear_value x
            on_goal 2 => subst x)
         | clear_value x)

theorem failover_keep (s : State) (p k m : Nat) (hk : Keep L s) :
    Keep L (failover s p k m) := by
  unfold failover
  repeat' with_reducible first
    | assumption | apply inc_keep | apply movePackets_keep | apply raise_keep | intro _ | split
    | (simp only [keep_mk]; apply Keep.parts) | refine Keep.of_fst (by assumption) ?_
    | (extract_lets +onlyGivenNames x
       first
         | (refine (fun (hx : Keep L x) => ?_) ?_
            on_goal 1 => clear_value x
            on_goal 2 => subst x)
         | (refine (fun (hx : Keep L x.1) => ?_) ?_
            on_goal 1 => clear_value x
            on_goal 2 => subst x)
         | clear_value x)

theorem pairUps_keep (s : State) (p : Nat) (hk : Keep L s) :
    Keep L (pairUps s p) := by
  unfold pairUps
  repeat' with_reducible first
    | assumption | apply wrb_keep | apply forEach_keep | intro _ | split | (simp only [keep_mk]; apply Keep.parts)
    | refine Keep.of_fst (by assumption) ?_
    | (extract_lets +onlyGivenNames x
       first
         | (refine (fun (hx : Keep L x) => ?_) ?_
            on_goal 1 => clear_value x
            on_goal 2 => subst x)
         | (refine (fun (hx : Keep L x.1) => ?_) ?_
            on_goal 1 => clear_value x
            on_goal 2 => subst x)
         | clear_value x)

theorem replayStop_keep (s : State) (p : Nat) (hk : Keep L s) :
    Keep L (replayStop s p) := by
  unfold replayStop
  repeat' with_reducible first
    | assumption | apply tlUpd_keep | apply wr_keep | intro _ | split | (simp only [keep_mk]; apply Keep.parts)
    | refine Keep.of_fst (by assumption) ?_

theorem tlFall_keep (s : State) (p cause : Nat) (window : Bool) (hk : Keep L s) :
    Keep L (tlFall s p cause window) := by
  unfold tlFall
  repeat' with_reducible first
    | assumption | apply failover_keep | apply prtUpd_keep | apply replayStop_keep | apply spareGo_keep | apply tlUpd_keep
    | apply tstateSet_keep | apply windowEnd_keep | apply wr_keep | intro _ | split | (simp only [keep_mk]; apply Keep.parts)
    | refine Keep.of_fst (by assumption) ?_
    | (extract_lets +onlyGivenNames x
       first
         | (refine (fun (hx : Keep L x) => ?_) ?_
            on_goal 1 => clear_value x
            on_goal 2 => subst x)
         | (refine (fun (hx : Keep L x.1) => ?_) ?_
            on_goal 1 => clear_value x
            on_goal 2 => subst x)
         | clear_value x)

theorem trainOut_keep (s : State) (p n : Nat) (hk : Keep L s) :
    Keep L (trainOut s p n) := by
  unfold trainOut
  repeat' with_reducible first
    | assumption | apply emit_keep | apply laneOut_keep | apply tlUpd_keep | intro _ | split
    | (simp only [keep_mk]; apply Keep.parts) | refine Keep.of_fst (by assumption) ?_
    | (extract_lets +onlyGivenNames x
       first
         | (refine (fun (hx : Keep L x) => ?_) ?_
            on_goal 1 => clear_value x
            on_goal 2 => subst x)
         | (refine (fun (hx : Keep L x.1) => ?_) ?_
            on_goal 1 => clear_value x
            on_goal 2 => subst x)
         | clear_value x)

theorem trainOuts_keep (s : State) (p : Nat) (hk : Keep L s) :
    Keep L (trainOuts s p) := by
  unfold trainOuts
  repeat' with_reducible first
    | assumption | apply trainOut_keep | apply forEach_keep | intro _ | split | (simp only [keep_mk]; apply Keep.parts)
    | refine Keep.of_fst (by assumption) ?_

theorem trainStart_keep (s : State) (p : Nat) (fast : Bool) (hk : Keep L s) : Keep L (trainStart s p fast) := by
  have hj : ∀ (t : State) (p l i : Nat), Keep L t → Keep L (trainStart.laneJoinLogical t p l i) :=
    fun t p l i ht => wr_keep _ _ _ ht
  unfold trainStart
  extract_lets t s1 s2 s3 s4 s5 s6
  have h4 : Keep L s4 :=
    wr_keep _ _ _ (wr_keep _ _ _ (wrb_keep _ _ _ (tstateSet_keep _ _ _ (tlUpd_keep _ _ _ (tlSet_keep _ _ _ (replayStop_keep _ _ hk))))))
  refine trainOuts_keep _ _ (emit_keep _ (linesIdle_keep _ _ ?_))
  first | subst s6 | subst s5
  split
  · exact h4
  · refine forEach_keep _ _ ?_ (fun t e ht => ?_)
    · exact wr_keep _ _ _ (wr_keep _ _ _ (wr_keep _ _ _ (wr_keep _ _ _ h4)))
    · exact wr_keep _ _ _ (wr_keep _ _ _ (wr_keep _ _ _ (hj _ _ _ _ ht)))

theorem tlTrainFail_keep (s : State) (p : Nat) (hk : Keep L s) :
    Keep L (tlTrainFail s p) := by
  unfold tlTrainFail
  repeat' with_reducible first
    | assumption | apply countDown_keep | apply inc_keep | apply linkOff_keep | apply membersOfPort_keep
    | apply nbrUpdate_keep | apply prtUpd_keep | apply tlFall_keep | apply tstateSet_keep | intro _ | split
    | (simp only [keep_mk]; apply Keep.parts) | refine Keep.of_fst (by assumption) ?_
    | (extract_lets +onlyGivenNames x
       first
         | (refine (fun (hx : Keep L x) => ?_) ?_
            on_goal 1 => clear_value x
            on_goal 2 => subst x)
         | (refine (fun (hx : Keep L x.1) => ?_) ?_
            on_goal 1 => clear_value x
            on_goal 2 => subst x)
         | clear_value x)

theorem grantCredits_keep (s : State) (p : Nat) (hk : Keep L s) :
    Keep L (grantCredits s p) := by
  unfold grantCredits
  repeat' with_reducible first
    | assumption | apply wr_keep | apply foldl_keep | apply foldl_keep_fst | intro _ | split
    | (simp only [keep_mk]; apply Keep.parts) | refine Keep.of_fst (by assumption) ?_
    | (extract_lets +onlyGivenNames x
       first
         | (refine (fun (hx : Keep L x) => ?_) ?_
            on_goal 1 => clear_value x
            on_goal 2 => subst x)
         | (refine (fun (hx : Keep L x.1) => ?_) ?_
            on_goal 1 => clear_value x
            on_goal 2 => subst x)
         | clear_value x)

theorem rxLanesSet_keep (s : State) (p : Nat) (hk : Keep L s) :
    Keep L (rxLanesSet s p) := by
  unfold rxLanesSet
  repeat' with_reducible first
    | assumption | apply tlUpd_keep | intro _ | split | (simp only [keep_mk]; apply Keep.parts)
    | refine Keep.of_fst (by assumption) ?_

theorem resumeOut_keep (s : State) (p : Nat) (hk : Keep L s) :
    Keep L (resumeOut s p) := by
  unfold resumeOut
  repeat' with_reducible first
    | assumption | apply ctlOut_keep | intro _ | split | (simp only [keep_mk]; apply Keep.parts)
    | refine Keep.of_fst (by assumption) ?_
    | (extract_lets +onlyGivenNames x
       first
         | (refine (fun (hx : Keep L x) => ?_) ?_
            on_goal 1 => clear_value x
            on_goal 2 => subst x)
         | (refine (fun (hx : Keep L x.1) => ?_) ?_
            on_goal 1 => clear_value x
            on_goal 2 => subst x)
         | clear_value x)

theorem stripeEntry_keep (s : State) (p : Nat) (hk : Keep L s) :
    Keep L (stripeEntry s p) := by
  unfold stripeEntry
  repeat' with_reducible first
    | assumption | apply grantCredits_keep | apply linesSeed_keep | apply resumeOut_keep | apply rxLanesSet_keep
    | apply tickHeld_keep | apply tlSet_keep | apply windowEnd_keep | apply wr_keep | intro _ | split
    | (simp only [keep_mk]; apply Keep.parts) | refine Keep.of_fst (by assumption) ?_
    | (extract_lets +onlyGivenNames x
       first
         | (refine (fun (hx : Keep L x) => ?_) ?_
            on_goal 1 => clear_value x
            on_goal 2 => subst x)
         | (refine (fun (hx : Keep L x.1) => ?_) ?_
            on_goal 1 => clear_value x
            on_goal 2 => subst x)
         | clear_value x)

theorem renumber_keep (s : State) (p : Nat) (kept : List Nat) (hk : Keep L s) :
    Keep L (renumber s p kept) := by
  unfold renumber
  repeat' with_reducible first
    | assumption | apply wr_keep | apply forEach_keep | apply foldl_keep | apply foldl_keep_fst | intro _ | split
    | (simp only [keep_mk]; apply Keep.parts) | refine Keep.of_fst (by assumption) ?_
    | (extract_lets +onlyGivenNames x
       first
         | (refine (fun (hx : Keep L x) => ?_) ?_
            on_goal 1 => clear_value x
            on_goal 2 => subst x)
         | (refine (fun (hx : Keep L x.1) => ?_) ?_
            on_goal 1 => clear_value x
            on_goal 2 => subst x)
         | clear_value x)

theorem startReached_keep (s : State) (p dev port rate : Nat) (spare : Bool) (w : Nat) (standIn : Option Nat) (ls : List Nat) (hk : Keep L s) :
    Keep L (startReached s p dev port rate spare w standIn ls) := by
  unfold startReached
  repeat' with_reducible first
    | assumption | apply clashCheck_keep | apply inc_keep | apply nbrUpdate_keep | apply renumber_keep | apply tlUpd_keep
    | apply wr_keep | apply wrb_keep | intro _ | split | (simp only [keep_mk]; apply Keep.parts)
    | refine Keep.of_fst (by assumption) ?_
    | (extract_lets +onlyGivenNames x
       first
         | (refine (fun (hx : Keep L x) => ?_) ?_
            on_goal 1 => clear_value x
            on_goal 2 => subst x)
         | (refine (fun (hx : Keep L x.1) => ?_) ?_
            on_goal 1 => clear_value x
            on_goal 2 => subst x)
         | clear_value x)

theorem staySet_keep (s : State) (p : Nat) (hk : Keep L s) :
    Keep L (staySet s p) := by
  unfold staySet
  repeat' with_reducible first
    | assumption | apply prtUpd_keep | intro _ | split | (simp only [keep_mk]; apply Keep.parts)
    | refine Keep.of_fst (by assumption) ?_
    | (extract_lets +onlyGivenNames x
       first
         | (refine (fun (hx : Keep L x) => ?_) ?_
            on_goal 1 => clear_value x
            on_goal 2 => subst x)
         | (refine (fun (hx : Keep L x.1) => ?_) ?_
            on_goal 1 => clear_value x
            on_goal 2 => subst x)
         | clear_value x)

theorem pairRetrained_keep (s : State) (p : Nat) (hk : Keep L s) :
    Keep L (pairRetrained s p) := by
  unfold pairRetrained
  repeat' with_reducible first
    | assumption | apply prtUpd_keep | apply forEach_keep | intro _ | split | (simp only [keep_mk]; apply Keep.parts)
    | refine Keep.of_fst (by assumption) ?_

theorem delayStart_keep (s : State) (p : Nat) (hk : Keep L s) :
    Keep L (delayStart s p) := by
  unfold delayStart
  repeat' with_reducible first
    | assumption | apply ctlOut_keep | apply tlUpd_keep | intro _ | split | (simp only [keep_mk]; apply Keep.parts)
    | refine Keep.of_fst (by assumption) ?_
    | (extract_lets +onlyGivenNames x
       first
         | (refine (fun (hx : Keep L x) => ?_) ?_
            on_goal 1 => clear_value x
            on_goal 2 => subst x)
         | (refine (fun (hx : Keep L x.1) => ?_) ?_
            on_goal 1 => clear_value x
            on_goal 2 => subst x)
         | clear_value x)

theorem tlinkUp_keep (s : State) (p : Nat) (hk : Keep L s) :
    Keep L (tlinkUp s p) := by
  unfold tlinkUp
  repeat' with_reducible first
    | assumption | apply degradedLink_keep | apply delayStart_keep | apply inc_keep | apply nbrUpdate_keep
    | apply pairRetrained_keep | apply pairUps_keep | apply portState_keep | apply prtUpd_keep | apply staySet_keep
    | apply stripeEntry_keep | apply tstateSet_keep | apply wr_keep | intro _ | split
    | (simp only [keep_mk]; apply Keep.parts) | refine Keep.of_fst (by assumption) ?_
    | (extract_lets +onlyGivenNames x
       first
         | (refine (fun (hx : Keep L x) => ?_) ?_
            on_goal 1 => clear_value x
            on_goal 2 => subst x)
         | (refine (fun (hx : Keep L x.1) => ?_) ?_
            on_goal 1 => clear_value x
            on_goal 2 => subst x)
         | clear_value x)

theorem pauseAt_keep (s : State) (p code : Nat) (hk : Keep L s) :
    Keep L (pauseAt s p code) := by
  unfold pauseAt
  repeat' with_reducible first
    | assumption | apply emit_keep | apply linesIdle_keep | apply portState_keep | apply replayStop_keep | apply tlUpd_keep
    | apply tstateSet_keep | intro _ | split | (simp only [keep_mk]; apply Keep.parts)
    | refine Keep.of_fst (by assumption) ?_
    | (extract_lets +onlyGivenNames x
       first
         | (refine (fun (hx : Keep L x) => ?_) ?_
            on_goal 1 => clear_value x
            on_goal 2 => subst x)
         | (refine (fun (hx : Keep L x.1) => ?_) ?_
            on_goal 1 => clear_value x
            on_goal 2 => subst x)
         | clear_value x)

theorem attemptFail_keep (s : State) (p : Nat) (hk : Keep L s) :
    Keep L (attemptFail s p) := by
  unfold attemptFail
  repeat' with_reducible first
    | assumption | apply inc_keep | apply pauseAt_keep | apply portState_keep | apply prtUpd_keep | apply tlUpd_keep
    | apply trainStart_keep | apply wr_keep | intro _ | split | (simp only [keep_mk]; apply Keep.parts)
    | refine Keep.of_fst (by assumption) ?_
    | (extract_lets +onlyGivenNames x
       first
         | (refine (fun (hx : Keep L x) => ?_) ?_
            on_goal 1 => clear_value x
            on_goal 2 => subst x)
         | (refine (fun (hx : Keep L x.1) => ?_) ?_
            on_goal 1 => clear_value x
            on_goal 2 => subst x)
         | clear_value x)

theorem soakFail_keep (s : State) (p : Nat) (hk : Keep L s) :
    Keep L (soakFail s p) := by
  unfold soakFail
  repeat' with_reducible first
    | assumption | apply attemptFail_keep | apply inc_keep | apply raise_keep | intro _ | split
    | (simp only [keep_mk]; apply Keep.parts) | refine Keep.of_fst (by assumption) ?_

theorem onStitch_keep (p : Nat) (s : State) (f : State → State) (hk : Keep L s) (hf : ∀ t, Keep L t → Keep L (f t)) :
    Keep L (onStitch p s f) := by
  unfold onStitch
  split
  · exact hf _ (slotIn_keep _ _ hk)
  · exact hk

theorem execRatePauseEnd_keep (p : Fin 64) (s : State) (hk : Keep L s) :
    KeepRes L (execRatePauseEnd p s) := by
  unfold execRatePauseEnd
  refine KeepRes.next ?_
  repeat' with_reducible first
    | assumption | apply tlUpd_keep | apply trainOuts_keep | apply tstateSet_keep | apply wr_keep | apply forEach_keep
    | intro _ | split | (simp only [keep_mk]; apply Keep.parts) | refine Keep.of_fst (by assumption) ?_
    | (extract_lets +onlyGivenNames x
       first
         | (refine (fun (hx : Keep L x) => ?_) ?_
            on_goal 1 => clear_value x
            on_goal 2 => subst x)
         | (refine (fun (hx : Keep L x.1) => ?_) ?_
            on_goal 1 => clear_value x
            on_goal 2 => subst x)
         | clear_value x)

theorem execEqTimeout_keep (p : Fin 64) (s : State) (hk : Keep L s) :
    KeepRes L (execEqTimeout p s) := by
  unfold execEqTimeout
  refine KeepRes.next ?_
  repeat' with_reducible first
    | assumption | apply attemptFail_keep | intro _ | split | (simp only [keep_mk]; apply Keep.parts)
    | refine Keep.of_fst (by assumption) ?_

theorem execSoakPass_keep (p : Fin 64) (s : State) (hk : Keep L s) :
    KeepRes L (execSoakPass p s) := by
  unfold execSoakPass
  refine KeepRes.next ?_
  repeat' with_reducible first
    | assumption | apply settle_keep | apply tstateSet_keep | intro _ | split | (simp only [keep_mk]; apply Keep.parts)
    | refine Keep.of_fst (by assumption) ?_

theorem rateReq_keep (s : State) (p code : Nat) (hk : Keep L s) :
    Keep L (rateReq s p code) := by
  unfold rateReq
  repeat' with_reducible first
    | assumption | apply ctlOut_keep | apply pauseAt_keep | apply reqDone_keep | apply settle_keep | apply tlUpd_keep
    | intro _ | split | (simp only [keep_mk]; apply Keep.parts) | refine Keep.of_fst (by assumption) ?_
    | (extract_lets +onlyGivenNames x
       first
         | (refine (fun (hx : Keep L x) => ?_) ?_
            on_goal 1 => clear_value x
            on_goal 2 => subst x)
         | (refine (fun (hx : Keep L x.1) => ?_) ?_
            on_goal 1 => clear_value x
            on_goal 2 => subst x)
         | clear_value x)

theorem execRateReqReceive_keep (p : Fin 64) (code : BitVec 4) (s : State) (hk : Keep L s) :
    KeepRes L (execRateReqReceive p code s) := by
  unfold execRateReqReceive
  refine KeepRes.next ?_
  repeat' with_reducible first
    | assumption | apply onStitch_keep | apply rateReq_keep | intro _ | split | (simp only [keep_mk]; apply Keep.parts)
    | refine Keep.of_fst (by assumption) ?_

theorem rateAck_keep (s : State) (p c : Nat) (hk : Keep L s) :
    Keep L (rateAck s p c) := by
  unfold rateAck
  repeat' with_reducible first
    | assumption | apply pauseAt_keep | apply reqDone_keep | apply settle_keep | intro _ | split
    | (simp only [keep_mk]; apply Keep.parts) | refine Keep.of_fst (by assumption) ?_

theorem execRateAckReceive_keep (p : Fin 64) (code : BitVec 4) (s : State) (hk : Keep L s) :
    KeepRes L (execRateAckReceive p code s) := by
  unfold execRateAckReceive
  refine KeepRes.next ?_
  repeat' with_reducible first
    | assumption | apply onStitch_keep | apply rateAck_keep | intro _ | split | (simp only [keep_mk]; apply Keep.parts)
    | refine Keep.of_fst (by assumption) ?_

theorem reverseLanes_keep (s : State) (p : Nat) (hk : Keep L s) :
    Keep L (reverseLanes s p) := by
  unfold reverseLanes
  repeat' with_reducible first
    | assumption | apply wr_keep | apply forEach_keep | intro _ | split | (simp only [keep_mk]; apply Keep.parts)
    | refine Keep.of_fst (by assumption) ?_

theorem laneRestart_keep (s : State) (p l : Nat) (hk : Keep L s) :
    Keep L (laneRestart s p l) := by
  unfold laneRestart
  repeat' with_reducible first
    | assumption | apply tlUpd_keep | apply wr_keep | intro _ | split | (simp only [keep_mk]; apply Keep.parts)
    | refine Keep.of_fst (by assumption) ?_
    | (extract_lets +onlyGivenNames x
       first
         | (refine (fun (hx : Keep L x) => ?_) ?_
            on_goal 1 => clear_value x
            on_goal 2 => subst x)
         | (refine (fun (hx : Keep L x.1) => ?_) ?_
            on_goal 1 => clear_value x
            on_goal 2 => subst x)
         | clear_value x)

theorem lockStep_keep (s : State) (p : Nat) (hk : Keep L s) :
    Keep L (lockStep s p) := by
  unfold lockStep
  repeat' with_reducible first
    | assumption | apply tlUpd_keep | apply tstateSet_keep | intro _ | split | (simp only [keep_mk]; apply Keep.parts)
    | refine Keep.of_fst (by assumption) ?_
    | (extract_lets +onlyGivenNames x
       first
         | (refine (fun (hx : Keep L x) => ?_) ?_
            on_goal 1 => clear_value x
            on_goal 2 => subst x)
         | (refine (fun (hx : Keep L x.1) => ?_) ?_
            on_goal 1 => clear_value x
            on_goal 2 => subst x)
         | clear_value x)

theorem configStep_keep (s : State) (p l : Nat) (x : TrainSt) (hk : Keep L s) :
    Keep L (configStep s p l x) := by
  unfold configStep
  repeat' with_reducible first
    | assumption | apply settle_keep | apply startReached_keep | apply stripeEntry_keep | apply tlSet_keep
    | apply tstateSet_keep | apply wr_keep | intro _ | split | (simp only [keep_mk]; apply Keep.parts)
    | refine Keep.of_fst (by assumption) ?_
    | (extract_lets +onlyGivenNames x
       first
         | (refine (fun (hx : Keep L x) => ?_) ?_
            on_goal 1 => clear_value x
            on_goal 2 => subst x)
         | (refine (fun (hx : Keep L x.1) => ?_) ?_
            on_goal 1 => clear_value x
            on_goal 2 => subst x)
         | clear_value x)

theorem fastFail_keep (s : State) (p : Nat) (identity : Bool) (hk : Keep L s) :
    Keep L (fastFail s p identity) := by
  unfold fastFail
  repeat' with_reducible first
    | assumption | apply identity_keep | apply inc_keep | apply raise_keep | apply trainStart_keep | intro _ | split
    | (simp only [keep_mk]; apply Keep.parts) | refine Keep.of_fst (by assumption) ?_
    | (extract_lets +onlyGivenNames x
       first
         | (refine (fun (hx : Keep L x) => ?_) ?_
            on_goal 1 => clear_value x
            on_goal 2 => subst x)
         | (refine (fun (hx : Keep L x.1) => ?_) ?_
            on_goal 1 => clear_value x
            on_goal 2 => subst x)
         | clear_value x)

theorem trainGood_keep (s : State) (p n g : Nat) (x : TrainSt) (eq : EqReport) (hk : Keep L s) :
    Keep L (trainGood s p n g x eq) := by
  unfold trainGood
  repeat' with_reducible first
    | assumption | apply configStep_keep | apply fastFail_keep | apply lockStep_keep | apply tlUpd_keep | apply wr_keep
    | intro _ | split | (simp only [keep_mk]; apply Keep.parts) | refine Keep.of_fst (by assumption) ?_
    | (extract_lets +onlyGivenNames x
       first
         | (refine (fun (hx : Keep L x) => ?_) ?_
            on_goal 1 => clear_value x
            on_goal 2 => subst x)
         | (refine (fun (hx : Keep L x.1) => ?_) ?_
            on_goal 1 => clear_value x
            on_goal 2 => subst x)
         | clear_value x)

theorem trainLane_keep (s : State) (p n : Nat) (levels : List Nat) (hk : Keep L s) :
    Keep L (trainLane s p n levels).1 := by
  unfold trainLane
  repeat' with_reducible first
    | assumption | apply inc_keep | apply lineSet_keep | intro _ | split | (simp only [keep_mk]; apply Keep.parts)
    | refine Keep.of_fst (by assumption) ?_
    | (extract_lets +onlyGivenNames x
       first
         | (refine (fun (hx : Keep L x) => ?_) ?_
            on_goal 1 => clear_value x
            on_goal 2 => subst x)
         | (refine (fun (hx : Keep L x.1) => ?_) ?_
            on_goal 1 => clear_value x
            on_goal 2 => subst x)
         | clear_value x)

theorem trainFixed_keep (s : State) (p n : Nat) (raw : Bytes) (hk : Keep L s) :
    Keep L (trainFixed s p n raw) := by
  unfold trainFixed
  repeat' with_reducible first
    | assumption | apply inc_keep | intro _ | split | (simp only [keep_mk]; apply Keep.parts)
    | refine Keep.of_fst (by assumption) ?_
    | (extract_lets +onlyGivenNames x
       first
         | (refine (fun (hx : Keep L x) => ?_) ?_
            on_goal 1 => clear_value x
            on_goal 2 => subst x)
         | (refine (fun (hx : Keep L x.1) => ?_) ?_
            on_goal 1 => clear_value x
            on_goal 2 => subst x)
         | clear_value x)

theorem trainTake_keep (s : State) (p n l : Nat) (raw mirrored : Bytes) (eq : EqReport) (hk : Keep L s) :
    Keep L (trainTake s p n l raw mirrored eq) := by
  unfold trainTake
  repeat' with_reducible first
    | assumption | apply inc_keep | apply laneRestart_keep | apply reverseLanes_keep | apply trainGood_keep | apply wr_keep
    | intro _ | split | (simp only [keep_mk]; apply Keep.parts) | refine Keep.of_fst (by assumption) ?_
    | (extract_lets +onlyGivenNames x
       first
         | (refine (fun (hx : Keep L x) => ?_) ?_
            on_goal 1 => clear_value x
            on_goal 2 => subst x)
         | (refine (fun (hx : Keep L x.1) => ?_) ?_
            on_goal 1 => clear_value x
            on_goal 2 => subst x)
         | clear_value x)

theorem laneHeard_keep (s : State) (p n : Nat) (hk : Keep L s) :
    Keep L (laneHeard s p n) := by
  unfold laneHeard
  repeat' with_reducible first
    | assumption | apply laneClass_keep | apply tlSet_keep | apply forEach_keep | intro _ | split
    | (simp only [keep_mk]; apply Keep.parts) | refine Keep.of_fst (by assumption) ?_
    | (extract_lets +onlyGivenNames x
       first
         | (refine (fun (hx : Keep L x) => ?_) ?_
            on_goal 1 => clear_value x
            on_goal 2 => subst x)
         | (refine (fun (hx : Keep L x.1) => ?_) ?_
            on_goal 1 => clear_value x
            on_goal 2 => subst x)
         | clear_value x)

theorem execTrainingStitchReceive_keep (p : Fin 64) (l : Fin 5) (levels : List (Fin 4)) (eq : EqReport) (s : State) (hk : Keep L s) :
    KeepRes L (execTrainingStitchReceive p l levels eq s) := by
  unfold execTrainingStitchReceive
  refine KeepRes.next ?_
  repeat' with_reducible first
    | assumption | apply laneHeard_keep | apply trainFixed_keep | apply trainLane_keep | apply trainOut_keep
    | apply trainTake_keep | intro _ | split | (simp only [keep_mk]; apply Keep.parts)
    | refine Keep.of_fst (by assumption) ?_
    | (extract_lets +onlyGivenNames x
       first
         | (refine (fun (hx : Keep L x) => ?_) ?_
            on_goal 1 => clear_value x
            on_goal 2 => subst x)
         | (refine (fun (hx : Keep L x.1) => ?_) ?_
            on_goal 1 => clear_value x
            on_goal 2 => subst x)
         | clear_value x)

theorem execTrainingLockTimeout_keep (p : Fin 64) (s : State) (hk : Keep L s) :
    KeepRes L (execTrainingLockTimeout p s) := by
  unfold execTrainingLockTimeout
  refine KeepRes.next ?_
  repeat' with_reducible first
    | assumption | apply tlTrainFail_keep | intro _ | split | (simp only [keep_mk]; apply Keep.parts)
    | refine Keep.of_fst (by assumption) ?_

theorem execTrainingConfigTimeout_keep (p : Fin 64) (s : State) (hk : Keep L s) :
    KeepRes L (execTrainingConfigTimeout p s) := by
  unfold execTrainingConfigTimeout
  refine KeepRes.next ?_
  repeat' with_reducible first
    | assumption | apply fastFail_keep | apply tlTrainFail_keep | intro _ | split | (simp only [keep_mk]; apply Keep.parts)
    | refine Keep.of_fst (by assumption) ?_

end Sys2Proof.Machine
end

