-- ==== Sys2Proof/Laws/KeepLinks.lean ====
section
/-! SUPPORT. What the operations of Links.lean keep. -/

namespace Sys2Proof.Machine

variable {L : List Instr}

theorem tlDown_keep (s : State) (p cause : Nat) (receivers fastOk : Bool) (hk : Keep L s) :
    Keep L (tlDown s p cause receivers fastOk) := by
  unfold tlDown
  repeat' with_reducible first
    | assumption | apply countDown_keep | apply linkOff_keep | apply membersOfPort_keep | apply nbrUpdate_keep
    | apply pairUps_keep | apply prtUpd_keep | apply raiseIf_keep | apply tlFall_keep | apply trainStart_keep | intro _
    | split | (simp only [keep_mk]; apply Keep.parts) | refine Keep.of_fst (by assumption) ?_
    | (extract_lets +onlyGivenNames x
       first
         | (refine (fun (hx : Keep L x) => ?_) ?_
            on_goal 1 => clear_value x
            on_goal 2 => subst x)
         | (refine (fun (hx : Keep L x.1) => ?_) ?_
            on_goal 1 => clear_value x
            on_goal 2 => subst x)
         | clear_value x)

theorem retrainGo_keep (s : State) (p : Nat) (full : Bool) (hk : Keep L s) :
    Keep L (retrainGo s p full) := by
  unfold retrainGo
  repeat' with_reducible first
    | assumption | apply emit_keep | apply inc_keep | apply nbrUpdate_keep | apply portState_keep | apply prtUpd_keep
    | apply spareGo_keep | apply tlUpd_keep | apply trainStart_keep | apply wr_keep | intro _ | split
    | (simp only [keep_mk]; apply Keep.parts) | refine Keep.of_fst (by assumption) ?_
    | (extract_lets +onlyGivenNames x
       first
         | (refine (fun (hx : Keep L x) => ?_) ?_
            on_goal 1 => clear_value x
            on_goal 2 => subst x)
         | (refine (fun (hx : Keep L x.1) => ?_) ?_
            on_goal 1 => clear_value x
            on_goal 2 => subst x)
         | clear_value x)

theorem partCause_keep (s : State) (n c : Nat) (hk : Keep L s) :
    Keep L (partCause s n c) := by
  unfold partCause
  repeat' with_reducible first
    | assumption | apply fabUpd_keep | intro _ | split | (simp only [keep_mk]; apply Keep.parts)
    | refine Keep.of_fst (by assumption) ?_
    | (extract_lets +onlyGivenNames x
       first
         | (refine (fun (hx : Keep L x) => ?_) ?_
            on_goal 1 => clear_value x
            on_goal 2 => subst x)
         | (refine (fun (hx : Keep L x.1) => ?_) ?_
            on_goal 1 => clear_value x
            on_goal 2 => subst x)
         | clear_value x)

theorem partUncause_keep (s : State) (n c : Nat) (hk : Keep L s) :
    Keep L (partUncause s n c) := by
  unfold partUncause
  repeat' with_reducible first
    | assumption | apply waitEnd_keep | apply fabUpd_keep | intro _ | split | (simp only [keep_mk]; apply Keep.parts)
    | refine Keep.of_fst (by assumption) ?_
    | (extract_lets +onlyGivenNames x
       first
         | (refine (fun (hx : Keep L x) => ?_) ?_
            on_goal 1 => clear_value x
            on_goal 2 => subst x)
         | (refine (fun (hx : Keep L x.1) => ?_) ?_
            on_goal 1 => clear_value x
            on_goal 2 => subst x)
         | clear_value x)

theorem cfgReset_keep (s : State) (fs : List Nat) (hk : Keep L s) :
    Keep L (cfgReset s fs) := by
  unfold cfgReset
  repeat' with_reducible first
    | assumption | apply prtUpd_keep | intro _ | split | (simp only [keep_mk]; apply Keep.parts)
    | refine Keep.of_fst (by assumption) ?_

theorem msixReset_keep (s : State) (f : Nat) (hk : Keep L s) :
    Keep L (msixReset s f) := by
  unfold msixReset
  repeat' with_reducible first
    | assumption | apply rngUpd_keep | intro _ | split | (simp only [keep_mk]; apply Keep.parts)
    | refine Keep.of_fst (by assumption) ?_

theorem vfFlr_keep (s : State) (i : Nat) (hk : Keep L s) :
    Keep L (vfFlr s i) := by
  unfold vfFlr
  repeat' with_reducible first
    | assumption | apply fabUpd_keep | apply formed_keep | intro _ | split | (simp only [keep_mk]; apply Keep.parts)
    | refine Keep.of_fst (by assumption) ?_
    | (extract_lets +onlyGivenNames x
       first
         | (refine (fun (hx : Keep L x) => ?_) ?_
            on_goal 1 => clear_value x
            on_goal 2 => subst x)
         | (refine (fun (hx : Keep L x.1) => ?_) ?_
            on_goal 1 => clear_value x
            on_goal 2 => subst x)
         | clear_value x)

theorem vfFlrs_keep (s : State) (n : Nat) (port : Option Nat) (hk : Keep L s) :
    Keep L (vfFlrs s n port) := by
  unfold vfFlrs
  repeat' with_reducible first
    | assumption | apply vfFlr_keep | apply forEach_keep | intro _ | split | (simp only [keep_mk]; apply Keep.parts)
    | refine Keep.of_fst (by assumption) ?_

theorem xwAnswers_keep (s : State) (n : Nat) (hk : Keep L s) :
    Keep L (xwAnswers s n) := by
  unfold xwAnswers
  repeat' with_reducible first
    | assumption | apply answer_keep | apply fabUpd_keep | apply forEach_keep | intro _ | split
    | (simp only [keep_mk]; apply Keep.parts) | refine Keep.of_fst (by assumption) ?_
    | (extract_lets +onlyGivenNames x
       first
         | (refine (fun (hx : Keep L x) => ?_) ?_
            on_goal 1 => clear_value x
            on_goal 2 => subst x)
         | (refine (fun (hx : Keep L x.1) => ?_) ?_
            on_goal 1 => clear_value x
            on_goal 2 => subst x)
         | clear_value x)

theorem hotReset_keep (s : State) (p : Nat) (hk : Keep L s) :
    Keep L (hotReset s p) := by
  unfold hotReset
  repeat' with_reducible first
    | assumption | apply countDown_keep | apply emit_keep | apply linkOff_keep | apply pcieDrop_keep | intro _ | split
    | (simp only [keep_mk]; apply Keep.parts) | refine Keep.of_fst (by assumption) ?_
    | (extract_lets +onlyGivenNames x
       first
         | (refine (fun (hx : Keep L x) => ?_) ?_
            on_goal 1 => clear_value x
            on_goal 2 => subst x)
         | (refine (fun (hx : Keep L x.1) => ?_) ?_
            on_goal 1 => clear_value x
            on_goal 2 => subst x)
         | clear_value x)

theorem partAssert_keep (s : State) (n c : Nat) (hk : Keep L s) : Keep L (partAssert s n c) := by
  unfold partAssert
  extract_lets +onlyGivenNames was s1
  have h1 : Keep L s1 := partCause_keep _ _ _ (wr_keep _ _ _ hk)
  clear_value was s1
  split
  · exact h1
  split
  · exact wr_keep _ _ _ h1
  extract_lets +onlyGivenNames s2 s3 ex s4 s5 s6 mine s7 s8
  have h3 : Keep L s3 := fabUpd_keep _ _ (raise_keep _ _ _ (wr_keep _ _ _ h1))
  clear_value s3
  have h4 : Keep L s4 := by
    subst s4
    split
    · exact noticeSend_keep _ _ _ _ _ h3
    · exact h3
  have h6 : Keep L s6 := msixReset_keep _ _ (cfgReset_keep _ _ (membersOfSlices_keep _ _ (slicesStop_keep _ _ h4)))
  clear_value s6
  have h7 : Keep L s7 := prtUpd_keep _ _ (rreset_keep _ h6)
  exact xwAnswers_keep _ _ (vfFlrs_keep _ _ _ (forEach_keep _ _ h7 (fun t e ht => hotReset_keep _ _ ht)))

theorem partRelease_keep (s : State) (n : Nat) (hk : Keep L s) :
    Keep L (partRelease s n) := by
  unfold partRelease
  repeat' with_reducible first
    | assumption | apply placesFix_keep | apply ptnStat_keep | apply wr_keep | intro _ | split
    | (simp only [keep_mk]; apply Keep.parts) | refine Keep.of_fst (by assumption) ?_

theorem pcieFall_keep (s : State) (p : Nat) (hk : Keep L s) :
    Keep L (pcieFall s p) := by
  unfold pcieFall
  repeat' with_reducible first
    | assumption | apply creditsDrop_keep | apply dpcHold_keep | apply flushPort_keep | apply membersOfPort_keep
    | apply partAssert_keep | apply pcieDrop_keep | apply retRetry_keep | intro _ | split
    | (simp only [keep_mk]; apply Keep.parts) | refine Keep.of_fst (by assumption) ?_
    | (extract_lets +onlyGivenNames x
       first
         | (refine (fun (hx : Keep L x) => ?_) ?_
            on_goal 1 => clear_value x
            on_goal 2 => subst x)
         | (refine (fun (hx : Keep L x.1) => ?_) ?_
            on_goal 1 => clear_value x
            on_goal 2 => subst x)
         | clear_value x)

theorem linkDown_keep (s : State) (p cause : Nat) (receivers fastOk : Bool) (hk : Keep L s) :
    Keep L (linkDown s p cause receivers fastOk) := by
  unfold linkDown
  repeat' with_reducible first
    | assumption | apply countDown_keep | apply linkOff_keep | apply pcieFall_keep | apply prtUpd_keep | apply tlDown_keep
    | apply wr_keep | intro _ | split | (simp only [keep_mk]; apply Keep.parts) | refine Keep.of_fst (by assumption) ?_
    | (extract_lets +onlyGivenNames x
       first
         | (refine (fun (hx : Keep L x) => ?_) ?_
            on_goal 1 => clear_value x
            on_goal 2 => subst x)
         | (refine (fun (hx : Keep L x.1) => ?_) ?_
            on_goal 1 => clear_value x
            on_goal 2 => subst x)
         | clear_value x)

theorem portHold_keep (s : State) (p : Nat) (hk : Keep L s) :
    Keep L (portHold s p) := by
  unfold portHold
  repeat' with_reducible first
    | assumption | apply countDown_keep | apply linkDown_keep | apply linkOff_keep | apply pcieFall_keep | apply prtUpd_keep
    | apply tlFall_keep | apply tstateSet_keep | intro _ | split | (simp only [keep_mk]; apply Keep.parts)
    | refine Keep.of_fst (by assumption) ?_
    | (extract_lets +onlyGivenNames x
       first
         | (refine (fun (hx : Keep L x) => ?_) ?_
            on_goal 1 => clear_value x
            on_goal 2 => subst x)
         | (refine (fun (hx : Keep L x.1) => ?_) ?_
            on_goal 1 => clear_value x
            on_goal 2 => subst x)
         | clear_value x)

theorem holdPorts_keep (s : State) (hk : Keep L s) :
    Keep L (holdPorts s) := by
  unfold holdPorts
  repeat' with_reducible first
    | assumption | apply portHold_keep | apply forEach_keep | intro _ | split | (simp only [keep_mk]; apply Keep.parts)
    | refine Keep.of_fst (by assumption) ?_

theorem portsIdle_keep (s : State) (hk : Keep L s) :
    Keep L (portsIdle s) := by
  unfold portsIdle
  repeat' with_reducible first
    | assumption | apply linkOff_keep | apply membersOfPort_keep | apply nbrUpdate_keep | apply pairUps_keep
    | apply prtUpd_keep | apply tstateSet_keep | apply forEach_keep | intro _ | split
    | (simp only [keep_mk]; apply Keep.parts) | refine Keep.of_fst (by assumption) ?_
    | (extract_lets +onlyGivenNames x
       first
         | (refine (fun (hx : Keep L x) => ?_) ?_
            on_goal 1 => clear_value x
            on_goal 2 => subst x)
         | (refine (fun (hx : Keep L x.1) => ?_) ?_
            on_goal 1 => clear_value x
            on_goal 2 => subst x)
         | clear_value x)

theorem portReset_keep (s : State) (p c : Nat) (hk : Keep L s) :
    Keep L (portReset s p c) := by
  unfold portReset
  repeat' with_reducible first
    | assumption | apply hotReset_keep | apply partAssert_keep | apply portHold_keep | apply prtUpd_keep | apply wr_keep
    | intro _ | split | (simp only [keep_mk]; apply Keep.parts) | refine Keep.of_fst (by assumption) ?_
    | (extract_lets +onlyGivenNames x
       first
         | (refine (fun (hx : Keep L x) => ?_) ?_
            on_goal 1 => clear_value x
            on_goal 2 => subst x)
         | (refine (fun (hx : Keep L x.1) => ?_) ?_
            on_goal 1 => clear_value x
            on_goal 2 => subst x)
         | clear_value x)

theorem portUnreset_keep (s : State) (p c : Nat) (hk : Keep L s) :
    Keep L (portUnreset s p c) := by
  unfold portUnreset
  repeat' with_reducible first
    | assumption | apply waitEnd_keep | apply prtUpd_keep | intro _ | split | (simp only [keep_mk]; apply Keep.parts)
    | refine Keep.of_fst (by assumption) ?_
    | (extract_lets +onlyGivenNames x
       first
         | (refine (fun (hx : Keep L x) => ?_) ?_
            on_goal 1 => clear_value x
            on_goal 2 => subst x)
         | (refine (fun (hx : Keep L x.1) => ?_) ?_
            on_goal 1 => clear_value x
            on_goal 2 => subst x)
         | clear_value x)

theorem portDisableAt_keep (s : State) (p : Nat) (hk : Keep L s) :
    Keep L (portDisableAt s p) := by
  unfold portDisableAt
  repeat' with_reducible first
    | assumption | apply creditsDrop_keep | apply flushPort_keep | apply linkOff_keep | apply membersOfPort_keep
    | apply nbrUpdate_keep | apply pairUps_keep | apply partAssert_keep | apply portState_keep | apply prtUpd_keep
    | apply ptnStat_keep | apply retRetry_keep | apply tlFall_keep | apply wr_keep | intro _ | split
    | (simp only [keep_mk]; apply Keep.parts) | refine Keep.of_fst (by assumption) ?_
    | (extract_lets +onlyGivenNames x
       first
         | (refine (fun (hx : Keep L x) => ?_) ?_
            on_goal 1 => clear_value x
            on_goal 2 => subst x)
         | (refine (fun (hx : Keep L x.1) => ?_) ?_
            on_goal 1 => clear_value x
            on_goal 2 => subst x)
         | clear_value x)

theorem execPortDisable_keep (m : Master) (p : Fin 64) (s : State) (hk : Keep L s) :
    KeepRes L (execPortDisable m p s) := by
  unfold execPortDisable
  refine KeepRes.next ?_
  repeat' with_reducible first
    | assumption | apply asMaster_keep | apply portDisableAt_keep | intro _ | split | (simp only [keep_mk]; apply Keep.parts)
    | refine Keep.of_fst (by assumption) ?_

theorem execPortStopped_keep (p : Fin 64) (s : State) (hk : Keep L s) :
    KeepRes L (execPortStopped p s) := by
  unfold execPortStopped
  refine KeepRes.next ?_
  repeat' with_reducible first
    | assumption | apply laneLeave_keep | apply nbrUpdate_keep | apply portState_keep | apply ptnStat_keep | apply tlSet_keep
    | apply tstateSet_keep | apply wr_keep | apply forEach_keep | intro _ | split | (simp only [keep_mk]; apply Keep.parts)
    | refine Keep.of_fst (by assumption) ?_
    | (extract_lets +onlyGivenNames x
       first
         | (refine (fun (hx : Keep L x) => ?_) ?_
            on_goal 1 => clear_value x
            on_goal 2 => subst x)
         | (refine (fun (hx : Keep L x.1) => ?_) ?_
            on_goal 1 => clear_value x
            on_goal 2 => subst x)
         | clear_value x)

theorem portRetrainAt_keep (s : State) (p : Nat) (hk : Keep L s) :
    Keep L (portRetrainAt s p) := by
  unfold portRetrainAt
  repeat' with_reducible first
    | assumption | apply ctlOut_keep | apply retrainGo_keep | intro _ | split | (simp only [keep_mk]; apply Keep.parts)
    | refine Keep.of_fst (by assumption) ?_

theorem execPortRetrain_keep (m : Master) (p : Fin 64) (s : State) (hk : Keep L s) :
    KeepRes L (execPortRetrain m p s) := by
  unfold execPortRetrain
  refine KeepRes.next ?_
  repeat' with_reducible first
    | assumption | apply asMaster_keep | apply portRetrainAt_keep | intro _ | split | (simp only [keep_mk]; apply Keep.parts)
    | refine Keep.of_fst (by assumption) ?_

theorem execDetectDone_keep (p : Fin 64) (found : BitVec 17) (shorted : Shorts) (s : State) (hk : Keep L s) :
    KeepRes L (execDetectDone p found shorted s) := by
  unfold execDetectDone
  refine KeepRes.next ?_
  repeat' with_reducible first
    | assumption | apply lanesFound_keep | apply portState_keep | apply slotPresence_keep | apply trainStart_keep
    | apply wrb_keep | intro _ | split | (simp only [keep_mk]; apply Keep.parts) | refine Keep.of_fst (by assumption) ?_
    | (extract_lets +onlyGivenNames x
       first
         | (refine (fun (hx : Keep L x) => ?_) ?_
            on_goal 1 => clear_value x
            on_goal 2 => subst x)
         | (refine (fun (hx : Keep L x.1) => ?_) ?_
            on_goal 1 => clear_value x
            on_goal 2 => subst x)
         | clear_value x)

theorem pcieUp_keep (s : State) (p width : Nat) (flit reversed : Bool) (rxInv : Nat) (hk : Keep L s) :
    Keep L (pcieUp s p width flit reversed rxInv) := by
  unfold pcieUp
  repeat' with_reducible first
    | assumption | apply degradedLink_keep | apply inc_keep | apply portState_keep | apply prtUpd_keep | apply slotStat_keep
    | apply wr_keep | apply wrb_keep | apply forEach_keep | intro _ | split | (simp only [keep_mk]; apply Keep.parts)
    | refine Keep.of_fst (by assumption) ?_
    | (extract_lets +onlyGivenNames x
       first
         | (refine (fun (hx : Keep L x) => ?_) ?_
            on_goal 1 => clear_value x
            on_goal 2 => subst x)
         | (refine (fun (hx : Keep L x.1) => ?_) ?_
            on_goal 1 => clear_value x
            on_goal 2 => subst x)
         | clear_value x)

theorem execLinkUp_keep (p : Fin 64) (width : Fin 5) (flit reversed : Bool) (rx : RxLanes) (s : State) (hk : Keep L s) :
    KeepRes L (execLinkUp p width flit reversed rx s) := by
  unfold execLinkUp
  refine KeepRes.next ?_
  repeat' with_reducible first
    | assumption | apply lanesRx_keep | apply pcieUp_keep | apply tlinkUp_keep | intro _ | split
    | (simp only [keep_mk]; apply Keep.parts) | refine Keep.of_fst (by assumption) ?_

theorem execStepUpStart_keep (p : Fin 64) (partnerMax : BitVec 3) (s : State) (hk : Keep L s) :
    KeepRes L (execStepUpStart p partnerMax s) := by
  unfold execStepUpStart
  refine KeepRes.next ?_
  repeat' with_reducible first
    | assumption | apply portState_keep | apply request_keep | apply tlUpd_keep | intro _ | split
    | (simp only [keep_mk]; apply Keep.parts) | refine Keep.of_fst (by assumption) ?_
    | (extract_lets +onlyGivenNames x
       first
         | (refine (fun (hx : Keep L x) => ?_) ?_
            on_goal 1 => clear_value x
            on_goal 2 => subst x)
         | (refine (fun (hx : Keep L x.1) => ?_) ?_
            on_goal 1 => clear_value x
            on_goal 2 => subst x)
         | clear_value x)

theorem execStepDone_keep (p : Fin 64) (rate : BitVec 3) (width : Fin 5) (s : State) (hk : Keep L s) :
    KeepRes L (execStepDone p rate width s) := by
  unfold execStepDone
  refine KeepRes.next ?_
  repeat' with_reducible first
    | assumption | apply inc_keep | apply settle_keep | apply wr_keep | intro _ | split
    | (simp only [keep_mk]; apply Keep.parts) | refine Keep.of_fst (by assumption) ?_
    | (extract_lets +onlyGivenNames x
       first
         | (refine (fun (hx : Keep L x) => ?_) ?_
            on_goal 1 => clear_value x
            on_goal 2 => subst x)
         | (refine (fun (hx : Keep L x.1) => ?_) ?_
            on_goal 1 => clear_value x
            on_goal 2 => subst x)
         | clear_value x)

theorem execPortLinkDown_keep (p : Fin 64) (receivers : Bool) (s : State) (hk : Keep L s) :
    KeepRes L (execPortLinkDown p receivers s) := by
  unfold execPortLinkDown
  refine KeepRes.next ?_
  repeat' with_reducible first
    | assumption | apply linkDown_keep | intro _ | split | (simp only [keep_mk]; apply Keep.parts)
    | refine Keep.of_fst (by assumption) ?_

theorem execPcieTrainingFail_keep (r : RxFail) (s : State) (hk : Keep L s) :
    KeepRes L (execPcieTrainingFail r s) := by
  unfold execPcieTrainingFail
  refine KeepRes.next ?_
  repeat' with_reducible first
    | assumption | apply countDown_keep | apply inc_keep | apply lanesRx_keep | apply linkOff_keep | apply pcieFall_keep
    | apply prtUpd_keep | apply wr_keep | intro _ | split | (simp only [keep_mk]; apply Keep.parts)
    | refine Keep.of_fst (by assumption) ?_
    | (extract_lets +onlyGivenNames x
       first
         | (refine (fun (hx : Keep L x) => ?_) ?_
            on_goal 1 => clear_value x
            on_goal 2 => subst x)
         | (refine (fun (hx : Keep L x.1) => ?_) ?_
            on_goal 1 => clear_value x
            on_goal 2 => subst x)
         | clear_value x)

theorem execRefclkLost_keep (q : Fin 4) (tl : Bool) (s : State) (hk : Keep L s) :
    KeepRes L (execRefclkLost q tl s) := by
  unfold execRefclkLost
  refine KeepRes.next ?_
  repeat' with_reducible first
    | assumption | apply portHold_keep | apply raise_keep | apply wr_keep | apply forEach_keep | intro _ | split
    | (simp only [keep_mk]; apply Keep.parts) | refine Keep.of_fst (by assumption) ?_
    | (extract_lets +onlyGivenNames x
       first
         | (refine (fun (hx : Keep L x) => ?_) ?_
            on_goal 1 => clear_value x
            on_goal 2 => subst x)
         | (refine (fun (hx : Keep L x.1) => ?_) ?_
            on_goal 1 => clear_value x
            on_goal 2 => subst x)
         | clear_value x)

theorem execRefclkGood_keep (q : Fin 4) (tl : Bool) (s : State) (hk : Keep L s) :
    KeepRes L (execRefclkGood q tl s) := by
  unfold execRefclkGood
  refine KeepRes.next ?_
  repeat' with_reducible first
    | assumption | apply partUncause_keep | apply wr_keep | apply forEach_keep | intro _ | split
    | (simp only [keep_mk]; apply Keep.parts) | refine Keep.of_fst (by assumption) ?_
    | (extract_lets +onlyGivenNames x
       first
         | (refine (fun (hx : Keep L x) => ?_) ?_
            on_goal 1 => clear_value x
            on_goal 2 => subst x)
         | (refine (fun (hx : Keep L x.1) => ?_) ?_
            on_goal 1 => clear_value x
            on_goal 2 => subst x)
         | clear_value x)

theorem execTLlExpiry_keep (p : Fin 64) (s : State) (hk : Keep L s) :
    KeepRes L (execTLlExpiry p s) := by
  unfold execTLlExpiry
  refine KeepRes.next ?_
  repeat' with_reducible first
    | assumption | apply linkDown_keep | intro _ | split | (simp only [keep_mk]; apply Keep.parts)
    | refine Keep.of_fst (by assumption) ?_

theorem execDeadTimeout_keep (p : Fin 64) (s : State) (hk : Keep L s) :
    KeepRes L (execDeadTimeout p s) := by
  unfold execDeadTimeout
  refine KeepRes.next ?_
  repeat' with_reducible first
    | assumption | apply linkDown_keep | intro _ | split | (simp only [keep_mk]; apply Keep.parts)
    | refine Keep.of_fst (by assumption) ?_

theorem execResumeTimeout_keep (p : Fin 64) (s : State) (hk : Keep L s) :
    KeepRes L (execResumeTimeout p s) := by
  unfold execResumeTimeout
  refine KeepRes.next ?_
  repeat' with_reducible first
    | assumption | apply inc_keep | apply linkDown_keep | intro _ | split | (simp only [keep_mk]; apply Keep.parts)
    | refine Keep.of_fst (by assumption) ?_

theorem execReturnWindowExpiry_keep (p : Fin 64) (s : State) (hk : Keep L s) :
    KeepRes L (execReturnWindowExpiry p s) := by
  unfold execReturnWindowExpiry
  refine KeepRes.next ?_
  repeat' with_reducible first
    | assumption | apply windowEnd_keep | intro _ | split | (simp only [keep_mk]; apply Keep.parts)
    | refine Keep.of_fst (by assumption) ?_

theorem dpcGo_keep (s : State) (p : Nat) (hk : Keep L s) :
    Keep L (dpcGo s p) := by
  unfold dpcGo
  repeat' with_reducible first
    | assumption | apply countDown_keep | apply dpcHold_keep | apply linkOff_keep | apply pcieDrop_keep | apply prtUpd_keep
    | intro _ | split | (simp only [keep_mk]; apply Keep.parts) | refine Keep.of_fst (by assumption) ?_
    | (extract_lets +onlyGivenNames x
       first
         | (refine (fun (hx : Keep L x) => ?_) ?_
            on_goal 1 => clear_value x
            on_goal 2 => subst x)
         | (refine (fun (hx : Keep L x.1) => ?_) ?_
            on_goal 1 => clear_value x
            on_goal 2 => subst x)
         | clear_value x)

theorem execDpcTrigger_keep (p : Fin 64) (s : State) (hk : Keep L s) :
    KeepRes L (execDpcTrigger p s) := by
  unfold execDpcTrigger
  refine KeepRes.next ?_
  repeat' with_reducible first
    | assumption | apply dpcGo_keep | intro _ | split | (simp only [keep_mk]; apply Keep.parts)
    | refine Keep.of_fst (by assumption) ?_

theorem dpcClear_keep (s : State) (p : Nat) (hk : Keep L s) :
    Keep L (dpcClear s p) := by
  unfold dpcClear
  repeat' with_reducible first
    | assumption | apply dpcStatus_keep | apply prtUpd_keep | intro _ | split | (simp only [keep_mk]; apply Keep.parts)
    | refine Keep.of_fst (by assumption) ?_

theorem execDpcStatusClear_keep (p : Fin 64) (s : State) (hk : Keep L s) :
    KeepRes L (execDpcStatusClear p s) := by
  unfold execDpcStatusClear
  refine KeepRes.next ?_
  repeat' with_reducible first
    | assumption | apply dpcClear_keep | intro _ | split | (simp only [keep_mk]; apply Keep.parts)
    | refine Keep.of_fst (by assumption) ?_

theorem execSlotPgRise_keep (n : Fin 16) (s : State) (hk : Keep L s) :
    KeepRes L (execSlotPgRise n s) := by
  unfold execSlotPgRise
  refine KeepRes.next ?_
  repeat' with_reducible first
    | assumption | apply emit_keep | apply forEach_keep | intro _ | split | (simp only [keep_mk]; apply Keep.parts)
    | refine Keep.of_fst (by assumption) ?_

theorem execSlotPgFall_keep (n : Fin 16) (s : State) (hk : Keep L s) :
    KeepRes L (execSlotPgFall n s) := by
  unfold execSlotPgFall
  refine KeepRes.next ?_
  repeat' with_reducible first
    | assumption | apply portHold_keep | apply forEach_keep | intro _ | split | (simp only [keep_mk]; apply Keep.parts)
    | refine Keep.of_fst (by assumption) ?_

theorem partEnable_keep (s : State) (n : Nat) (hk : Keep L s) :
    Keep L (partEnable s n) := by
  unfold partEnable
  repeat' with_reducible first
    | assumption | apply partUncause_keep | apply ptnStat_keep | apply wr_keep | apply foldl_keep | apply foldl_keep_fst
    | intro _ | split | (simp only [keep_mk]; apply Keep.parts) | refine Keep.of_fst (by assumption) ?_
    | (extract_lets +onlyGivenNames x
       first
         | (refine (fun (hx : Keep L x) => ?_) ?_
            on_goal 1 => clear_value x
            on_goal 2 => subst x)
         | (refine (fun (hx : Keep L x.1) => ?_) ?_
            on_goal 1 => clear_value x
            on_goal 2 => subst x)
         | clear_value x)

theorem execPartitionEnable_keep (m : Master) (n : Fin 16) (s : State) (hk : Keep L s) :
    KeepRes L (execPartitionEnable m n s) := by
  unfold execPartitionEnable
  refine KeepRes.next ?_
  repeat' with_reducible first
    | assumption | apply asMaster_keep | apply partEnable_keep | intro _ | split | (simp only [keep_mk]; apply Keep.parts)
    | refine Keep.of_fst (by assumption) ?_

theorem partDisable_keep (s : State) (n : Nat) (hk : Keep L s) :
    Keep L (partDisable s n) := by
  unfold partDisable
  repeat' with_reducible first
    | assumption | apply partAssert_keep | apply ptnStat_keep | apply wr_keep | intro _ | split
    | (simp only [keep_mk]; apply Keep.parts) | refine Keep.of_fst (by assumption) ?_

theorem execPartitionDisable_keep (m : Master) (n : Fin 16) (s : State) (hk : Keep L s) :
    KeepRes L (execPartitionDisable m n s) := by
  unfold execPartitionDisable
  refine KeepRes.next ?_
  repeat' with_reducible first
    | assumption | apply asMaster_keep | apply partDisable_keep | intro _ | split | (simp only [keep_mk]; apply Keep.parts)
    | refine Keep.of_fst (by assumption) ?_

theorem execPerstAssert_keep (pt : Fin 16) (s : State) (hk : Keep L s) :
    KeepRes L (execPerstAssert pt s) := by
  unfold execPerstAssert
  refine KeepRes.next ?_
  repeat' with_reducible first
    | assumption | apply partAssert_keep | apply wr_keep | intro _ | split | (simp only [keep_mk]; apply Keep.parts)
    | refine Keep.of_fst (by assumption) ?_
    | (extract_lets +onlyGivenNames x
       first
         | (refine (fun (hx : Keep L x) => ?_) ?_
            on_goal 1 => clear_value x
            on_goal 2 => subst x)
         | (refine (fun (hx : Keep L x.1) => ?_) ?_
            on_goal 1 => clear_value x
            on_goal 2 => subst x)
         | clear_value x)

theorem execPerstRelease_keep (pt : Fin 16) (w : PulseLen) (s : State) (hk : Keep L s) :
    KeepRes L (execPerstRelease pt w s) := by
  unfold execPerstRelease
  refine KeepRes.next ?_
  repeat' with_reducible first
    | assumption | apply partCause_keep | apply partUncause_keep | apply raise_keep | intro _ | split
    | (simp only [keep_mk]; apply Keep.parts) | refine Keep.of_fst (by assumption) ?_
    | (extract_lets +onlyGivenNames x
       first
         | (refine (fun (hx : Keep L x) => ?_) ?_
            on_goal 1 => clear_value x
            on_goal 2 => subst x)
         | (refine (fun (hx : Keep L x.1) => ?_) ?_
            on_goal 1 => clear_value x
            on_goal 2 => subst x)
         | clear_value x)

theorem execPartResetRelease_keep (pt : Fin 16) (s : State) (hk : Keep L s) :
    KeepRes L (execPartResetRelease pt s) := by
  unfold execPartResetRelease
  refine KeepRes.next ?_
  repeat' with_reducible first
    | assumption | apply partRelease_keep | intro _ | split | (simp only [keep_mk]; apply Keep.parts)
    | refine Keep.of_fst (by assumption) ?_

theorem execHotResetReceived_keep (p : Fin 64) (s : State) (hk : Keep L s) :
    KeepRes L (execHotResetReceived p s) := by
  unfold execHotResetReceived
  refine KeepRes.next ?_
  repeat' with_reducible first
    | assumption | apply partAssert_keep | apply partCause_keep | apply prtUpd_keep | intro _ | split
    | (simp only [keep_mk]; apply Keep.parts) | refine Keep.of_fst (by assumption) ?_
    | (extract_lets +onlyGivenNames x
       first
         | (refine (fun (hx : Keep L x) => ?_) ?_
            on_goal 1 => clear_value x
            on_goal 2 => subst x)
         | (refine (fun (hx : Keep L x.1) => ?_) ?_
            on_goal 1 => clear_value x
            on_goal 2 => subst x)
         | clear_value x)

theorem execHotResetEnd_keep (p : Fin 64) (s : State) (hk : Keep L s) :
    KeepRes L (execHotResetEnd p s) := by
  unfold execHotResetEnd
  refine KeepRes.next ?_
  repeat' with_reducible first
    | assumption | apply partUncause_keep | apply prtUpd_keep | intro _ | split | (simp only [keep_mk]; apply Keep.parts)
    | refine Keep.of_fst (by assumption) ?_

theorem sbr_keep (s : State) (b : BridgeRef) (on : Bool) (hk : Keep L s) :
    Keep L (sbr s b on) := by
  unfold sbr
  repeat' with_reducible first
    | assumption | apply partAssert_keep | apply portReset_keep | apply portUnreset_keep | apply vfFlrs_keep | intro _
    | split | (simp only [keep_mk]; apply Keep.parts) | refine Keep.of_fst (by assumption) ?_

theorem execSecondaryBusReset_keep (b : BridgeRef) (on : Bool) (s : State) (hk : Keep L s) :
    KeepRes L (execSecondaryBusReset b on s) := by
  unfold execSecondaryBusReset
  refine KeepRes.next ?_
  repeat' with_reducible first
    | assumption | apply sbr_keep | intro _ | split | (simp only [keep_mk]; apply Keep.parts)
    | refine Keep.of_fst (by assumption) ?_

theorem execRstCmdPart_keep (m : Master) (key : BitVec 8) (pt : Fin 16) (s : State) (hk : Keep L s) :
    KeepRes L (execRstCmdPart m key pt s) := by
  unfold execRstCmdPart
  refine KeepRes.next ?_
  repeat' with_reducible first
    | assumption | apply asMaster_keep | apply partAssert_keep | intro _ | split | (simp only [keep_mk]; apply Keep.parts)
    | refine Keep.of_fst (by assumption) ?_

theorem execRstCmdPort_keep (m : Master) (key : BitVec 8) (p : Fin 64) (s : State) (hk : Keep L s) :
    KeepRes L (execRstCmdPort m key p s) := by
  unfold execRstCmdPort
  refine KeepRes.next ?_
  repeat' with_reducible first
    | assumption | apply asMaster_keep | apply portReset_keep | intro _ | split | (simp only [keep_mk]; apply Keep.parts)
    | refine Keep.of_fst (by assumption) ?_

theorem execVfFlrTimeout_keep (i : Fin 4096) (s : State) (hk : Keep L s) :
    KeepRes L (execVfFlrTimeout i s) := by
  unfold execVfFlrTimeout
  refine KeepRes.next ?_
  repeat' with_reducible first
    | assumption | apply fabUpd_keep | apply raise_keep | apply vfFlr_keep | intro _ | split
    | (simp only [keep_mk]; apply Keep.parts) | refine Keep.of_fst (by assumption) ?_

theorem execVfConfigHoldEnd_keep (i : Fin 4096) (s : State) (hk : Keep L s) :
    KeepRes L (execVfConfigHoldEnd i s) := by
  unfold execVfConfigHoldEnd
  refine KeepRes.next ?_
  repeat' with_reducible first
    | assumption | apply fabUpd_keep | apply proxyTo_keep | apply forEach_keep | intro _ | split
    | (simp only [keep_mk]; apply Keep.parts) | refine Keep.of_fst (by assumption) ?_
    | (extract_lets +onlyGivenNames x
       first
         | (refine (fun (hx : Keep L x) => ?_) ?_
            on_goal 1 => clear_value x
            on_goal 2 => subst x)
         | (refine (fun (hx : Keep L x.1) => ?_) ?_
            on_goal 1 => clear_value x
            on_goal 2 => subst x)
         | clear_value x)

end Sys2Proof.Machine
end

