-- ==== Sys2Proof/Laws/KeepPower.lean ====
section
/-! SUPPORT. What the operations of Power.lean keep. -/

namespace Sys2Proof.Machine

variable {L : List Instr}

theorem pwrUpd_keep (s : State) (f : Pwr → Pwr) (hk : Keep L s) :
    Keep L (pwrUpd s f) := by
  unfold pwrUpd
  repeat' with_reducible first
    | assumption | intro _ | split | (simp only [keep_mk]; apply Keep.parts) | refine Keep.of_fst (by assumption) ?_

theorem pdOn_keep (s : State) (f : State → State) (hk : Keep L s) (hf : ∀ t, Keep L t → Keep L (f t)) : Keep L (pdOn s f) := by
  unfold pdOn
  split
  · exact hf _ hk
  · exact hk

theorem feedSet_keep (s : State) (f v : Nat) (hk : Keep L s) :
    Keep L (feedSet s f v) := by
  unfold feedSet
  repeat' with_reducible first
    | assumption | apply wr_keep | intro _ | split | (simp only [keep_mk]; apply Keep.parts)
    | refine Keep.of_fst (by assumption) ?_

theorem conduct_keep (s : State) (f : Nat) (b : Bool) (hk : Keep L s) :
    Keep L (conduct s f b) := by
  unfold conduct
  repeat' with_reducible first
    | assumption | apply wrb_keep | intro _ | split | (simp only [keep_mk]; apply Keep.parts)
    | refine Keep.of_fst (by assumption) ?_

theorem warnFall_keep (s : State) (hk : Keep L s) :
    Keep L (warnFall s) := by
  unfold warnFall
  repeat' with_reducible first
    | assumption | apply wr_keep | intro _ | split | (simp only [keep_mk]; apply Keep.parts)
    | refine Keep.of_fst (by assumption) ?_

theorem feedControl_keep (s : State) (f : Nat) (hk : Keep L s) :
    Keep L (feedControl s f) := by
  unfold feedControl
  repeat' with_reducible first
    | assumption | apply conduct_keep | apply feedSet_keep | apply warnFall_keep | intro _ | split
    | (simp only [keep_mk]; apply Keep.parts) | refine Keep.of_fst (by assumption) ?_

theorem execFeedLow_keep (f : Fin 2) (s : State) (hk : Keep L s) :
    KeepRes L (execFeedLow f s) := by
  unfold execFeedLow
  refine KeepRes.next ?_
  repeat' with_reducible first
    | assumption | apply feedSet_keep | apply pdOn_keep | apply pwrUpd_keep | apply raise_keep | intro _ | split
    | (simp only [keep_mk]; apply Keep.parts) | refine Keep.of_fst (by assumption) ?_
    | (extract_lets +onlyGivenNames x
       first
         | (refine (fun (hx : Keep L x) => ?_) ?_
            on_goal 1 => clear_value x
            on_goal 2 => subst x)
         | (refine (fun (hx : Keep L x.1) => ?_) ?_
            on_goal 1 => clear_value x
            on_goal 2 => subst x)
         | clear_value x)

theorem execFeedNotLow_keep (f : Fin 2) (s : State) (hk : Keep L s) :
    KeepRes L (execFeedNotLow f s) := by
  unfold execFeedNotLow
  refine KeepRes.next ?_
  repeat' with_reducible first
    | assumption | apply feedControl_keep | apply pdOn_keep | apply pwrUpd_keep | intro _ | split
    | (simp only [keep_mk]; apply Keep.parts) | refine Keep.of_fst (by assumption) ?_
    | (extract_lets +onlyGivenNames x
       first
         | (refine (fun (hx : Keep L x) => ?_) ?_
            on_goal 1 => clear_value x
            on_goal 2 => subst x)
         | (refine (fun (hx : Keep L x.1) => ?_) ?_
            on_goal 1 => clear_value x
            on_goal 2 => subst x)
         | clear_value x)

theorem execFeedReverseCurrent_keep (f : Fin 2) (s : State) (hk : Keep L s) :
    KeepRes L (execFeedReverseCurrent f s) := by
  unfold execFeedReverseCurrent
  refine KeepRes.next ?_
  repeat' with_reducible first
    | assumption | apply conduct_keep | apply pdOn_keep | apply raise_keep | intro _ | split
    | (simp only [keep_mk]; apply Keep.parts) | refine Keep.of_fst (by assumption) ?_

theorem execFeedReversed_keep (f : Fin 2) (s : State) (hk : Keep L s) :
    KeepRes L (execFeedReversed f s) := by
  unfold execFeedReversed
  refine KeepRes.next ?_
  repeat' with_reducible first
    | assumption | apply conduct_keep | apply feedSet_keep | apply pdOn_keep | apply raise_keep | intro _ | split
    | (simp only [keep_mk]; apply Keep.parts) | refine Keep.of_fst (by assumption) ?_

theorem execFeedReversedClear_keep (f : Fin 2) (s : State) (hk : Keep L s) :
    KeepRes L (execFeedReversedClear f s) := by
  unfold execFeedReversedClear
  refine KeepRes.next ?_
  repeat' with_reducible first
    | assumption | apply feedControl_keep | apply pdOn_keep | intro _ | split | (simp only [keep_mk]; apply Keep.parts)
    | refine Keep.of_fst (by assumption) ?_

theorem execFeedOvervoltage_keep (f : Fin 2) (s : State) (hk : Keep L s) :
    KeepRes L (execFeedOvervoltage f s) := by
  unfold execFeedOvervoltage
  refine KeepRes.next ?_
  repeat' with_reducible first
    | assumption | apply conduct_keep | apply feedSet_keep | apply pdOn_keep | apply raise_keep | intro _ | split
    | (simp only [keep_mk]; apply Keep.parts) | refine Keep.of_fst (by assumption) ?_
    | (extract_lets +onlyGivenNames x
       first
         | (refine (fun (hx : Keep L x) => ?_) ?_
            on_goal 1 => clear_value x
            on_goal 2 => subst x)
         | (refine (fun (hx : Keep L x.1) => ?_) ?_
            on_goal 1 => clear_value x
            on_goal 2 => subst x)
         | clear_value x)

theorem execFeedOvClear_keep (f : Fin 2) (s : State) (hk : Keep L s) :
    KeepRes L (execFeedOvClear f s) := by
  unfold execFeedOvClear
  refine KeepRes.next ?_
  repeat' with_reducible first
    | assumption | apply feedControl_keep | apply pdOn_keep | intro _ | split | (simp only [keep_mk]; apply Keep.parts)
    | refine Keep.of_fst (by assumption) ?_

theorem feedCtlSet_keep (s : State) (f v : Nat) (hk : Keep L s) :
    Keep L (feedCtlSet s f v) := by
  unfold feedCtlSet
  repeat' with_reducible first
    | assumption | apply conduct_keep | apply feedSet_keep | apply pwrUpd_keep | apply warnFall_keep | apply wr_keep
    | intro _ | split | (simp only [keep_mk]; apply Keep.parts) | refine Keep.of_fst (by assumption) ?_
    | (extract_lets +onlyGivenNames x
       first
         | (refine (fun (hx : Keep L x) => ?_) ?_
            on_goal 1 => clear_value x
            on_goal 2 => subst x)
         | (refine (fun (hx : Keep L x.1) => ?_) ?_
            on_goal 1 => clear_value x
            on_goal 2 => subst x)
         | clear_value x)

theorem execPwrfailReadback_keep (s : State) (hk : Keep L s) :
    KeepRes L (execPwrfailReadback s) := by
  unfold execPwrfailReadback
  refine KeepRes.next ?_
  repeat' with_reducible first
    | assumption | apply pdOn_keep | apply raiseIf_keep | intro _ | split | (simp only [keep_mk]; apply Keep.parts)
    | refine Keep.of_fst (by assumption) ?_

theorem slotTo_keep (s : State) (n st : Nat) (hk : Keep L s) :
    Keep L (slotTo s n st) := by
  unfold slotTo
  repeat' with_reducible first
    | assumption | apply wr_keep | intro _ | split | (simp only [keep_mk]; apply Keep.parts)
    | refine Keep.of_fst (by assumption) ?_

theorem pgLow_keep (s : State) (n : Nat) (hk : Keep L s) :
    Keep L (pgLow s n) := by
  unfold pgLow
  repeat' with_reducible first
    | assumption | apply emit_keep | apply wr_keep | intro _ | split | (simp only [keep_mk]; apply Keep.parts)
    | refine Keep.of_fst (by assumption) ?_

theorem gatePull_keep (s : State) (n : Nat) (hk : Keep L s) :
    Keep L (gatePull s n) := by
  unfold gatePull
  repeat' with_reducible first
    | assumption | apply emit_keep | apply pgLow_keep | intro _ | split | (simp only [keep_mk]; apply Keep.parts)
    | refine Keep.of_fst (by assumption) ?_

theorem slotRamp_keep (s : State) (n : Nat) (full : Bool) (hk : Keep L s) :
    Keep L (slotRamp s n full) := by
  unfold slotRamp
  repeat' with_reducible first
    | assumption | apply emit_keep | apply slotTo_keep | apply wr_keep | intro _ | split
    | (simp only [keep_mk]; apply Keep.parts) | refine Keep.of_fst (by assumption) ?_
    | (extract_lets +onlyGivenNames x
       first
         | (refine (fun (hx : Keep L x) => ?_) ?_
            on_goal 1 => clear_value x
            on_goal 2 => subst x)
         | (refine (fun (hx : Keep L x.1) => ?_) ?_
            on_goal 1 => clear_value x
            on_goal 2 => subst x)
         | clear_value x)

theorem slotOn_keep (s : State) (n : Nat) (hk : Keep L s) :
    Keep L (slotOn s n) := by
  unfold slotOn
  repeat' with_reducible first
    | assumption | apply slotRamp_keep | apply wr_keep | intro _ | split | (simp only [keep_mk]; apply Keep.parts)
    | refine Keep.of_fst (by assumption) ?_
    | (extract_lets +onlyGivenNames x
       first
         | (refine (fun (hx : Keep L x) => ?_) ?_
            on_goal 1 => clear_value x
            on_goal 2 => subst x)
         | (refine (fun (hx : Keep L x.1) => ?_) ?_
            on_goal 1 => clear_value x
            on_goal 2 => subst x)
         | clear_value x)

theorem slotOff_keep (s : State) (n : Nat) (hk : Keep L s) :
    Keep L (slotOff s n) := by
  unfold slotOff
  repeat' with_reducible first
    | assumption | apply gatePull_keep | apply pwrUpd_keep | apply slotTo_keep | apply wr_keep | intro _ | split
    | (simp only [keep_mk]; apply Keep.parts) | refine Keep.of_fst (by assumption) ?_
    | (extract_lets +onlyGivenNames x
       first
         | (refine (fun (hx : Keep L x) => ?_) ?_
            on_goal 1 => clear_value x
            on_goal 2 => subst x)
         | (refine (fun (hx : Keep L x.1) => ?_) ?_
            on_goal 1 => clear_value x
            on_goal 2 => subst x)
         | clear_value x)

theorem slotPower_keep (s : State) (n : Nat) (on : Bool) (hk : Keep L s) :
    Keep L (slotPower s n on) := by
  unfold slotPower
  repeat' with_reducible first
    | assumption | apply pdOn_keep | apply slotOff_keep | apply slotOn_keep | intro _ | split
    | (simp only [keep_mk]; apply Keep.parts) | refine Keep.of_fst (by assumption) ?_

theorem execSlotPowerControlWrite_keep (host : Bool) (n : Fin 16) (on : Bool) (s : State) (hk : Keep L s) :
    KeepRes L (execSlotPowerControlWrite host n on s) := by
  unfold execSlotPowerControlWrite
  refine KeepRes.next ?_
  repeat' with_reducible first
    | assumption | apply asMaster_keep | apply slotPower_keep | intro _ | split | (simp only [keep_mk]; apply Keep.parts)
    | refine Keep.of_fst (by assumption) ?_

theorem powerFault_keep (s : State) (n : Nat) (hk : Keep L s) :
    Keep L (powerFault s n) := by
  unfold powerFault
  repeat' with_reducible first
    | assumption | apply slotTell_keep | apply wr_keep | apply forEach_keep | intro _ | split
    | (simp only [keep_mk]; apply Keep.parts) | refine Keep.of_fst (by assumption) ?_

theorem slotTrip_keep (s : State) (n : Nat) (fast : Bool) (hk : Keep L s) :
    Keep L (slotTrip s n fast) := by
  unfold slotTrip
  repeat' with_reducible first
    | assumption | apply gatePull_keep | apply inc_keep | apply powerFault_keep | apply raise_keep | apply slotTo_keep
    | apply wr_keep | apply wrb_keep | intro _ | split | (simp only [keep_mk]; apply Keep.parts)
    | refine Keep.of_fst (by assumption) ?_
    | (extract_lets +onlyGivenNames x
       first
         | (refine (fun (hx : Keep L x) => ?_) ?_
            on_goal 1 => clear_value x
            on_goal 2 => subst x)
         | (refine (fun (hx : Keep L x.1) => ?_) ?_
            on_goal 1 => clear_value x
            on_goal 2 => subst x)
         | clear_value x)

theorem execSlotTimerTrip_keep (n : Fin 16) (s : State) (hk : Keep L s) :
    KeepRes L (execSlotTimerTrip n s) := by
  unfold execSlotTimerTrip
  refine KeepRes.next ?_
  repeat' with_reducible first
    | assumption | apply pdOn_keep | apply slotTrip_keep | intro _ | split | (simp only [keep_mk]; apply Keep.parts)
    | refine Keep.of_fst (by assumption) ?_

theorem execSlotFastTrip_keep (n : Fin 16) (s : State) (hk : Keep L s) :
    KeepRes L (execSlotFastTrip n s) := by
  unfold execSlotFastTrip
  refine KeepRes.next ?_
  repeat' with_reducible first
    | assumption | apply pdOn_keep | apply slotTrip_keep | intro _ | split | (simp only [keep_mk]; apply Keep.parts)
    | refine Keep.of_fst (by assumption) ?_

theorem execSlotRampComplete_keep (n : Fin 16) (s : State) (hk : Keep L s) :
    KeepRes L (execSlotRampComplete n s) := by
  unfold execSlotRampComplete
  refine KeepRes.next ?_
  repeat' with_reducible first
    | assumption | apply pdOn_keep | apply slotTo_keep | intro _ | split | (simp only [keep_mk]; apply Keep.parts)
    | refine Keep.of_fst (by assumption) ?_

theorem execSlotQualified_keep (n : Fin 16) (s : State) (hk : Keep L s) :
    KeepRes L (execSlotQualified n s) := by
  unfold execSlotQualified
  refine KeepRes.next ?_
  repeat' with_reducible first
    | assumption | apply emit_keep | apply pdOn_keep | apply slotTo_keep | apply wr_keep | intro _ | split
    | (simp only [keep_mk]; apply Keep.parts) | refine Keep.of_fst (by assumption) ?_

theorem execSlotCoolEnd_keep (n : Fin 16) (s : State) (hk : Keep L s) :
    KeepRes L (execSlotCoolEnd n s) := by
  unfold execSlotCoolEnd
  refine KeepRes.next ?_
  repeat' with_reducible first
    | assumption | apply pdOn_keep | apply pwrUpd_keep | apply slotRamp_keep | intro _ | split
    | (simp only [keep_mk]; apply Keep.parts) | refine Keep.of_fst (by assumption) ?_

theorem execSlotFetFault_keep (n : Fin 16) (kind : Fin 3) (s : State) (hk : Keep L s) :
    KeepRes L (execSlotFetFault n kind s) := by
  unfold execSlotFetFault
  refine KeepRes.next ?_
  repeat' with_reducible first
    | assumption | apply gatePull_keep | apply pdOn_keep | apply powerFault_keep | apply pwrUpd_keep | apply raise_keep
    | apply slotTo_keep | apply wr_keep | intro _ | split | (simp only [keep_mk]; apply Keep.parts)
    | refine Keep.of_fst (by assumption) ?_
    | (extract_lets +onlyGivenNames x
       first
         | (refine (fun (hx : Keep L x) => ?_) ?_
            on_goal 1 => clear_value x
            on_goal 2 => subst x)
         | (refine (fun (hx : Keep L x.1) => ?_) ?_
            on_goal 1 => clear_value x
            on_goal 2 => subst x)
         | clear_value x)

theorem slotClrFet_keep (s : State) (n : Nat) (hk : Keep L s) :
    Keep L (slotClrFet s n) := by
  unfold slotClrFet
  repeat' with_reducible first
    | assumption | apply pdOn_keep | apply slotTo_keep | apply wr_keep | intro _ | split
    | (simp only [keep_mk]; apply Keep.parts) | refine Keep.of_fst (by assumption) ?_

theorem execSlotClrFet_keep (m : Master) (n : Fin 16) (s : State) (hk : Keep L s) :
    KeepRes L (execSlotClrFet m n s) := by
  unfold execSlotClrFet
  refine KeepRes.next ?_
  repeat' with_reducible first
    | assumption | apply asMaster_keep | apply slotClrFet_keep | intro _ | split | (simp only [keep_mk]; apply Keep.parts)
    | refine Keep.of_fst (by assumption) ?_

theorem slotFence_keep (s : State) (n : Nat) (hk : Keep L s) :
    Keep L (slotFence s n) := by
  unfold slotFence
  repeat' with_reducible first
    | assumption | apply slotOff_keep | apply slotTo_keep | apply wr_keep | intro _ | split
    | (simp only [keep_mk]; apply Keep.parts) | refine Keep.of_fst (by assumption) ?_
    | (extract_lets +onlyGivenNames x
       first
         | (refine (fun (hx : Keep L x) => ?_) ?_
            on_goal 1 => clear_value x
            on_goal 2 => subst x)
         | (refine (fun (hx : Keep L x.1) => ?_) ?_
            on_goal 1 => clear_value x
            on_goal 2 => subst x)
         | clear_value x)

theorem slotUnfence_keep (s : State) (n : Nat) (hk : Keep L s) :
    Keep L (slotUnfence s n) := by
  unfold slotUnfence
  repeat' with_reducible first
    | assumption | apply wr_keep | intro _ | split | (simp only [keep_mk]; apply Keep.parts)
    | refine Keep.of_fst (by assumption) ?_

theorem execBusUndervoltage_keep (s : State) (hk : Keep L s) :
    KeepRes L (execBusUndervoltage s) := by
  unfold execBusUndervoltage
  refine KeepRes.next ?_
  repeat' with_reducible first
    | assumption | apply gatePull_keep | apply pdOn_keep | apply slotTo_keep | apply wr_keep | apply forEach_keep | intro _
    | split | (simp only [keep_mk]; apply Keep.parts) | refine Keep.of_fst (by assumption) ?_
    | (extract_lets +onlyGivenNames x
       first
         | (refine (fun (hx : Keep L x) => ?_) ?_
            on_goal 1 => clear_value x
            on_goal 2 => subst x)
         | (refine (fun (hx : Keep L x.1) => ?_) ?_
            on_goal 1 => clear_value x
            on_goal 2 => subst x)
         | clear_value x)

theorem execBusUvRecovered_keep (s : State) (hk : Keep L s) :
    KeepRes L (execBusUvRecovered s) := by
  unfold execBusUvRecovered
  refine KeepRes.next ?_
  repeat' with_reducible first
    | assumption | apply pdOn_keep | apply pwrUpd_keep | apply slotRamp_keep | apply wr_keep | apply forEach_keep | intro _
    | split | (simp only [keep_mk]; apply Keep.parts) | refine Keep.of_fst (by assumption) ?_
    | (extract_lets +onlyGivenNames x
       first
         | (refine (fun (hx : Keep L x) => ?_) ?_
            on_goal 1 => clear_value x
            on_goal 2 => subst x)
         | (refine (fun (hx : Keep L x.1) => ?_) ?_
            on_goal 1 => clear_value x
            on_goal 2 => subst x)
         | clear_value x)

theorem execTempWarn_keep (i : Fin 10) (s : State) (hk : Keep L s) :
    KeepRes L (execTempWarn i s) := by
  unfold execTempWarn
  refine KeepRes.next ?_
  repeat' with_reducible first
    | assumption | apply pdOn_keep | apply raiseIf_keep | intro _ | split | (simp only [keep_mk]; apply Keep.parts)
    | refine Keep.of_fst (by assumption) ?_

theorem execTempCrit_keep (i : Fin 10) (s : State) (hk : Keep L s) :
    KeepRes L (execTempCrit i s) := by
  unfold execTempCrit
  refine KeepRes.next ?_
  repeat' with_reducible first
    | assumption | apply pdOn_keep | apply raiseIf_keep | intro _ | split | (simp only [keep_mk]; apply Keep.parts)
    | refine Keep.of_fst (by assumption) ?_

theorem execTempSensorFail_keep (i : Fin 10) (s : State) (hk : Keep L s) :
    KeepRes L (execTempSensorFail i s) := by
  unfold execTempSensorFail
  refine KeepRes.next ?_
  repeat' with_reducible first
    | assumption | apply pdOn_keep | apply pwrUpd_keep | apply raise_keep | intro _ | split
    | (simp only [keep_mk]; apply Keep.parts) | refine Keep.of_fst (by assumption) ?_
    | (extract_lets +onlyGivenNames x
       first
         | (refine (fun (hx : Keep L x) => ?_) ?_
            on_goal 1 => clear_value x
            on_goal 2 => subst x)
         | (refine (fun (hx : Keep L x.1) => ?_) ?_
            on_goal 1 => clear_value x
            on_goal 2 => subst x)
         | clear_value x)

theorem execSupplyOutOfRange_keep (i : Fin 8) (s : State) (hk : Keep L s) :
    KeepRes L (execSupplyOutOfRange i s) := by
  unfold execSupplyOutOfRange
  refine KeepRes.next ?_
  repeat' with_reducible first
    | assumption | apply pdOn_keep | apply raise_keep | intro _ | split | (simp only [keep_mk]; apply Keep.parts)
    | refine Keep.of_fst (by assumption) ?_

theorem execPowerDieStart_keep (s : State) (hk : Keep L s) : KeepRes L (execPowerDieStart s) := by
  unfold execPowerDieStart
  refine KeepRes.next ?_
  split
  · exact hk
  · have h1 := rreset_keep (fun k => keyReach k == reachCode .pdOn) hk
    exact emit_keep _ ⟨h1.regs, h1.ret, h1.stg, h1.cert, h1.img, h1.pend⟩

theorem execPowerDieStop_keep (s : State) (hk : Keep L s) :
    KeepRes L (execPowerDieStop s) := by
  unfold execPowerDieStop
  refine KeepRes.next ?_
  repeat' with_reducible first
    | assumption | apply gatePull_keep | apply pwrUpd_keep | apply forEach_keep | intro _ | split
    | (simp only [keep_mk]; apply Keep.parts) | refine Keep.of_fst (by assumption) ?_
    | (extract_lets +onlyGivenNames x
       first
         | (refine (fun (hx : Keep L x) => ?_) ?_
            on_goal 1 => clear_value x
            on_goal 2 => subst x)
         | (refine (fun (hx : Keep L x.1) => ?_) ?_
            on_goal 1 => clear_value x
            on_goal 2 => subst x)
         | clear_value x)

end Sys2Proof.Machine
end

