-- ==== Sys2Proof/Laws/KeepHeel.lean ====
section
/-! SUPPORT. What the operations of Heel.lean keep. -/

namespace Sys2Proof.Machine

variable {L : List Instr}

theorem heelUpd_keep (s : State) (f : Heel → Heel) (hk : Keep L s) :
    Keep L (heelUpd s f) := by
  unfold heelUpd
  repeat' with_reducible first
    | assumption | intro _ | split | (simp only [keep_mk]; apply Keep.parts) | refine Keep.of_fst (by assumption) ?_

theorem durEval_keep (s : State) (hk : Keep L s) :
    Keep L (durEval s) := by
  unfold durEval
  repeat' with_reducible first
    | assumption | apply overBudget_keep | apply raiseIf_keep | apply release_keep | apply wrb_keep | intro _ | split
    | (simp only [keep_mk]; apply Keep.parts) | refine Keep.of_fst (by assumption) ?_
    | (extract_lets +onlyGivenNames x
       first
         | (refine (fun (hx : Keep L x) => ?_) ?_
            on_goal 1 => clear_value x
            on_goal 2 => subst x)
         | (refine (fun (hx : Keep L x.1) => ?_) ?_
            on_goal 1 => clear_value x
            on_goal 2 => subst x)
         | clear_value x)

theorem heelBudget_keep (s : State) (hk : Keep L s) :
    Keep L (heelBudget s) := by
  unfold heelBudget
  repeat' with_reducible first
    | assumption | apply wr_keep | intro _ | split | (simp only [keep_mk]; apply Keep.parts)
    | refine Keep.of_fst (by assumption) ?_
    | (extract_lets +onlyGivenNames x
       first
         | (refine (fun (hx : Keep L x) => ?_) ?_
            on_goal 1 => clear_value x
            on_goal 2 => subst x)
         | (refine (fun (hx : Keep L x.1) => ?_) ?_
            on_goal 1 => clear_value x
            on_goal 2 => subst x)
         | clear_value x)

theorem heelJudge_keep (s : State) (hk : Keep L s) :
    Keep L (heelJudge s) := by
  unfold heelJudge
  repeat' with_reducible first
    | assumption | apply wr_keep | apply wrb_keep | intro _ | split | (simp only [keep_mk]; apply Keep.parts)
    | refine Keep.of_fst (by assumption) ?_
    | (extract_lets +onlyGivenNames x
       first
         | (refine (fun (hx : Keep L x) => ?_) ?_
            on_goal 1 => clear_value x
            on_goal 2 => subst x)
         | (refine (fun (hx : Keep L x.1) => ?_) ?_
            on_goal 1 => clear_value x
            on_goal 2 => subst x)
         | clear_value x)

theorem heelEnable_keep (s : State) (hk : Keep L s) :
    Keep L (heelEnable s) := by
  unfold heelEnable
  repeat' with_reducible first
    | assumption | apply durEval_keep | apply wr_keep | intro _ | split | (simp only [keep_mk]; apply Keep.parts)
    | refine Keep.of_fst (by assumption) ?_

theorem execHeelEnable_keep (m : Master) (s : State) (hk : Keep L s) :
    KeepRes L (execHeelEnable m s) := by
  unfold execHeelEnable
  refine KeepRes.next ?_
  repeat' with_reducible first
    | assumption | apply asMaster_keep | apply heelEnable_keep | intro _ | split | (simp only [keep_mk]; apply Keep.parts)
    | refine Keep.of_fst (by assumption) ?_

theorem heelMeasure_keep (s : State) (hk : Keep L s) :
    Keep L (heelMeasure s) := by
  unfold heelMeasure
  repeat' with_reducible first
    | assumption | apply heelUpd_keep | intro _ | split | (simp only [keep_mk]; apply Keep.parts)
    | refine Keep.of_fst (by assumption) ?_

theorem execHeelMeasure_keep (m : Master) (s : State) (hk : Keep L s) :
    KeepRes L (execHeelMeasure m s) := by
  unfold execHeelMeasure
  refine KeepRes.next ?_
  repeat' with_reducible first
    | assumption | apply asMaster_keep | apply heelMeasure_keep | intro _ | split | (simp only [keep_mk]; apply Keep.parts)
    | refine Keep.of_fst (by assumption) ?_

theorem execHeelTestTimer_keep (v0 : BitVec 16) (charging : Bool) (s : State) (hk : Keep L s) :
    KeepRes L (execHeelTestTimer v0 charging s) := by
  unfold execHeelTestTimer
  refine KeepRes.next ?_
  repeat' with_reducible first
    | assumption | apply heelUpd_keep | apply inc_keep | apply wr_keep | intro _ | split
    | (simp only [keep_mk]; apply Keep.parts) | refine Keep.of_fst (by assumption) ?_
    | (extract_lets +onlyGivenNames x
       first
         | (refine (fun (hx : Keep L x) => ?_) ?_
            on_goal 1 => clear_value x
            on_goal 2 => subst x)
         | (refine (fun (hx : Keep L x.1) => ?_) ?_
            on_goal 1 => clear_value x
            on_goal 2 => subst x)
         | clear_value x)

theorem execHeelV1Sample_keep (v1 : BitVec 32) (s : State) (hk : Keep L s) :
    KeepRes L (execHeelV1Sample v1 s) := by
  unfold execHeelV1Sample
  refine KeepRes.next ?_
  repeat' with_reducible first
    | assumption | apply heelUpd_keep | intro _ | split | (simp only [keep_mk]; apply Keep.parts)
    | refine Keep.of_fst (by assumption) ?_

theorem heelEnd_keep (s : State) (hk : Keep L s) :
    Keep L (heelEnd s) := by
  unfold heelEnd
  repeat' with_reducible first
    | assumption | apply heelUpd_keep | apply inc_keep | apply wr_keep | intro _ | split
    | (simp only [keep_mk]; apply Keep.parts) | refine Keep.of_fst (by assumption) ?_

theorem heelInvalid_keep (s : State) (r : Nat) (hk : Keep L s) :
    Keep L (heelInvalid s r) := by
  unfold heelInvalid
  repeat' with_reducible first
    | assumption | apply durEval_keep | apply heelUpd_keep | apply raise_keep | apply wr_keep | intro _ | split
    | (simp only [keep_mk]; apply Keep.parts) | refine Keep.of_fst (by assumption) ?_
    | (extract_lets +onlyGivenNames x
       first
         | (refine (fun (hx : Keep L x) => ?_) ?_
            on_goal 1 => clear_value x
            on_goal 2 => subst x)
         | (refine (fun (hx : Keep L x.1) => ?_) ?_
            on_goal 1 => clear_value x
            on_goal 2 => subst x)
         | clear_value x)

theorem execHeelTestDone_keep (v2 : BitVec 32) (s : State) (hk : Keep L s) :
    KeepRes L (execHeelTestDone v2 s) := by
  unfold execHeelTestDone
  refine KeepRes.next ?_
  repeat' with_reducible first
    | assumption | apply durEval_keep | apply heelBudget_keep | apply heelEnd_keep | apply heelInvalid_keep
    | apply heelJudge_keep | apply heelUpd_keep | apply raiseIf_keep | apply wr_keep | intro _ | split
    | (simp only [keep_mk]; apply Keep.parts) | refine Keep.of_fst (by assumption) ?_
    | (extract_lets +onlyGivenNames x
       first
         | (refine (fun (hx : Keep L x) => ?_) ?_
            on_goal 1 => clear_value x
            on_goal 2 => subst x)
         | (refine (fun (hx : Keep L x.1) => ?_) ?_
            on_goal 1 => clear_value x
            on_goal 2 => subst x)
         | clear_value x)

theorem heelAbort_keep (s : State) (hk : Keep L s) :
    Keep L (heelAbort s) := by
  unfold heelAbort
  repeat' with_reducible first
    | assumption | apply heelEnd_keep | apply raise_keep | apply wr_keep | intro _ | split
    | (simp only [keep_mk]; apply Keep.parts) | refine Keep.of_fst (by assumption) ?_

theorem heelParam_keep (s : State) (which v : Nat) (hk : Keep L s) :
    Keep L (heelParam s which v) := by
  unfold heelParam
  repeat' with_reducible first
    | assumption | apply durEval_keep | apply heelBudget_keep | apply heelJudge_keep | apply wr_keep | intro _ | split
    | (simp only [keep_mk]; apply Keep.parts) | refine Keep.of_fst (by assumption) ?_
    | (extract_lets +onlyGivenNames x
       first
         | (refine (fun (hx : Keep L x) => ?_) ?_
            on_goal 1 => clear_value x
            on_goal 2 => subst x)
         | (refine (fun (hx : Keep L x.1) => ?_) ?_
            on_goal 1 => clear_value x
            on_goal 2 => subst x)
         | clear_value x)

theorem execHeelParamWrite_keep (m : Master) (which : Fin 6) (v : BitVec 32) (s : State) (hk : Keep L s) :
    KeepRes L (execHeelParamWrite m which v s) := by
  unfold execHeelParamWrite
  refine KeepRes.next ?_
  repeat' with_reducible first
    | assumption | apply asMaster_keep | apply heelParam_keep | intro _ | split | (simp only [keep_mk]; apply Keep.parts)
    | refine Keep.of_fst (by assumption) ?_

theorem execHeelResultExpiry_keep (s : State) (hk : Keep L s) :
    KeepRes L (execHeelResultExpiry s) := by
  unfold execHeelResultExpiry
  refine KeepRes.next ?_
  repeat' with_reducible first
    | assumption | apply durEval_keep | apply heelUpd_keep | apply raise_keep | intro _ | split
    | (simp only [keep_mk]; apply Keep.parts) | refine Keep.of_fst (by assumption) ?_

theorem heelDrain_keep (s : State) (hk : Keep L s) :
    Keep L (heelDrain s) := by
  unfold heelDrain
  repeat' with_reducible first
    | assumption | apply durEval_keep | apply heelUpd_keep | intro _ | split | (simp only [keep_mk]; apply Keep.parts)
    | refine Keep.of_fst (by assumption) ?_

theorem heelUndrain_keep (s : State) (hk : Keep L s) :
    Keep L (heelUndrain s) := by
  unfold heelUndrain
  repeat' with_reducible first
    | assumption | apply heelUpd_keep | apply wr_keep | intro _ | split | (simp only [keep_mk]; apply Keep.parts)
    | refine Keep.of_fst (by assumption) ?_

theorem grpBit_keep (s : State) (f : Fld) (q : Nat) (on : Bool) (hk : Keep L s) :
    Keep L (grpBit s f q on) := by
  unfold grpBit
  repeat' with_reducible first
    | assumption | apply wr_keep | intro _ | split | (simp only [keep_mk]; apply Keep.parts)
    | refine Keep.of_fst (by assumption) ?_
    | (extract_lets +onlyGivenNames x
       first
         | (refine (fun (hx : Keep L x) => ?_) ?_
            on_goal 1 => clear_value x
            on_goal 2 => subst x)
         | (refine (fun (hx : Keep L x.1) => ?_) ?_
            on_goal 1 => clear_value x
            on_goal 2 => subst x)
         | clear_value x)

theorem grpReady_keep (s : State) (q : Nat) (hk : Keep L s) :
    Keep L (grpReady s q) := by
  unfold grpReady
  repeat' with_reducible first
    | assumption | apply grpBit_keep | intro _ | split | (simp only [keep_mk]; apply Keep.parts)
    | refine Keep.of_fst (by assumption) ?_

theorem ofmRestore_keep (s : State) (mask : Nat) (hk : Keep L s) :
    Keep L (ofmRestore s mask) := by
  unfold ofmRestore
  repeat' with_reducible first
    | assumption | apply grpBit_keep | apply heelUpd_keep | apply wr_keep | apply forEach_keep | intro _ | split
    | (simp only [keep_mk]; apply Keep.parts) | refine Keep.of_fst (by assumption) ?_
    | (extract_lets +onlyGivenNames x
       first
         | (refine (fun (hx : Keep L x) => ?_) ?_
            on_goal 1 => clear_value x
            on_goal 2 => subst x)
         | (refine (fun (hx : Keep L x.1) => ?_) ?_
            on_goal 1 => clear_value x
            on_goal 2 => subst x)
         | clear_value x)

theorem execOfmRestore_keep (m : Master) (mask : BitVec 4) (s : State) (hk : Keep L s) :
    KeepRes L (execOfmRestore m mask s) := by
  unfold execOfmRestore
  refine KeepRes.next ?_
  repeat' with_reducible first
    | assumption | apply asMaster_keep | apply ofmRestore_keep | intro _ | split | (simp only [keep_mk]; apply Keep.parts)
    | refine Keep.of_fst (by assumption) ?_

theorem execOfmRestoreDone_keep (q : Fin 4) (s : State) (hk : Keep L s) :
    KeepRes L (execOfmRestoreDone q s) := by
  unfold execOfmRestoreDone
  refine KeepRes.next ?_
  repeat' with_reducible first
    | assumption | apply fenceFree_keep | apply grpBit_keep | apply grpReady_keep | apply heelUpd_keep | apply release_keep
    | apply wr_keep | intro _ | split | (simp only [keep_mk]; apply Keep.parts) | refine Keep.of_fst (by assumption) ?_
    | (extract_lets +onlyGivenNames x
       first
         | (refine (fun (hx : Keep L x) => ?_) ?_
            on_goal 1 => clear_value x
            on_goal 2 => subst x)
         | (refine (fun (hx : Keep L x.1) => ?_) ?_
            on_goal 1 => clear_value x
            on_goal 2 => subst x)
         | clear_value x)

end Sys2Proof.Machine
end

