-- ==== Sys2Proof/Laws/KeepLace.lean ====
section
/-! SUPPORT. What the operations of Lace.lean keep. -/

namespace Sys2Proof.Machine

variable {L : List Instr}

theorem lceUpd_keep (s : State) (f : Lace → Lace) (hk : Keep L s) :
    Keep L (lceUpd s f) := by
  unfold lceUpd
  repeat' with_reducible first
    | assumption | intro _ | split | (simp only [keep_mk]; apply Keep.parts) | refine Keep.of_fst (by assumption) ?_

theorem setLock_keep (s : State) (b : Bool) (hk : Keep L s) :
    Keep L (setLock s b) := by
  unfold setLock
  repeat' with_reducible first
    | assumption | apply raise_keep | apply wrb_keep | intro _ | split | (simp only [keep_mk]; apply Keep.parts)
    | refine Keep.of_fst (by assumption) ?_
    | (extract_lets +onlyGivenNames x
       first
         | (refine (fun (hx : Keep L x) => ?_) ?_
            on_goal 1 => clear_value x
            on_goal 2 => subst x)
         | (refine (fun (hx : Keep L x.1) => ?_) ?_
            on_goal 1 => clear_value x
            on_goal 2 => subst x)
         | clear_value x)

theorem encUnlock_keep (s : State) (n : Nat) (hk : Keep L s) :
    Keep L (encUnlock s n) := by
  unfold encUnlock
  repeat' with_reducible first
    | assumption | apply setLock_keep | apply wr_keep | intro _ | split | (simp only [keep_mk]; apply Keep.parts)
    | refine Keep.of_fst (by assumption) ?_
    | (extract_lets +onlyGivenNames x
       first
         | (refine (fun (hx : Keep L x) => ?_) ?_
            on_goal 1 => clear_value x
            on_goal 2 => subst x)
         | (refine (fun (hx : Keep L x.1) => ?_) ?_
            on_goal 1 => clear_value x
            on_goal 2 => subst x)
         | clear_value x)

theorem schedule_keep (s : State) (m t : Nat) (hk : Keep L s) :
    Keep L (schedule s m t) := by
  unfold schedule
  repeat' with_reducible first
    | assumption | apply inc_keep | apply lceUpd_keep | apply raise_keep | intro _ | split
    | (simp only [keep_mk]; apply Keep.parts) | refine Keep.of_fst (by assumption) ?_
    | (extract_lets +onlyGivenNames x
       first
         | (refine (fun (hx : Keep L x) => ?_) ?_
            on_goal 1 => clear_value x
            on_goal 2 => subst x)
         | (refine (fun (hx : Keep L x.1) => ?_) ?_
            on_goal 1 => clear_value x
            on_goal 2 => subst x)
         | clear_value x)

theorem countTriggers_keep (s : State) (n t : Nat) (hk : Keep L s) :
    Keep L (countTriggers s n t) := by
  unfold countTriggers
  repeat' with_reducible first
    | assumption | apply lceUpd_keep | apply schedule_keep | apply forEach_keep | intro _ | split
    | (simp only [keep_mk]; apply Keep.parts) | refine Keep.of_fst (by assumption) ?_
    | (extract_lets +onlyGivenNames x
       first
         | (refine (fun (hx : Keep L x) => ?_) ?_
            on_goal 1 => clear_value x
            on_goal 2 => subst x)
         | (refine (fun (hx : Keep L x.1) => ?_) ?_
            on_goal 1 => clear_value x
            on_goal 2 => subst x)
         | clear_value x)

theorem execTriggerFire_keep (m : Fin 16) (s : State) (hk : Keep L s) :
    KeepRes L (execTriggerFire m s) := by
  unfold execTriggerFire
  refine KeepRes.next ?_
  repeat' with_reducible first
    | assumption | apply emit_keep | apply inc_keep | apply lceUpd_keep | intro _ | split
    | (simp only [keep_mk]; apply Keep.parts) | refine Keep.of_fst (by assumption) ?_
    | (extract_lets +onlyGivenNames x
       first
         | (refine (fun (hx : Keep L x) => ?_) ?_
            on_goal 1 => clear_value x
            on_goal 2 => subst x)
         | (refine (fun (hx : Keep L x.1) => ?_) ?_
            on_goal 1 => clear_value x
            on_goal 2 => subst x)
         | clear_value x)

theorem execTriggerPulseEnd_keep (m : Fin 16) (s : State) (hk : Keep L s) :
    KeepRes L (execTriggerPulseEnd m s) := by
  unfold execTriggerPulseEnd
  refine KeepRes.next ?_
  repeat' with_reducible first
    | assumption | apply emit_keep | apply lceUpd_keep | intro _ | split | (simp only [keep_mk]; apply Keep.parts)
    | refine Keep.of_fst (by assumption) ?_

theorem softFire_keep (s : State) (m : Nat) (hk : Keep L s) :
    Keep L (softFire s m) := by
  unfold softFire
  repeat' with_reducible first
    | assumption | apply schedule_keep | intro _ | split | (simp only [keep_mk]; apply Keep.parts)
    | refine Keep.of_fst (by assumption) ?_

theorem execTriggerFireWrite_keep (by' : Master) (m : Fin 16) (s : State) (hk : Keep L s) :
    KeepRes L (execTriggerFireWrite by' m s) := by
  unfold execTriggerFireWrite
  refine KeepRes.next ?_
  repeat' with_reducible first
    | assumption | apply asMaster_keep | apply softFire_keep | intro _ | split | (simp only [keep_mk]; apply Keep.parts)
    | refine Keep.of_fst (by assumption) ?_

theorem sendRecord_keep (s : State) (r : TickRec) (hk : Keep L s) :
    Keep L (sendRecord s r) := by
  unfold sendRecord
  repeat' with_reducible first
    | assumption | apply tickOut_keep | apply forEach_keep | intro _ | split | (simp only [keep_mk]; apply Keep.parts)
    | refine Keep.of_fst (by assumption) ?_

theorem stampTick_keep (s : State) (t : TickPend) (hk : Keep L s) :
    Keep L (stampTick s t) := by
  unfold stampTick
  repeat' with_reducible first
    | assumption | apply lceUpd_keep | intro _ | split | (simp only [keep_mk]; apply Keep.parts)
    | refine Keep.of_fst (by assumption) ?_

theorem issueTick_keep (s : State) (t pos : Nat) (hk : Keep L s) :
    Keep L (issueTick s t pos) := by
  unfold issueTick
  repeat' with_reducible first
    | assumption | apply inc_keep | apply sendRecord_keep | apply stampTick_keep | intro _ | split
    | (simp only [keep_mk]; apply Keep.parts) | refine Keep.of_fst (by assumption) ?_
    | (extract_lets +onlyGivenNames x
       first
         | (refine (fun (hx : Keep L x) => ?_) ?_
            on_goal 1 => clear_value x
            on_goal 2 => subst x)
         | (refine (fun (hx : Keep L x.1) => ?_) ?_
            on_goal 1 => clear_value x
            on_goal 2 => subst x)
         | clear_value x)

theorem candidate_keep (s : State) (t pos : Nat) (hk : Keep L s) :
    Keep L (candidate s t pos) := by
  unfold candidate
  repeat' with_reducible first
    | assumption | apply issueTick_keep | apply lceUpd_keep | intro _ | split | (simp only [keep_mk]; apply Keep.parts)
    | refine Keep.of_fst (by assumption) ?_

theorem encStep_keep (s : State) (n : Nat) (fwd : Bool) (hk : Keep L s) :
    Keep L (encStep s n fwd) := by
  unfold encStep
  repeat' with_reducible first
    | assumption | apply candidate_keep | apply countTriggers_keep | apply lceUpd_keep | apply wr_keep | apply wrb_keep
    | intro _ | split | (simp only [keep_mk]; apply Keep.parts) | refine Keep.of_fst (by assumption) ?_
    | (extract_lets +onlyGivenNames x
       first
         | (refine (fun (hx : Keep L x) => ?_) ?_
            on_goal 1 => clear_value x
            on_goal 2 => subst x)
         | (refine (fun (hx : Keep L x.1) => ?_) ?_
            on_goal 1 => clear_value x
            on_goal 2 => subst x)
         | clear_value x)

theorem setAB_keep (s : State) (n : Nat) (a b : Bool) (hk : Keep L s) :
    Keep L (setAB s n a b) := by
  unfold setAB
  repeat' with_reducible first
    | assumption | apply lceUpd_keep | intro _ | split | (simp only [keep_mk]; apply Keep.parts)
    | refine Keep.of_fst (by assumption) ?_

theorem execEncoderCount_keep (n : Fin 4) (a b : Bool) (s : State) (hk : Keep L s) :
    KeepRes L (execEncoderCount n a b s) := by
  unfold execEncoderCount
  refine KeepRes.next ?_
  repeat' with_reducible first
    | assumption | apply encStep_keep | apply encUnlock_keep | apply inc_keep | apply raise_keep | apply setAB_keep | intro _
    | split | (simp only [keep_mk]; apply Keep.parts) | refine Keep.of_fst (by assumption) ?_
    | (extract_lets +onlyGivenNames x
       first
         | (refine (fun (hx : Keep L x) => ?_) ?_
            on_goal 1 => clear_value x
            on_goal 2 => subst x)
         | (refine (fun (hx : Keep L x.1) => ?_) ?_
            on_goal 1 => clear_value x
            on_goal 2 => subst x)
         | clear_value x)

theorem execEncoderPairClassChange_keep (n : Fin 4) (pair : Fin 3) (cls : Fin 4) (s : State) (hk : Keep L s) :
    KeepRes L (execEncoderPairClassChange n pair cls s) := by
  unfold execEncoderPairClassChange
  refine KeepRes.next ?_
  repeat' with_reducible first
    | assumption | apply encUnlock_keep | apply raise_keep | apply wr_keep | intro _ | split
    | (simp only [keep_mk]; apply Keep.parts) | refine Keep.of_fst (by assumption) ?_
    | (extract_lets +onlyGivenNames x
       first
         | (refine (fun (hx : Keep L x) => ?_) ?_
            on_goal 1 => clear_value x
            on_goal 2 => subst x)
         | (refine (fun (hx : Keep L x.1) => ?_) ?_
            on_goal 1 => clear_value x
            on_goal 2 => subst x)
         | clear_value x)

theorem execEncLockChange_keep (n : Fin 4) (held : Bool) (s : State) (hk : Keep L s) :
    KeepRes L (execEncLockChange n held s) := by
  unfold execEncLockChange
  refine KeepRes.next ?_
  repeat' with_reducible first
    | assumption | apply encUnlock_keep | apply setLock_keep | apply wr_keep | intro _ | split
    | (simp only [keep_mk]; apply Keep.parts) | refine Keep.of_fst (by assumption) ?_
    | (extract_lets +onlyGivenNames x
       first
         | (refine (fun (hx : Keep L x) => ?_) ?_
            on_goal 1 => clear_value x
            on_goal 2 => subst x)
         | (refine (fun (hx : Keep L x.1) => ?_) ?_
            on_goal 1 => clear_value x
            on_goal 2 => subst x)
         | clear_value x)

theorem zMode_keep (s : State) (n : Nat) (hk : Keep L s) :
    Keep L (zMode s n) := by
  unfold zMode
  repeat' with_reducible first
    | assumption | apply wr_keep | intro _ | split | (simp only [keep_mk]; apply Keep.parts)
    | refine Keep.of_fst (by assumption) ?_
    | (extract_lets +onlyGivenNames x
       first
         | (refine (fun (hx : Keep L x) => ?_) ?_
            on_goal 1 => clear_value x
            on_goal 2 => subst x)
         | (refine (fun (hx : Keep L x.1) => ?_) ?_
            on_goal 1 => clear_value x
            on_goal 2 => subst x)
         | clear_value x)

theorem execZEdge_keep (n : Fin 4) (s : State) (hk : Keep L s) :
    KeepRes L (execZEdge n s) := by
  unfold execZEdge
  refine KeepRes.next ?_
  repeat' with_reducible first
    | assumption | apply candidate_keep | apply wr_keep | apply zMode_keep | intro _ | split
    | (simp only [keep_mk]; apply Keep.parts) | refine Keep.of_fst (by assumption) ?_
    | (extract_lets +onlyGivenNames x
       first
         | (refine (fun (hx : Keep L x) => ?_) ?_
            on_goal 1 => clear_value x
            on_goal 2 => subst x)
         | (refine (fun (hx : Keep L x.1) => ?_) ?_
            on_goal 1 => clear_value x
            on_goal 2 => subst x)
         | clear_value x)

theorem encPosSet_keep (s : State) (n v : Nat) (hk : Keep L s) :
    Keep L (encPosSet s n v) := by
  unfold encPosSet
  repeat' with_reducible first
    | assumption | apply wr_keep | intro _ | split | (simp only [keep_mk]; apply Keep.parts)
    | refine Keep.of_fst (by assumption) ?_

theorem execEncPosWrite_keep (m : Master) (n : Fin 4) (v : BitVec 32) (s : State) (hk : Keep L s) :
    KeepRes L (execEncPosWrite m n v s) := by
  unfold execEncPosWrite
  refine KeepRes.next ?_
  repeat' with_reducible first
    | assumption | apply asMaster_keep | apply encPosSet_keep | intro _ | split | (simp only [keep_mk]; apply Keep.parts)
    | refine Keep.of_fst (by assumption) ?_

theorem trigReset_keep (s : State) (hk : Keep L s) :
    Keep L (trigReset s) := by
  unfold trigReset
  repeat' with_reducible first
    | assumption | apply emit_keep | apply lceUpd_keep | apply forEach_keep | intro _ | split
    | (simp only [keep_mk]; apply Keep.parts) | refine Keep.of_fst (by assumption) ?_

theorem laceStop_keep (s : State) (hk : Keep L s) :
    Keep L (laceStop s) := by
  unfold laceStop
  repeat' with_reducible first
    | assumption | apply emit_keep | apply lceUpd_keep | apply wr_keep | apply forEach_keep | intro _ | split
    | (simp only [keep_mk]; apply Keep.parts) | refine Keep.of_fst (by assumption) ?_
    | (extract_lets +onlyGivenNames x
       first
         | (refine (fun (hx : Keep L x) => ?_) ?_
            on_goal 1 => clear_value x
            on_goal 2 => subst x)
         | (refine (fun (hx : Keep L x.1) => ?_) ?_
            on_goal 1 => clear_value x
            on_goal 2 => subst x)
         | clear_value x)

theorem execLaceTinEdge_keep (s : State) (hk : Keep L s) :
    KeepRes L (execLaceTinEdge s) := by
  unfold execLaceTinEdge
  refine KeepRes.next ?_
  repeat' with_reducible first
    | assumption | apply candidate_keep | apply lceUpd_keep | apply setLock_keep | intro _ | split
    | (simp only [keep_mk]; apply Keep.parts) | refine Keep.of_fst (by assumption) ?_
    | (extract_lets +onlyGivenNames x
       first
         | (refine (fun (hx : Keep L x) => ?_) ?_
            on_goal 1 => clear_value x
            on_goal 2 => subst x)
         | (refine (fun (hx : Keep L x.1) => ?_) ?_
            on_goal 1 => clear_value x
            on_goal 2 => subst x)
         | clear_value x)

theorem execTimerSourceExpiry_keep (s : State) (hk : Keep L s) :
    KeepRes L (execTimerSourceExpiry s) := by
  unfold execTimerSourceExpiry
  refine KeepRes.next ?_
  repeat' with_reducible first
    | assumption | apply candidate_keep | intro _ | split | (simp only [keep_mk]; apply Keep.parts)
    | refine Keep.of_fst (by assumption) ?_

theorem execTimerSourceLock_keep (s : State) (hk : Keep L s) :
    KeepRes L (execTimerSourceLock s) := by
  unfold execTimerSourceLock
  refine KeepRes.next ?_
  repeat' with_reducible first
    | assumption | apply setLock_keep | intro _ | split | (simp only [keep_mk]; apply Keep.parts)
    | refine Keep.of_fst (by assumption) ?_

theorem execTickLate_keep (s : State) (hk : Keep L s) :
    KeepRes L (execTickLate s) := by
  unfold execTickLate
  refine KeepRes.next ?_
  repeat' with_reducible first
    | assumption | apply inc_keep | apply raise_keep | apply setLock_keep | apply wr_keep | intro _ | split
    | (simp only [keep_mk]; apply Keep.parts) | refine Keep.of_fst (by assumption) ?_
    | (extract_lets +onlyGivenNames x
       first
         | (refine (fun (hx : Keep L x) => ?_) ?_
            on_goal 1 => clear_value x
            on_goal 2 => subst x)
         | (refine (fun (hx : Keep L x.1) => ?_) ?_
            on_goal 1 => clear_value x
            on_goal 2 => subst x)
         | clear_value x)

theorem timeOfsSet_keep (s : State) (v : Nat) (hk : Keep L s) :
    Keep L (timeOfsSet s v) := by
  unfold timeOfsSet
  repeat' with_reducible first
    | assumption | apply wr_keep | intro _ | split | (simp only [keep_mk]; apply Keep.parts)
    | refine Keep.of_fst (by assumption) ?_

theorem execTimeOffsetWrite_keep (m : Master) (v : BitVec 64) (s : State) (hk : Keep L s) :
    KeepRes L (execTimeOffsetWrite m v s) := by
  unfold execTimeOffsetWrite
  refine KeepRes.next ?_
  repeat' with_reducible first
    | assumption | apply asMaster_keep | apply timeOfsSet_keep | intro _ | split | (simp only [keep_mk]; apply Keep.parts)
    | refine Keep.of_fst (by assumption) ?_

theorem presetSet_keep (s : State) (v : Nat) (hk : Keep L s) :
    Keep L (presetSet s v) := by
  unfold presetSet
  repeat' with_reducible first
    | assumption | apply lceUpd_keep | apply wr_keep | intro _ | split | (simp only [keep_mk]; apply Keep.parts)
    | refine Keep.of_fst (by assumption) ?_

theorem execTickPresetWrite_keep (m : Master) (v : BitVec 48) (s : State) (hk : Keep L s) :
    KeepRes L (execTickPresetWrite m v s) := by
  unfold execTickPresetWrite
  refine KeepRes.next ?_
  repeat' with_reducible first
    | assumption | apply asMaster_keep | apply presetSet_keep | intro _ | split | (simp only [keep_mk]; apply Keep.parts)
    | refine Keep.of_fst (by assumption) ?_

theorem tickSourceSet_keep (s : State) (v : Nat) (hk : Keep L s) :
    Keep L (tickSourceSet s v) := by
  unfold tickSourceSet
  repeat' with_reducible first
    | assumption | apply lceUpd_keep | apply wr_keep | apply wrb_keep | intro _ | split
    | (simp only [keep_mk]; apply Keep.parts) | refine Keep.of_fst (by assumption) ?_
    | (extract_lets +onlyGivenNames x
       first
         | (refine (fun (hx : Keep L x) => ?_) ?_
            on_goal 1 => clear_value x
            on_goal 2 => subst x)
         | (refine (fun (hx : Keep L x.1) => ?_) ?_
            on_goal 1 => clear_value x
            on_goal 2 => subst x)
         | clear_value x)

theorem execTickSourceWrite_keep (m : Master) (v : BitVec 32) (s : State) (hk : Keep L s) :
    KeepRes L (execTickSourceWrite m v s) := by
  unfold execTickSourceWrite
  refine KeepRes.next ?_
  repeat' with_reducible first
    | assumption | apply asMaster_keep | apply tickSourceSet_keep | intro _ | split | (simp only [keep_mk]; apply Keep.parts)
    | refine Keep.of_fst (by assumption) ?_

theorem correct_keep (s : State) (e : Int) (hk : Keep L s) :
    Keep L (correct s e) := by
  unfold correct
  repeat' with_reducible first
    | assumption | apply lceUpd_keep | apply wr_keep | intro _ | split | (simp only [keep_mk]; apply Keep.parts)
    | refine Keep.of_fst (by assumption) ?_

theorem alignLost_keep (s : State) (hk : Keep L s) :
    Keep L (alignLost s) := by
  unfold alignLost
  repeat' with_reducible first
    | assumption | apply lceUpd_keep | apply raise_keep | apply setLock_keep | apply wr_keep | intro _ | split
    | (simp only [keep_mk]; apply Keep.parts) | refine Keep.of_fst (by assumption) ?_
    | (extract_lets +onlyGivenNames x
       first
         | (refine (fun (hx : Keep L x) => ?_) ?_
            on_goal 1 => clear_value x
            on_goal 2 => subst x)
         | (refine (fun (hx : Keep L x.1) => ?_) ?_
            on_goal 1 => clear_value x
            on_goal 2 => subst x)
         | clear_value x)

theorem alignCheck_keep (s : State) (hk : Keep L s) :
    Keep L (alignCheck s) := by
  unfold alignCheck
  repeat' with_reducible first
    | assumption | apply setLock_keep | apply wr_keep | intro _ | split | (simp only [keep_mk]; apply Keep.parts)
    | refine Keep.of_fst (by assumption) ?_
    | (extract_lets +onlyGivenNames x
       first
         | (refine (fun (hx : Keep L x) => ?_) ?_
            on_goal 1 => clear_value x
            on_goal 2 => subst x)
         | (refine (fun (hx : Keep L x.1) => ?_) ?_
            on_goal 1 => clear_value x
            on_goal 2 => subst x)
         | clear_value x)

theorem followErr_keep (s : State) (rec : Bool) (hk : Keep L s) :
    Keep L (followErr s rec) := by
  unfold followErr
  repeat' with_reducible first
    | assumption | apply alignCheck_keep | apply alignLost_keep | apply correct_keep | apply lceUpd_keep | intro _ | split
    | (simp only [keep_mk]; apply Keep.parts) | refine Keep.of_fst (by assumption) ?_
    | (extract_lets +onlyGivenNames x
       first
         | (refine (fun (hx : Keep L x) => ?_) ?_
            on_goal 1 => clear_value x
            on_goal 2 => subst x)
         | (refine (fun (hx : Keep L x.1) => ?_) ?_
            on_goal 1 => clear_value x
            on_goal 2 => subst x)
         | clear_value x)

theorem delayRefresh_keep (s : State) (p : Nat) (hk : Keep L s) :
    Keep L (delayRefresh s p) := by
  unfold delayRefresh
  repeat' with_reducible first
    | assumption | apply followErr_keep | intro _ | split | (simp only [keep_mk]; apply Keep.parts)
    | refine Keep.of_fst (by assumption) ?_

theorem takeRecord_keep (s : State) (p : Nat) (r : TickRec) (hk : Keep L s) : Keep L (takeRecord s p r) := by
  unfold takeRecord
  extract_lets +onlyGivenNames s1 s2 s3 s4 start late s5 s6 t s7
  have h4 : Keep L s4 := followErr_keep _ _ (lceUpd_keep _ _ (wrb_keep _ _ _ (wr_keep _ _ _ (wr_keep _ _ _ hk))))
  clear_value s4
  have h5 : Keep L s5 := by
    subst s5
    split
    · exact raise_keep _ _ _ (inc_keep _ _ _ h4)
    · exact h4
  have h6 : Keep L s6 := by
    subst s6
    split
    · exact inc_keep _ _ _ h5
    · exact h5
  have h7 : Keep L s7 := stampTick_keep _ _ h6
  split
  · exact h7
  · exact sendRecord_keep _ _ h7

theorem recordIn_keep (s : State) (p : Nat) (r : TickRec) (hk : Keep L s) :
    Keep L (recordIn s p r) := by
  unfold recordIn
  repeat' with_reducible first
    | assumption | apply inc_keep | apply lceUpd_keep | apply raise_keep | apply raiseIf_keep | apply takeRecord_keep
    | intro _ | split | (simp only [keep_mk]; apply Keep.parts) | refine Keep.of_fst (by assumption) ?_
    | (extract_lets +onlyGivenNames x
       first
         | (refine (fun (hx : Keep L x) => ?_) ?_
            on_goal 1 => clear_value x
            on_goal 2 => subst x)
         | (refine (fun (hx : Keep L x.1) => ?_) ?_
            on_goal 1 => clear_value x
            on_goal 2 => subst x)
         | clear_value x)

theorem execTickRecordReceive_keep (p : Fin 64) (r : TickRec) (s : State) (hk : Keep L s) :
    KeepRes L (execTickRecordReceive p r s) := by
  unfold execTickRecordReceive
  refine KeepRes.next ?_
  repeat' with_reducible first
    | assumption | apply recordIn_keep | apply slotIn_keep | intro _ | split | (simp only [keep_mk]; apply Keep.parts)
    | refine Keep.of_fst (by assumption) ?_

theorem execAlignmentLost_keep (_cause : Fin 3) (s : State) (hk : Keep L s) :
    KeepRes L (execAlignmentLost _cause s) := by
  unfold execAlignmentLost
  refine KeepRes.next ?_
  repeat' with_reducible first
    | assumption | apply alignLost_keep | intro _ | split | (simp only [keep_mk]; apply Keep.parts)
    | refine Keep.of_fst (by assumption) ?_

theorem slewStep_keep (s : State) (hk : Keep L s) :
    Keep L (slewStep s) := by
  unfold slewStep
  repeat' with_reducible first
    | assumption | apply lceUpd_keep | intro _ | split | (simp only [keep_mk]; apply Keep.parts)
    | refine Keep.of_fst (by assumption) ?_

end Sys2Proof.Machine
end

