-- ==== Sys2Proof/Laws/KeepPcie.lean ====
section
/-! SUPPORT. What the operations of Pcie.lean keep. -/

namespace Sys2Proof.Machine

variable {L : List Instr}

theorem doeSet_keep (s : State) (f : Nat) (d : Doe) (hk : Keep L s) :
    Keep L (doeSet s f d) := by
  unfold doeSet
  repeat' with_reducible first
    | assumption | apply prtUpd_keep | intro _ | split | (simp only [keep_mk]; apply Keep.parts)
    | refine Keep.of_fst (by assumption) ?_

theorem spdmSay_keep (s : State) (via : SpdmVia) (what : String) (d : Bytes) (hk : Keep L s) :
    Keep L (spdmSay s via what d) := by
  unfold spdmSay
  repeat' with_reducible first
    | assumption | apply doeSet_keep | apply emit_keep | intro _ | split | (simp only [keep_mk]; apply Keep.parts)
    | refine Keep.of_fst (by assumption) ?_
    | (extract_lets +onlyGivenNames x
       first
         | (refine (fun (hx : Keep L x) => ?_) ?_
            on_goal 1 => clear_value x
            on_goal 2 => subst x)
         | (refine (fun (hx : Keep L x.1) => ?_) ?_
            on_goal 1 => clear_value x
            on_goal 2 => subst x)
         | clear_value x)

theorem doeGo_keep (s : State) (f : Nat) (hk : Keep L s) :
    Keep L (doeGo s f) := by
  unfold doeGo
  repeat' with_reducible first
    | assumption | apply doeSet_keep | apply wr_keep | intro _ | split | (simp only [keep_mk]; apply Keep.parts)
    | refine Keep.of_fst (by assumption) ?_
    | (extract_lets +onlyGivenNames x
       first
         | (refine (fun (hx : Keep L x) => ?_) ?_
            on_goal 1 => clear_value x
            on_goal 2 => subst x)
         | (refine (fun (hx : Keep L x.1) => ?_) ?_
            on_goal 1 => clear_value x
            on_goal 2 => subst x)
         | clear_value x)

theorem doeWrite_keep (s : State) (f dw v : Nat) (hk : Keep L s) :
    Keep L (doeWrite s f dw v) := by
  unfold doeWrite
  repeat' with_reducible first
    | assumption | apply doeGo_keep | apply doeSet_keep | apply wr_keep | intro _ | split
    | (simp only [keep_mk]; apply Keep.parts) | refine Keep.of_fst (by assumption) ?_
    | (extract_lets +onlyGivenNames x
       first
         | (refine (fun (hx : Keep L x) => ?_) ?_
            on_goal 1 => clear_value x
            on_goal 2 => subst x)
         | (refine (fun (hx : Keep L x.1) => ?_) ?_
            on_goal 1 => clear_value x
            on_goal 2 => subst x)
         | clear_value x)

theorem funcReset_keep (s : State) (n : Nat) (hk : Keep L s) :
    Keep L (funcReset s n) := by
  unfold funcReset
  repeat' with_reducible first
    | assumption | apply cfgReset_keep | apply membersOfSlices_keep | apply msixReset_keep | apply slicesStop_keep
    | apply wr_keep | intro _ | split | (simp only [keep_mk]; apply Keep.parts) | refine Keep.of_fst (by assumption) ?_
    | (extract_lets +onlyGivenNames x
       first
         | (refine (fun (hx : Keep L x) => ?_) ?_
            on_goal 1 => clear_value x
            on_goal 2 => subst x)
         | (refine (fun (hx : Keep L x.1) => ?_) ?_
            on_goal 1 => clear_value x
            on_goal 2 => subst x)
         | clear_value x)

theorem execFlr_keep (pt : Fin 16) (s : State) (hk : Keep L s) :
    KeepRes L (execFlr pt s) := by
  unfold execFlr
  refine KeepRes.next ?_
  repeat' with_reducible first
    | assumption | apply funcReset_keep | intro _ | split | (simp only [keep_mk]; apply Keep.parts)
    | refine Keep.of_fst (by assumption) ?_

theorem cfgAct_keep (s : State) (f dw old v : Nat) (hk : Keep L s) :
    Keep L (cfgAct s f dw old v) := by
  unfold cfgAct
  repeat' with_reducible first
    | assumption | apply bridgeIrq_keep | apply doeWrite_keep | apply dpcClear_keep | apply dpcGo_keep | apply funcReset_keep
    | apply msixRelease_keep | apply pumpAll_keep | apply sbr_keep | apply slotPower_keep | apply wr_keep
    | apply forEach_keep | intro _ | split | (simp only [keep_mk]; apply Keep.parts) | refine Keep.of_fst (by assumption) ?_
    | (extract_lets +onlyGivenNames x
       first
         | (refine (fun (hx : Keep L x) => ?_) ?_
            on_goal 1 => clear_value x
            on_goal 2 => subst x)
         | (refine (fun (hx : Keep L x.1) => ?_) ?_
            on_goal 1 => clear_value x
            on_goal 2 => subst x)
         | clear_value x)

theorem cfgWrite_keep (s : State) (f dw v : Nat) (hk : Keep L s) :
    Keep L (cfgWrite s f dw v) := by
  unfold cfgWrite
  repeat' with_reducible first
    | assumption | apply cfgAct_keep | apply cfgPut_keep | intro _ | split | (simp only [keep_mk]; apply Keep.parts)
    | refine Keep.of_fst (by assumption) ?_
    | (extract_lets +onlyGivenNames x
       first
         | (refine (fun (hx : Keep L x) => ?_) ?_
            on_goal 1 => clear_value x
            on_goal 2 => subst x)
         | (refine (fun (hx : Keep L x.1) => ?_) ?_
            on_goal 1 => clear_value x
            on_goal 2 => subst x)
         | clear_value x)

theorem cfgAnswer_keep (s : State) (p : Nat) (n : Nat) (pk : Packet) (st : CplStatus) (v : Option Nat) (hk : Keep L s) :
    Keep L (cfgAnswer s p n pk st v) := by
  unfold cfgAnswer
  repeat' with_reducible first
    | assumption | apply aerLog_keep | apply formed_keep | intro _ | split | (simp only [keep_mk]; apply Keep.parts)
    | refine Keep.of_fst (by assumption) ?_
    | (extract_lets +onlyGivenNames x
       first
         | (refine (fun (hx : Keep L x) => ?_) ?_
            on_goal 1 => clear_value x
            on_goal 2 => subst x)
         | (refine (fun (hx : Keep L x.1) => ?_) ?_
            on_goal 1 => clear_value x
            on_goal 2 => subst x)
         | clear_value x)

theorem cfgOwn_keep (s : State) (p n f bus dw : Nat) (w : Option Nat) (pk : Packet) (hk : Keep L s) :
    Keep L (cfgOwn s p n f bus dw w pk) := by
  unfold cfgOwn
  repeat' with_reducible first
    | assumption | apply cfgAnswer_keep | apply cfgWrite_keep | intro _ | split | (simp only [keep_mk]; apply Keep.parts)
    | refine Keep.of_fst (by assumption) ?_
    | (extract_lets +onlyGivenNames x
       first
         | (refine (fun (hx : Keep L x) => ?_) ?_
            on_goal 1 => clear_value x
            on_goal 2 => subst x)
         | (refine (fun (hx : Keep L x.1) => ?_) ?_
            on_goal 1 => clear_value x
            on_goal 2 => subst x)
         | clear_value x)

theorem cfgVf_keep (s : State) (p n i reg : Nat) (w : Option Nat) (pk : Packet) (hk : Keep L s) :
    Keep L (cfgVf s p n i reg w pk) := by
  unfold cfgVf
  repeat' with_reducible first
    | assumption | apply cfgAnswer_keep | apply fabUpd_keep | apply proxyTo_keep | intro _ | split
    | (simp only [keep_mk]; apply Keep.parts) | refine Keep.of_fst (by assumption) ?_
    | (extract_lets +onlyGivenNames x
       first
         | (refine (fun (hx : Keep L x) => ?_) ?_
            on_goal 1 => clear_value x
            on_goal 2 => subst x)
         | (refine (fun (hx : Keep L x.1) => ?_) ?_
            on_goal 1 => clear_value x
            on_goal 2 => subst x)
         | clear_value x)

theorem cfgRoute_keep (s : State) (p n : Nat) (type1 : Bool) (bus dev fn reg : Nat) (w : Option Nat) (pk : Packet) (hk : Keep L s) :
    Keep L (cfgRoute s p n type1 bus dev fn reg w pk) := by
  unfold cfgRoute
  repeat' with_reducible first
    | assumption | apply cfgAnswer_keep | apply cfgOwn_keep | apply cfgVf_keep | apply storeTo_keep | intro _ | split
    | (simp only [keep_mk]; apply Keep.parts) | refine Keep.of_fst (by assumption) ?_
    | (extract_lets +onlyGivenNames x
       first
         | (refine (fun (hx : Keep L x) => ?_) ?_
            on_goal 1 => clear_value x
            on_goal 2 => subst x)
         | (refine (fun (hx : Keep L x.1) => ?_) ?_
            on_goal 1 => clear_value x
            on_goal 2 => subst x)
         | clear_value x)

theorem execConfigRequest_keep (p : Fin 64) (type1 : Bool) (bus : BitVec 8) (dev : BitVec 5) (fn : BitVec 3) (reg : BitVec 10) (w : Option (BitVec 32)) (rid : BitVec 16) (tag : BitVec 14) (s : State) (hk : Keep L s) :
    KeepRes L (execConfigRequest p type1 bus dev fn reg w rid tag s) := by
  unfold execConfigRequest
  refine KeepRes.next ?_
  repeat' with_reducible first
    | assumption | apply cfgRoute_keep | intro _ | split | (simp only [keep_mk]; apply Keep.parts)
    | refine Keep.of_fst (by assumption) ?_

theorem l1Rest_keep (s : State) (hk : Keep L s) :
    Keep L (l1Rest s) := by
  unfold l1Rest
  repeat' with_reducible first
    | assumption | apply prtUpd_keep | intro _ | split | (simp only [keep_mk]; apply Keep.parts)
    | refine Keep.of_fst (by assumption) ?_

theorem execPtmRequestTimer_keep (p : Fin 64) (s : State) (hk : Keep L s) :
    KeepRes L (execPtmRequestTimer p s) := by
  unfold execPtmRequestTimer
  refine KeepRes.next ?_
  repeat' with_reducible first
    | assumption | apply emit_keep | apply request_keep | intro _ | split | (simp only [keep_mk]; apply Keep.parts)
    | refine Keep.of_fst (by assumption) ?_

theorem execPtmExchange_keep (p : Fin 64) (host : BitVec 64) (s : State) (hk : Keep L s) :
    KeepRes L (execPtmExchange p host s) := by
  unfold execPtmExchange
  refine KeepRes.next ?_
  repeat' with_reducible first
    | assumption | apply prtUpd_keep | apply wr_keep | intro _ | split | (simp only [keep_mk]; apply Keep.parts)
    | refine Keep.of_fst (by assumption) ?_

theorem execIdeKeyProg_keep (o : IdeOwner) (tx : Bool) (km : IdeKm) (s : State) (hk : Keep L s) :
    KeepRes L (execIdeKeyProg o tx km s) := by
  unfold execIdeKeyProg
  refine KeepRes.next ?_
  extract_lets +onlyGivenNames k cur hold key
  have hh : ∀ t m, Keep L t → Keep L (hold t m) := fun t m ht => prtUpd_keep _ _ ht
  have hy : ∀ m, Keep L (key m) := by
    intro m
    subst key
    dsimp only
    split
    · exact spdmSay_keep _ _ _ _ hk
    · have h2 := wr_keep TST_SEC_STATUS_CLEARED_OK 0 0 (hh s m hk)
      exact spdmSay_keep _ _ _ _ ⟨h2.regs, h2.ret, h2.stg, h2.cert, h2.img, h2.pend⟩
  split
  · exact hy _
  · exact hy _
  · exact spdmSay_keep _ _ _ _ (hh _ _ hk)
  · exact spdmSay_keep _ _ _ _ (hh _ _ hk)

end Sys2Proof.Machine
end

