-- ==== Sys2Proof/Laws/KeepModes.lean ====
section
/-! SUPPORT. What the operations of Modes.lean keep. -/

namespace Sys2Proof.Machine

variable {L : List Instr}

theorem bistResult_keep (s : State) (t : Bist) (v : Nat) (hk : Keep L s) :
    Keep L (bistResult s t v) := by
  unfold bistResult
  repeat' with_reducible first
    | assumption | apply wr_keep | intro _ | split | (simp only [keep_mk]; apply Keep.parts)
    | refine Keep.of_fst (by assumption) ?_

theorem bistAbort_keep (s : State) (c : Nat) (hk : Keep L s) : Keep L (bistAbort s c) := by
  unfold bistAbort
  split
  · exact hk
  · extract_lets +onlyGivenNames t
    have ht : Keep L t := by
      subst t
      exact wr_keep _ _ _ (forEach_keep _ _ hk (fun t e ht => bistResult_keep _ _ _ ht))
    have h1 := wr_keep TST_BIST_STATUS_RUNNING 0 0 ht
    exact ⟨h1.regs, h1.ret, h1.stg, h1.cert, h1.img, h1.pend⟩

theorem transGo_keep (s : State) (t : Trans) (hk : Keep L s) :
    Keep L (transGo s t) := by
  unfold transGo
  repeat' with_reducible first
    | assumption | apply noticeSend_keep | apply wr_keep | intro _ | split | (simp only [keep_mk]; apply Keep.parts)
    | refine Keep.of_fst (by assumption) ?_
    | (extract_lets +onlyGivenNames x
       first
         | (refine (fun (hx : Keep L x) => ?_) ?_
            on_goal 1 => clear_value x
            on_goal 2 => subst x)
         | (refine (fun (hx : Keep L x.1) => ?_) ?_
            on_goal 1 => clear_value x
            on_goal 2 => subst x)
         | clear_value x)

theorem requestEnd_keep (s : State) (t : Trans) (st : Nat) (hk : Keep L s) :
    Keep L (requestEnd s t st) := by
  unfold requestEnd
  repeat' with_reducible first
    | assumption | apply wr_keep | intro _ | split | (simp only [keep_mk]; apply Keep.parts)
    | refine Keep.of_fst (by assumption) ?_

theorem causeWait_keep (s : State) (c : Cause) (hk : Keep L s) :
    Keep L (causeWait s c) := by
  unfold causeWait
  repeat' with_reducible first
    | assumption | intro _ | split | (simp only [keep_mk]; apply Keep.parts) | refine Keep.of_fst (by assumption) ?_
    | (extract_lets +onlyGivenNames x
       first
         | (refine (fun (hx : Keep L x) => ?_) ?_
            on_goal 1 => clear_value x
            on_goal 2 => subst x)
         | (refine (fun (hx : Keep L x.1) => ?_) ?_
            on_goal 1 => clear_value x
            on_goal 2 => subst x)
         | clear_value x)

theorem causeGo_keep (s : State) (c : Cause) (hk : Keep L s) :
    Keep L (causeGo s c) := by
  unfold causeGo
  repeat' with_reducible first
    | assumption | apply transGo_keep | intro _ | split | (simp only [keep_mk]; apply Keep.parts)
    | refine Keep.of_fst (by assumption) ?_

theorem causeMeets_keep (s : State) (c : Cause) (hk : Keep L s) :
    Keep L (causeMeets s c) := by
  unfold causeMeets
  repeat' with_reducible first
    | assumption | apply causeGo_keep | apply causeWait_keep | apply requestEnd_keep | intro _ | split
    | (simp only [keep_mk]; apply Keep.parts) | refine Keep.of_fst (by assumption) ?_

theorem modeGo_keep (s : State) (hk : Keep L s) :
    Keep L (modeGo s) := by
  unfold modeGo
  repeat' with_reducible first
    | assumption | apply noticeSend_keep | apply causeMeets_keep | apply requestEnd_keep | apply transGo_keep | apply wr_keep | intro _ | split
    | (simp only [keep_mk]; apply Keep.parts) | refine Keep.of_fst (by assumption) ?_
    | (extract_lets +onlyGivenNames x
       first
         | (refine (fun (hx : Keep L x) => ?_) ?_
            on_goal 1 => clear_value x
            on_goal 2 => subst x)
         | (refine (fun (hx : Keep L x.1) => ?_) ?_
            on_goal 1 => clear_value x
            on_goal 2 => subst x)
         | clear_value x)

theorem execModeRequestGo_keep (m : Master) (target : BitVec 4) (s : State) (hk : Keep L s) :
    KeepRes L (execModeRequestGo m target s) := by
  unfold execModeRequestGo
  refine KeepRes.next ?_
  repeat' with_reducible first
    | assumption | apply asMaster_keep | apply modeGo_keep | apply wr_keep | intro _ | split
    | (simp only [keep_mk]; apply Keep.parts) | refine Keep.of_fst (by assumption) ?_

theorem modeAuto_keep (s : State) (to' cause src : Nat) (hk : Keep L s) :
    Keep L (modeAuto s to' cause src) := by
  unfold modeAuto
  repeat' with_reducible first
    | assumption | apply causeMeets_keep | intro _ | split | (simp only [keep_mk]; apply Keep.parts)
    | refine Keep.of_fst (by assumption) ?_

theorem fenceMode_keep (s : State) (hk : Keep L s) :
    Keep L (fenceMode s) := by
  unfold fenceMode
  repeat' with_reducible first
    | assumption | apply modeAuto_keep | apply requestEnd_keep | apply wr_keep | intro _ | split
    | (simp only [keep_mk]; apply Keep.parts) | refine Keep.of_fst (by assumption) ?_
    | (extract_lets +onlyGivenNames x
       first
         | (refine (fun (hx : Keep L x) => ?_) ?_
            on_goal 1 => clear_value x
            on_goal 2 => subst x)
         | (refine (fun (hx : Keep L x.1) => ?_) ?_
            on_goal 1 => clear_value x
            on_goal 2 => subst x)
         | clear_value x)

theorem gatesArrive_keep (s : State) (were : List Nat) (hk : Keep L s) :
    Keep L (gatesArrive s were) := by
  unfold gatesArrive
  repeat' with_reducible first
    | assumption | apply wr_keep | apply forEach_keep | intro _ | split | (simp only [keep_mk]; apply Keep.parts)
    | refine Keep.of_fst (by assumption) ?_
    | (extract_lets +onlyGivenNames x
       first
         | (refine (fun (hx : Keep L x) => ?_) ?_
            on_goal 1 => clear_value x
            on_goal 2 => subst x)
         | (refine (fun (hx : Keep L x.1) => ?_) ?_
            on_goal 1 => clear_value x
            on_goal 2 => subst x)
         | clear_value x)

theorem modeEffects_keep (s : State) (were : List Nat) (m t : Nat) (hk : Keep L s) : Keep L (modeEffects s were m t) := by
  unfold modeEffects
  extract_lets run lay s1 s2 s3 s4 s5 hl s6 s7 s8 s9 s10
  have h1 : Keep L s1 := by
    subst s1
    split
    · exact hk.upd rfl rfl rfl rfl rfl rfl
    · exact hk
  clear_value s1
  have h2 : Keep L s2 := by
    subst s2
    split
    · exact portsIdle_keep _ h1
    · exact holdPorts_keep _ h1
  clear_value s2
  have h3 : Keep L s3 := by
    subst s3
    split
    · exact discardAll_keep _ h2
    · exact h2
  clear_value s3
  have h4 : Keep L s4 := gatesArrive_keep _ _ h3
  clear_value s4
  have h5 : Keep L s5 := by
    subst s5
    split
    · exact h4
    · exact laceStop_keep _ h4
  clear_value s5
  have h6 : Keep L s6 := by
    subst s6
    split
    · exact h5.upd rfl rfl rfl rfl rfl rfl
    · exact h5
  clear_value s6
  have h7 : Keep L s7 := by
    subst s7
    split
    · exact raise_keep _ _ _ (wr_keep _ _ _ h6)
    · exact h6
  clear_value s7
  have h8 : Keep L s8 := by
    subst s8
    split
    · exact overBudget_keep _ (heelDrain_keep _ (jobsCut_keep _ h7))
    · exact h7
  clear_value s8
  have h9 : Keep L s9 := by
    subst s9
    split
    · exact heelUndrain_keep _ h8
    · exact h8
  clear_value s9
  have h10 : Keep L s10 := by
    subst s10
    split
    · exact creditsBack_keep _ (clustersStart_keep _ h9)
    · exact h9
  clear_value s10
  split
  · exact pumpAll_keep _ (forEach_keep _ _ h10 (fun t e ht => rehold_keep _ _ ht))
  · exact h10

theorem modeSet_keep (s : State) (m t cause : Nat) (locked : Bool) (hk : Keep L s) : Keep L (modeSet s m t cause locked) := by
  unfold modeSet
  extract_lets +onlyGivenNames were
  clear_value were
  repeat' with_reducible first
    | assumption | apply bistAbort_keep | apply modeEffects_keep | apply wr_keep | apply wrb_keep | intro _ | split
    | (simp only [keep_mk]; apply Keep.parts) | refine Keep.of_fst (by assumption) ?_
    | (extract_lets +onlyGivenNames x
       first
         | (refine (fun (hx : Keep L x) => ?_) ?_
            on_goal 1 => clear_value x
            on_goal 2 => subst x)
         | (refine (fun (hx : Keep L x.1) => ?_) ?_
            on_goal 1 => clear_value x
            on_goal 2 => subst x)
         | clear_value x)

theorem modeLater_keep (s : State) (hk : Keep L s) :
    Keep L (modeLater s) := by
  unfold modeLater
  repeat' with_reducible first
    | assumption | apply causeGo_keep | apply wr_keep | intro _ | split | (simp only [keep_mk]; apply Keep.parts)
    | refine Keep.of_fst (by assumption) ?_
    | (extract_lets +onlyGivenNames x
       first
         | (refine (fun (hx : Keep L x) => ?_) ?_
            on_goal 1 => clear_value x
            on_goal 2 => subst x)
         | (refine (fun (hx : Keep L x.1) => ?_) ?_
            on_goal 1 => clear_value x
            on_goal 2 => subst x)
         | clear_value x)

theorem transDone_keep (s : State) (hk : Keep L s) :
    Keep L (transDone s) := by
  unfold transDone
  repeat' with_reducible first
    | assumption | apply modeLater_keep | apply modeSet_keep | apply requestEnd_keep | apply wr_keep | intro _ | split
    | (simp only [keep_mk]; apply Keep.parts) | refine Keep.of_fst (by assumption) ?_
    | (extract_lets +onlyGivenNames x
       first
         | (refine (fun (hx : Keep L x) => ?_) ?_
            on_goal 1 => clear_value x
            on_goal 2 => subst x)
         | (refine (fun (hx : Keep L x.1) => ?_) ?_
            on_goal 1 => clear_value x
            on_goal 2 => subst x)
         | clear_value x)

theorem execModeTransitionTimeout_keep (s : State) (hk : Keep L s) :
    KeepRes L (execModeTransitionTimeout s) := by
  unfold execModeTransitionTimeout
  refine KeepRes.next ?_
  repeat' with_reducible first
    | assumption | apply creditsBack_keep | apply modeLater_keep | apply wr_keep | intro _ | split
    | (simp only [keep_mk]; apply Keep.parts) | refine Keep.of_fst (by assumption) ?_
    | (extract_lets +onlyGivenNames x
       first
         | (refine (fun (hx : Keep L x) => ?_) ?_
            on_goal 1 => clear_value x
            on_goal 2 => subst x)
         | (refine (fun (hx : Keep L x.1) => ?_) ?_
            on_goal 1 => clear_value x
            on_goal 2 => subst x)
         | clear_value x)

theorem warnSignals_keep (s : State) (kind : Nat) (hk : Keep L s) :
    Keep L (warnSignals s kind) := by
  unfold warnSignals
  repeat' with_reducible first
    | assumption | apply formed_keep | apply msixSignal_keep | apply noticeSend_keep | apply forEach_keep | intro _ | split
    | (simp only [keep_mk]; apply Keep.parts) | refine Keep.of_fst (by assumption) ?_
    | (extract_lets +onlyGivenNames x
       first
         | (refine (fun (hx : Keep L x) => ?_) ?_
            on_goal 1 => clear_value x
            on_goal 2 => subst x)
         | (refine (fun (hx : Keep L x.1) => ?_) ?_
            on_goal 1 => clear_value x
            on_goal 2 => subst x)
         | clear_value x)

theorem execFeedWarning_keep (s : State) (hk : Keep L s) :
    KeepRes L (execFeedWarning s) := by
  unfold execFeedWarning
  refine KeepRes.next ?_
  repeat' with_reducible first
    | assumption | apply emit_keep | apply heelAbort_keep | apply modeAuto_keep | apply pdOn_keep | apply warnSignals_keep
    | apply wr_keep | intro _ | split | (simp only [keep_mk]; apply Keep.parts) | refine Keep.of_fst (by assumption) ?_
    | (extract_lets +onlyGivenNames x
       first
         | (refine (fun (hx : Keep L x) => ?_) ?_
            on_goal 1 => clear_value x
            on_goal 2 => subst x)
         | (refine (fun (hx : Keep L x.1) => ?_) ?_
            on_goal 1 => clear_value x
            on_goal 2 => subst x)
         | clear_value x)

theorem execFeedRecovered_keep (s : State) (hk : Keep L s) :
    KeepRes L (execFeedRecovered s) := by
  unfold execFeedRecovered
  refine KeepRes.next ?_
  repeat' with_reducible first
    | assumption | apply emit_keep | apply modeAuto_keep | apply pdOn_keep | apply warnSignals_keep | apply wr_keep | intro _
    | split | (simp only [keep_mk]; apply Keep.parts) | refine Keep.of_fst (by assumption) ?_
    | (extract_lets +onlyGivenNames x
       first
         | (refine (fun (hx : Keep L x) => ?_) ?_
            on_goal 1 => clear_value x
            on_goal 2 => subst x)
         | (refine (fun (hx : Keep L x.1) => ?_) ?_
            on_goal 1 => clear_value x
            on_goal 2 => subst x)
         | clear_value x)

end Sys2Proof.Machine
end

