-- ==== Sys2Proof/Laws/KeepWelt.lean ====
section
/-! SUPPORT. What the operations of Welt.lean keep. -/

namespace Sys2Proof.Machine

variable {L : List Instr}

theorem nakOut_keep (s : State) (p reason : Nat) (hk : Keep L s) :
    Keep L (nakOut s p reason) := by
  unfold nakOut
  repeat' with_reducible first
    | assumption | apply inc_keep | apply stitchOut_keep | apply tlUpd_keep | intro _ | split
    | (simp only [keep_mk]; apply Keep.parts) | refine Keep.of_fst (by assumption) ?_
    | (extract_lets +onlyGivenNames x
       first
         | (refine (fun (hx : Keep L x) => ?_) ?_
            on_goal 1 => clear_value x
            on_goal 2 => subst x)
         | (refine (fun (hx : Keep L x.1) => ?_) ?_
            on_goal 1 => clear_value x
            on_goal 2 => subst x)
         | clear_value x)

theorem ackOut_keep (s : State) (p : Nat) (hk : Keep L s) :
    Keep L (ackOut s p) := by
  unfold ackOut
  repeat' with_reducible first
    | assumption | apply stitchOut_keep | apply tlUpd_keep | intro _ | split | (simp only [keep_mk]; apply Keep.parts)
    | refine Keep.of_fst (by assumption) ?_
    | (extract_lets +onlyGivenNames x
       first
         | (refine (fun (hx : Keep L x) => ?_) ?_
            on_goal 1 => clear_value x
            on_goal 2 => subst x)
         | (refine (fun (hx : Keep L x.1) => ?_) ?_
            on_goal 1 => clear_value x
            on_goal 2 => subst x)
         | clear_value x)

theorem releaseHeld_keep (s : State) (p n : Nat) (hk : Keep L s) :
    Keep L (releaseHeld s p n) := by
  unfold releaseHeld
  repeat' with_reducible first
    | assumption | apply heldCount_keep | apply replayStop_keep | apply tlUpd_keep | apply wr_keep | intro _ | split
    | (simp only [keep_mk]; apply Keep.parts) | refine Keep.of_fst (by assumption) ?_
    | (extract_lets +onlyGivenNames x
       first
         | (refine (fun (hx : Keep L x) => ?_) ?_
            on_goal 1 => clear_value x
            on_goal 2 => subst x)
         | (refine (fun (hx : Keep L x.1) => ?_) ?_
            on_goal 1 => clear_value x
            on_goal 2 => subst x)
         | clear_value x)

theorem dataOut_keep (s : State) (p : Nat) (f : Flight) (k seq : Nat) (hk : Keep L s) :
    Keep L (dataOut s p f k seq) := by
  unfold dataOut
  repeat' with_reducible first
    | assumption | apply emit_keep | apply slotOut_keep | intro _ | split | (simp only [keep_mk]; apply Keep.parts)
    | refine Keep.of_fst (by assumption) ?_

theorem dataNew_keep (s : State) (p : Nat) (f : Flight) (k : Nat) (hk : Keep L s) :
    Keep L (dataNew s p f k).1 := by
  unfold dataNew
  repeat' with_reducible first
    | assumption | apply dataOut_keep | apply takeCredit_keep | apply wr_keep | apply foldl_keep | apply foldl_keep_fst
    | intro _ | split | (simp only [keep_mk]; apply Keep.parts) | refine Keep.of_fst (by assumption) ?_
    | (extract_lets +onlyGivenNames x
       first
         | (refine (fun (hx : Keep L x) => ?_) ?_
            on_goal 1 => clear_value x
            on_goal 2 => subst x)
         | (refine (fun (hx : Keep L x.1) => ?_) ?_
            on_goal 1 => clear_value x
            on_goal 2 => subst x)
         | clear_value x)

theorem replay_keep (s : State) (p n : Nat) (hk : Keep L s) :
    Keep L (replay s p n) := by
  unfold replay
  repeat' with_reducible first
    | assumption | apply inc_keep | apply tlUpd_keep | apply wr_keep | intro _ | split
    | (simp only [keep_mk]; apply Keep.parts) | refine Keep.of_fst (by assumption) ?_

theorem replaySlot_keep (s : State) (p : Nat) (hk : Keep L s) :
    Keep L (replaySlot s p) := by
  unfold replaySlot
  repeat' with_reducible first
    | assumption | apply dataOut_keep | apply replayStop_keep | apply tlUpd_keep | intro _ | split
    | (simp only [keep_mk]; apply Keep.parts) | refine Keep.of_fst (by assumption) ?_
    | (extract_lets +onlyGivenNames x
       first
         | (refine (fun (hx : Keep L x) => ?_) ?_
            on_goal 1 => clear_value x
            on_goal 2 => subst x)
         | (refine (fun (hx : Keep L x.1) => ?_) ?_
            on_goal 1 => clear_value x
            on_goal 2 => subst x)
         | clear_value x)

theorem ackTake_keep (s : State) (p a : Nat) (hk : Keep L s) :
    Keep L (ackTake s p a) := by
  unfold ackTake
  repeat' with_reducible first
    | assumption | apply inc_keep | apply releaseHeld_keep | apply tlUpd_keep | intro _ | split
    | (simp only [keep_mk]; apply Keep.parts) | refine Keep.of_fst (by assumption) ?_
    | (extract_lets +onlyGivenNames x
       first
         | (refine (fun (hx : Keep L x) => ?_) ?_
            on_goal 1 => clear_value x
            on_goal 2 => subst x)
         | (refine (fun (hx : Keep L x.1) => ?_) ?_
            on_goal 1 => clear_value x
            on_goal 2 => subst x)
         | clear_value x)

theorem nakTake_keep (s : State) (p n : Nat) (hk : Keep L s) :
    Keep L (nakTake s p n) := by
  unfold nakTake
  repeat' with_reducible first
    | assumption | apply inc_keep | apply releaseHeld_keep | apply replay_keep | intro _ | split
    | (simp only [keep_mk]; apply Keep.parts) | refine Keep.of_fst (by assumption) ?_
    | (extract_lets +onlyGivenNames x
       first
         | (refine (fun (hx : Keep L x) => ?_) ?_
            on_goal 1 => clear_value x
            on_goal 2 => subst x)
         | (refine (fun (hx : Keep L x.1) => ?_) ?_
            on_goal 1 => clear_value x
            on_goal 2 => subst x)
         | clear_value x)

theorem execAckReceive_keep (p : Fin 64) (seq : BitVec 16) (s : State) (hk : Keep L s) :
    KeepRes L (execAckReceive p seq s) := by
  unfold execAckReceive
  refine KeepRes.next ?_
  repeat' with_reducible first
    | assumption | apply ackTake_keep | apply onStitch_keep | intro _ | split | (simp only [keep_mk]; apply Keep.parts)
    | refine Keep.of_fst (by assumption) ?_

theorem execNakReceive_keep (p : Fin 64) (seq : BitVec 16) (_reason : BitVec 2) (s : State) (hk : Keep L s) :
    KeepRes L (execNakReceive p seq _reason s) := by
  unfold execNakReceive
  refine KeepRes.next ?_
  repeat' with_reducible first
    | assumption | apply nakTake_keep | apply onStitch_keep | intro _ | split | (simp only [keep_mk]; apply Keep.parts)
    | refine Keep.of_fst (by assumption) ?_

theorem execAckTimer_keep (p : Fin 64) (s : State) (hk : Keep L s) :
    KeepRes L (execAckTimer p s) := by
  unfold execAckTimer
  refine KeepRes.next ?_
  repeat' with_reducible first
    | assumption | apply ackOut_keep | intro _ | split | (simp only [keep_mk]; apply Keep.parts)
    | refine Keep.of_fst (by assumption) ?_

theorem execNakTimerExpiry_keep (p : Fin 64) (s : State) (hk : Keep L s) :
    KeepRes L (execNakTimerExpiry p s) := by
  unfold execNakTimerExpiry
  refine KeepRes.next ?_
  repeat' with_reducible first
    | assumption | apply nakOut_keep | intro _ | split | (simp only [keep_mk]; apply Keep.parts)
    | refine Keep.of_fst (by assumption) ?_

theorem execReplayTimerExpiry_keep (p : Fin 64) (s : State) (hk : Keep L s) :
    KeepRes L (execReplayTimerExpiry p s) := by
  unfold execReplayTimerExpiry
  refine KeepRes.next ?_
  repeat' with_reducible first
    | assumption | apply linkDown_keep | apply replay_keep | apply tlUpd_keep | intro _ | split
    | (simp only [keep_mk]; apply Keep.parts) | refine Keep.of_fst (by assumption) ?_

theorem creditTake_keep (s : State) (p v n : Nat) (hk : Keep L s) :
    Keep L (creditTake s p v n) := by
  unfold creditTake
  repeat' with_reducible first
    | assumption | apply resCheck_keep | apply tlUpd_keep | apply wr_keep | intro _ | split
    | (simp only [keep_mk]; apply Keep.parts) | refine Keep.of_fst (by assumption) ?_
    | (extract_lets +onlyGivenNames x
       first
         | (refine (fun (hx : Keep L x) => ?_) ?_
            on_goal 1 => clear_value x
            on_goal 2 => subst x)
         | (refine (fun (hx : Keep L x.1) => ?_) ?_
            on_goal 1 => clear_value x
            on_goal 2 => subst x)
         | clear_value x)

theorem creditsTake_keep (s : State) (p : Nat) (counts : List Nat) (hk : Keep L s) :
    Keep L (creditsTake s p counts) := by
  unfold creditsTake
  repeat' with_reducible first
    | assumption | apply creditTake_keep | apply forEach_keep | intro _ | split | (simp only [keep_mk]; apply Keep.parts)
    | refine Keep.of_fst (by assumption) ?_

theorem execCreditReceive_keep (p : Fin 64) (counts : List (BitVec 16)) (s : State) (hk : Keep L s) :
    KeepRes L (execCreditReceive p counts s) := by
  unfold execCreditReceive
  refine KeepRes.next ?_
  repeat' with_reducible first
    | assumption | apply creditsTake_keep | apply onStitch_keep | intro _ | split | (simp only [keep_mk]; apply Keep.parts)
    | refine Keep.of_fst (by assumption) ?_

theorem execCreditTimer_keep (p : Fin 64) (s : State) (hk : Keep L s) :
    KeepRes L (execCreditTimer p s) := by
  unfold execCreditTimer
  refine KeepRes.next ?_
  repeat' with_reducible first
    | assumption | apply stitchOut_keep | apply tlUpd_keep | apply forEach_keep | intro _ | split
    | (simp only [keep_mk]; apply Keep.parts) | refine Keep.of_fst (by assumption) ?_
    | (extract_lets +onlyGivenNames x
       first
         | (refine (fun (hx : Keep L x) => ?_) ?_
            on_goal 1 => clear_value x
            on_goal 2 => subst x)
         | (refine (fun (hx : Keep L x.1) => ?_) ?_
            on_goal 1 => clear_value x
            on_goal 2 => subst x)
         | clear_value x)

theorem auditLeak_keep (s : State) (p : Nat) (cum : List Nat) (hk : Keep L s) :
    Keep L (auditLeak s p cum) := by
  unfold auditLeak
  repeat' with_reducible first
    | assumption | apply inc_keep | apply raise_keep | apply wr_keep | apply forEach_keep | intro _ | split
    | (simp only [keep_mk]; apply Keep.parts) | refine Keep.of_fst (by assumption) ?_
    | (extract_lets +onlyGivenNames x
       first
         | (refine (fun (hx : Keep L x) => ?_) ?_
            on_goal 1 => clear_value x
            on_goal 2 => subst x)
         | (refine (fun (hx : Keep L x.1) => ?_) ?_
            on_goal 1 => clear_value x
            on_goal 2 => subst x)
         | clear_value x)

theorem pairSet_keep (s : State) (k : Nat) (x : PairSt) (hk : Keep L s) :
    Keep L (pairSet s k x) := by
  unfold pairSet
  repeat' with_reducible first
    | assumption | apply prtUpd_keep | intro _ | split | (simp only [keep_mk]; apply Keep.parts)
    | refine Keep.of_fst (by assumption) ?_

theorem pairVerify_keep (s : State) (p mate : Nat) (paired : Bool) (hk : Keep L s) :
    Keep L (pairVerify s p mate paired) := by
  unfold pairVerify
  repeat' with_reducible first
    | assumption | apply pairSet_keep | apply raise_keep | apply wr_keep | intro _ | split
    | (simp only [keep_mk]; apply Keep.parts) | refine Keep.of_fst (by assumption) ?_
    | (extract_lets +onlyGivenNames x
       first
         | (refine (fun (hx : Keep L x) => ?_) ?_
            on_goal 1 => clear_value x
            on_goal 2 => subst x)
         | (refine (fun (hx : Keep L x.1) => ?_) ?_
            on_goal 1 => clear_value x
            on_goal 2 => subst x)
         | clear_value x)

theorem pairEnableAt_keep (s : State) (k : Nat) (hk : Keep L s) :
    Keep L (pairEnableAt s k) := by
  unfold pairEnableAt
  repeat' with_reducible first
    | assumption | apply pairUps_keep | apply wr_keep | intro _ | split | (simp only [keep_mk]; apply Keep.parts)
    | refine Keep.of_fst (by assumption) ?_
    | (extract_lets +onlyGivenNames x
       first
         | (refine (fun (hx : Keep L x) => ?_) ?_
            on_goal 1 => clear_value x
            on_goal 2 => subst x)
         | (refine (fun (hx : Keep L x.1) => ?_) ?_
            on_goal 1 => clear_value x
            on_goal 2 => subst x)
         | clear_value x)

theorem execPairEnable_keep (m : Master) (k : Fin 32) (s : State) (hk : Keep L s) :
    KeepRes L (execPairEnable m k s) := by
  unfold execPairEnable
  refine KeepRes.next ?_
  repeat' with_reducible first
    | assumption | apply asMaster_keep | apply pairEnableAt_keep | intro _ | split | (simp only [keep_mk]; apply Keep.parts)
    | refine Keep.of_fst (by assumption) ?_

theorem pairDisableAt_keep (s : State) (k : Nat) (hk : Keep L s) :
    Keep L (pairDisableAt s k) := by
  unfold pairDisableAt
  repeat' with_reducible first
    | assumption | apply pairSet_keep | apply wr_keep | intro _ | split | (simp only [keep_mk]; apply Keep.parts)
    | refine Keep.of_fst (by assumption) ?_
    | (extract_lets +onlyGivenNames x
       first
         | (refine (fun (hx : Keep L x) => ?_) ?_
            on_goal 1 => clear_value x
            on_goal 2 => subst x)
         | (refine (fun (hx : Keep L x.1) => ?_) ?_
            on_goal 1 => clear_value x
            on_goal 2 => subst x)
         | clear_value x)

theorem execPairDisable_keep (m : Master) (k : Fin 32) (s : State) (hk : Keep L s) :
    KeepRes L (execPairDisable m k s) := by
  unfold execPairDisable
  refine KeepRes.next ?_
  repeat' with_reducible first
    | assumption | apply asMaster_keep | apply pairDisableAt_keep | intro _ | split | (simp only [keep_mk]; apply Keep.parts)
    | refine Keep.of_fst (by assumption) ?_

theorem execPairFlowReturn_keep (k : Fin 32) (c : Fin 8) (s : State) (hk : Keep L s) :
    KeepRes L (execPairFlowReturn k c s) := by
  unfold execPairFlowReturn
  refine KeepRes.next ?_
  repeat' with_reducible first
    | assumption | apply prtUpd_keep | intro _ | split | (simp only [keep_mk]; apply Keep.parts)
    | refine Keep.of_fst (by assumption) ?_
    | (extract_lets +onlyGivenNames x
       first
         | (refine (fun (hx : Keep L x) => ?_) ?_
            on_goal 1 => clear_value x
            on_goal 2 => subst x)
         | (refine (fun (hx : Keep L x.1) => ?_) ?_
            on_goal 1 => clear_value x
            on_goal 2 => subst x)
         | clear_value x)

theorem execAuditTimer_keep (p : Fin 64) (s : State) (hk : Keep L s) :
    KeepRes L (execAuditTimer p s) := by
  unfold execAuditTimer
  refine KeepRes.next ?_
  repeat' with_reducible first
    | assumption | apply ctlOut_keep | intro _ | split | (simp only [keep_mk]; apply Keep.parts)
    | refine Keep.of_fst (by assumption) ?_
    | (extract_lets +onlyGivenNames x
       first
         | (refine (fun (hx : Keep L x) => ?_) ?_
            on_goal 1 => clear_value x
            on_goal 2 => subst x)
         | (refine (fun (hx : Keep L x.1) => ?_) ?_
            on_goal 1 => clear_value x
            on_goal 2 => subst x)
         | clear_value x)

theorem auditTake_keep (s : State) (p : Nat) (cum : List Nat) (mate : Nat) (paired : Bool) (hk : Keep L s) :
    Keep L (auditTake s p cum mate paired) := by
  unfold auditTake
  repeat' with_reducible first
    | assumption | apply auditLeak_keep | apply pairVerify_keep | intro _ | split | (simp only [keep_mk]; apply Keep.parts)
    | refine Keep.of_fst (by assumption) ?_

theorem execAuditReceive_keep (p : Fin 64) (cum : List (BitVec 32)) (mate : BitVec 6) (paired : Bool) (s : State) (hk : Keep L s) :
    KeepRes L (execAuditReceive p cum mate paired s) := by
  unfold execAuditReceive
  refine KeepRes.next ?_
  repeat' with_reducible first
    | assumption | apply auditTake_keep | apply onStitch_keep | intro _ | split | (simp only [keep_mk]; apply Keep.parts)
    | refine Keep.of_fst (by assumption) ?_

theorem execCreditRetrainStart_keep (p : Fin 64) (s : State) (hk : Keep L s) :
    KeepRes L (execCreditRetrainStart p s) := by
  unfold execCreditRetrainStart
  refine KeepRes.next ?_
  repeat' with_reducible first
    | assumption | apply prtUpd_keep | apply request_keep | intro _ | split | (simp only [keep_mk]; apply Keep.parts)
    | refine Keep.of_fst (by assumption) ?_
    | (extract_lets +onlyGivenNames x
       first
         | (refine (fun (hx : Keep L x) => ?_) ?_
            on_goal 1 => clear_value x
            on_goal 2 => subst x)
         | (refine (fun (hx : Keep L x.1) => ?_) ?_
            on_goal 1 => clear_value x
            on_goal 2 => subst x)
         | clear_value x)

theorem tllStart_keep (s : State) (p : Nat) (hk : Keep L s) :
    Keep L (tllStart s p) := by
  unfold tllStart
  repeat' with_reducible first
    | assumption | apply tlUpd_keep | intro _ | split | (simp only [keep_mk]; apply Keep.parts)
    | refine Keep.of_fst (by assumption) ?_

theorem execControlRequestRepeat_keep (p : Fin 64) (s : State) (hk : Keep L s) :
    KeepRes L (execControlRequestRepeat p s) := by
  unfold execControlRequestRepeat
  refine KeepRes.next ?_
  repeat' with_reducible first
    | assumption | apply inc_keep | apply portState_keep | apply reqDone_keep | apply requestOut_keep | apply tlUpd_keep
    | apply tllStart_keep | apply wr_keep | intro _ | split | (simp only [keep_mk]; apply Keep.parts)
    | refine Keep.of_fst (by assumption) ?_
    | (extract_lets +onlyGivenNames x
       first
         | (refine (fun (hx : Keep L x) => ?_) ?_
            on_goal 1 => clear_value x
            on_goal 2 => subst x)
         | (refine (fun (hx : Keep L x.1) => ?_) ?_
            on_goal 1 => clear_value x
            on_goal 2 => subst x)
         | clear_value x)

theorem retrainReq_keep (s : State) (p : Nat) (full : Bool) (hk : Keep L s) :
    Keep L (retrainReq s p full) := by
  unfold retrainReq
  repeat' with_reducible first
    | assumption | apply ctlOut_keep | apply retrainGo_keep | intro _ | split | (simp only [keep_mk]; apply Keep.parts)
    | refine Keep.of_fst (by assumption) ?_

theorem execRetrainReqReceive_keep (p : Fin 64) (full : Bool) (s : State) (hk : Keep L s) :
    KeepRes L (execRetrainReqReceive p full s) := by
  unfold execRetrainReqReceive
  refine KeepRes.next ?_
  repeat' with_reducible first
    | assumption | apply onStitch_keep | apply retrainReq_keep | intro _ | split | (simp only [keep_mk]; apply Keep.parts)
    | refine Keep.of_fst (by assumption) ?_

theorem retrainAck_keep (s : State) (p : Nat) (full : Bool) (hk : Keep L s) :
    Keep L (retrainAck s p full) := by
  unfold retrainAck
  repeat' with_reducible first
    | assumption | apply reqDone_keep | apply retrainGo_keep | intro _ | split | (simp only [keep_mk]; apply Keep.parts)
    | refine Keep.of_fst (by assumption) ?_

theorem execRetrainAckReceive_keep (p : Fin 64) (full : Bool) (s : State) (hk : Keep L s) :
    KeepRes L (execRetrainAckReceive p full s) := by
  unfold execRetrainAckReceive
  refine KeepRes.next ?_
  repeat' with_reducible first
    | assumption | apply onStitch_keep | apply retrainAck_keep | intro _ | split | (simp only [keep_mk]; apply Keep.parts)
    | refine Keep.of_fst (by assumption) ?_

theorem spareSwap_keep (s : State) (p l : Nat) (hk : Keep L s) :
    Keep L (spareSwap s p l) := by
  unfold spareSwap
  repeat' with_reducible first
    | assumption | apply inc_keep | apply raise_keep | apply tlUpd_keep | apply wr_keep | intro _ | split
    | (simp only [keep_mk]; apply Keep.parts) | refine Keep.of_fst (by assumption) ?_
    | (extract_lets +onlyGivenNames x
       first
         | (refine (fun (hx : Keep L x) => ?_) ?_
            on_goal 1 => clear_value x
            on_goal 2 => subst x)
         | (refine (fun (hx : Keep L x.1) => ?_) ?_
            on_goal 1 => clear_value x
            on_goal 2 => subst x)
         | clear_value x)

theorem spareReq_keep (s : State) (p l : Nat) (hk : Keep L s) : Keep L (spareReq s p l) := by
  unfold spareReq
  extract_lets same s1 s2
  split
  · exact hk
  · have h1 : Keep L s1 := by
      refine sideOut_keep _ _ _ _ ?_
      split
      · exact hk
      · exact sideOut_keep _ _ _ _ (reqDone_keep _ _ hk)
    refine spareSwap_keep _ _ _ ?_
    subst s2
    split
    · exact tlUpd_keep _ _ _ (reqDone_keep _ _ h1)
    · exact h1

theorem onSide_keep (p : Nat) (s : State) (f : State → State) (hk : Keep L s) (hf : ∀ t, Keep L t → Keep L (f t)) :
    Keep L (onSide p s f) := by
  unfold onSide
  split
  · exact hf _ (sideIn_keep _ _ hk)
  · exact hk

theorem execSpareReqReceive_keep (p : Fin 64) (l : BitVec 3) (s : State) (hk : Keep L s) :
    KeepRes L (execSpareReqReceive p l s) := by
  unfold execSpareReqReceive
  refine KeepRes.next ?_
  repeat' with_reducible first
    | assumption | apply onSide_keep | apply spareReq_keep | intro _ | split | (simp only [keep_mk]; apply Keep.parts)
    | refine Keep.of_fst (by assumption) ?_

theorem spareAck_keep (s : State) (p l : Nat) (hk : Keep L s) :
    Keep L (spareAck s p l) := by
  unfold spareAck
  repeat' with_reducible first
    | assumption | apply reqDone_keep | apply sideOut_keep | apply spareGo_keep | apply spareSwap_keep | apply tlUpd_keep
    | intro _ | split | (simp only [keep_mk]; apply Keep.parts) | refine Keep.of_fst (by assumption) ?_
    | (extract_lets +onlyGivenNames x
       first
         | (refine (fun (hx : Keep L x) => ?_) ?_
            on_goal 1 => clear_value x
            on_goal 2 => subst x)
         | (refine (fun (hx : Keep L x.1) => ?_) ?_
            on_goal 1 => clear_value x
            on_goal 2 => subst x)
         | clear_value x)

theorem execSpareAckReceive_keep (p : Fin 64) (l : BitVec 3) (s : State) (hk : Keep L s) :
    KeepRes L (execSpareAckReceive p l s) := by
  unfold execSpareAckReceive
  refine KeepRes.next ?_
  repeat' with_reducible first
    | assumption | apply onSide_keep | apply spareAck_keep | intro _ | split | (simp only [keep_mk]; apply Keep.parts)
    | refine Keep.of_fst (by assumption) ?_

theorem spareGo_keep (s : State) (p l : Nat) (hk : Keep L s) :
    Keep L (spareGo s p l) := by
  unfold spareGo
  repeat' with_reducible first
    | assumption | apply nakOut_keep | apply tlUpd_keep | intro _ | split | (simp only [keep_mk]; apply Keep.parts)
    | refine Keep.of_fst (by assumption) ?_
    | (extract_lets +onlyGivenNames x
       first
         | (refine (fun (hx : Keep L x) => ?_) ?_
            on_goal 1 => clear_value x
            on_goal 2 => subst x)
         | (refine (fun (hx : Keep L x.1) => ?_) ?_
            on_goal 1 => clear_value x
            on_goal 2 => subst x)
         | clear_value x)

theorem execSpareGoReceive_keep (p : Fin 64) (l : BitVec 3) (s : State) (hk : Keep L s) :
    KeepRes L (execSpareGoReceive p l s) := by
  unfold execSpareGoReceive
  refine KeepRes.next ?_
  repeat' with_reducible first
    | assumption | apply onSide_keep | apply spareGo_keep | intro _ | split | (simp only [keep_mk]; apply Keep.parts)
    | refine Keep.of_fst (by assumption) ?_

theorem narrow_keep (s : State) (p l w : Nat) (hk : Keep L s) :
    Keep L (narrow s p l w) := by
  unfold narrow
  repeat' with_reducible first
    | assumption | apply degradedLink_keep | apply inc_keep | apply raise_keep | apply renumber_keep | apply tlUpd_keep
    | apply wr_keep | intro _ | split | (simp only [keep_mk]; apply Keep.parts) | refine Keep.of_fst (by assumption) ?_
    | (extract_lets +onlyGivenNames x
       first
         | (refine (fun (hx : Keep L x) => ?_) ?_
            on_goal 1 => clear_value x
            on_goal 2 => subst x)
         | (refine (fun (hx : Keep L x.1) => ?_) ?_
            on_goal 1 => clear_value x
            on_goal 2 => subst x)
         | clear_value x)

theorem widthReq_keep (s : State) (p l w : Nat) (hk : Keep L s) :
    Keep L (widthReq s p l w) := by
  unfold widthReq
  repeat' with_reducible first
    | assumption | apply ctlOut_keep | apply narrow_keep | apply reqDone_keep | intro _ | split
    | (simp only [keep_mk]; apply Keep.parts) | refine Keep.of_fst (by assumption) ?_
    | (extract_lets +onlyGivenNames x
       first
         | (refine (fun (hx : Keep L x) => ?_) ?_
            on_goal 1 => clear_value x
            on_goal 2 => subst x)
         | (refine (fun (hx : Keep L x.1) => ?_) ?_
            on_goal 1 => clear_value x
            on_goal 2 => subst x)
         | clear_value x)

theorem execWidthReqReceive_keep (p : Fin 64) (l : BitVec 3) (w : BitVec 2) (s : State) (hk : Keep L s) :
    KeepRes L (execWidthReqReceive p l w s) := by
  unfold execWidthReqReceive
  refine KeepRes.next ?_
  repeat' with_reducible first
    | assumption | apply onStitch_keep | apply widthReq_keep | intro _ | split | (simp only [keep_mk]; apply Keep.parts)
    | refine Keep.of_fst (by assumption) ?_

theorem widthAck_keep (s : State) (p l w : Nat) (hk : Keep L s) :
    Keep L (widthAck s p l w) := by
  unfold widthAck
  repeat' with_reducible first
    | assumption | apply ctlOut_keep | apply narrow_keep | apply reqDone_keep | intro _ | split
    | (simp only [keep_mk]; apply Keep.parts) | refine Keep.of_fst (by assumption) ?_

theorem execWidthAckReceive_keep (p : Fin 64) (l : BitVec 3) (w : BitVec 2) (s : State) (hk : Keep L s) :
    KeepRes L (execWidthAckReceive p l w s) := by
  unfold execWidthAckReceive
  refine KeepRes.next ?_
  repeat' with_reducible first
    | assumption | apply onStitch_keep | apply widthAck_keep | intro _ | split | (simp only [keep_mk]; apply Keep.parts)
    | refine Keep.of_fst (by assumption) ?_

theorem widthGo_keep (s : State) (p l w : Nat) (hk : Keep L s) :
    Keep L (widthGo s p l w) := by
  unfold widthGo
  repeat' with_reducible first
    | assumption | apply tlUpd_keep | intro _ | split | (simp only [keep_mk]; apply Keep.parts)
    | refine Keep.of_fst (by assumption) ?_

theorem execWidthGoReceive_keep (p : Fin 64) (l : BitVec 3) (w : BitVec 2) (s : State) (hk : Keep L s) :
    KeepRes L (execWidthGoReceive p l w s) := by
  unfold execWidthGoReceive
  refine KeepRes.next ?_
  repeat' with_reducible first
    | assumption | apply onStitch_keep | apply widthGo_keep | intro _ | split | (simp only [keep_mk]; apply Keep.parts)
    | refine Keep.of_fst (by assumption) ?_

theorem execCorrWindowExpiry_keep (p : Fin 64) (s : State) (hk : Keep L s) :
    KeepRes L (execCorrWindowExpiry p s) := by
  unfold execCorrWindowExpiry
  refine KeepRes.next ?_
  repeat' with_reducible first
    | assumption | apply request_keep | apply tlSet_keep | intro _ | split | (simp only [keep_mk]; apply Keep.parts)
    | refine Keep.of_fst (by assumption) ?_
    | (extract_lets +onlyGivenNames x
       first
         | (refine (fun (hx : Keep L x) => ?_) ?_
            on_goal 1 => clear_value x
            on_goal 2 => subst x)
         | (refine (fun (hx : Keep L x.1) => ?_) ?_
            on_goal 1 => clear_value x
            on_goal 2 => subst x)
         | clear_value x)

theorem execLaneLockLoss_keep (p : Fin 64) (l : Fin 5) (s : State) (hk : Keep L s) :
    KeepRes L (execLaneLockLoss p l s) := by
  unfold execLaneLockLoss
  refine KeepRes.next ?_
  repeat' with_reducible first
    | assumption | apply inc_keep | apply laneRestart_keep | apply raise_keep | apply request_keep | apply tlUpd_keep
    | apply tllStart_keep | apply wr_keep | intro _ | split | (simp only [keep_mk]; apply Keep.parts)
    | refine Keep.of_fst (by assumption) ?_
    | (extract_lets +onlyGivenNames x
       first
         | (refine (fun (hx : Keep L x) => ?_) ?_
            on_goal 1 => clear_value x
            on_goal 2 => subst x)
         | (refine (fun (hx : Keep L x.1) => ?_) ?_
            on_goal 1 => clear_value x
            on_goal 2 => subst x)
         | clear_value x)

theorem execLaneLockRegain_keep (p : Fin 64) (l : Fin 5) (s : State) (hk : Keep L s) :
    KeepRes L (execLaneLockRegain p l s) := by
  unfold execLaneLockRegain
  refine KeepRes.next ?_
  repeat' with_reducible first
    | assumption | apply tlUpd_keep | apply wr_keep | intro _ | split | (simp only [keep_mk]; apply Keep.parts)
    | refine Keep.of_fst (by assumption) ?_
    | (extract_lets +onlyGivenNames x
       first
         | (refine (fun (hx : Keep L x) => ?_) ?_
            on_goal 1 => clear_value x
            on_goal 2 => subst x)
         | (refine (fun (hx : Keep L x.1) => ?_) ?_
            on_goal 1 => clear_value x
            on_goal 2 => subst x)
         | clear_value x)

theorem execDelayMeasureTimer_keep (p : Fin 64) (s : State) (hk : Keep L s) :
    KeepRes L (execDelayMeasureTimer p s) := by
  unfold execDelayMeasureTimer
  refine KeepRes.next ?_
  repeat' with_reducible first
    | assumption | apply delayStart_keep | intro _ | split | (simp only [keep_mk]; apply Keep.parts)
    | refine Keep.of_fst (by assumption) ?_

theorem delayReq_keep (s : State) (p id : Nat) (hk : Keep L s) :
    Keep L (delayReq s p id) := by
  unfold delayReq
  repeat' with_reducible first
    | assumption | apply ctlOut_keep | intro _ | split | (simp only [keep_mk]; apply Keep.parts)
    | refine Keep.of_fst (by assumption) ?_
    | (extract_lets +onlyGivenNames x
       first
         | (refine (fun (hx : Keep L x) => ?_) ?_
            on_goal 1 => clear_value x
            on_goal 2 => subst x)
         | (refine (fun (hx : Keep L x.1) => ?_) ?_
            on_goal 1 => clear_value x
            on_goal 2 => subst x)
         | clear_value x)

theorem execDelayReqReceive_keep (p : Fin 64) (id : BitVec 8) (_t1 : BitVec 64) (s : State) (hk : Keep L s) :
    KeepRes L (execDelayReqReceive p id _t1 s) := by
  unfold execDelayReqReceive
  refine KeepRes.next ?_
  repeat' with_reducible first
    | assumption | apply delayReq_keep | apply onStitch_keep | intro _ | split | (simp only [keep_mk]; apply Keep.parts)
    | refine Keep.of_fst (by assumption) ?_

theorem delayResp_keep (s : State) (p id t2 t3 : Nat) (hk : Keep L s) :
    Keep L (delayResp s p id t2 t3) := by
  unfold delayResp
  repeat' with_reducible first
    | assumption | apply delayRefresh_keep | apply tlUpd_keep | apply wr_keep | intro _ | split
    | (simp only [keep_mk]; apply Keep.parts) | refine Keep.of_fst (by assumption) ?_
    | (extract_lets +onlyGivenNames x
       first
         | (refine (fun (hx : Keep L x) => ?_) ?_
            on_goal 1 => clear_value x
            on_goal 2 => subst x)
         | (refine (fun (hx : Keep L x.1) => ?_) ?_
            on_goal 1 => clear_value x
            on_goal 2 => subst x)
         | clear_value x)

theorem execDelayRespReceive_keep (p : Fin 64) (id : BitVec 8) (t2 t3 : BitVec 64) (s : State) (hk : Keep L s) :
    KeepRes L (execDelayRespReceive p id t2 t3 s) := by
  unfold execDelayRespReceive
  refine KeepRes.next ?_
  repeat' with_reducible first
    | assumption | apply delayResp_keep | apply onStitch_keep | intro _ | split | (simp only [keep_mk]; apply Keep.parts)
    | refine Keep.of_fst (by assumption) ?_

theorem execDelayRespTimeout_keep (p : Fin 64) (s : State) (hk : Keep L s) :
    KeepRes L (execDelayRespTimeout p s) := by
  unfold execDelayRespTimeout
  refine KeepRes.next ?_
  repeat' with_reducible first
    | assumption | apply inc_keep | apply tlUpd_keep | intro _ | split | (simp only [keep_mk]; apply Keep.parts)
    | refine Keep.of_fst (by assumption) ?_

theorem resend_keep (s : State) (p : Nat) (fl : List Flight) (hk : Keep L s) :
    Keep L (resend s p fl) := by
  unfold resend
  repeat' with_reducible first
    | assumption | apply dataNew_keep | apply tlUpd_keep | apply foldl_keep | apply foldl_keep_fst | intro _ | split
    | (simp only [keep_mk]; apply Keep.parts) | refine Keep.of_fst (by assumption) ?_
    | (extract_lets +onlyGivenNames x
       first
         | (refine (fun (hx : Keep L x) => ?_) ?_
            on_goal 1 => clear_value x
            on_goal 2 => subst x)
         | (refine (fun (hx : Keep L x.1) => ?_) ?_
            on_goal 1 => clear_value x
            on_goal 2 => subst x)
         | clear_value x)

theorem resumeTake_keep (s : State) (p : Nat) (noReplay seen kept : Bool) (next : Nat) (free : List Nat) (hk : Keep L s) :
    Keep L (resumeTake s p noReplay seen kept next free) := by
  unfold resumeTake
  repeat' with_reducible first
    | assumption | apply heldCount_keep | apply resend_keep | apply resumeOut_keep | apply tlSet_keep | apply tlUpd_keep
    | apply wr_keep | apply forEach_keep | apply foldl_keep | apply foldl_keep_fst | intro _ | split
    | (simp only [keep_mk]; apply Keep.parts) | refine Keep.of_fst (by assumption) ?_
    | (extract_lets +onlyGivenNames x
       first
         | (refine (fun (hx : Keep L x) => ?_) ?_
            on_goal 1 => clear_value x
            on_goal 2 => subst x)
         | (refine (fun (hx : Keep L x.1) => ?_) ?_
            on_goal 1 => clear_value x
            on_goal 2 => subst x)
         | clear_value x)

theorem execResumeReceive_keep (p : Fin 64) (noReplay seen kept : Bool) (nextExp : BitVec 16) (free : List (BitVec 16)) (s : State) (hk : Keep L s) :
    KeepRes L (execResumeReceive p noReplay seen kept nextExp free s) := by
  unfold execResumeReceive
  refine KeepRes.next ?_
  repeat' with_reducible first
    | assumption | apply onStitch_keep | apply resumeTake_keep | intro _ | split | (simp only [keep_mk]; apply Keep.parts)
    | refine Keep.of_fst (by assumption) ?_

theorem execResumeRepeatTimer_keep (p : Fin 64) (s : State) (hk : Keep L s) :
    KeepRes L (execResumeRepeatTimer p s) := by
  unfold execResumeRepeatTimer
  refine KeepRes.next ?_
  repeat' with_reducible first
    | assumption | apply resumeOut_keep | intro _ | split | (simp only [keep_mk]; apply Keep.parts)
    | refine Keep.of_fst (by assumption) ?_

theorem execFillerDue_keep (p : Fin 64) (s : State) (hk : Keep L s) :
    KeepRes L (execFillerDue p s) := by
  unfold execFillerDue
  refine KeepRes.next ?_
  repeat' with_reducible first
    | assumption | apply stitchOut_keep | intro _ | split | (simp only [keep_mk]; apply Keep.parts)
    | refine Keep.of_fst (by assumption) ?_

theorem ebOverflow_keep (s : State) (p : Nat) (hk : Keep L s) :
    Keep L (ebOverflow s p) := by
  unfold ebOverflow
  repeat' with_reducible first
    | assumption | apply inc_keep | apply raise_keep | intro _ | split | (simp only [keep_mk]; apply Keep.parts)
    | refine Keep.of_fst (by assumption) ?_

theorem execFillerReceive_keep (p : Fin 64) (aboveHalf overflow : Bool) (s : State) (hk : Keep L s) :
    KeepRes L (execFillerReceive p aboveHalf overflow s) := by
  unfold execFillerReceive
  refine KeepRes.next ?_
  repeat' with_reducible first
    | assumption | apply ebOverflow_keep | apply inc_keep | apply slotIn_keep | apply slotsIn_keep | intro _ | split
    | (simp only [keep_mk]; apply Keep.parts) | refine Keep.of_fst (by assumption) ?_

theorem grouped_keep (s : State) (p : Nat) (q : QPkt) (hk : Keep L s) : ∀ t, grouped s p q = some t → Keep L t.1 := by
  intro t ht
  unfold grouped at ht
  dsimp only at ht
  split at ht
  · cases ht; exact hk
  · split at ht
    · cases ht; exact hk
    · split at ht
      · cases ht; exact pairSet_keep _ _ _ hk
      · cases ht

theorem tlinkSend_keep (s : State) (p : Nat) (q : QPkt) (own bad : Bool) (hk : Keep L s) :
    Keep L (tlinkSend s p q own bad) := by
  unfold tlinkSend
  repeat' with_reducible first
    | assumption | apply dataNew_keep | apply emit_keep | apply heldCount_keep | apply raiseIf_keep | apply tlUpd_keep
    | apply wr_keep | intro _ | split | (simp only [keep_mk]; apply Keep.parts) | refine Keep.of_fst (by assumption) ?_
    | (extract_lets +onlyGivenNames x
       first
         | (refine (fun (hx : Keep L x) => ?_) ?_
            on_goal 1 => clear_value x
            on_goal 2 => subst x)
         | (refine (fun (hx : Keep L x.1) => ?_) ?_
            on_goal 1 => clear_value x
            on_goal 2 => subst x)
         | clear_value x)

theorem execEgressTransmit_keep (p : Fin 64) (crP crNP crC : Bool) (s : State) (hk : Keep L s) :
    KeepRes L (execEgressTransmit p crP crNP crC s) := by
  unfold execEgressTransmit
  refine KeepRes.next ?_
  split
  · exact hk
  split
  · exact replaySlot_keep _ _ hk
  extract_lets +onlyGivenNames credit ready short
  clear_value credit ready short
  split
  · exact hk
  rename_i x _
  extract_lets +onlyGivenNames s1 s2 s3 s4
  have h1 : Keep L s1 := unstage_keep _ _ _ hk
  have h2 : Keep L s2 := by subst s2; split; exacts [h1, inc_keep _ _ _ h1]
  have h3 : Keep L s3 := by subst s3; split; exacts [awtClosePosted_keep _ _ h2, h2]
  have h4 : Keep L s4 := by
    subst s4
    split
    · split
      · rename_i t q hq
        exact tlinkSend_keep _ _ _ _ _ (grouped_keep _ _ _ h3 _ hq)
      · exact h3
    · exact emit_keep _ h3
  exact durDone_keep _ h4

theorem endBad_keep (s : State) (o : Nat) (st : Staged) (hk : Keep L s) :
    Keep L (endBad s o st) := by
  unfold endBad
  repeat' with_reducible first
    | assumption | apply emit_keep | apply tlinkSend_keep | intro _ | split | (simp only [keep_mk]; apply Keep.parts)
    | refine Keep.of_fst (by assumption) ?_

theorem execCtCheckFail_keep (o : Fin 64) (s : State) (hk : Keep L s) :
    KeepRes L (execCtCheckFail o s) := by
  unfold execCtCheckFail
  refine KeepRes.next ?_
  repeat' with_reducible first
    | assumption | apply badAfterHead_keep | apply endBad_keep | apply inc_keep | apply unstage_keep | intro _ | split
    | (simp only [keep_mk]; apply Keep.parts) | refine Keep.of_fst (by assumption) ?_

theorem ctAgain_keep (s : State) (o : Nat) (st : Staged) (hk : Keep L s) : Keep L (ctAgain s o st) := by
  have h1 : Keep L ((grouped s o st.q).getD (s, st.q)).1 := by
    cases h : grouped s o st.q with
    | none => exact hk
    | some t => exact grouped_keep _ _ _ hk _ h
  have h2 : Keep L (if isTlink s o then (grouped s o st.q).getD (s, st.q) else (s, st.q)).1 := by
    split
    · exact h1
    · exact hk
  unfold ctAgain
  split
  rename_i t q heq
  rw [heq] at h2
  extract_lets +onlyGivenNames u l
  exact raise_keep _ _ _ (inc_keep _ _ _ ((endBad_keep _ _ _ h2).upd rfl rfl rfl rfl rfl rfl))

theorem execCtUnderrun_keep (o : Fin 64) (s : State) (hk : Keep L s) :
    KeepRes L (execCtUnderrun o s) := by
  unfold execCtUnderrun
  refine KeepRes.next ?_
  repeat' with_reducible first
    | assumption | apply ctAgain_keep | apply stitchOut_keep | intro _ | split | (simp only [keep_mk]; apply Keep.parts)
    | refine Keep.of_fst (by assumption) ?_

theorem execCtHoldMaxExpiry_keep (o : Fin 64) (s : State) (hk : Keep L s) :
    KeepRes L (execCtHoldMaxExpiry o s) := by
  unfold execCtHoldMaxExpiry
  refine KeepRes.next ?_
  repeat' with_reducible first
    | assumption | apply ctAgain_keep | intro _ | split | (simp only [keep_mk]; apply Keep.parts)
    | refine Keep.of_fst (by assumption) ?_

theorem stitchesIn_keep (s : State) (p v n : Nat) (hk : Keep L s) :
    Keep L (stitchesIn s p v n) := by
  unfold stitchesIn
  repeat' with_reducible first
    | assumption | apply ackOut_keep | apply tlUpd_keep | apply wr_keep | intro _ | split
    | (simp only [keep_mk]; apply Keep.parts) | refine Keep.of_fst (by assumption) ?_
    | (extract_lets +onlyGivenNames x
       first
         | (refine (fun (hx : Keep L x) => ?_) ?_
            on_goal 1 => clear_value x
            on_goal 2 => subst x)
         | (refine (fun (hx : Keep L x.1) => ?_) ?_
            on_goal 1 => clear_value x
            on_goal 2 => subst x)
         | clear_value x)

theorem stitchesFree_keep (s : State) (p v n : Nat) (hk : Keep L s) :
    Keep L (stitchesFree s p v n) := by
  unfold stitchesFree
  repeat' with_reducible first
    | assumption | apply wr_keep | intro _ | split | (simp only [keep_mk]; apply Keep.parts)
    | refine Keep.of_fst (by assumption) ?_

theorem execDataEndBadReceive_keep (p : Fin 64) (pk : Packet) (o : Option (Fin 64)) (s : State) (hk : Keep L s) :
    KeepRes L (execDataEndBadReceive p pk o s) := by
  unfold execDataEndBadReceive
  refine KeepRes.next ?_
  repeat' with_reducible first
    | assumption | apply awtClosePosted_keep | apply endBad_keep | apply goodStitch_keep | apply slotsIn_keep
    | apply stitchesFree_keep | apply stitchesIn_keep | apply unstage_keep | intro _ | split
    | (simp only [keep_mk]; apply Keep.parts) | refine Keep.of_fst (by assumption) ?_
    | (extract_lets +onlyGivenNames x
       first
         | (refine (fun (hx : Keep L x) => ?_) ?_
            on_goal 1 => clear_value x
            on_goal 2 => subst x)
         | (refine (fun (hx : Keep L x.1) => ?_) ?_
            on_goal 1 => clear_value x
            on_goal 2 => subst x)
         | clear_value x)

end Sys2Proof.Machine
end

