-- ==== Sys2Proof/Laws/KeepFaults.lean ====
section
/-! SUPPORT. What the operations of Faults.lean keep. -/

namespace Sys2Proof.Machine

variable {L : List Instr}

theorem fltUpd_keep (s : State) (f : Flt → Flt) (hk : Keep L s) (hs : (f s.flt).ret = s.flt.ret) : Keep L (fltUpd s f) :=
  hk.upd rfl hs rfl rfl rfl rfl

theorem fltRecord_keep (s : State) (r : FltRec) (hk : Keep L s) : Keep L (fltRecord s r) := by
  unfold fltRecord
  extract_lets q b slot s1 s2
  have h1 : Keep L s1 := ⟨hk.regs, wf_cputs _ hk.ret _, hk.stg, hk.cert, hk.img, hk.pend⟩
  clear_value s1
  have h2 : Keep L s2 := wr_keep _ _ _ h1
  split
  · exact raise_keep _ _ _ (inc_keep _ _ _ h2)
  · exact h2

theorem fltStick_keep (s : State) (n : Nat) (hk : Keep L s) :
    Keep L (fltStick s n) := by
  unfold fltStick
  repeat' with_reducible first
    | assumption | apply wr_keep | intro _ | split | (simp only [keep_mk]; apply Keep.parts)
    | refine Keep.of_fst (by assumption) ?_
    | (extract_lets +onlyGivenNames x
       first
         | (refine (fun (hx : Keep L x) => ?_) ?_
            on_goal 1 => clear_value x
            on_goal 2 => subst x)
         | (refine (fun (hx : Keep L x.1) => ?_) ?_
            on_goal 1 => clear_value x
            on_goal 2 => subst x)
         | clear_value x)

theorem fenceGo_keep (s : State) (n : Nat) (hk : Keep L s) :
    Keep L (fenceGo s n) := by
  unfold fenceGo
  repeat' with_reducible first
    | assumption | apply cluFence_keep | apply dropGroup_keep | apply engFence_keep | apply fenceMode_keep
    | apply grpBit_keep | apply holdPorts_keep | apply retRetry_keep | apply slotFence_keep | apply wr_keep | intro _ | split
    | (simp only [keep_mk]; apply Keep.parts) | refine Keep.of_fst (by assumption) ?_
    | (extract_lets +onlyGivenNames x
       first
         | (refine (fun (hx : Keep L x) => ?_) ?_
            on_goal 1 => clear_value x
            on_goal 2 => subst x)
         | (refine (fun (hx : Keep L x.1) => ?_) ?_
            on_goal 1 => clear_value x
            on_goal 2 => subst x)
         | clear_value x)

theorem laceBlock_keep (s : State) (hk : Keep L s) :
    Keep L (laceBlock s) := by
  unfold laceBlock
  repeat' with_reducible first
    | assumption | apply emit_keep | apply lceUpd_keep | apply forEach_keep | intro _ | split
    | (simp only [keep_mk]; apply Keep.parts) | refine Keep.of_fst (by assumption) ?_
    | (extract_lets +onlyGivenNames x
       first
         | (refine (fun (hx : Keep L x) => ?_) ?_
            on_goal 1 => clear_value x
            on_goal 2 => subst x)
         | (refine (fun (hx : Keep L x.1) => ?_) ?_
            on_goal 1 => clear_value x
            on_goal 2 => subst x)
         | clear_value x)

theorem weltBlock_keep (s : State) (hk : Keep L s) :
    Keep L (weltBlock s) := by
  unfold weltBlock
  repeat' with_reducible first
    | assumption | apply fltUpd_keep | apply holdPorts_keep | apply portHold_keep | apply tlDown_keep | rfl
    | apply forEach_keep | intro _ | split | (simp only [keep_mk]; apply Keep.parts) | refine Keep.of_fst (by assumption) ?_
    | (extract_lets +onlyGivenNames x
       first
         | (refine (fun (hx : Keep L x) => ?_) ?_
            on_goal 1 => clear_value x
            on_goal 2 => subst x)
         | (refine (fun (hx : Keep L x.1) => ?_) ?_
            on_goal 1 => clear_value x
            on_goal 2 => subst x)
         | clear_value x)

theorem shankBlock_keep (s : State) (n : Nat) (hk : Keep L s) :
    Keep L (shankBlock s n) := by
  unfold shankBlock
  repeat' with_reducible first
    | assumption | apply overBudget_keep | apply retRetry_keep | apply voqLose_keep | apply forEach_keep | intro _ | split
    | (simp only [keep_mk]; apply Keep.parts) | refine Keep.of_fst (by assumption) ?_
    | (extract_lets +onlyGivenNames x
       first
         | (refine (fun (hx : Keep L x) => ?_) ?_
            on_goal 1 => clear_value x
            on_goal 2 => subst x)
         | (refine (fun (hx : Keep L x.1) => ?_) ?_
            on_goal 1 => clear_value x
            on_goal 2 => subst x)
         | clear_value x)

theorem blockEffect_keep (s : State) (n : Nat) (hk : Keep L s) :
    Keep L (blockEffect s n) := by
  unfold blockEffect
  repeat' with_reducible first
    | assumption | apply cluBlock_keep | apply dropGroup_keep | apply fltUpd_keep | apply laceBlock_keep
    | apply placeBlock_keep | apply portReset_keep | apply retRetry_keep | apply shankBlock_keep | apply weltBlock_keep
    | apply wr_keep | rfl | apply forEach_keep | intro _ | split | (simp only [keep_mk]; apply Keep.parts)
    | refine Keep.of_fst (by assumption) ?_
    | (extract_lets +onlyGivenNames x
       first
         | (refine (fun (hx : Keep L x) => ?_) ?_
            on_goal 1 => clear_value x
            on_goal 2 => subst x)
         | (refine (fun (hx : Keep L x.1) => ?_) ?_
            on_goal 1 => clear_value x
            on_goal 2 => subst x)
         | clear_value x)

theorem blockGo_keep (s : State) (n inst : Nat) (hk : Keep L s) :
    Keep L (blockGo s n inst) := by
  unfold blockGo
  repeat' with_reducible first
    | assumption | apply blockEffect_keep | apply fltUpd_keep | apply inc_keep | apply wr_keep | rfl | intro _ | split
    | (simp only [keep_mk]; apply Keep.parts) | refine Keep.of_fst (by assumption) ?_
    | (extract_lets +onlyGivenNames x
       first
         | (refine (fun (hx : Keep L x) => ?_) ?_
            on_goal 1 => clear_value x
            on_goal 2 => subst x)
         | (refine (fun (hx : Keep L x.1) => ?_) ?_
            on_goal 1 => clear_value x
            on_goal 2 => subst x)
         | clear_value x)

theorem reaction_keep (s : State) (n inst : Nat) (pt : Option Nat) (v : Nat) (hk : Keep L s) :
    Keep L (reaction s n inst pt v) := by
  unfold reaction
  repeat' with_reducible first
    | assumption | apply noticeSend_keep | apply blockGo_keep | apply fenceGo_keep | apply modeAuto_keep | apply partAssert_keep | apply wr_keep
    | intro _ | split | (simp only [keep_mk]; apply Keep.parts) | refine Keep.of_fst (by assumption) ?_
    | (extract_lets +onlyGivenNames x
       first
         | (refine (fun (hx : Keep L x) => ?_) ?_
            on_goal 1 => clear_value x
            on_goal 2 => subst x)
         | (refine (fun (hx : Keep L x.1) => ?_) ?_
            on_goal 1 => clear_value x
            on_goal 2 => subst x)
         | clear_value x)

theorem notify_keep (s : State) (hk : Keep L s) :
    Keep L (notify s) := by
  unfold notify
  repeat' with_reducible first
    | assumption | apply msixSignal_keep | intro _ | split | (simp only [keep_mk]; apply Keep.parts)
    | refine Keep.of_fst (by assumption) ?_

theorem fltReact_keep (s : State) (n inst : Nat) (pt : Option Nat) (kind : Nat) (first inj : Bool) (hk : Keep L s) :
    Keep L (fltReact s n inst pt kind first inj) := by
  unfold fltReact
  repeat' with_reducible first
    | assumption | apply fltRecord_keep | apply notify_keep | apply raiseIf_keep | apply reaction_keep | apply wr_keep
    | intro _ | split | (simp only [keep_mk]; apply Keep.parts) | refine Keep.of_fst (by assumption) ?_
    | (extract_lets +onlyGivenNames x
       first
         | (refine (fun (hx : Keep L x) => ?_) ?_
            on_goal 1 => clear_value x
            on_goal 2 => subst x)
         | (refine (fun (hx : Keep L x.1) => ?_) ?_
            on_goal 1 => clear_value x
            on_goal 2 => subst x)
         | clear_value x)

theorem occur_keep (s : State) (n inst : Nat) (pt : Option Nat) (kind : Option Nat) (inj : Bool) (hk : Keep L s) :
    Keep L (occur s n inst pt kind inj) := by
  unfold occur
  repeat' with_reducible first
    | assumption | apply fltReact_keep | apply fltRecord_keep | apply fltStick_keep | apply fltUpd_keep | apply inc_keep
    | apply wr_keep | apply wrb_keep | rfl | intro _ | split | (simp only [keep_mk]; apply Keep.parts)
    | refine Keep.of_fst (by assumption) ?_
    | (extract_lets +onlyGivenNames x
       first
         | (refine (fun (hx : Keep L x) => ?_) ?_
            on_goal 1 => clear_value x
            on_goal 2 => subst x)
         | (refine (fun (hx : Keep L x.1) => ?_) ?_
            on_goal 1 => clear_value x
            on_goal 2 => subst x)
         | clear_value x)

theorem bankBad_keep (s : State) (q v : Nat) (hk : Keep L s) :
    Keep L (bankBad s q v) := by
  unfold bankBad
  repeat' with_reducible first
    | assumption | apply overBudget_keep | apply retRetry_keep | apply voqLose_keep | apply forEach_keep | intro _ | split
    | (simp only [keep_mk]; apply Keep.parts) | refine Keep.of_fst (by assumption) ?_

theorem gateBad_keep (s : State) (p v : Nat) (hk : Keep L s) :
    Keep L (gateBad s p v) := by
  unfold gateBad
  repeat' with_reducible first
    | assumption | apply wr_keep | intro _ | split | (simp only [keep_mk]; apply Keep.parts)
    | refine Keep.of_fst (by assumption) ?_
    | (extract_lets +onlyGivenNames x
       first
         | (refine (fun (hx : Keep L x) => ?_) ?_
            on_goal 1 => clear_value x
            on_goal 2 => subst x)
         | (refine (fun (hx : Keep L x.1) => ?_) ?_
            on_goal 1 => clear_value x
            on_goal 2 => subst x)
         | clear_value x)

theorem awtBad_keep (s : State) (i : Nat) (hk : Keep L s) :
    Keep L (awtBad s i) := by
  unfold awtBad
  repeat' with_reducible first
    | assumption | apply wrb_keep | apply wr_keep | intro _ | split | (simp only [keep_mk]; apply Keep.parts)
    | refine Keep.of_fst (by assumption) ?_
    | (extract_lets +onlyGivenNames x
       first
         | (refine (fun (hx : Keep L x) => ?_) ?_
            on_goal 1 => clear_value x
            on_goal 2 => subst x)
         | (refine (fun (hx : Keep L x.1) => ?_) ?_
            on_goal 1 => clear_value x
            on_goal 2 => subst x)
         | clear_value x)

theorem replayBad_keep (s : State) (v : Nat) (hk : Keep L s) :
    Keep L (replayBad s v) := by
  unfold replayBad
  repeat' with_reducible first
    | assumption | apply lose_keep | apply tlUpd_keep | apply forEach_keep | intro _ | split
    | (simp only [keep_mk]; apply Keep.parts) | refine Keep.of_fst (by assumption) ?_
    | (extract_lets +onlyGivenNames x
       first
         | (refine (fun (hx : Keep L x) => ?_) ?_
            on_goal 1 => clear_value x
            on_goal 2 => subst x)
         | (refine (fun (hx : Keep L x.1) => ?_) ?_
            on_goal 1 => clear_value x
            on_goal 2 => subst x)
         | clear_value x)

theorem detected_keep (s : State) (n inst : Nat) (hk : Keep L s) :
    Keep L (detected s n inst) := by
  unfold detected
  repeat' with_reducible first
    | assumption | apply awtBad_keep | apply bankBad_keep | apply fltUpd_keep | apply gateBad_keep | apply inc_keep
    | apply replayBad_keep | apply wr_keep | rfl | intro _ | split | (simp only [keep_mk]; apply Keep.parts)
    | refine Keep.of_fst (by assumption) ?_
    | (extract_lets +onlyGivenNames x
       first
         | (refine (fun (hx : Keep L x) => ?_) ?_
            on_goal 1 => clear_value x
            on_goal 2 => subst x)
         | (refine (fun (hx : Keep L x.1) => ?_) ?_
            on_goal 1 => clear_value x
            on_goal 2 => subst x)
         | clear_value x)

theorem execFaultAssert_keep (src : BitVec 12) (inst : BitVec 32) (pt : Option (Fin 16)) (s : State) (hk : Keep L s) :
    KeepRes L (execFaultAssert src inst pt s) := by
  unfold execFaultAssert
  refine KeepRes.next ?_
  repeat' with_reducible first
    | assumption | apply detected_keep | apply occur_keep | intro _ | split | (simp only [keep_mk]; apply Keep.parts)
    | refine Keep.of_fst (by assumption) ?_
    | (extract_lets +onlyGivenNames x
       first
         | (refine (fun (hx : Keep L x) => ?_) ?_
            on_goal 1 => clear_value x
            on_goal 2 => subst x)
         | (refine (fun (hx : Keep L x.1) => ?_) ?_
            on_goal 1 => clear_value x
            on_goal 2 => subst x)
         | clear_value x)

theorem execFaultDeassert_keep (src : BitVec 12) (s : State) (hk : Keep L s) :
    KeepRes L (execFaultDeassert src s) := by
  unfold execFaultDeassert
  refine KeepRes.next ?_
  repeat' with_reducible first
    | assumption | apply wr_keep | intro _ | split | (simp only [keep_mk]; apply Keep.parts)
    | refine Keep.of_fst (by assumption) ?_
    | (extract_lets +onlyGivenNames x
       first
         | (refine (fun (hx : Keep L x) => ?_) ?_
            on_goal 1 => clear_value x
            on_goal 2 => subst x)
         | (refine (fun (hx : Keep L x.1) => ?_) ?_
            on_goal 1 => clear_value x
            on_goal 2 => subst x)
         | clear_value x)

theorem railBreak_keep (s : State) (j : Nat) (inj : Bool) (hk : Keep L s) :
    Keep L (railBreak s j inj) := by
  unfold railBreak
  repeat' with_reducible first
    | assumption | apply fltUpd_keep | apply occur_keep | apply wr_keep | rfl | intro _ | split
    | (simp only [keep_mk]; apply Keep.parts) | refine Keep.of_fst (by assumption) ?_
    | (extract_lets +onlyGivenNames x
       first
         | (refine (fun (hx : Keep L x) => ?_) ?_
            on_goal 1 => clear_value x
            on_goal 2 => subst x)
         | (refine (fun (hx : Keep L x.1) => ?_) ?_
            on_goal 1 => clear_value x
            on_goal 2 => subst x)
         | clear_value x)

theorem execRailBroken_keep (j : Fin 1335) (s : State) (hk : Keep L s) :
    KeepRes L (execRailBroken j s) := by
  unfold execRailBroken
  refine KeepRes.next ?_
  repeat' with_reducible first
    | assumption | apply railBreak_keep | intro _ | split | (simp only [keep_mk]; apply Keep.parts)
    | refine Keep.of_fst (by assumption) ?_

theorem execRailRestored_keep (j : Fin 1335) (level : Bool) (s : State) (hk : Keep L s) :
    KeepRes L (execRailRestored j level s) := by
  unfold execRailRestored
  refine KeepRes.next ?_
  repeat' with_reducible first
    | assumption | apply fltRecord_keep | apply fltUpd_keep | apply occur_keep | apply wr_keep | apply wrb_keep | rfl
    | intro _ | split | (simp only [keep_mk]; apply Keep.parts) | refine Keep.of_fst (by assumption) ?_
    | (extract_lets +onlyGivenNames x
       first
         | (refine (fun (hx : Keep L x) => ?_) ?_
            on_goal 1 => clear_value x
            on_goal 2 => subst x)
         | (refine (fun (hx : Keep L x.1) => ?_) ?_
            on_goal 1 => clear_value x
            on_goal 2 => subst x)
         | clear_value x)

theorem execShadowEnd_keep (b : Fin 18) (s : State) (hk : Keep L s) :
    KeepRes L (execShadowEnd b s) := by
  unfold execShadowEnd
  refine KeepRes.next ?_
  repeat' with_reducible first
    | assumption | apply fltReact_keep | apply fltUpd_keep | apply wr_keep | rfl | apply forEach_keep | intro _ | split
    | (simp only [keep_mk]; apply Keep.parts) | refine Keep.of_fst (by assumption) ?_
    | (extract_lets +onlyGivenNames x
       first
         | (refine (fun (hx : Keep L x) => ?_) ?_
            on_goal 1 => clear_value x
            on_goal 2 => subst x)
         | (refine (fun (hx : Keep L x.1) => ?_) ?_
            on_goal 1 => clear_value x
            on_goal 2 => subst x)
         | clear_value x)

theorem execEscalationWindowEnd_keep (b : Fin 18) (s : State) (hk : Keep L s) :
    KeepRes L (execEscalationWindowEnd b s) := by
  unfold execEscalationWindowEnd
  refine KeepRes.next ?_
  repeat' with_reducible first
    | assumption | apply wr_keep | intro _ | split | (simp only [keep_mk]; apply Keep.parts)
    | refine Keep.of_fst (by assumption) ?_

theorem stickyClear_keep (s : State) (n : Nat) (hk : Keep L s) :
    Keep L (stickyClear s n) := by
  unfold stickyClear
  repeat' with_reducible first
    | assumption | apply fltRecord_keep | apply fltStick_keep | apply wr_keep | intro _ | split
    | (simp only [keep_mk]; apply Keep.parts) | refine Keep.of_fst (by assumption) ?_
    | (extract_lets +onlyGivenNames x
       first
         | (refine (fun (hx : Keep L x) => ?_) ?_
            on_goal 1 => clear_value x
            on_goal 2 => subst x)
         | (refine (fun (hx : Keep L x.1) => ?_) ?_
            on_goal 1 => clear_value x
            on_goal 2 => subst x)
         | clear_value x)

theorem execFaultStickyClear_keep (m : Master) (src : BitVec 12) (s : State) (hk : Keep L s) :
    KeepRes L (execFaultStickyClear m src s) := by
  unfold execFaultStickyClear
  refine KeepRes.next ?_
  repeat' with_reducible first
    | assumption | apply asMaster_keep | apply stickyClear_keep | intro _ | split | (simp only [keep_mk]; apply Keep.parts)
    | refine Keep.of_fst (by assumption) ?_

theorem stickyClearAll_keep (s : State) (hk : Keep L s) :
    Keep L (stickyClearAll s) := by
  unfold stickyClearAll
  repeat' with_reducible first
    | assumption | apply stickyClear_keep | apply forEach_keep | intro _ | split | (simp only [keep_mk]; apply Keep.parts)
    | refine Keep.of_fst (by assumption) ?_

theorem execFaultClearAll_keep (m : Master) (s : State) (hk : Keep L s) :
    KeepRes L (execFaultClearAll m s) := by
  unfold execFaultClearAll
  refine KeepRes.next ?_
  repeat' with_reducible first
    | assumption | apply asMaster_keep | apply stickyClearAll_keep | intro _ | split
    | (simp only [keep_mk]; apply Keep.parts) | refine Keep.of_fst (by assumption) ?_

theorem fltRestore_keep (s : State) (n : Nat) (hk : Keep L s) :
    Keep L (fltRestore s n) := by
  unfold fltRestore
  repeat' with_reducible first
    | assumption | apply fenceFree_keep | apply slotUnfence_keep | apply wr_keep | intro _ | split
    | (simp only [keep_mk]; apply Keep.parts) | refine Keep.of_fst (by assumption) ?_
    | (extract_lets +onlyGivenNames x
       first
         | (refine (fun (hx : Keep L x) => ?_) ?_
            on_goal 1 => clear_value x
            on_goal 2 => subst x)
         | (refine (fun (hx : Keep L x.1) => ?_) ?_
            on_goal 1 => clear_value x
            on_goal 2 => subst x)
         | clear_value x)

theorem execFaultRestore_keep (m : Master) (src : BitVec 12) (s : State) (hk : Keep L s) :
    KeepRes L (execFaultRestore m src s) := by
  unfold execFaultRestore
  refine KeepRes.next ?_
  repeat' with_reducible first
    | assumption | apply asMaster_keep | apply fltRestore_keep | apply wr_keep | intro _ | split
    | (simp only [keep_mk]; apply Keep.parts) | refine Keep.of_fst (by assumption) ?_

theorem execCollectorSelfCheck_keep (pass : Bool) (s : State) (hk : Keep L s) :
    KeepRes L (execCollectorSelfCheck pass s) := by
  unfold execCollectorSelfCheck
  refine KeepRes.next ?_
  repeat' with_reducible first
    | assumption | apply raiseIf_keep | apply wrb_keep | intro _ | split | (simp only [keep_mk]; apply Keep.parts)
    | refine Keep.of_fst (by assumption) ?_

theorem execPairReadbackMismatch_keep (s : State) (hk : Keep L s) :
    KeepRes L (execPairReadbackMismatch s) := by
  unfold execPairReadbackMismatch
  refine KeepRes.next ?_
  repeat' with_reducible first
    | assumption | apply raise_keep | intro _ | split | (simp only [keep_mk]; apply Keep.parts)
    | refine Keep.of_fst (by assumption) ?_

theorem faultInject_keep (s : State) (hk : Keep L s) :
    Keep L (faultInject s) := by
  unfold faultInject
  repeat' with_reducible first
    | assumption | apply fltUpd_keep | apply occur_keep | apply railBreak_keep | apply wr_keep | rfl | intro _ | split
    | (simp only [keep_mk]; apply Keep.parts) | refine Keep.of_fst (by assumption) ?_
    | (extract_lets +onlyGivenNames x
       first
         | (refine (fun (hx : Keep L x) => ?_) ?_
            on_goal 1 => clear_value x
            on_goal 2 => subst x)
         | (refine (fun (hx : Keep L x.1) => ?_) ?_
            on_goal 1 => clear_value x
            on_goal 2 => subst x)
         | clear_value x)

theorem execFaultInject_keep (m : Master) (s : State) (hk : Keep L s) :
    KeepRes L (execFaultInject m s) := by
  unfold execFaultInject
  refine KeepRes.next ?_
  repeat' with_reducible first
    | assumption | apply asMaster_keep | apply faultInject_keep | intro _ | split | (simp only [keep_mk]; apply Keep.parts)
    | refine Keep.of_fst (by assumption) ?_

theorem execFaultInjectEnd_keep (s : State) (hk : Keep L s) :
    KeepRes L (execFaultInjectEnd s) := by
  unfold execFaultInjectEnd
  refine KeepRes.next ?_
  repeat' with_reducible first
    | assumption | apply fltUpd_keep | apply wr_keep | rfl | intro _ | split | (simp only [keep_mk]; apply Keep.parts)
    | refine Keep.of_fst (by assumption) ?_
    | (extract_lets +onlyGivenNames x
       first
         | (refine (fun (hx : Keep L x) => ?_) ?_
            on_goal 1 => clear_value x
            on_goal 2 => subst x)
         | (refine (fun (hx : Keep L x.1) => ?_) ?_
            on_goal 1 => clear_value x
            on_goal 2 => subst x)
         | clear_value x)

theorem execScrubPass_keep (s : State) (hk : Keep L s) :
    KeepRes L (execScrubPass s) := by
  unfold execScrubPass
  refine KeepRes.next ?_
  repeat' with_reducible first
    | assumption | intro _ | split | (simp only [keep_mk]; apply Keep.parts) | refine Keep.of_fst (by assumption) ?_

end Sys2Proof.Machine
end

