-- ==== Sys2Proof/Laws/KeepResets.lean ====
section
/-! SUPPORT. What the operations of Resets.lean keep. -/

namespace Sys2Proof.Machine

variable {L : List Instr}

theorem rstUpd_keep (s : State) (f : RstSt → RstSt) (hk : Keep L s) :
    Keep L (rstUpd s f) := by
  unfold rstUpd
  repeat' with_reducible first
    | assumption | intro _ | split | (simp only [keep_mk]; apply Keep.parts) | refine Keep.of_fst (by assumption) ?_

theorem regsReset_keep (s : State) (c : Nat) (hk : Keep L s) : Keep L (regsReset s c) := rreset_keep _ hk

theorem awtWarm_keep (s : State) (hk : Keep L s) :
    Keep L (awtWarm s) := by
  unfold awtWarm
  repeat' with_reducible first
    | assumption | apply wr_keep | apply forEach_keep | intro _ | split | (simp only [keep_mk]; apply Keep.parts)
    | refine Keep.of_fst (by assumption) ?_

theorem wideState_keep (s : State) (c : Nat) (hk : Keep L s) : Keep L (wideState s c) := by
  refine ⟨hk.regs, ?_, ?_, ?_, fun e he => ?_, hk.pend⟩
  · show Memory.wf (if c = 0 then [] else s.flt.ret) = true
    split
    · rfl
    · exact hk.ret
  · show Memory.wf (if c < 2 then [] else s.ckr.stg) = true
    split
    · rfl
    · exact hk.stg
  · show Memory.wf (if c < 2 then [] else s.tst.cert) = true
    split
    · rfl
    · exact hk.cert
  · cases he

theorem partsHeld_keep (s : State) (hk : Keep L s) :
    Keep L (partsHeld s) := by
  unfold partsHeld
  repeat' with_reducible first
    | assumption | apply wr_keep | apply forEach_keep | intro _ | split | (simp only [keep_mk]; apply Keep.parts)
    | refine Keep.of_fst (by assumption) ?_

theorem blocksHeld_keep (s t : State) (hk : Keep L t) : Keep L (blocksHeld s t) := by
  unfold blocksHeld
  repeat' with_reducible first
    | assumption | apply wr_keep | apply forEach_keep | intro _

theorem causesSeen_keep (s t : State) (c : Nat) (hk : Keep L t) : Keep L (causesSeen s t c) := by
  unfold causesSeen
  dsimp only
  repeat' with_reducible first
    | assumption | apply wr_keep | intro _ | split

theorem laceOuts_keep (s : State) (c : Nat) (hk : Keep L s) : Keep L (laceOuts s c) := by
  unfold laceOuts
  repeat' with_reducible first
    | assumption | apply trigReset_keep | apply lceUpd_keep | apply emit_keep | apply forEach_keep | rfl | intro _ | split

theorem laceDrive_keep (s : State) (hk : Keep L s) : Keep L (laceDrive s) := by
  unfold laceDrive
  repeat' with_reducible first
    | assumption | apply emit_keep | apply forEach_keep | intro _

theorem wideApply_keep (s : State) (c : Nat) (hk : Keep L s) :
    Keep L (wideApply s c) := by
  unfold wideApply
  repeat' with_reducible first
    | assumption | apply laceOuts_keep | apply causesSeen_keep | apply blocksHeld_keep | apply awtWarm_keep | apply bistAbort_keep | apply laceStop_keep | apply partsHeld_keep
    | apply presetLoad_keep | apply regsReset_keep | apply trigReset_keep | apply wideState_keep | apply wrb_keep | intro _
    | split | (simp only [keep_mk]; apply Keep.parts) | refine Keep.of_fst (by assumption) ?_
    | (extract_lets +onlyGivenNames x
       first
         | (refine (fun (hx : Keep L x) => ?_) ?_
            on_goal 1 => clear_value x
            on_goal 2 => subst x)
         | (refine (fun (hx : Keep L x.1) => ?_) ?_
            on_goal 1 => clear_value x
            on_goal 2 => subst x)
         | clear_value x)

theorem coldGo_keep (s : State) (k : Nat) (hk : Keep L s) :
    Keep L (coldGo s k) := by
  unfold coldGo
  repeat' with_reducible first
    | assumption | apply rstUpd_keep | apply wideApply_keep | intro _ | split | (simp only [keep_mk]; apply Keep.parts)
    | refine Keep.of_fst (by assumption) ?_
    | (extract_lets +onlyGivenNames x
       first
         | (refine (fun (hx : Keep L x) => ?_) ?_
            on_goal 1 => clear_value x
            on_goal 2 => subst x)
         | (refine (fun (hx : Keep L x.1) => ?_) ?_
            on_goal 1 => clear_value x
            on_goal 2 => subst x)
         | clear_value x)

theorem resetNotice_keep (s : State) (hk : Keep L s) : Keep L (resetNotice s) := by
  unfold resetNotice
  split
  · exact hk
  refine forEach_keep _ _ (noticeSend_keep _ _ _ _ _ hk) (fun t p ht => ?_)
  split
  · split
    · exact ht
    split
    · rename_i s' q hg
      exact tlinkSend_keep _ _ _ _ _ (unstage_keep _ _ _ (grouped_keep _ _ _ ht _ hg))
    · exact ht
  · exact ht

theorem warmGo_keep (s : State) (hk : Keep L s) :
    Keep L (warmGo s) := by
  unfold warmGo
  repeat' with_reducible first
    | assumption | apply resetNotice_keep | apply coldGo_keep | apply raise_keep | apply rstUpd_keep | apply wideApply_keep | apply wr_keep | intro _
    | split | (simp only [keep_mk]; apply Keep.parts) | refine Keep.of_fst (by assumption) ?_
    | (extract_lets +onlyGivenNames x
       first
         | (refine (fun (hx : Keep L x) => ?_) ?_
            on_goal 1 => clear_value x
            on_goal 2 => subst x)
         | (refine (fun (hx : Keep L x.1) => ?_) ?_
            on_goal 1 => clear_value x
            on_goal 2 => subst x)
         | clear_value x)

theorem wideTry_keep (s : State) (hk : Keep L s) :
    Keep L (wideTry s) := by
  unfold wideTry
  repeat' with_reducible first
    | assumption | apply rstUpd_keep | apply wr_keep | intro _ | split | (simp only [keep_mk]; apply Keep.parts)
    | refine Keep.of_fst (by assumption) ?_

theorem execPorAssert_keep (s : State) (hk : Keep L s) :
    KeepRes L (execPorAssert s) := by
  unfold execPorAssert
  refine KeepRes.next ?_
  repeat' with_reducible first
    | assumption | apply rstUpd_keep | apply wideApply_keep | intro _ | split | (simp only [keep_mk]; apply Keep.parts)
    | refine Keep.of_fst (by assumption) ?_

theorem execPorRelease_keep (s : State) (hk : Keep L s) :
    KeepRes L (execPorRelease s) := by
  unfold execPorRelease
  refine KeepRes.next ?_
  repeat' with_reducible first
    | assumption | apply rstUpd_keep | apply wideTry_keep | intro _ | split | (simp only [keep_mk]; apply Keep.parts)
    | refine Keep.of_fst (by assumption) ?_

theorem execRstNAssert_keep (s : State) (hk : Keep L s) :
    KeepRes L (execRstNAssert s) := by
  unfold execRstNAssert
  refine KeepRes.next ?_
  repeat' with_reducible first
    | assumption | apply coldGo_keep | apply rstUpd_keep | apply wr_keep | intro _ | split
    | (simp only [keep_mk]; apply Keep.parts) | refine Keep.of_fst (by assumption) ?_

theorem execRstNRelease_keep (w : PulseLen) (s : State) (hk : Keep L s) :
    KeepRes L (execRstNRelease w s) := by
  unfold execRstNRelease
  refine KeepRes.next ?_
  repeat' with_reducible first
    | assumption | apply raise_keep | apply rstUpd_keep | apply wideTry_keep | intro _ | split
    | (simp only [keep_mk]; apply Keep.parts) | refine Keep.of_fst (by assumption) ?_

theorem regWarm_keep (s : State) (hk : Keep L s) :
    Keep L (regWarm s) := by
  unfold regWarm
  repeat' with_reducible first
    | assumption | apply resetNotice_keep | apply warmGo_keep | apply wr_keep | intro _ | split | (simp only [keep_mk]; apply Keep.parts)
    | refine Keep.of_fst (by assumption) ?_
    | (extract_lets +onlyGivenNames x
       first
         | (refine (fun (hx : Keep L x) => ?_) ?_
            on_goal 1 => clear_value x
            on_goal 2 => subst x)
         | (refine (fun (hx : Keep L x.1) => ?_) ?_
            on_goal 1 => clear_value x
            on_goal 2 => subst x)
         | clear_value x)

theorem execRstCmdWarm_keep (m : Master) (key : BitVec 8) (s : State) (hk : Keep L s) :
    KeepRes L (execRstCmdWarm m key s) := by
  unfold execRstCmdWarm
  refine KeepRes.next ?_
  repeat' with_reducible first
    | assumption | apply asMaster_keep | apply regWarm_keep | intro _ | split | (simp only [keep_mk]; apply Keep.parts)
    | refine Keep.of_fst (by assumption) ?_

theorem execResetPulseEnd_keep (r : ResetRef) (s : State) (hk : Keep L s) :
    KeepRes L (execResetPulseEnd r s) := by
  unfold execResetPulseEnd
  refine KeepRes.next ?_
  repeat' with_reducible first
    | assumption | apply partUncause_keep | apply portUnreset_keep | apply rstUpd_keep | apply wideTry_keep | intro _ | split
    | (simp only [keep_mk]; apply Keep.parts) | refine Keep.of_fst (by assumption) ?_

theorem identity_keep (s : State) (hk : Keep L s) :
    Keep L (identity s) := by
  unfold identity
  repeat' with_reducible first
    | assumption | apply raiseIf_keep | apply wrb_keep | intro _ | split | (simp only [keep_mk]; apply Keep.parts)
    | refine Keep.of_fst (by assumption) ?_
    | (extract_lets +onlyGivenNames x
       first
         | (refine (fun (hx : Keep L x) => ?_) ?_
            on_goal 1 => clear_value x
            on_goal 2 => subst x)
         | (refine (fun (hx : Keep L x.1) => ?_) ?_
            on_goal 1 => clear_value x
            on_goal 2 => subst x)
         | clear_value x)

theorem trimGood_keep (s : State) (hk : Keep L s) :
    Keep L (trimGood s) := by
  unfold trimGood
  repeat' with_reducible first
    | assumption | apply identity_keep | apply rstUpd_keep | apply wr_keep | intro _ | split
    | (simp only [keep_mk]; apply Keep.parts) | refine Keep.of_fst (by assumption) ?_
    | (extract_lets +onlyGivenNames x
       first
         | (refine (fun (hx : Keep L x) => ?_) ?_
            on_goal 1 => clear_value x
            on_goal 2 => subst x)
         | (refine (fun (hx : Keep L x.1) => ?_) ?_
            on_goal 1 => clear_value x
            on_goal 2 => subst x)
         | clear_value x)

theorem trimFail_keep (s : State) (word : Nat) (hk : Keep L s) :
    Keep L (trimFail s word) := by
  unfold trimFail
  repeat' with_reducible first
    | assumption | apply raise_keep | apply rstUpd_keep | apply transGo_keep | apply wr_keep | intro _ | split
    | (simp only [keep_mk]; apply Keep.parts) | refine Keep.of_fst (by assumption) ?_
    | (extract_lets +onlyGivenNames x
       first
         | (refine (fun (hx : Keep L x) => ?_) ?_
            on_goal 1 => clear_value x
            on_goal 2 => subst x)
         | (refine (fun (hx : Keep L x.1) => ?_) ?_
            on_goal 1 => clear_value x
            on_goal 2 => subst x)
         | clear_value x)

theorem execTrimAttemptDone_keep (ok : Bool) (word : BitVec 16) (s : State) (hk : Keep L s) :
    KeepRes L (execTrimAttemptDone ok word s) := by
  unfold execTrimAttemptDone
  refine KeepRes.next ?_
  repeat' with_reducible first
    | assumption | apply trimFail_keep | apply trimGood_keep | intro _ | split | (simp only [keep_mk]; apply Keep.parts)
    | refine Keep.of_fst (by assumption) ?_

theorem execStartupDone_keep (s : State) (hk : Keep L s) :
    KeepRes L (execStartupDone s) := by
  unfold execStartupDone
  refine KeepRes.next ?_
  repeat' with_reducible first
    | assumption | apply laceDrive_keep | apply grpReady_keep | apply modeLater_keep | apply modeSet_keep | apply prtUpd_keep | apply rstUpd_keep
    | apply wr_keep | apply forEach_keep | intro _ | split | (simp only [keep_mk]; apply Keep.parts)
    | refine Keep.of_fst (by assumption) ?_
    | (extract_lets +onlyGivenNames x
       first
         | (refine (fun (hx : Keep L x) => ?_) ?_
            on_goal 1 => clear_value x
            on_goal 2 => subst x)
         | (refine (fun (hx : Keep L x.1) => ?_) ?_
            on_goal 1 => clear_value x
            on_goal 2 => subst x)
         | clear_value x)

theorem execSysRefclkLost_keep (s : State) (hk : Keep L s) :
    KeepRes L (execSysRefclkLost s) := by
  unfold execSysRefclkLost
  refine KeepRes.next ?_
  repeat' with_reducible first
    | assumption | apply raise_keep | apply rstUpd_keep | intro _ | split | (simp only [keep_mk]; apply Keep.parts)
    | refine Keep.of_fst (by assumption) ?_

theorem execPllLockLoss_keep (which : Fin 5) (s : State) (hk : Keep L s) :
    KeepRes L (execPllLockLoss which s) := by
  unfold execPllLockLoss
  refine KeepRes.next ?_
  repeat' with_reducible first
    | assumption | apply raise_keep | apply rstUpd_keep | intro _ | split | (simp only [keep_mk]; apply Keep.parts)
    | refine Keep.of_fst (by assumption) ?_

theorem execSysRefclkGood_keep (s : State) (hk : Keep L s) :
    KeepRes L (execSysRefclkGood s) := by
  unfold execSysRefclkGood
  refine KeepRes.next ?_
  repeat' with_reducible first
    | assumption | apply rstUpd_keep | apply wideTry_keep | intro _ | split | (simp only [keep_mk]; apply Keep.parts)
    | refine Keep.of_fst (by assumption) ?_

theorem execCrossingTimeout_keep (s : State) (hk : Keep L s) :
    KeepRes L (execCrossingTimeout s) := by
  unfold execCrossingTimeout
  refine KeepRes.next ?_
  repeat' with_reducible first
    | assumption | apply raise_keep | intro _ | split | (simp only [keep_mk]; apply Keep.parts)
    | refine Keep.of_fst (by assumption) ?_

theorem execStrapRead_keep (ohms : Nat) (s : State) (hk : Keep L s) :
    KeepRes L (execStrapRead ohms s) := by
  unfold execStrapRead
  refine KeepRes.next ?_
  repeat' with_reducible first
    | assumption | apply presetLoad_keep | apply raiseIf_keep | apply wr_keep | apply wrb_keep | intro _ | split
    | (simp only [keep_mk]; apply Keep.parts) | refine Keep.of_fst (by assumption) ?_
    | (extract_lets +onlyGivenNames x
       first
         | (refine (fun (hx : Keep L x) => ?_) ?_
            on_goal 1 => clear_value x
            on_goal 2 => subst x)
         | (refine (fun (hx : Keep L x.1) => ?_) ?_
            on_goal 1 => clear_value x
            on_goal 2 => subst x)
         | clear_value x)

theorem execTestEnLowInFactory_keep (s : State) (hk : Keep L s) :
    KeepRes L (execTestEnLowInFactory s) := by
  unfold execTestEnLowInFactory
  refine KeepRes.next ?_
  repeat' with_reducible first
    | assumption | apply coldGo_keep | apply rstUpd_keep | intro _ | split | (simp only [keep_mk]; apply Keep.parts)
    | refine Keep.of_fst (by assumption) ?_
    | (extract_lets +onlyGivenNames x
       first
         | (refine (fun (hx : Keep L x) => ?_) ?_
            on_goal 1 => clear_value x
            on_goal 2 => subst x)
         | (refine (fun (hx : Keep L x.1) => ?_) ?_
            on_goal 1 => clear_value x
            on_goal 2 => subst x)
         | clear_value x)

theorem execTestEnHighOutsideFactory_keep (s : State) (hk : Keep L s) :
    KeepRes L (execTestEnHighOutsideFactory s) := by
  unfold execTestEnHighOutsideFactory
  refine KeepRes.next ?_
  repeat' with_reducible first
    | assumption | apply raiseIf_keep | apply rstUpd_keep | intro _ | split | (simp only [keep_mk]; apply Keep.parts)
    | refine Keep.of_fst (by assumption) ?_

end Sys2Proof.Machine
end

