-- ==== Sys2Proof/Laws/KeepTst.lean ====
section
/-! SUPPORT. What the operations of Tst.lean keep. -/

namespace Sys2Proof.Machine

variable {L : List Instr}

theorem tstUpd_keep (s : State) (f : Tst → Tst) (hk : Keep L s) (hs : (f s.tst).cert = s.tst.cert) : Keep L (tstUpd s f) :=
  hk.upd rfl rfl rfl hs rfl rfl

theorem bistReturn_keep (s : State) (hk : Keep L s) : Keep L (bistReturn s) := by
  unfold bistReturn
  have h := wr_keep GLB_MODE_CAUSE 0 6 (wr_keep GLB_MODE_BUSY 0 1
    (rstUpd_keep _ (fun r => { r with starting := true }) (wideApply_keep s 2 hk)))
  revert h
  generalize wr (wr (rstUpd (wideApply s 2) (fun r => { r with starting := true })) GLB_MODE_BUSY 0 1) GLB_MODE_CAUSE 0 6 = t
  intro h
  exact h.upd rfl rfl rfl rfl rfl rfl

theorem bistStart_keep (s : State) (hk : Keep L s) :
    Keep L (bistStart s) := by
  unfold bistStart
  repeat' with_reducible first
    | assumption | apply bistResult_keep | apply bistReturn_keep | apply wr_keep | apply forEach_keep | intro _ | split
    | (simp only [keep_mk]; apply Keep.parts) | refine Keep.of_fst (by assumption) ?_

theorem bistUnshadow_keep (s : State) (t : Bist) (hk : Keep L s) :
    Keep L (bistUnshadow s t) := by
  unfold bistUnshadow
  repeat' with_reducible first
    | assumption | apply fltUpd_keep | apply wr_keep | rfl | apply forEach_keep | intro _ | split
    | (simp only [keep_mk]; apply Keep.parts) | refine Keep.of_fst (by assumption) ?_
    | (extract_lets +onlyGivenNames x
       first
         | (refine (fun (hx : Keep L x) => ?_) ?_
            on_goal 1 => clear_value x
            on_goal 2 => subst x)
         | (refine (fun (hx : Keep L x.1) => ?_) ?_
            on_goal 1 => clear_value x
            on_goal 2 => subst x)
         | clear_value x)

theorem bistEnd_keep (s : State) (t : Bist) (hk : Keep L s) :
    Keep L (bistEnd s t) := by
  unfold bistEnd
  repeat' with_reducible first
    | assumption | apply bistReturn_keep | apply bistUnshadow_keep | apply tstUpd_keep | apply wr_keep | rfl | intro _
    | split | (simp only [keep_mk]; apply Keep.parts) | refine Keep.of_fst (by assumption) ?_
    | (extract_lets +onlyGivenNames x
       first
         | (refine (fun (hx : Keep L x) => ?_) ?_
            on_goal 1 => clear_value x
            on_goal 2 => subst x)
         | (refine (fun (hx : Keep L x.1) => ?_) ?_
            on_goal 1 => clear_value x
            on_goal 2 => subst x)
         | clear_value x)

theorem bistFound_keep (s : State) (t : Bist) (f : BistFound) (hk : Keep L s) :
    Keep L (bistFound s t f).1 := by
  unfold bistFound
  repeat' with_reducible first
    | assumption | apply raise_keep | apply raiseIf_keep | apply wr_keep | apply wrb_keep | apply forEach_keep | intro _
    | split | (simp only [keep_mk]; apply Keep.parts) | refine Keep.of_fst (by assumption) ?_
    | (extract_lets +onlyGivenNames x
       first
         | (refine (fun (hx : Keep L x) => ?_) ?_
            on_goal 1 => clear_value x
            on_goal 2 => subst x)
         | (refine (fun (hx : Keep L x.1) => ?_) ?_
            on_goal 1 => clear_value x
            on_goal 2 => subst x)
         | clear_value x)

theorem execBistTestDone_keep (t : Bist) (f : BistFound) (s : State) (hk : Keep L s) :
    KeepRes L (execBistTestDone t f s) := by
  unfold execBistTestDone
  refine KeepRes.next ?_
  repeat' with_reducible first
    | assumption | apply bistEnd_keep | apply bistFound_keep | apply bistResult_keep | intro _ | split
    | (simp only [keep_mk]; apply Keep.parts) | refine Keep.of_fst (by assumption) ?_
    | (extract_lets +onlyGivenNames x
       first
         | (refine (fun (hx : Keep L x) => ?_) ?_
            on_goal 1 => clear_value x
            on_goal 2 => subst x)
         | (refine (fun (hx : Keep L x.1) => ?_) ?_
            on_goal 1 => clear_value x
            on_goal 2 => subst x)
         | clear_value x)

theorem execBistTimeout_keep (t : Bist) (s : State) (hk : Keep L s) :
    KeepRes L (execBistTimeout t s) := by
  unfold execBistTimeout
  refine KeepRes.next ?_
  repeat' with_reducible first
    | assumption | apply bistEnd_keep | apply bistResult_keep | apply raise_keep | apply wr_keep | intro _ | split
    | (simp only [keep_mk]; apply Keep.parts) | refine Keep.of_fst (by assumption) ?_

theorem execBistConditionsFail_keep (t : Bist) (s : State) (hk : Keep L s) :
    KeepRes L (execBistConditionsFail t s) := by
  unfold execBistConditionsFail
  refine KeepRes.next ?_
  repeat' with_reducible first
    | assumption | apply bistEnd_keep | apply bistResult_keep | apply raise_keep | apply wr_keep | intro _ | split
    | (simp only [keep_mk]; apply Keep.parts) | refine Keep.of_fst (by assumption) ?_

theorem secretsGone_keep (s : State) (retained : Bool) (hk : Keep L s) : Keep L (secretsGone s retained) := by
  have hg : ∀ t : State, Keep L t → Keep L (fltUpd t (fun x => { x with ret := [], retBad := [], bkpBad := [] })) :=
    fun t ht => ⟨ht.regs, rfl, ht.stg, ht.cert, ht.img, ht.pend⟩
  unfold secretsGone
  extract_lets s1 s2 s3 s3b s4
  have h1 : Keep L s1 := by
    subst s1
    split
    · exact spdmSay_keep _ _ _ _ hk
    · exact hk
  have h3 : Keep L s3 := wr_keep _ _ _ (wr_keep _ _ _ (wr_keep _ _ _ (wr_keep _ _ _ h1)))
  clear_value s3
  have h4 : Keep L s4 := tstUpd_keep _ _ (prtUpd_keep _ _ h3) rfl
  split
  · exact hg _ (forEach_keep _ _ h4 (fun t i ht => wr_keep _ _ _ ht))
  · exact h4

theorem secretsClear_keep (s : State) (key : Nat) (retained : Bool) (hk : Keep L s) :
    Keep L (secretsClear s key retained) := by
  unfold secretsClear
  repeat' with_reducible first
    | assumption | apply secretsGone_keep | apply wr_keep | intro _ | split | (simp only [keep_mk]; apply Keep.parts)
    | refine Keep.of_fst (by assumption) ?_

theorem execSecretsClear_keep (m : Master) (key : BitVec 8) (clrRetained : Bool) (s : State) (hk : Keep L s) :
    KeepRes L (execSecretsClear m key clrRetained s) := by
  unfold execSecretsClear
  refine KeepRes.next ?_
  repeat' with_reducible first
    | assumption | apply asMaster_keep | apply secretsClear_keep | intro _ | split | (simp only [keep_mk]; apply Keep.parts)
    | refine Keep.of_fst (by assumption) ?_

theorem secretsVerify_keep (s : State) (key : Nat) (hk : Keep L s) :
    Keep L (secretsVerify s key) := by
  unfold secretsVerify
  repeat' with_reducible first
    | assumption | apply tstUpd_keep | apply wr_keep | rfl | intro _ | split | (simp only [keep_mk]; apply Keep.parts)
    | refine Keep.of_fst (by assumption) ?_

theorem execSecretsVerify_keep (m : Master) (key : BitVec 8) (s : State) (hk : Keep L s) :
    KeepRes L (execSecretsVerify m key s) := by
  unfold execSecretsVerify
  refine KeepRes.next ?_
  repeat' with_reducible first
    | assumption | apply asMaster_keep | apply secretsVerify_keep | intro _ | split | (simp only [keep_mk]; apply Keep.parts)
    | refine Keep.of_fst (by assumption) ?_

theorem execSecretsVerifyDone_keep (s : State) (hk : Keep L s) :
    KeepRes L (execSecretsVerifyDone s) := by
  unfold execSecretsVerifyDone
  refine KeepRes.next ?_
  repeat' with_reducible first
    | assumption | apply raise_keep | apply tstUpd_keep | apply wr_keep | rfl | intro _ | split
    | (simp only [keep_mk]; apply Keep.parts) | refine Keep.of_fst (by assumption) ?_
    | (extract_lets +onlyGivenNames x
       first
         | (refine (fun (hx : Keep L x) => ?_) ?_
            on_goal 1 => clear_value x
            on_goal 2 => subst x)
         | (refine (fun (hx : Keep L x.1) => ?_) ?_
            on_goal 1 => clear_value x
            on_goal 2 => subst x)
         | clear_value x)

theorem keyWritten_keep (s : State) (hk : Keep L s) :
    Keep L (keyWritten s) := by
  unfold keyWritten
  repeat' with_reducible first
    | assumption | apply tstUpd_keep | apply wr_keep | rfl | intro _ | split | (simp only [keep_mk]; apply Keep.parts)
    | refine Keep.of_fst (by assumption) ?_

theorem certCommit_keep (s : State) (hk : Keep L s) :
    Keep L (certCommit s) := by
  unfold certCommit
  repeat' with_reducible first
    | assumption | apply raiseIf_keep | apply wrb_keep | intro _ | split | (simp only [keep_mk]; apply Keep.parts)
    | refine Keep.of_fst (by assumption) ?_
    | (extract_lets +onlyGivenNames x
       first
         | (refine (fun (hx : Keep L x) => ?_) ?_
            on_goal 1 => clear_value x
            on_goal 2 => subst x)
         | (refine (fun (hx : Keep L x.1) => ?_) ?_
            on_goal 1 => clear_value x
            on_goal 2 => subst x)
         | clear_value x)

theorem execCertCommit_keep (m : Master) (s : State) (hk : Keep L s) :
    KeepRes L (execCertCommit m s) := by
  unfold execCertCommit
  refine KeepRes.next ?_
  repeat' with_reducible first
    | assumption | apply asMaster_keep | apply certCommit_keep | intro _ | split | (simp only [keep_mk]; apply Keep.parts)
    | refine Keep.of_fst (by assumption) ?_

theorem spdmAnswer_keep (s : State) (via : SpdmVia) (r : SpdmReq) (hk : Keep L s) : Keep L (spdmAnswer s via r) := by
  unfold spdmAnswer
  dsimp only
  repeat' with_reducible first
    | assumption | apply spdmSay_keep | apply tstUpd_keep | apply keyWritten_keep | apply wr_keep | intro _ | split
    | (simp only [keep_mk]; apply Keep.parts) | refine Keep.of_fst (by assumption) ?_ | rfl

theorem execSpdmRequest_keep (via : SpdmVia) (r : SpdmReq) (s : State) (hk : Keep L s) :
    KeepRes L (execSpdmRequest via r s) := by
  unfold execSpdmRequest
  refine KeepRes.next ?_
  repeat' with_reducible first
    | assumption | apply spdmAnswer_keep | intro _ | split | (simp only [keep_mk]; apply Keep.parts)
    | refine Keep.of_fst (by assumption) ?_

theorem execModeTransitionDone_keep (s : State) (hk : Keep L s) :
    KeepRes L (execModeTransitionDone s) := by
  unfold execModeTransitionDone
  refine KeepRes.next ?_
  repeat' with_reducible first
    | assumption | apply bistStart_keep | apply transDone_keep | intro _ | split | (simp only [keep_mk]; apply Keep.parts)
    | refine Keep.of_fst (by assumption) ?_
    | (extract_lets +onlyGivenNames x
       first
         | (refine (fun (hx : Keep L x) => ?_) ?_
            on_goal 1 => clear_value x
            on_goal 2 => subst x)
         | (refine (fun (hx : Keep L x.1) => ?_) ?_
            on_goal 1 => clear_value x
            on_goal 2 => subst x)
         | clear_value x)

end Sys2Proof.Machine
end

