-- ==== Sys2Proof/Laws/KeepTickStart.lean ====
section
/-! SUPPORT. What the operations of TickStart.lean keep. -/

namespace Sys2Proof.Machine

variable {L : List Instr}

theorem tickClose_keep (s : State) (w u : Nat) (hk : Keep L s) :
    Keep L (tickClose s w u) := by
  unfold tickClose
  repeat' with_reducible first
    | assumption | apply missDiscard_keep | apply puDecide_keep | apply puFree_keep | apply puSet_keep | apply puUnhold_keep
    | intro _ | split | (simp only [keep_mk]; apply Keep.parts) | refine Keep.of_fst (by assumption) ?_
    | (extract_lets +onlyGivenNames x
       first
         | (refine (fun (hx : Keep L x) => ?_) ?_
            on_goal 1 => clear_value x
            on_goal 2 => subst x)
         | (refine (fun (hx : Keep L x.1) => ?_) ?_
            on_goal 1 => clear_value x
            on_goal 2 => subst x)
         | clear_value x)

theorem tickDecide_keep (s : State) (w : Nat) (t : TickPend) (h : Nat) (hk : Keep L s) :
    Keep L (tickDecide s w t h) := by
  unfold tickDecide
  repeat' with_reducible first
    | assumption | apply inc_keep | apply puSet_keep | apply raise_keep | apply recWait_keep | intro _ | split
    | (simp only [keep_mk]; apply Keep.parts) | refine Keep.of_fst (by assumption) ?_
    | (extract_lets +onlyGivenNames x
       first
         | (refine (fun (hx : Keep L x) => ?_) ?_
            on_goal 1 => clear_value x
            on_goal 2 => subst x)
         | (refine (fun (hx : Keep L x.1) => ?_) ?_
            on_goal 1 => clear_value x
            on_goal 2 => subst x)
         | clear_value x)

theorem tickWindows_keep (s : State) (t : TickPend) (hk : Keep L s) :
    Keep L (tickWindows s t) := by
  unfold tickWindows
  repeat' with_reducible first
    | assumption | apply tickClose_keep | apply tickDecide_keep | apply forEach_keep | intro _ | split
    | (simp only [keep_mk]; apply Keep.parts) | refine Keep.of_fst (by assumption) ?_
    | (extract_lets +onlyGivenNames x
       first
         | (refine (fun (hx : Keep L x) => ?_) ?_
            on_goal 1 => clear_value x
            on_goal 2 => subst x)
         | (refine (fun (hx : Keep L x.1) => ?_) ?_
            on_goal 1 => clear_value x
            on_goal 2 => subst x)
         | clear_value x)

theorem tickPins_keep (s : State) (t : Nat) (hk : Keep L s) :
    Keep L (tickPins s t) := by
  unfold tickPins
  repeat' with_reducible first
    | assumption | apply emit_keep | apply schedule_keep | apply forEach_keep | intro _ | split
    | (simp only [keep_mk]; apply Keep.parts) | refine Keep.of_fst (by assumption) ?_
    | (extract_lets +onlyGivenNames x
       first
         | (refine (fun (hx : Keep L x) => ?_) ?_
            on_goal 1 => clear_value x
            on_goal 2 => subst x)
         | (refine (fun (hx : Keep L x.1) => ?_) ?_
            on_goal 1 => clear_value x
            on_goal 2 => subst x)
         | clear_value x)

theorem tickMessages_keep (s : State) (t : TickPend) (hk : Keep L s) :
    Keep L (tickMessages s t) := by
  unfold tickMessages
  repeat' with_reducible first
    | assumption | apply formed_keep | apply forEach_keep | intro _ | split | (simp only [keep_mk]; apply Keep.parts)
    | refine Keep.of_fst (by assumption) ?_

theorem tickRegs_keep (s : State) (t : TickPend) (hk : Keep L s) :
    Keep L (tickRegs s t) := by
  unfold tickRegs
  repeat' with_reducible first
    | assumption | apply inc_keep | apply lceUpd_keep | apply wr_keep | apply wrb_keep | intro _ | split
    | (simp only [keep_mk]; apply Keep.parts) | refine Keep.of_fst (by assumption) ?_
    | (extract_lets +onlyGivenNames x
       first
         | (refine (fun (hx : Keep L x) => ?_) ?_
            on_goal 1 => clear_value x
            on_goal 2 => subst x)
         | (refine (fun (hx : Keep L x.1) => ?_) ?_
            on_goal 1 => clear_value x
            on_goal 2 => subst x)
         | clear_value x)

theorem tickStart_keep (s : State) (t : TickPend) (hk : Keep L s) :
    Keep L (tickStart s t) := by
  unfold tickStart
  repeat' with_reducible first
    | assumption | apply gateTick_keep | apply resizeTicks_keep | apply tickMessages_keep | apply tickPins_keep
    | apply tickRegs_keep | apply tickWindows_keep | apply waitTicks_keep | intro _ | split
    | (simp only [keep_mk]; apply Keep.parts) | refine Keep.of_fst (by assumption) ?_
    | (extract_lets +onlyGivenNames x
       first
         | (refine (fun (hx : Keep L x) => ?_) ?_
            on_goal 1 => clear_value x
            on_goal 2 => subst x)
         | (refine (fun (hx : Keep L x.1) => ?_) ?_
            on_goal 1 => clear_value x
            on_goal 2 => subst x)
         | clear_value x)

theorem execTickStart_keep (s : State) (hk : Keep L s) :
    KeepRes L (execTickStart s) := by
  unfold execTickStart
  refine KeepRes.next ?_
  repeat' with_reducible first
    | assumption | apply lceUpd_keep | apply tickStart_keep | intro _ | split | (simp only [keep_mk]; apply Keep.parts)
    | refine Keep.of_fst (by assumption) ?_

end Sys2Proof.Machine
end

