-- ==== Sys2Proof/Laws/KeepRegRead.lean ====
section
/-! SUPPORT. What the operations of RegRead.lean keep. -/

namespace Sys2Proof.Machine

variable {L : List Instr}

theorem unmapped_keep (s : State) (hk : Keep L s) :
    Keep L (unmapped s) := by
  unfold unmapped
  repeat' with_reducible first
    | assumption | apply inc_keep | apply raise_keep | intro _ | split | (simp only [keep_mk]; apply Keep.parts)
    | refine Keep.of_fst (by assumption) ?_

theorem rcClear_keep (s : State) (r : Reg) (i w : Nat) (high : Bool) (en : Nat → Bool) (hk : Keep L s) :
    Keep L (rcClear s r i w high en) := by
  unfold rcClear
  repeat' with_reducible first
    | assumption | apply wr_keep | apply forEach_keep | intro _ | split | (simp only [keep_mk]; apply Keep.parts)
    | refine Keep.of_fst (by assumption) ?_
    | (extract_lets +onlyGivenNames x
       first
         | (refine (fun (hx : Keep L x) => ?_) ?_
            on_goal 1 => clear_value x
            on_goal 2 => subst x)
         | (refine (fun (hx : Keep L x.1) => ?_) ?_
            on_goal 1 => clear_value x
            on_goal 2 => subst x)
         | clear_value x)

theorem wordRead_keep (s : State) (b w : Nat) (en : Nat → Bool) (hk : Keep L s) :
    Keep L (wordRead s b w en).1 := by
  unfold wordRead
  repeat' with_reducible first
    | assumption | apply rcClear_keep | apply unmapped_keep | intro _ | split | (simp only [keep_mk]; apply Keep.parts)
    | refine Keep.of_fst (by assumption) ?_
    | (extract_lets +onlyGivenNames x
       first
         | (refine (fun (hx : Keep L x) => ?_) ?_
            on_goal 1 => clear_value x
            on_goal 2 => subst x)
         | (refine (fun (hx : Keep L x.1) => ?_) ?_
            on_goal 1 => clear_value x
            on_goal 2 => subst x)
         | clear_value x)

theorem wordsRead_keep (b : Nat) (en : Nat → Bool) : ∀ (n : Nat) (s : State) (w : Nat), Keep L s →
    Keep L (wordsRead b en n s w).1
  | 0, _, _, hk => hk
  | n + 1, s, w, hk => by
    unfold wordsRead
    dsimp only
    exact wordsRead_keep b en n _ _ (wordRead_keep _ _ _ _ hk)

theorem masterRead_keep (s : State) (m : Master) (off len : Nat) (en : Nat → Bool) (hk : Keep L s) :
    Keep L (masterRead s m off len en).1 := by
  unfold masterRead
  extract_lets +onlyGivenNames w n
  split
  · exact wordsRead_keep _ _ _ _ _ hk
  · exact hk

end Sys2Proof.Machine
end

