-- ==== Sys2Proof/Laws/KeepRegWrite.lean ====
section
/-! SUPPORT. What the operations of RegWrite.lean keep. -/

namespace Sys2Proof.Machine

variable {L : List Instr}

theorem fldWrite_keep (s0 s : State) (f : Fld) (i v : Nat) (hk : Keep L s) :
    Keep L (fldWrite s0 s f i v) := by
  unfold fldWrite
  repeat' with_reducible first
    | assumption | apply wr_keep | intro _ | split | (simp only [keep_mk]; apply Keep.parts)
    | refine Keep.of_fst (by assumption) ?_
    | (extract_lets +onlyGivenNames x
       first
         | (refine (fun (hx : Keep L x) => ?_) ?_
            on_goal 1 => clear_value x
            on_goal 2 => subst x)
         | (refine (fun (hx : Keep L x.1) => ?_) ?_
            on_goal 1 => clear_value x
            on_goal 2 => subst x)
         | clear_value x)

theorem onBit_keep (s : State) (v n : Nat) (f : State → State) (hk : Keep L s) (hf : ∀ t, Keep L t → Keep L (f t)) :
    Keep L (onBit s v n f) := by
  unfold onBit
  split
  · exact hf _ hk
  · exact hk

theorem rstCmd_keep (s : State) (v : Nat) (hk : Keep L s) :
    Keep L (rstCmd s v) := by
  unfold rstCmd
  repeat' with_reducible first
    | assumption | apply onBit_keep | apply partAssert_keep | apply portReset_keep | apply regWarm_keep | intro _ | split
    | (simp only [keep_mk]; apply Keep.parts) | refine Keep.of_fst (by assumption) ?_
    | (extract_lets +onlyGivenNames x
       first
         | (refine (fun (hx : Keep L x) => ?_) ?_
            on_goal 1 => clear_value x
            on_goal 2 => subst x)
         | (refine (fun (hx : Keep L x.1) => ?_) ?_
            on_goal 1 => clear_value x
            on_goal 2 => subst x)
         | clear_value x)

theorem secCmd_keep (s : State) (v : Nat) (hk : Keep L s) :
    Keep L (secCmd s v) := by
  unfold secCmd
  repeat' with_reducible first
    | assumption | apply onBit_keep | apply secretsClear_keep | apply secretsVerify_keep | apply wr_keep | intro _ | split
    | (simp only [keep_mk]; apply Keep.parts) | refine Keep.of_fst (by assumption) ?_
    | (extract_lets +onlyGivenNames x
       first
         | (refine (fun (hx : Keep L x) => ?_) ?_
            on_goal 1 => clear_value x
            on_goal 2 => subst x)
         | (refine (fun (hx : Keep L x.1) => ?_) ?_
            on_goal 1 => clear_value x
            on_goal 2 => subst x)
         | clear_value x)

theorem sevWrite_keep (s : State) (n v : Nat) (hk : Keep L s) :
    Keep L (sevWrite s n v) := by
  unfold sevWrite
  repeat' with_reducible first
    | assumption | apply onBit_keep | apply stickyClear_keep | apply wr_keep | intro _ | split
    | (simp only [keep_mk]; apply Keep.parts) | refine Keep.of_fst (by assumption) ?_
    | (extract_lets +onlyGivenNames x
       first
         | (refine (fun (hx : Keep L x) => ?_) ?_
            on_goal 1 => clear_value x
            on_goal 2 => subst x)
         | (refine (fun (hx : Keep L x.1) => ?_) ?_
            on_goal 1 => clear_value x
            on_goal 2 => subst x)
         | clear_value x)

theorem puSelect_keep (s : State) (v : Nat) (hk : Keep L s) :
    Keep L (puSelect s v) := by
  unfold puSelect
  repeat' with_reducible first
    | assumption | apply wr_keep | apply forEach_keep | intro _ | split | (simp only [keep_mk]; apply Keep.parts)
    | refine Keep.of_fst (by assumption) ?_
    | (extract_lets +onlyGivenNames x
       first
         | (refine (fun (hx : Keep L x) => ?_) ?_
            on_goal 1 => clear_value x
            on_goal 2 => subst x)
         | (refine (fun (hx : Keep L x.1) => ?_) ?_
            on_goal 1 => clear_value x
            on_goal 2 => subst x)
         | clear_value x)

theorem awtWord_keep (s : State) (m : Master) (i j v : Nat) (hk : Keep L s) :
    Keep L (awtWord s m i j v) := by
  unfold awtWord
  repeat' with_reducible first
    | assumption | apply awtCommit_keep | apply awtLockHit_keep | apply awtShadowWrite_keep | intro _ | split
    | (simp only [keep_mk]; apply Keep.parts) | refine Keep.of_fst (by assumption) ?_

theorem regWhole_keep (s : State) (m : Master) (off i v : Nat) (hk : Keep L s) :
    ∀ t, regWhole s m off i v = some t → Keep L t := by
  intro t ht
  unfold regWhole at ht
  split at ht
  case h_31 => nomatch ht
  all_goals
    rw [← Option.some.inj ht]
    with_reducible first
      | apply awtWord_keep | apply burstSet_keep | apply devWrite_keep | apply durTcSet_keep | apply encPosSet_keep
      | apply feedCtlSet_keep | apply heelParam_keep | apply ofmQuotaSet_keep | apply presetSet_keep
      | apply puSelect_keep | apply rateSet_keep | apply remapWrite_keep | apply rstCmd_keep | apply secCmd_keep
      | apply sevWrite_keep | apply tickMinSet_keep | apply tickMaxSet_keep | apply tickSourceSet_keep | apply timeOfsSet_keep
      | apply voqSelect_keep
    exact hk

theorem poolEnable_keep (s : State) (p : Nat) (on : Bool) (hk : Keep L s) :
    Keep L (poolEnable s p on) := by
  unfold poolEnable
  repeat' with_reducible first
    | assumption | apply wr_keep | intro _ | split | (simp only [keep_mk]; apply Keep.parts)
    | refine Keep.of_fst (by assumption) ?_

theorem trigWritten_keep (s0 s : State) (m v : Nat) (hk : Keep L s) :
    Keep L (trigWritten s0 s m v) := by
  unfold trigWritten
  repeat' with_reducible first
    | assumption | apply emit_keep | apply lceUpd_keep | apply onBit_keep | apply softFire_keep | intro _ | split
    | (simp only [keep_mk]; apply Keep.parts) | refine Keep.of_fst (by assumption) ?_
    | (extract_lets +onlyGivenNames x
       first
         | (refine (fun (hx : Keep L x) => ?_) ?_
            on_goal 1 => clear_value x
            on_goal 2 => subst x)
         | (refine (fun (hx : Keep L x.1) => ?_) ?_
            on_goal 1 => clear_value x
            on_goal 2 => subst x)
         | clear_value x)

theorem qpCtl_keep (s : State) (i v : Nat) (hk : Keep L s) :
    Keep L (qpCtl s i v) := by
  unfold qpCtl
  repeat' with_reducible first
    | assumption | apply onBit_keep | apply qpEnable_keep | apply qpResume_keep | apply qpStop_keep | intro _ | split
    | (simp only [keep_mk]; apply Keep.parts) | refine Keep.of_fst (by assumption) ?_
    | (extract_lets +onlyGivenNames x
       first
         | (refine (fun (hx : Keep L x) => ?_) ?_
            on_goal 1 => clear_value x
            on_goal 2 => subst x)
         | (refine (fun (hx : Keep L x.1) => ?_) ?_
            on_goal 1 => clear_value x
            on_goal 2 => subst x)
         | clear_value x)

theorem regActs_keep (s0 s : State) (off i v : Nat) (hk : Keep L s) :
    Keep L (regActs s0 s off i v) := by
  unfold regActs
  repeat' with_reducible first
    | assumption | apply awlGo_keep | apply awtFenceStart_keep | apply bankSwap_keep | apply certCommit_keep
    | apply cluReclaim_keep | apply cluRestore_keep | apply cluSwap_keep | apply durEval_keep | apply encUnlock_keep
    | apply engRestore_keep | apply faultInject_keep | apply fltRestore_keep | apply gapEnable_keep
    | apply gateCommitCancel_keep | apply gateCommitStart_keep | apply heelEnable_keep | apply heelMeasure_keep
    | apply holdPorts_keep | apply imageInstall_keep | apply imageVerify_keep | apply mbxClear_keep | apply mbxReq_keep
    | apply memberApply_keep | apply memberLoad_keep | apply modeGo_keep | apply ofmRestore_keep | apply onBit_keep
    | apply pairDisableAt_keep | apply pairEnableAt_keep | apply partDisable_keep | apply partEnable_keep
    | apply poolEnable_keep | apply portDisableAt_keep | apply portEnableCmd_keep | apply portRetrainAt_keep
    | apply ptnStat_keep | apply qpCtl_keep | apply raiseIf_keep | apply slcCreate_keep | apply slcDelete_keep
    | apply slcLoad_keep | apply slcRecreate_keep | apply slcReset_keep | apply slotClrFet_keep | apply slotPower_keep
    | apply stickyClearAll_keep | apply trigWritten_keep | apply windowOff_keep | apply windowOn_keep | apply wr_keep
    | apply xwCommit_keep | intro _ | split | (simp only [keep_mk]; apply Keep.parts) | refine Keep.of_fst (by assumption) ?_
    | (extract_lets +onlyGivenNames x
       first
         | (refine (fun (hx : Keep L x) => ?_) ?_
            on_goal 1 => clear_value x
            on_goal 2 => subst x)
         | (refine (fun (hx : Keep L x.1) => ?_) ?_
            on_goal 1 => clear_value x
            on_goal 2 => subst x)
         | clear_value x)

theorem regWrite_keep (s : State) (m : Master) (r : Reg) (i v : Nat) (hk : Keep L s) : Keep L (regWrite s m r i v) := by
  unfold regWrite
  split
  · exact hk
  split
  · rename_i t ht
    exact regWhole_keep _ _ _ _ _ hk _ ht
  · exact regActs_keep _ _ _ _ _ (foldl_keep _ (fun t f ht => fldWrite_keep _ _ _ _ _ ht) _ hk)

theorem halfWrite_keep (s : State) (m : Master) (r : Reg) (i v : Nat) (high : Bool) (hk : Keep L s) :
    Keep L (halfWrite s m r i v high) := by
  unfold halfWrite
  repeat' with_reducible first
    | assumption | apply regWrite_keep | intro _ | split | (simp only [keep_mk]; apply Keep.parts)
    | refine Keep.of_fst (by assumption) ?_
    | (extract_lets +onlyGivenNames x
       first
         | (refine (fun (hx : Keep L x) => ?_) ?_
            on_goal 1 => clear_value x
            on_goal 2 => subst x)
         | (refine (fun (hx : Keep L x.1) => ?_) ?_
            on_goal 1 => clear_value x
            on_goal 2 => subst x)
         | clear_value x)

theorem certWrite_keep (s : State) (a v : Nat) (hk : Keep L s) : Keep L (certWrite s a v) :=
  wr_keep _ _ _ ⟨hk.regs, hk.ret, hk.stg, wf_cputs _ hk.cert _, hk.img, hk.pend⟩

theorem wordWrite_keep (s : State) (m : Master) (b a v : Nat) (hk : Keep L s) :
    Keep L (wordWrite s m b a v) := by
  unfold wordWrite
  repeat' with_reducible first
    | assumption | apply certWrite_keep | apply halfWrite_keep | apply regWrite_keep | apply unmapped_keep | intro _ | split
    | (simp only [keep_mk]; apply Keep.parts) | refine Keep.of_fst (by assumption) ?_

theorem retWrite_keep (s : State) (a : Nat) (data : List (Byte × Bool)) (hk : Keep L s) : Keep L (retWrite s a data) := by
  have hput : ∀ (l : List (Nat × Byte)) (r : List Host.Cell), Memory.wf r = true →
      Memory.wf (l.foldl (fun r e => cput r (e.1 - 0x8000) e.2) r) = true := by
    intro l
    induction l with
    | nil => exact fun r h => h
    | cons e l ih => exact fun r h => ih _ (wf_cput h _ _)
  unfold retWrite
  extract_lets +onlyGivenNames byte
  refine forEach_keep _ _ hk (fun t k ht => ?_)
  extract_lets +onlyGivenNames w l bad
  split
  · exact ht
  · exact ⟨ht.regs, hput _ _ ht.ret, ht.stg, ht.cert, ht.img, ht.pend⟩

theorem imageWrite_keep (s : State) (a : Nat) (data : List (Byte × Bool)) (hk : Keep L s) :
    Keep L (imageWrite s a data) := by
  unfold imageWrite
  repeat' with_reducible first
    | assumption | apply stagingPut_keep | apply forEach_keep | intro _ | split | (simp only [keep_mk]; apply Keep.parts)
    | refine Keep.of_fst (by assumption) ?_

theorem regStore_keep (s : State) (b : Nat) (w : RegWr) (lost : Nat → Bool) (hk : Keep L s) :
    Keep L (regStore s b w lost) := by
  unfold regStore
  repeat' with_reducible first
    | assumption | apply halfWrite_keep | apply imageWrite_keep | apply inc_keep | apply regWrite_keep | apply retWrite_keep
    | apply wordWrite_keep | apply forEach_keep | intro _ | split | (simp only [keep_mk]; apply Keep.parts)
    | refine Keep.of_fst (by assumption) ?_
    | (extract_lets +onlyGivenNames x
       first
         | (refine (fun (hx : Keep L x) => ?_) ?_
            on_goal 1 => clear_value x
            on_goal 2 => subst x)
         | (refine (fun (hx : Keep L x.1) => ?_) ?_
            on_goal 1 => clear_value x
            on_goal 2 => subst x)
         | clear_value x)

theorem masterWrite_keep (s : State) (w : RegWr) (lost : Nat → Bool) (hk : Keep L s) :
    Keep L (masterWrite s w lost) := by
  unfold masterWrite
  repeat' with_reducible first
    | assumption | apply asMaster_keep | apply regStore_keep | intro _ | split | (simp only [keep_mk]; apply Keep.parts)
    | refine Keep.of_fst (by assumption) ?_

theorem collide_keep (s : State) (x k : Nat) (hk : Keep L s) :
    Keep L (collide s x k) := by
  unfold collide
  repeat' with_reducible first
    | assumption | apply inc_keep | apply raise_keep | apply wr_keep | intro _ | split
    | (simp only [keep_mk]; apply Keep.parts) | refine Keep.of_fst (by assumption) ?_
    | (extract_lets +onlyGivenNames x
       first
         | (refine (fun (hx : Keep L x) => ?_) ?_
            on_goal 1 => clear_value x
            on_goal 2 => subst x)
         | (refine (fun (hx : Keep L x.1) => ?_) ?_
            on_goal 1 => clear_value x
            on_goal 2 => subst x)
         | clear_value x)

theorem writesApply_keep (s : State) (ws : List RegWr) (hk : Keep L s) :
    Keep L (writesApply s ws) := by
  unfold writesApply
  repeat' with_reducible first
    | assumption | apply collide_keep | apply masterWrite_keep | apply forEach_keep | intro _ | split
    | (simp only [keep_mk]; apply Keep.parts) | refine Keep.of_fst (by assumption) ?_
    | (extract_lets +onlyGivenNames x
       first
         | (refine (fun (hx : Keep L x) => ?_) ?_
            on_goal 1 => clear_value x
            on_goal 2 => subst x)
         | (refine (fun (hx : Keep L x.1) => ?_) ?_
            on_goal 1 => clear_value x
            on_goal 2 => subst x)
         | clear_value x)

end Sys2Proof.Machine
end

