-- ==== Sys2Proof/Laws/KeepRegAccess.lean ====
section
/-! SUPPORT. What the operations of RegAccess.lean keep. -/

namespace Sys2Proof.Machine

variable {L : List Instr}

theorem execRegisterWrite_keep (ws : List RegWr) (s : State) (hk : Keep L s) :
    KeepRes L (execRegisterWrite ws s) := by
  unfold execRegisterWrite
  refine KeepRes.next ?_
  repeat' with_reducible first
    | assumption | apply writesApply_keep | intro _ | split | (simp only [keep_mk]; apply Keep.parts)
    | refine Keep.of_fst (by assumption) ?_

theorem accEnd_keep (s : State) (m : Master) (data : Bytes) (code : Nat) (hk : Keep L s) :
    Keep L (accEnd s m data code) := by
  unfold accEnd
  repeat' with_reducible first
    | assumption | apply answer_keep | apply emit_keep | apply wr_keep | intro _ | split
    | (simp only [keep_mk]; apply Keep.parts) | refine Keep.of_fst (by assumption) ?_

theorem regReadAt_keep (s : State) (m : Master) (off len : Nat) (hk : Keep L s) :
    Keep L (regReadAt s m off len) := by
  unfold regReadAt
  repeat' with_reducible first
    | assumption | apply accEnd_keep | apply masterRead_keep | intro _ | split | (simp only [keep_mk]; apply Keep.parts)
    | refine Keep.of_fst (by assumption) ?_
    | (extract_lets +onlyGivenNames x
       first
         | (refine (fun (hx : Keep L x) => ?_) ?_
            on_goal 1 => clear_value x
            on_goal 2 => subst x)
         | (refine (fun (hx : Keep L x.1) => ?_) ?_
            on_goal 1 => clear_value x
            on_goal 2 => subst x)
         | clear_value x)

theorem execRegisterRead_keep (m : Master) (off : BitVec 28) (len : Nat) (s : State) (hk : Keep L s) :
    KeepRes L (execRegisterRead m off len s) := by
  unfold execRegisterRead
  refine KeepRes.next ?_
  repeat' with_reducible first
    | assumption | apply regReadAt_keep | intro _ | split | (simp only [keep_mk]; apply Keep.parts)
    | refine Keep.of_fst (by assumption) ?_

theorem execRegisterTimeout_keep (m : Master) (_off : BitVec 28) (s : State) (hk : Keep L s) :
    KeepRes L (execRegisterTimeout m _off s) := by
  unfold execRegisterTimeout
  refine KeepRes.next ?_
  repeat' with_reducible first
    | assumption | apply accEnd_keep | apply raise_keep | intro _ | split | (simp only [keep_mk]; apply Keep.parts)
    | refine Keep.of_fst (by assumption) ?_

theorem mgmtTake_keep (s : State) (code : Nat) (pec : Bool) (f : State → State) (hk : Keep L s)
    (hf : ∀ t, Keep L t → Keep L (f t)) : Keep L (mgmtTake s code pec f) := by
  unfold mgmtTake
  split
  · exact hk
  split
  · exact hk.upd rfl rfl rfl rfl rfl rfl
  · exact hf _ (hk.upd rfl rfl rfl rfl rfl rfl)

theorem mgmtAnswer_keep (s : State) (data : Bytes) (hk : Keep L s) :
    Keep L (mgmtAnswer s data) := by
  unfold mgmtAnswer
  repeat' with_reducible first
    | assumption | apply answer_keep | apply emit_keep | intro _ | split | (simp only [keep_mk]; apply Keep.parts)
    | refine Keep.of_fst (by assumption) ?_

theorem execMgmtRead_keep (addr : BitVec 32) (n : BitVec 8) (pec : Bool) (s : State) (hk : Keep L s) :
    KeepRes L (execMgmtRead addr n pec s) := by
  unfold execMgmtRead
  refine KeepRes.next ?_
  repeat' with_reducible first
    | assumption | apply masterRead_keep | apply mgmtAnswer_keep | apply mgmtTake_keep | intro _ | split
    | (simp only [keep_mk]; apply Keep.parts) | refine Keep.of_fst (by assumption) ?_
    | (extract_lets +onlyGivenNames x
       first
         | (refine (fun (hx : Keep L x) => ?_) ?_
            on_goal 1 => clear_value x
            on_goal 2 => subst x)
         | (refine (fun (hx : Keep L x.1) => ?_) ?_
            on_goal 1 => clear_value x
            on_goal 2 => subst x)
         | clear_value x)

theorem execMgmtWrite_keep (addr : BitVec 32) (data : List (BitVec 32)) (pec : Bool) (s : State) (hk : Keep L s) :
    KeepRes L (execMgmtWrite addr data pec s) := by
  unfold execMgmtWrite
  refine KeepRes.next ?_
  repeat' with_reducible first
    | assumption | apply mgmtTake_keep | apply writesApply_keep | intro _ | split | (simp only [keep_mk]; apply Keep.parts)
    | refine Keep.of_fst (by assumption) ?_

theorem execMgmtLast_keep (pec : Bool) (s : State) (hk : Keep L s) :
    KeepRes L (execMgmtLast pec s) := by
  unfold execMgmtLast
  refine KeepRes.next ?_
  repeat' with_reducible first
    | assumption | apply answer_keep | apply emit_keep | apply masterRead_keep | apply mgmtTake_keep | intro _ | split
    | (simp only [keep_mk]; apply Keep.parts) | refine Keep.of_fst (by assumption) ?_

theorem execMgmtMctp_keep (req : SpdmReq) (pec : Bool) (s : State) (hk : Keep L s) :
    KeepRes L (execMgmtMctp req pec s) := by
  unfold execMgmtMctp
  refine KeepRes.next ?_
  repeat' with_reducible first
    | assumption | apply mgmtTake_keep | apply spdmAnswer_keep | intro _ | split | (simp only [keep_mk]; apply Keep.parts)
    | refine Keep.of_fst (by assumption) ?_
    | (extract_lets +onlyGivenNames x
       first
         | (refine (fun (hx : Keep L x) => ?_) ?_
            on_goal 1 => clear_value x
            on_goal 2 => subst x)
         | (refine (fun (hx : Keep L x.1) => ?_) ?_
            on_goal 1 => clear_value x
            on_goal 2 => subst x)
         | clear_value x)

theorem execMgmtWarm_keep (key : BitVec 16) (pec : Bool) (s : State) (hk : Keep L s) :
    KeepRes L (execMgmtWarm key pec s) := by
  unfold execMgmtWarm
  refine KeepRes.next ?_
  repeat' with_reducible first
    | assumption | apply resetNotice_keep | apply mgmtTake_keep | apply warmGo_keep | apply wr_keep | intro _ | split
    | (simp only [keep_mk]; apply Keep.parts) | refine Keep.of_fst (by assumption) ?_
    | (extract_lets +onlyGivenNames x
       first
         | (refine (fun (hx : Keep L x) => ?_) ?_
            on_goal 1 => clear_value x
            on_goal 2 => subst x)
         | (refine (fun (hx : Keep L x.1) => ?_) ?_
            on_goal 1 => clear_value x
            on_goal 2 => subst x)
         | clear_value x)

theorem execMgmtCold_keep (key : BitVec 16) (pec : Bool) (s : State) (hk : Keep L s) :
    KeepRes L (execMgmtCold key pec s) := by
  unfold execMgmtCold
  refine KeepRes.next ?_
  repeat' with_reducible first
    | assumption | apply resetNotice_keep | apply coldGo_keep | apply mgmtTake_keep | apply wr_keep | intro _ | split
    | (simp only [keep_mk]; apply Keep.parts) | refine Keep.of_fst (by assumption) ?_
    | (extract_lets +onlyGivenNames x
       first
         | (refine (fun (hx : Keep L x) => ?_) ?_
            on_goal 1 => clear_value x
            on_goal 2 => subst x)
         | (refine (fun (hx : Keep L x.1) => ?_) ?_
            on_goal 1 => clear_value x
            on_goal 2 => subst x)
         | clear_value x)

theorem execJtagInstruction_keep (i : JtagIr) (s : State) (hk : Keep L s) :
    KeepRes L (execJtagInstruction i s) := by
  unfold execJtagInstruction
  refine KeepRes.next ?_
  repeat' with_reducible first
    | assumption | apply answer_keep | apply emit_keep | apply writesApply_keep | intro _ | split
    | (simp only [keep_mk]; apply Keep.parts) | refine Keep.of_fst (by assumption) ?_

end Sys2Proof.Machine
end

