-- ==== Sys2Proof/Laws/KeepIngress.lean ====
section
/-! SUPPORT. What the operations of Ingress.lean keep. -/

namespace Sys2Proof.Machine

variable {L : List Instr}

theorem ownAnswer_keep (s : State) (f : Nat) (c : Cell) (st : CplStatus) (data : Bytes) (hk : Keep L s) :
    Keep L (ownAnswer s f c st data) := by
  unfold ownAnswer
  repeat' with_reducible first
    | assumption | apply creditGive_keep | apply formed_keep | apply forEach_keep | intro _ | split
    | (simp only [keep_mk]; apply Keep.parts) | refine Keep.of_fst (by assumption) ?_
    | (extract_lets +onlyGivenNames x
       first
         | (refine (fun (hx : Keep L x) => ?_) ?_
            on_goal 1 => clear_value x
            on_goal 2 => subst x)
         | (refine (fun (hx : Keep L x.1) => ?_) ?_
            on_goal 1 => clear_value x
            on_goal 2 => subst x)
         | clear_value x)

theorem mgrBar_keep (s : State) (c : Cell) (off : Nat) (hk : Keep L s) :
    Keep L (mgrBar s c off) := by
  unfold mgrBar
  repeat' with_reducible first
    | assumption | apply creditGive_keep | apply masterRead_keep | apply ownAnswer_keep | apply turnAway_keep
    | apply writesApply_keep | intro _ | split | (simp only [keep_mk]; apply Keep.parts)
    | refine Keep.of_fst (by assumption) ?_
    | (extract_lets +onlyGivenNames x
       first
         | (refine (fun (hx : Keep L x) => ?_) ?_
            on_goal 1 => clear_value x
            on_goal 2 => subst x)
         | (refine (fun (hx : Keep L x.1) => ?_) ?_
            on_goal 1 => clear_value x
            on_goal 2 => subst x)
         | clear_value x)

theorem pageRead_keep (k : Nat) (en : Nat → Bool) : ∀ (n : Nat) (s : State) (x : Nat), Keep L s →
    Keep L (pageRead k en n s x).1
  | 0, _, _, hk => hk
  | n + 1, s, x, hk => by
    unfold pageRead
    extract_lets +onlyGivenNames r t
    refine pageRead_keep k en n _ _ ?_
    subst r
    split
    · exact wordRead_keep _ _ _ _ hk
    · exact hk

theorem pageWrite_keep (s : State) (k : Nat) (w : RegWr) (hk : Keep L s) : Keep L (pageWrite s k w) := by
  have hw : ∀ t, Keep L t → Keep L (pageWrite.words k w t) := by
    intro t ht
    unfold pageWrite.words
    repeat' with_reducible first
      | assumption | apply forEach_keep | apply inc_keep | apply wordWrite_keep | intro _ | split
      | (simp only [keep_mk]; apply Keep.parts) | refine Keep.of_fst (by assumption) ?_
  unfold pageWrite
  dsimp only
  repeat' with_reducible first
    | assumption | apply regWrite_keep | intro _ | split | (simp only [keep_mk]; apply Keep.parts)
    | refine Keep.of_fst (by assumption) ?_ | apply hw

theorem statusWord_keep (s : State) (n x : Nat) (hk : Keep L s) :
    Keep L (statusWord s n x).1 := by
  unfold statusWord
  repeat' with_reducible first
    | assumption | intro _ | split | (simp only [keep_mk]; apply Keep.parts) | refine Keep.of_fst (by assumption) ?_
    | (extract_lets +onlyGivenNames x
       first
         | (refine (fun (hx : Keep L x) => ?_) ?_
            on_goal 1 => clear_value x
            on_goal 2 => subst x)
         | (refine (fun (hx : Keep L x.1) => ?_) ?_
            on_goal 1 => clear_value x
            on_goal 2 => subst x)
         | clear_value x)

theorem statusRead_keep (n : Nat) : ∀ (k : Nat) (s : State) (x : Nat), Keep L s → Keep L (statusRead n k s x).1
  | 0, _, _, hk => hk
  | k + 1, s, x, hk => by
    unfold statusRead
    extract_lets +onlyGivenNames r t
    exact statusRead_keep n k _ _ (statusWord_keep _ _ _ hk)

theorem clickRead_keep (s : State) (n off len : Nat) (en : Nat → Bool) (hk : Keep L s) : Keep L (clickRead s n off len en).1 := by
  unfold clickRead
  extract_lets +onlyGivenNames w k cut
  split
  · extract_lets +onlyGivenNames sk x
    split
    · exact hk
    · split
      · exact hk
      · exact pageRead_keep _ _ _ _ _ hk
  · split
    · exact statusRead_keep _ _ _ _ hk
    · exact hk

theorem clickWrite_keep (s : State) (n off : Nat) (data : List (Byte × Bool)) (hk : Keep L s) :
    Keep L (clickWrite s n off data) := by
  unfold clickWrite
  dsimp only
  repeat' with_reducible first
    | assumption | apply doorbells_keep | apply pageWrite_keep | apply inc_keep | intro _ | split
    | (simp only [keep_mk]; apply Keep.parts) | refine Keep.of_fst (by assumption) ?_

theorem bar2Write_keep (s : State) (f x : Nat) (byte : Nat → Option Byte) (hk : Keep L s) :
    Keep L (bar2Write s f x byte) := by
  unfold bar2Write
  repeat' with_reducible first
    | assumption | apply msixRelease_keep | apply rngUpd_keep | intro _ | split | (simp only [keep_mk]; apply Keep.parts)
    | refine Keep.of_fst (by assumption) ?_
    | (extract_lets +onlyGivenNames x
       first
         | (refine (fun (hx : Keep L x) => ?_) ?_
            on_goal 1 => clear_value x
            on_goal 2 => subst x)
         | (refine (fun (hx : Keep L x.1) => ?_) ?_
            on_goal 1 => clear_value x
            on_goal 2 => subst x)
         | clear_value x)

theorem clickBar_keep (s : State) (n : Nat) (c : Cell) (off : Nat) (hk : Keep L s) :
    Keep L (clickBar s n c off) := by
  unfold clickBar
  repeat' with_reducible first
    | assumption | apply clickRead_keep | apply clickWrite_keep | apply creditGive_keep | apply ownAnswer_keep
    | apply turnAway_keep | intro _ | split | (simp only [keep_mk]; apply Keep.parts) | refine Keep.of_fst (by assumption) ?_

theorem bar2_keep (s : State) (f : Nat) (c : Cell) (off : Nat) (hk : Keep L s) :
    Keep L (bar2 s f c off) := by
  unfold bar2
  repeat' with_reducible first
    | assumption | apply bar2Write_keep | apply creditGive_keep | apply ownAnswer_keep | apply turnAway_keep
    | apply forEach_keep | intro _ | split | (simp only [keep_mk]; apply Keep.parts) | refine Keep.of_fst (by assumption) ?_
    | (extract_lets +onlyGivenNames x
       first
         | (refine (fun (hx : Keep L x) => ?_) ?_
            on_goal 1 => clear_value x
            on_goal 2 => subst x)
         | (refine (fun (hx : Keep L x.1) => ?_) ?_
            on_goal 1 => clear_value x
            on_goal 2 => subst x)
         | clear_value x)

theorem ownAccess_keep (s : State) (n : Nat) (c : Cell) (hk : Keep L s) : Keep L (ownAccess s n c) := by
  unfold ownAccess
  dsimp only
  repeat' with_reducible first
    | assumption | apply turnAway_keep | apply mgrBar_keep | apply bar2_keep | apply clickBar_keep | intro _ | split
    | (simp only [keep_mk]; apply Keep.parts) | refine Keep.of_fst (by assumption) ?_

theorem cfgIn_keep (s : State) (p : Nat) (c : Cell) (hk : Keep L s) :
    Keep L (cfgIn s p c) := by
  unfold cfgIn
  repeat' with_reducible first
    | assumption | apply cfgRoute_keep | apply turnAway_keep | intro _ | split | (simp only [keep_mk]; apply Keep.parts)
    | refine Keep.of_fst (by assumption) ?_
    | (extract_lets +onlyGivenNames x
       first
         | (refine (fun (hx : Keep L x) => ?_) ?_
            on_goal 1 => clear_value x
            on_goal 2 => subst x)
         | (refine (fun (hx : Keep L x.1) => ?_) ?_
            on_goal 1 => clear_value x
            on_goal 2 => subst x)
         | clear_value x)

theorem msgLocal_keep (s : State) (p : Nat) (c : Cell) (h : MsgHdr) (hk : Keep L s) :
    Keep L (msgLocal s p c h) := by
  unfold msgLocal
  repeat' with_reducible first
    | assumption | apply aerLog_keep | apply creditBack_keep | apply emit_keep | apply formed_keep | apply inc_keep
    | apply request_keep | intro _ | split | (simp only [keep_mk]; apply Keep.parts) | refine Keep.of_fst (by assumption) ?_
    | (extract_lets +onlyGivenNames x
       first
         | (refine (fun (hx : Keep L x) => ?_) ?_
            on_goal 1 => clear_value x
            on_goal 2 => subst x)
         | (refine (fun (hx : Keep L x.1) => ?_) ?_
            on_goal 1 => clear_value x
            on_goal 2 => subst x)
         | clear_value x)

theorem msgTo_keep (s : State) (p o : Nat) (c : Cell) (hk : Keep L s) :
    Keep L (msgTo s p o c) := by
  unfold msgTo
  repeat' with_reducible first
    | assumption | apply aerLog_keep | apply creditBack_keep | apply storeTo_keep | apply toUp_keep
    | apply turnAwayQuiet_keep | intro _ | split | (simp only [keep_mk]; apply Keep.parts)
    | refine Keep.of_fst (by assumption) ?_
    | (extract_lets +onlyGivenNames x
       first
         | (refine (fun (hx : Keep L x) => ?_) ?_
            on_goal 1 => clear_value x
            on_goal 2 => subst x)
         | (refine (fun (hx : Keep L x.1) => ?_) ?_
            on_goal 1 => clear_value x
            on_goal 2 => subst x)
         | clear_value x)

theorem msgIn_keep (s : State) (p : Nat) (c : Cell) (hk : Keep L s) :
    Keep L (msgIn s p c) := by
  unfold msgIn
  repeat' with_reducible first
    | assumption | apply aerLog_keep | apply creditBack_keep | apply formed_keep | apply msgLocal_keep | apply msgTo_keep
    | apply toUp_keep | apply forEach_keep | intro _ | split | (simp only [keep_mk]; apply Keep.parts)
    | refine Keep.of_fst (by assumption) ?_
    | (extract_lets +onlyGivenNames x
       first
         | (refine (fun (hx : Keep L x) => ?_) ?_
            on_goal 1 => clear_value x
            on_goal 2 => subst x)
         | (refine (fun (hx : Keep L x.1) => ?_) ?_
            on_goal 1 => clear_value x
            on_goal 2 => subst x)
         | clear_value x)

theorem cplFrom_keep (s : State) (p : Nat) (c : Cell) (hk : Keep L s) :
    Keep L (cplFrom s p c) := by
  unfold cplFrom
  repeat' with_reducible first
    | assumption | apply cplIn_keep | apply creditBack_keep | apply fabUpd_keep | apply inc_keep | apply proxyReturn_keep
    | apply vfFlr_keep | intro _ | split | (simp only [keep_mk]; apply Keep.parts) | refine Keep.of_fst (by assumption) ?_
    | (extract_lets +onlyGivenNames x
       first
         | (refine (fun (hx : Keep L x) => ?_) ?_
            on_goal 1 => clear_value x
            on_goal 2 => subst x)
         | (refine (fun (hx : Keep L x.1) => ?_) ?_
            on_goal 1 => clear_value x
            on_goal 2 => subst x)
         | clear_value x)

theorem memIn_keep (s : State) (p : Nat) (vf : Bool) (c : Cell) (hk : Keep L s) :
    Keep L (memIn s p vf c) := by
  unfold memIn
  repeat' with_reducible first
    | assumption | apply aerLog_keep | apply memReq_keep | apply ownAccess_keep | apply turnAway_keep
    | apply turnAwayQuiet_keep | intro _ | split | (simp only [keep_mk]; apply Keep.parts)
    | refine Keep.of_fst (by assumption) ?_
    | (extract_lets +onlyGivenNames x
       first
         | (refine (fun (hx : Keep L x) => ?_) ?_
            on_goal 1 => clear_value x
            on_goal 2 => subst x)
         | (refine (fun (hx : Keep L x.1) => ?_) ?_
            on_goal 1 => clear_value x
            on_goal 2 => subst x)
         | clear_value x)

theorem pcieIn_keep (s : State) (p : Nat) (vf : Bool) (c : Cell) (hk : Keep L s) :
    Keep L (pcieIn s p vf c) := by
  unfold pcieIn
  repeat' with_reducible first
    | assumption | apply aerLog_keep | apply cfgIn_keep | apply cplFrom_keep | apply creditBack_keep | apply ioReq_keep
    | apply memIn_keep | apply msgIn_keep | apply turnAway_keep | intro _ | split | (simp only [keep_mk]; apply Keep.parts)
    | refine Keep.of_fst (by assumption) ?_
    | (extract_lets +onlyGivenNames x
       first
         | (refine (fun (hx : Keep L x) => ?_) ?_
            on_goal 1 => clear_value x
            on_goal 2 => subst x)
         | (refine (fun (hx : Keep L x.1) => ?_) ?_
            on_goal 1 => clear_value x
            on_goal 2 => subst x)
         | clear_value x)

theorem placedIn_keep (s : State) (h : FabHdr) (c : Cell) (hk : Keep L s) : Keep L (placedIn s h c) := by
  unfold placedIn
  dsimp only
  repeat' with_reducible first
    | assumption | apply noRoute_keep | apply turnAway_keep | apply inc_keep | apply fabUpd_keep | apply awtRefuse_keep
    | apply proxyTo_keep | apply awtTrack_keep | intro _ | split | (simp only [keep_mk]; apply Keep.parts)
    | refine Keep.of_fst (by assumption) ?_

theorem tlinkIn_keep (s : State) (p : Nat) (c : Cell) (hk : Keep L s) :
    Keep L (tlinkIn s p c) := by
  unfold tlinkIn
  repeat' with_reducible first
    | assumption | apply cplIn_keep | apply creditBack_keep | apply fabUpd_keep | apply inc_keep | apply noRoute_keep
    | apply noticeTake_keep | apply placedIn_keep | apply raise_keep | apply takeGlobal_keep | apply toDevice_keep
    | apply turnAway_keep | intro _ | split | (simp only [keep_mk]; apply Keep.parts) | refine Keep.of_fst (by assumption) ?_
    | (extract_lets +onlyGivenNames x
       first
         | (refine (fun (hx : Keep L x) => ?_) ?_
            on_goal 1 => clear_value x
            on_goal 2 => subst x)
         | (refine (fun (hx : Keep L x.1) => ?_) ?_
            on_goal 1 => clear_value x
            on_goal 2 => subst x)
         | clear_value x)

theorem stallAdd_keep (s : State) (p : Nat) (c : Cell) (pk : Packet) (hk : Keep L s) :
    Keep L (stallAdd s p c pk) := by
  unfold stallAdd
  repeat' with_reducible first
    | assumption | apply fabUpd_keep | intro _ | split | (simp only [keep_mk]; apply Keep.parts)
    | refine Keep.of_fst (by assumption) ?_

theorem lookup_keep (s : State) (p cls : Nat) (pk : Packet) (seq : Option Nat) (hk : Keep L s) :
    Keep L (lookup s p cls pk seq) := by
  unfold lookup
  repeat' with_reducible first
    | assumption | apply fabUpd_keep | apply pcieIn_keep | apply stallAdd_keep | apply tlinkIn_keep | intro _ | split
    | (simp only [keep_mk]; apply Keep.parts) | refine Keep.of_fst (by assumption) ?_
    | (extract_lets +onlyGivenNames x
       first
         | (refine (fun (hx : Keep L x) => ?_) ?_
            on_goal 1 => clear_value x
            on_goal 2 => subst x)
         | (refine (fun (hx : Keep L x.1) => ?_) ?_
            on_goal 1 => clear_value x
            on_goal 2 => subst x)
         | clear_value x)

theorem unstall_keep (s : State) (hk : Keep L s) :
    Keep L (unstall s) := by
  unfold unstall
  repeat' with_reducible first
    | assumption | apply fabUpd_keep | apply holdCount_keep | apply lookup_keep | apply forEach_keep | intro _ | split
    | (simp only [keep_mk]; apply Keep.parts) | refine Keep.of_fst (by assumption) ?_
    | (extract_lets +onlyGivenNames x
       first
         | (refine (fun (hx : Keep L x) => ?_) ?_
            on_goal 1 => clear_value x
            on_goal 2 => subst x)
         | (refine (fun (hx : Keep L x.1) => ?_) ?_
            on_goal 1 => clear_value x
            on_goal 2 => subst x)
         | clear_value x)

theorem police_keep (s : State) (p : Nat) (pk : Packet) (hk : Keep L s) :
    Keep L (police s p pk).1 := by
  unfold police
  repeat' with_reducible first
    | assumption | apply charge_keep | apply inc_keep | intro _ | split | (simp only [keep_mk]; apply Keep.parts)
    | refine Keep.of_fst (by assumption) ?_
    | (extract_lets +onlyGivenNames x
       first
         | (refine (fun (hx : Keep L x) => ?_) ?_
            on_goal 1 => clear_value x
            on_goal 2 => subst x)
         | (refine (fun (hx : Keep L x.1) => ?_) ?_
            on_goal 1 => clear_value x
            on_goal 2 => subst x)
         | clear_value x)

theorem policeHold_keep (s : State) (p : Nat) (pk : Packet) (hk : Keep L s) :
    Keep L (policeHold s p pk) := by
  unfold policeHold
  repeat' with_reducible first
    | assumption | apply hold_keep | apply takeSeq_keep | intro _ | split | (simp only [keep_mk]; apply Keep.parts)
    | refine Keep.of_fst (by assumption) ?_
    | (extract_lets +onlyGivenNames x
       first
         | (refine (fun (hx : Keep L x) => ?_) ?_
            on_goal 1 => clear_value x
            on_goal 2 => subst x)
         | (refine (fun (hx : Keep L x.1) => ?_) ?_
            on_goal 1 => clear_value x
            on_goal 2 => subst x)
         | clear_value x)

theorem policeNext_keep (s : State) (p : Nat) (pk : Packet) (hk : Keep L s) :
    Keep L (policeNext s p pk).1 := by
  unfold policeNext
  repeat' with_reducible first
    | assumption | apply inc_keep | apply lookup_keep | apply police_keep | intro _ | split
    | (simp only [keep_mk]; apply Keep.parts) | refine Keep.of_fst (by assumption) ?_

theorem ingress_keep (s : State) (p : Nat) (pk : Packet) (hk : Keep L s) :
    Keep L (ingress s p pk) := by
  unfold ingress
  repeat' with_reducible first
    | assumption | apply policeHold_keep | apply policeNext_keep | intro _ | split | (simp only [keep_mk]; apply Keep.parts)
    | refine Keep.of_fst (by assumption) ?_

theorem groupMark_keep (s : State) (k c g : Nat) (hk : Keep L s) :
    Keep L (groupMark s k c g) := by
  unfold groupMark
  repeat' with_reducible first
    | assumption | apply pairSet_keep | intro _ | split | (simp only [keep_mk]; apply Keep.parts)
    | refine Keep.of_fst (by assumption) ?_
    | (extract_lets +onlyGivenNames x
       first
         | (refine (fun (hx : Keep L x) => ?_) ?_
            on_goal 1 => clear_value x
            on_goal 2 => subst x)
         | (refine (fun (hx : Keep L x.1) => ?_) ?_
            on_goal 1 => clear_value x
            on_goal 2 => subst x)
         | clear_value x)

theorem groupStart_keep (s : State) (p : Nat) (h : FabHdr) (hk : Keep L s) :
    Keep L (groupStart s p h).1 := by
  unfold groupStart
  repeat' with_reducible first
    | assumption | apply inc_keep | apply raise_keep | intro _ | split | (simp only [keep_mk]; apply Keep.parts)
    | refine Keep.of_fst (by assumption) ?_

theorem groupEnd_keep (s : State) (p : Nat) (h : FabHdr) (hk : Keep L s) :
    Keep L (groupEnd s p h) := by
  unfold groupEnd
  repeat' with_reducible first
    | assumption | apply groupMark_keep | intro _ | split | (simp only [keep_mk]; apply Keep.parts)
    | refine Keep.of_fst (by assumption) ?_

theorem tlinkWhole_keep (s : State) (p : Nat) (pk : Packet) (hk : Keep L s) :
    Keep L (tlinkWhole s p pk) := by
  unfold tlinkWhole
  repeat' with_reducible first
    | assumption | apply goodStitch_keep | apply groupEnd_keep | apply groupStart_keep | apply ingress_keep
    | apply slotsIn_keep | apply stitchesFree_keep | apply stitchesIn_keep | intro _ | split
    | (simp only [keep_mk]; apply Keep.parts) | refine Keep.of_fst (by assumption) ?_
    | (extract_lets +onlyGivenNames x
       first
         | (refine (fun (hx : Keep L x) => ?_) ?_
            on_goal 1 => clear_value x
            on_goal 2 => subst x)
         | (refine (fun (hx : Keep L x.1) => ?_) ?_
            on_goal 1 => clear_value x
            on_goal 2 => subst x)
         | clear_value x)

theorem execVdmReceive_keep (p : Fin 64) (type0 : Bool) (m : VdmBody) (route : VdmRoute) (s : State) (hk : Keep L s) :
    KeepRes L (execVdmReceive p type0 m route s) := by
  unfold execVdmReceive
  refine KeepRes.next ?_
  repeat' with_reducible first
    | assumption | apply ingress_keep | apply pumpFreed_keep | intro _ | split | (simp only [keep_mk]; apply Keep.parts)
    | refine Keep.of_fst (by assumption) ?_

theorem execPacketIngress_keep (p : Fin 64) (pk : Packet) (s : State) (hk : Keep L s) :
    KeepRes L (execPacketIngress p pk s) := by
  unfold execPacketIngress
  refine KeepRes.next ?_
  repeat' with_reducible first
    | assumption | apply ingress_keep | apply pumpFreed_keep | apply tlinkWhole_keep | intro _ | split
    | (simp only [keep_mk]; apply Keep.parts) | refine Keep.of_fst (by assumption) ?_

theorem policeRun_keep (p : Nat) : ∀ (l : List HeldPkt) (s : State), Keep L s → Keep L (policeRun p l s)
  | [], _, hk => hk
  | h :: l, s, hk => by
    unfold policeRun
    split
    · exact inc_keep _ _ _ hk
    · rename_i t _ ht
      exact policeRun_keep p l _ (lookup_keep _ _ _ _ _ (unhold_keep _ _ (Keep.of_fst ht (police_keep _ _ _ hk))))

theorem execPolicerRelease_keep (p : Fin 64) (k : PktKind) (s : State) (hk : Keep L s) : KeepRes L (execPolicerRelease p k s) := by
  unfold execPolicerRelease
  refine KeepRes.next ?_
  split
  · exact hk
  · split
    · exact hk
    · rename_i h l _ t cls ht
      exact policeRun_keep _ _ _ (lookup_keep _ _ _ _ _ (unhold_keep _ _ (Keep.of_fst ht (police_keep _ _ _ hk))))

theorem blockResume_keep (s : State) (b : Nat) (hk : Keep L s) :
    Keep L (blockResume s b) := by
  unfold blockResume
  repeat' with_reducible first
    | assumption | apply ckrUpd_keep | apply fltUpd_keep | apply heelUpd_keep | apply issueTick_keep | apply lceUpd_keep
    | apply placeRelease_keep | apply portEnable_keep | apply portUnreset_keep | apply prtUpd_keep | apply pumpAll_keep
    | apply pumpFreed_keep | apply release_keep | apply trainStart_keep | apply unstall_keep | apply wr_keep | rfl
    | apply forEach_keep | intro _ | split | (simp only [keep_mk]; apply Keep.parts) | refine Keep.of_fst (by assumption) ?_
    | (extract_lets +onlyGivenNames x
       first
         | (refine (fun (hx : Keep L x) => ?_) ?_
            on_goal 1 => clear_value x
            on_goal 2 => subst x)
         | (refine (fun (hx : Keep L x.1) => ?_) ?_
            on_goal 1 => clear_value x
            on_goal 2 => subst x)
         | clear_value x)

theorem execBlockResetRelease_keep (b : Fin 18) (s : State) (hk : Keep L s) :
    KeepRes L (execBlockResetRelease b s) := by
  unfold execBlockResetRelease
  refine KeepRes.next ?_
  repeat' with_reducible first
    | assumption | apply waitEnd_keep | apply blockResume_keep | apply fltRecord_keep | apply wr_keep | intro _ | split
    | (simp only [keep_mk]; apply Keep.parts) | refine Keep.of_fst (by assumption) ?_
    | (extract_lets +onlyGivenNames x
       first
         | (refine (fun (hx : Keep L x) => ?_) ?_
            on_goal 1 => clear_value x
            on_goal 2 => subst x)
         | (refine (fun (hx : Keep L x.1) => ?_) ?_
            on_goal 1 => clear_value x
            on_goal 2 => subst x)
         | clear_value x)

end Sys2Proof.Machine
end

