-- ==== Sys2Proof/Laws/KeepWeltRx.lean ====
section
/-! SUPPORT. What the operations of WeltRx.lean keep. -/

namespace Sys2Proof.Machine

variable {L : List Instr}

theorem recover_keep (s : State) (p reason : Nat) (hk : Keep L s) :
    Keep L (recover s p reason) := by
  unfold recover
  repeat' with_reducible first
    | assumption | apply nakOut_keep | apply tlUpd_keep | apply wr_keep | intro _ | split
    | (simp only [keep_mk]; apply Keep.parts) | refine Keep.of_fst (by assumption) ?_

theorem stitchBad_keep (s : State) (p : Nat) (hk : Keep L s) :
    Keep L (stitchBad s p) := by
  unfold stitchBad
  repeat' with_reducible first
    | assumption | apply inc_keep | apply recover_keep | apply soakFail_keep | intro _ | split
    | (simp only [keep_mk]; apply Keep.parts) | refine Keep.of_fst (by assumption) ?_
    | (extract_lets +onlyGivenNames x
       first
         | (refine (fun (hx : Keep L x) => ?_) ?_
            on_goal 1 => clear_value x
            on_goal 2 => subst x)
         | (refine (fun (hx : Keep L x.1) => ?_) ?_
            on_goal 1 => clear_value x
            on_goal 2 => subst x)
         | clear_value x)

theorem corrected_keep (s : State) (p : Nat) (fixed : List Nat) (hk : Keep L s) :
    Keep L (corrected s p fixed) := by
  unfold corrected
  repeat' with_reducible first
    | assumption | apply inc_keep | apply tlUpd_keep | apply forEach_keep | intro _ | split
    | (simp only [keep_mk]; apply Keep.parts) | refine Keep.of_fst (by assumption) ?_
    | (extract_lets +onlyGivenNames x
       first
         | (refine (fun (hx : Keep L x) => ?_) ?_
            on_goal 1 => clear_value x
            on_goal 2 => subst x)
         | (refine (fun (hx : Keep L x.1) => ?_) ?_
            on_goal 1 => clear_value x
            on_goal 2 => subst x)
         | clear_value x)

theorem packetDone_keep (s : State) (p : Nat) (t : Partial) (hk : Keep L s) :
    Keep L (packetDone s p t) := by
  unfold packetDone
  repeat' with_reducible first
    | assumption | apply groupEnd_keep | apply ingress_keep | apply stitchesFree_keep | intro _ | split
    | (simp only [keep_mk]; apply Keep.parts) | refine Keep.of_fst (by assumption) ?_
    | (extract_lets +onlyGivenNames x
       first
         | (refine (fun (hx : Keep L x) => ?_) ?_
            on_goal 1 => clear_value x
            on_goal 2 => subst x)
         | (refine (fun (hx : Keep L x.1) => ?_) ?_
            on_goal 1 => clear_value x
            on_goal 2 => subst x)
         | clear_value x)

theorem packetStart_keep (s : State) (p v : Nat) (l : Bytes) (hk : Keep L s) :
    Keep L (packetStart s p v l).1 := by
  unfold packetStart
  repeat' with_reducible first
    | assumption | apply groupStart_keep | intro _ | split | (simp only [keep_mk]; apply Keep.parts)
    | refine Keep.of_fst (by assumption) ?_
    | (extract_lets +onlyGivenNames x
       first
         | (refine (fun (hx : Keep L x) => ?_) ?_
            on_goal 1 => clear_value x
            on_goal 2 => subst x)
         | (refine (fun (hx : Keep L x.1) => ?_) ?_
            on_goal 1 => clear_value x
            on_goal 2 => subst x)
         | clear_value x)

theorem dataTake_keep (s : State) (p ty v : Nat) (l : Bytes) (hk : Keep L s) :
    Keep L (dataTake s p ty v l) := by
  unfold dataTake
  repeat' with_reducible first
    | assumption | apply packetDone_keep | apply packetStart_keep | apply stitchesFree_keep | apply stitchesIn_keep
    | apply tlUpd_keep | intro _ | split | (simp only [keep_mk]; apply Keep.parts) | refine Keep.of_fst (by assumption) ?_
    | (extract_lets +onlyGivenNames x
       first
         | (refine (fun (hx : Keep L x) => ?_) ?_
            on_goal 1 => clear_value x
            on_goal 2 => subst x)
         | (refine (fun (hx : Keep L x.1) => ?_) ?_
            on_goal 1 => clear_value x
            on_goal 2 => subst x)
         | clear_value x)

theorem controlTake_keep (s : State) (p : Nat) (l : Bytes) (hk : Keep L s) :
    Keep L (controlTake s p l) := by
  unfold controlTake
  repeat' with_reducible first
    | assumption | apply auditTake_keep | apply delayReq_keep | apply delayResp_keep | apply inc_keep | apply rateAck_keep
    | apply rateReq_keep | apply resumeTake_keep | apply retrainAck_keep | apply retrainReq_keep | apply spareAck_keep
    | apply spareGo_keep | apply spareReq_keep | apply widthAck_keep | apply widthGo_keep | apply widthReq_keep | intro _
    | split | (simp only [keep_mk]; apply Keep.parts) | refine Keep.of_fst (by assumption) ?_
    | (extract_lets +onlyGivenNames x
       first
         | (refine (fun (hx : Keep L x) => ?_) ?_
            on_goal 1 => clear_value x
            on_goal 2 => subst x)
         | (refine (fun (hx : Keep L x.1) => ?_) ?_
            on_goal 1 => clear_value x
            on_goal 2 => subst x)
         | clear_value x)

theorem stitchGood_keep (s : State) (p : Nat) (x : Stitch) (hk : Keep L s) :
    Keep L (stitchGood s p x) := by
  unfold stitchGood
  repeat' with_reducible first
    | assumption | apply ackTake_keep | apply controlTake_keep | apply creditTake_keep | apply creditsTake_keep
    | apply dataTake_keep | apply goodStitch_keep | apply inc_keep | apply nakTake_keep | apply raise_keep
    | apply recordIn_keep | apply recover_keep | intro _ | split | (simp only [keep_mk]; apply Keep.parts)
    | refine Keep.of_fst (by assumption) ?_
    | (extract_lets +onlyGivenNames x
       first
         | (refine (fun (hx : Keep L x) => ?_) ?_
            on_goal 1 => clear_value x
            on_goal 2 => subst x)
         | (refine (fun (hx : Keep L x.1) => ?_) ?_
            on_goal 1 => clear_value x
            on_goal 2 => subst x)
         | clear_value x)

theorem stitchArrive_keep (s : State) (p : Nat) (raw : Bytes) (viol : Bool) (hk : Keep L s) :
    Keep L (stitchArrive s p raw viol) := by
  unfold stitchArrive
  repeat' with_reducible first
    | assumption | apply corrected_keep | apply inc_keep | apply raise_keep | apply soakFail_keep | apply stitchBad_keep
    | apply stitchGood_keep | intro _ | split | (simp only [keep_mk]; apply Keep.parts)
    | refine Keep.of_fst (by assumption) ?_
    | (extract_lets +onlyGivenNames x
       first
         | (refine (fun (hx : Keep L x) => ?_) ?_
            on_goal 1 => clear_value x
            on_goal 2 => subst x)
         | (refine (fun (hx : Keep L x.1) => ?_) ?_
            on_goal 1 => clear_value x
            on_goal 2 => subst x)
         | clear_value x)

theorem sideBad_keep (s : State) (p : Nat) (hk : Keep L s) :
    Keep L (sideBad s p) := by
  unfold sideBad
  repeat' with_reducible first
    | assumption | apply inc_keep | apply soakFail_keep | apply tlUpd_keep | intro _ | split
    | (simp only [keep_mk]; apply Keep.parts) | refine Keep.of_fst (by assumption) ?_
    | (extract_lets +onlyGivenNames x
       first
         | (refine (fun (hx : Keep L x) => ?_) ?_
            on_goal 1 => clear_value x
            on_goal 2 => subst x)
         | (refine (fun (hx : Keep L x.1) => ?_) ?_
            on_goal 1 => clear_value x
            on_goal 2 => subst x)
         | clear_value x)

theorem sideTake_keep (s : State) (p : Nat) (hk : Keep L s) :
    Keep L (sideTake s p) := by
  unfold sideTake
  repeat' with_reducible first
    | assumption | apply controlTake_keep | apply inc_keep | apply raise_keep | apply sideBad_keep | apply sideNext_keep
    | apply trainFixed_keep | intro _ | split | (simp only [keep_mk]; apply Keep.parts)
    | refine Keep.of_fst (by assumption) ?_
    | (extract_lets +onlyGivenNames x
       first
         | (refine (fun (hx : Keep L x) => ?_) ?_
            on_goal 1 => clear_value x
            on_goal 2 => subst x)
         | (refine (fun (hx : Keep L x.1) => ?_) ?_
            on_goal 1 => clear_value x
            on_goal 2 => subst x)
         | clear_value x)

theorem execDataStitchReceive_keep (p : Fin 64) (levels after : List (List (Fin 4))) (overflow : Bool) (s : State) (hk : Keep L s) :
    KeepRes L (execDataStitchReceive p levels after overflow s) := by
  unfold execDataStitchReceive
  refine KeepRes.next ?_
  repeat' with_reducible first
    | assumption | apply ebOverflow_keep | apply sideTake_keep | apply slotRead_keep | apply stitchArrive_keep | intro _
    | split | (simp only [keep_mk]; apply Keep.parts) | refine Keep.of_fst (by assumption) ?_
    | (extract_lets +onlyGivenNames x
       first
         | (refine (fun (hx : Keep L x) => ?_) ?_
            on_goal 1 => clear_value x
            on_goal 2 => subst x)
         | (refine (fun (hx : Keep L x.1) => ?_) ?_
            on_goal 1 => clear_value x
            on_goal 2 => subst x)
         | clear_value x)

end Sys2Proof.Machine
end

