-- ==== Sys2Proof/Laws/State.lean ====
section
/-! SUPPORT. What the operations on the state leave of each field, one lemma per field and operation, so that no proof unfolds a record
update; what a register read finds after each of them; and how a command that is one register write of a master begins. -/

namespace Sys2Proof.Machine

variable (s : State) (f g : Fld) (i j v : Nat)

/-! ### `wr` -/

@[simp] theorem wr_now : (wr s f i v).now = s.now := rfl
@[simp] theorem wr_mgmtStatus : (wr s f i v).mgmtStatus = s.mgmtStatus := rfl
@[simp] theorem wr_pending : (wr s f i v).pending = s.pending := rfl
@[simp] theorem wr_out : (wr s f i v).out = s.out := rfl
@[simp] theorem wr_detect : (wr s f i v).detect = s.detect := rfl
@[simp] theorem wr_free : (wr s f i v).free = s.free := rfl
@[simp] theorem wr_cfg : (wr s f i v).cfg = s.cfg := rfl
@[simp] theorem wr_slices : (wr s f i v).slices = s.slices := rfl
@[simp] theorem wr_shk : (wr s f i v).shk = s.shk := rfl
@[simp] theorem wr_gate : (wr s f i v).gate = s.gate := rfl
@[simp] theorem wr_awt : (wr s f i v).awt = s.awt := rfl
@[simp] theorem wr_lce : (wr s f i v).lce = s.lce := rfl
@[simp] theorem wr_plc : (wr s f i v).plc = s.plc := rfl
@[simp] theorem wr_rng : (wr s f i v).rng = s.rng := rfl
@[simp] theorem wr_fab : (wr s f i v).fab = s.fab := rfl
@[simp] theorem wr_prt : (wr s f i v).prt = s.prt := rfl
@[simp] theorem wr_rst : (wr s f i v).rst = s.rst := rfl
@[simp] theorem wr_tr : (wr s f i v).tr = s.tr := rfl
@[simp] theorem wr_ckr : (wr s f i v).ckr = s.ckr := rfl
@[simp] theorem wr_heel : (wr s f i v).heel = s.heel := rfl
@[simp] theorem wr_flt : (wr s f i v).flt = s.flt := rfl
@[simp] theorem wr_pwr : (wr s f i v).pwr = s.pwr := rfl
@[simp] theorem wr_tst : (wr s f i v).tst = s.tst := rfl
@[simp] theorem wr_bus : (wr s f i v).bus = s.bus := rfl
@[simp] theorem wr_regs : (wr s f i v).regs = rset s.regs f i v := rfl

/-! ### `wrb` -/

@[simp] theorem wrb_now (b : Bool) : (wrb s f i b).now = s.now := rfl
@[simp] theorem wrb_mgmtStatus (b : Bool) : (wrb s f i b).mgmtStatus = s.mgmtStatus := rfl
@[simp] theorem wrb_pending (b : Bool) : (wrb s f i b).pending = s.pending := rfl
@[simp] theorem wrb_out (b : Bool) : (wrb s f i b).out = s.out := rfl
@[simp] theorem wrb_detect (b : Bool) : (wrb s f i b).detect = s.detect := rfl
@[simp] theorem wrb_free (b : Bool) : (wrb s f i b).free = s.free := rfl
@[simp] theorem wrb_cfg (b : Bool) : (wrb s f i b).cfg = s.cfg := rfl
@[simp] theorem wrb_slices (b : Bool) : (wrb s f i b).slices = s.slices := rfl
@[simp] theorem wrb_shk (b : Bool) : (wrb s f i b).shk = s.shk := rfl
@[simp] theorem wrb_gate (b : Bool) : (wrb s f i b).gate = s.gate := rfl
@[simp] theorem wrb_awt (b : Bool) : (wrb s f i b).awt = s.awt := rfl
@[simp] theorem wrb_lce (b : Bool) : (wrb s f i b).lce = s.lce := rfl
@[simp] theorem wrb_plc (b : Bool) : (wrb s f i b).plc = s.plc := rfl
@[simp] theorem wrb_rng (b : Bool) : (wrb s f i b).rng = s.rng := rfl
@[simp] theorem wrb_fab (b : Bool) : (wrb s f i b).fab = s.fab := rfl
@[simp] theorem wrb_prt (b : Bool) : (wrb s f i b).prt = s.prt := rfl
@[simp] theorem wrb_rst (b : Bool) : (wrb s f i b).rst = s.rst := rfl
@[simp] theorem wrb_tr (b : Bool) : (wrb s f i b).tr = s.tr := rfl
@[simp] theorem wrb_ckr (b : Bool) : (wrb s f i b).ckr = s.ckr := rfl
@[simp] theorem wrb_heel (b : Bool) : (wrb s f i b).heel = s.heel := rfl
@[simp] theorem wrb_flt (b : Bool) : (wrb s f i b).flt = s.flt := rfl
@[simp] theorem wrb_pwr (b : Bool) : (wrb s f i b).pwr = s.pwr := rfl
@[simp] theorem wrb_tst (b : Bool) : (wrb s f i b).tst = s.tst := rfl
@[simp] theorem wrb_bus (b : Bool) : (wrb s f i b).bus = s.bus := rfl
@[simp] theorem wrb_regs (b : Bool) : (wrb s f i b).regs = rset s.regs f i (if b then 1 else 0) := rfl

/-! ### `inc` -/

@[simp] theorem inc_now : (inc s f i v).now = s.now := rfl
@[simp] theorem inc_mgmtStatus : (inc s f i v).mgmtStatus = s.mgmtStatus := rfl
@[simp] theorem inc_pending : (inc s f i v).pending = s.pending := rfl
@[simp] theorem inc_out : (inc s f i v).out = s.out := rfl
@[simp] theorem inc_detect : (inc s f i v).detect = s.detect := rfl
@[simp] theorem inc_free : (inc s f i v).free = s.free := rfl
@[simp] theorem inc_cfg : (inc s f i v).cfg = s.cfg := rfl
@[simp] theorem inc_slices : (inc s f i v).slices = s.slices := rfl
@[simp] theorem inc_shk : (inc s f i v).shk = s.shk := rfl
@[simp] theorem inc_gate : (inc s f i v).gate = s.gate := rfl
@[simp] theorem inc_awt : (inc s f i v).awt = s.awt := rfl
@[simp] theorem inc_lce : (inc s f i v).lce = s.lce := rfl
@[simp] theorem inc_plc : (inc s f i v).plc = s.plc := rfl
@[simp] theorem inc_rng : (inc s f i v).rng = s.rng := rfl
@[simp] theorem inc_fab : (inc s f i v).fab = s.fab := rfl
@[simp] theorem inc_prt : (inc s f i v).prt = s.prt := rfl
@[simp] theorem inc_rst : (inc s f i v).rst = s.rst := rfl
@[simp] theorem inc_tr : (inc s f i v).tr = s.tr := rfl
@[simp] theorem inc_ckr : (inc s f i v).ckr = s.ckr := rfl
@[simp] theorem inc_heel : (inc s f i v).heel = s.heel := rfl
@[simp] theorem inc_flt : (inc s f i v).flt = s.flt := rfl
@[simp] theorem inc_pwr : (inc s f i v).pwr = s.pwr := rfl
@[simp] theorem inc_tst : (inc s f i v).tst = s.tst := rfl
@[simp] theorem inc_bus : (inc s f i v).bus = s.bus := rfl
@[simp] theorem inc_regs : (inc s f i v).regs = rbump s.regs f i v := rfl

/-! ### `raise` -/

@[simp] theorem raise_now (o : Option Nat) : (raise s v i o).now = s.now := rfl
@[simp] theorem raise_mgmtStatus (o : Option Nat) : (raise s v i o).mgmtStatus = s.mgmtStatus := rfl
@[simp] theorem raise_regs (o : Option Nat) : (raise s v i o).regs = s.regs := rfl
@[simp] theorem raise_pending (o : Option Nat) : (raise s v i o).pending = s.pending := rfl
@[simp] theorem raise_out (o : Option Nat) : (raise s v i o).out = s.out := rfl
@[simp] theorem raise_free (o : Option Nat) : (raise s v i o).free = s.free := rfl
@[simp] theorem raise_cfg (o : Option Nat) : (raise s v i o).cfg = s.cfg := rfl
@[simp] theorem raise_slices (o : Option Nat) : (raise s v i o).slices = s.slices := rfl
@[simp] theorem raise_shk (o : Option Nat) : (raise s v i o).shk = s.shk := rfl
@[simp] theorem raise_gate (o : Option Nat) : (raise s v i o).gate = s.gate := rfl
@[simp] theorem raise_awt (o : Option Nat) : (raise s v i o).awt = s.awt := rfl
@[simp] theorem raise_lce (o : Option Nat) : (raise s v i o).lce = s.lce := rfl
@[simp] theorem raise_plc (o : Option Nat) : (raise s v i o).plc = s.plc := rfl
@[simp] theorem raise_rng (o : Option Nat) : (raise s v i o).rng = s.rng := rfl
@[simp] theorem raise_fab (o : Option Nat) : (raise s v i o).fab = s.fab := rfl
@[simp] theorem raise_prt (o : Option Nat) : (raise s v i o).prt = s.prt := rfl
@[simp] theorem raise_rst (o : Option Nat) : (raise s v i o).rst = s.rst := rfl
@[simp] theorem raise_tr (o : Option Nat) : (raise s v i o).tr = s.tr := rfl
@[simp] theorem raise_ckr (o : Option Nat) : (raise s v i o).ckr = s.ckr := rfl
@[simp] theorem raise_heel (o : Option Nat) : (raise s v i o).heel = s.heel := rfl
@[simp] theorem raise_flt (o : Option Nat) : (raise s v i o).flt = s.flt := rfl
@[simp] theorem raise_pwr (o : Option Nat) : (raise s v i o).pwr = s.pwr := rfl
@[simp] theorem raise_tst (o : Option Nat) : (raise s v i o).tst = s.tst := rfl
@[simp] theorem raise_bus (o : Option Nat) : (raise s v i o).bus = s.bus := rfl
@[simp] theorem rd_raise (o : Option Nat) : rd (raise s v i o) f j = rd s f j := rfl
@[simp] theorem bit_raise (o : Option Nat) : bit (raise s v i o) f j = bit s f j := rfl
@[simp] theorem raise_detect (o : Option Nat) : (raise s v i o).detect = s.detect ++ [⟨v, i, o⟩] := rfl

/-! ### `emit` -/

@[simp] theorem emit_now (e : Emit) : (emit s e).now = s.now := rfl
@[simp] theorem emit_mgmtStatus (e : Emit) : (emit s e).mgmtStatus = s.mgmtStatus := rfl
@[simp] theorem emit_regs (e : Emit) : (emit s e).regs = s.regs := rfl
@[simp] theorem emit_pending (e : Emit) : (emit s e).pending = s.pending := rfl
@[simp] theorem emit_detect (e : Emit) : (emit s e).detect = s.detect := rfl
@[simp] theorem emit_free (e : Emit) : (emit s e).free = s.free := rfl
@[simp] theorem emit_cfg (e : Emit) : (emit s e).cfg = s.cfg := rfl
@[simp] theorem emit_slices (e : Emit) : (emit s e).slices = s.slices := rfl
@[simp] theorem emit_shk (e : Emit) : (emit s e).shk = s.shk := rfl
@[simp] theorem emit_gate (e : Emit) : (emit s e).gate = s.gate := rfl
@[simp] theorem emit_awt (e : Emit) : (emit s e).awt = s.awt := rfl
@[simp] theorem emit_lce (e : Emit) : (emit s e).lce = s.lce := rfl
@[simp] theorem emit_plc (e : Emit) : (emit s e).plc = s.plc := rfl
@[simp] theorem emit_rng (e : Emit) : (emit s e).rng = s.rng := rfl
@[simp] theorem emit_fab (e : Emit) : (emit s e).fab = s.fab := rfl
@[simp] theorem emit_prt (e : Emit) : (emit s e).prt = s.prt := rfl
@[simp] theorem emit_rst (e : Emit) : (emit s e).rst = s.rst := rfl
@[simp] theorem emit_tr (e : Emit) : (emit s e).tr = s.tr := rfl
@[simp] theorem emit_ckr (e : Emit) : (emit s e).ckr = s.ckr := rfl
@[simp] theorem emit_heel (e : Emit) : (emit s e).heel = s.heel := rfl
@[simp] theorem emit_flt (e : Emit) : (emit s e).flt = s.flt := rfl
@[simp] theorem emit_pwr (e : Emit) : (emit s e).pwr = s.pwr := rfl
@[simp] theorem emit_tst (e : Emit) : (emit s e).tst = s.tst := rfl
@[simp] theorem emit_bus (e : Emit) : (emit s e).bus = s.bus := rfl
@[simp] theorem rd_emit (e : Emit) : rd (emit s e) f i = rd s f i := rfl
@[simp] theorem bit_emit (e : Emit) : bit (emit s e) f i = bit s f i := rfl
@[simp] theorem emit_out (e : Emit) : (emit s e).out = s.out ++ [e] := rfl

/-! ### `ckrUpd` -/

@[simp] theorem ckrUpd_now (u : Ckr → Ckr) : (ckrUpd s u).now = s.now := rfl
@[simp] theorem ckrUpd_mgmtStatus (u : Ckr → Ckr) : (ckrUpd s u).mgmtStatus = s.mgmtStatus := rfl
@[simp] theorem ckrUpd_regs (u : Ckr → Ckr) : (ckrUpd s u).regs = s.regs := rfl
@[simp] theorem ckrUpd_pending (u : Ckr → Ckr) : (ckrUpd s u).pending = s.pending := rfl
@[simp] theorem ckrUpd_out (u : Ckr → Ckr) : (ckrUpd s u).out = s.out := rfl
@[simp] theorem ckrUpd_detect (u : Ckr → Ckr) : (ckrUpd s u).detect = s.detect := rfl
@[simp] theorem ckrUpd_free (u : Ckr → Ckr) : (ckrUpd s u).free = s.free := rfl
@[simp] theorem ckrUpd_cfg (u : Ckr → Ckr) : (ckrUpd s u).cfg = s.cfg := rfl
@[simp] theorem ckrUpd_slices (u : Ckr → Ckr) : (ckrUpd s u).slices = s.slices := rfl
@[simp] theorem ckrUpd_shk (u : Ckr → Ckr) : (ckrUpd s u).shk = s.shk := rfl
@[simp] theorem ckrUpd_gate (u : Ckr → Ckr) : (ckrUpd s u).gate = s.gate := rfl
@[simp] theorem ckrUpd_awt (u : Ckr → Ckr) : (ckrUpd s u).awt = s.awt := rfl
@[simp] theorem ckrUpd_lce (u : Ckr → Ckr) : (ckrUpd s u).lce = s.lce := rfl
@[simp] theorem ckrUpd_plc (u : Ckr → Ckr) : (ckrUpd s u).plc = s.plc := rfl
@[simp] theorem ckrUpd_rng (u : Ckr → Ckr) : (ckrUpd s u).rng = s.rng := rfl
@[simp] theorem ckrUpd_fab (u : Ckr → Ckr) : (ckrUpd s u).fab = s.fab := rfl
@[simp] theorem ckrUpd_prt (u : Ckr → Ckr) : (ckrUpd s u).prt = s.prt := rfl
@[simp] theorem ckrUpd_rst (u : Ckr → Ckr) : (ckrUpd s u).rst = s.rst := rfl
@[simp] theorem ckrUpd_tr (u : Ckr → Ckr) : (ckrUpd s u).tr = s.tr := rfl
@[simp] theorem ckrUpd_ckr (u : Ckr → Ckr) : (ckrUpd s u).ckr = u s.ckr := rfl
@[simp] theorem ckrUpd_heel (u : Ckr → Ckr) : (ckrUpd s u).heel = s.heel := rfl
@[simp] theorem ckrUpd_flt (u : Ckr → Ckr) : (ckrUpd s u).flt = s.flt := rfl
@[simp] theorem ckrUpd_pwr (u : Ckr → Ckr) : (ckrUpd s u).pwr = s.pwr := rfl
@[simp] theorem ckrUpd_tst (u : Ckr → Ckr) : (ckrUpd s u).tst = s.tst := rfl
@[simp] theorem ckrUpd_bus (u : Ckr → Ckr) : (ckrUpd s u).bus = s.bus := rfl
@[simp] theorem rd_ckrUpd (u : Ckr → Ckr) : rd (ckrUpd s u) f i = rd s f i := rfl
@[simp] theorem bit_ckrUpd (u : Ckr → Ckr) : bit (ckrUpd s u) f i = bit s f i := rfl

/-! ### `fltUpd` -/

@[simp] theorem fltUpd_now (u : Flt → Flt) : (fltUpd s u).now = s.now := rfl
@[simp] theorem fltUpd_mgmtStatus (u : Flt → Flt) : (fltUpd s u).mgmtStatus = s.mgmtStatus := rfl
@[simp] theorem fltUpd_regs (u : Flt → Flt) : (fltUpd s u).regs = s.regs := rfl
@[simp] theorem fltUpd_pending (u : Flt → Flt) : (fltUpd s u).pending = s.pending := rfl
@[simp] theorem fltUpd_out (u : Flt → Flt) : (fltUpd s u).out = s.out := rfl
@[simp] theorem fltUpd_detect (u : Flt → Flt) : (fltUpd s u).detect = s.detect := rfl
@[simp] theorem fltUpd_free (u : Flt → Flt) : (fltUpd s u).free = s.free := rfl
@[simp] theorem fltUpd_cfg (u : Flt → Flt) : (fltUpd s u).cfg = s.cfg := rfl
@[simp] theorem fltUpd_slices (u : Flt → Flt) : (fltUpd s u).slices = s.slices := rfl
@[simp] theorem fltUpd_shk (u : Flt → Flt) : (fltUpd s u).shk = s.shk := rfl
@[simp] theorem fltUpd_gate (u : Flt → Flt) : (fltUpd s u).gate = s.gate := rfl
@[simp] theorem fltUpd_awt (u : Flt → Flt) : (fltUpd s u).awt = s.awt := rfl
@[simp] theorem fltUpd_lce (u : Flt → Flt) : (fltUpd s u).lce = s.lce := rfl
@[simp] theorem fltUpd_plc (u : Flt → Flt) : (fltUpd s u).plc = s.plc := rfl
@[simp] theorem fltUpd_rng (u : Flt → Flt) : (fltUpd s u).rng = s.rng := rfl
@[simp] theorem fltUpd_fab (u : Flt → Flt) : (fltUpd s u).fab = s.fab := rfl
@[simp] theorem fltUpd_prt (u : Flt → Flt) : (fltUpd s u).prt = s.prt := rfl
@[simp] theorem fltUpd_rst (u : Flt → Flt) : (fltUpd s u).rst = s.rst := rfl
@[simp] theorem fltUpd_tr (u : Flt → Flt) : (fltUpd s u).tr = s.tr := rfl
@[simp] theorem fltUpd_ckr (u : Flt → Flt) : (fltUpd s u).ckr = s.ckr := rfl
@[simp] theorem fltUpd_heel (u : Flt → Flt) : (fltUpd s u).heel = s.heel := rfl
@[simp] theorem fltUpd_flt (u : Flt → Flt) : (fltUpd s u).flt = u s.flt := rfl
@[simp] theorem fltUpd_pwr (u : Flt → Flt) : (fltUpd s u).pwr = s.pwr := rfl
@[simp] theorem fltUpd_tst (u : Flt → Flt) : (fltUpd s u).tst = s.tst := rfl
@[simp] theorem fltUpd_bus (u : Flt → Flt) : (fltUpd s u).bus = s.bus := rfl
@[simp] theorem rd_fltUpd (u : Flt → Flt) : rd (fltUpd s u) f i = rd s f i := rfl
@[simp] theorem bit_fltUpd (u : Flt → Flt) : bit (fltUpd s u) f i = bit s f i := rfl

/-! ### `fabUpd` -/

@[simp] theorem fabUpd_now (u : Fabric → Fabric) : (fabUpd s u).now = s.now := rfl
@[simp] theorem fabUpd_mgmtStatus (u : Fabric → Fabric) : (fabUpd s u).mgmtStatus = s.mgmtStatus := rfl
@[simp] theorem fabUpd_regs (u : Fabric → Fabric) : (fabUpd s u).regs = s.regs := rfl
@[simp] theorem fabUpd_pending (u : Fabric → Fabric) : (fabUpd s u).pending = s.pending := rfl
@[simp] theorem fabUpd_out (u : Fabric → Fabric) : (fabUpd s u).out = s.out := rfl
@[simp] theorem fabUpd_detect (u : Fabric → Fabric) : (fabUpd s u).detect = s.detect := rfl
@[simp] theorem fabUpd_free (u : Fabric → Fabric) : (fabUpd s u).free = s.free := rfl
@[simp] theorem fabUpd_cfg (u : Fabric → Fabric) : (fabUpd s u).cfg = s.cfg := rfl
@[simp] theorem fabUpd_slices (u : Fabric → Fabric) : (fabUpd s u).slices = s.slices := rfl
@[simp] theorem fabUpd_shk (u : Fabric → Fabric) : (fabUpd s u).shk = s.shk := rfl
@[simp] theorem fabUpd_gate (u : Fabric → Fabric) : (fabUpd s u).gate = s.gate := rfl
@[simp] theorem fabUpd_awt (u : Fabric → Fabric) : (fabUpd s u).awt = s.awt := rfl
@[simp] theorem fabUpd_lce (u : Fabric → Fabric) : (fabUpd s u).lce = s.lce := rfl
@[simp] theorem fabUpd_plc (u : Fabric → Fabric) : (fabUpd s u).plc = s.plc := rfl
@[simp] theorem fabUpd_rng (u : Fabric → Fabric) : (fabUpd s u).rng = s.rng := rfl
@[simp] theorem fabUpd_fab (u : Fabric → Fabric) : (fabUpd s u).fab = u s.fab := rfl
@[simp] theorem fabUpd_prt (u : Fabric → Fabric) : (fabUpd s u).prt = s.prt := rfl
@[simp] theorem fabUpd_rst (u : Fabric → Fabric) : (fabUpd s u).rst = s.rst := rfl
@[simp] theorem fabUpd_tr (u : Fabric → Fabric) : (fabUpd s u).tr = s.tr := rfl
@[simp] theorem fabUpd_ckr (u : Fabric → Fabric) : (fabUpd s u).ckr = s.ckr := rfl
@[simp] theorem fabUpd_heel (u : Fabric → Fabric) : (fabUpd s u).heel = s.heel := rfl
@[simp] theorem fabUpd_flt (u : Fabric → Fabric) : (fabUpd s u).flt = s.flt := rfl
@[simp] theorem fabUpd_pwr (u : Fabric → Fabric) : (fabUpd s u).pwr = s.pwr := rfl
@[simp] theorem fabUpd_tst (u : Fabric → Fabric) : (fabUpd s u).tst = s.tst := rfl
@[simp] theorem fabUpd_bus (u : Fabric → Fabric) : (fabUpd s u).bus = s.bus := rfl
@[simp] theorem rd_fabUpd (u : Fabric → Fabric) : rd (fabUpd s u) f i = rd s f i := rfl
@[simp] theorem bit_fabUpd (u : Fabric → Fabric) : bit (fabUpd s u) f i = bit s f i := rfl

/-! ### `heelUpd` -/

@[simp] theorem heelUpd_now (u : Heel → Heel) : (heelUpd s u).now = s.now := rfl
@[simp] theorem heelUpd_mgmtStatus (u : Heel → Heel) : (heelUpd s u).mgmtStatus = s.mgmtStatus := rfl
@[simp] theorem heelUpd_regs (u : Heel → Heel) : (heelUpd s u).regs = s.regs := rfl
@[simp] theorem heelUpd_pending (u : Heel → Heel) : (heelUpd s u).pending = s.pending := rfl
@[simp] theorem heelUpd_out (u : Heel → Heel) : (heelUpd s u).out = s.out := rfl
@[simp] theorem heelUpd_detect (u : Heel → Heel) : (heelUpd s u).detect = s.detect := rfl
@[simp] theorem heelUpd_free (u : Heel → Heel) : (heelUpd s u).free = s.free := rfl
@[simp] theorem heelUpd_cfg (u : Heel → Heel) : (heelUpd s u).cfg = s.cfg := rfl
@[simp] theorem heelUpd_slices (u : Heel → Heel) : (heelUpd s u).slices = s.slices := rfl
@[simp] theorem heelUpd_shk (u : Heel → Heel) : (heelUpd s u).shk = s.shk := rfl
@[simp] theorem heelUpd_gate (u : Heel → Heel) : (heelUpd s u).gate = s.gate := rfl
@[simp] theorem heelUpd_awt (u : Heel → Heel) : (heelUpd s u).awt = s.awt := rfl
@[simp] theorem heelUpd_lce (u : Heel → Heel) : (heelUpd s u).lce = s.lce := rfl
@[simp] theorem heelUpd_plc (u : Heel → Heel) : (heelUpd s u).plc = s.plc := rfl
@[simp] theorem heelUpd_rng (u : Heel → Heel) : (heelUpd s u).rng = s.rng := rfl
@[simp] theorem heelUpd_fab (u : Heel → Heel) : (heelUpd s u).fab = s.fab := rfl
@[simp] theorem heelUpd_prt (u : Heel → Heel) : (heelUpd s u).prt = s.prt := rfl
@[simp] theorem heelUpd_rst (u : Heel → Heel) : (heelUpd s u).rst = s.rst := rfl
@[simp] theorem heelUpd_tr (u : Heel → Heel) : (heelUpd s u).tr = s.tr := rfl
@[simp] theorem heelUpd_ckr (u : Heel → Heel) : (heelUpd s u).ckr = s.ckr := rfl
@[simp] theorem heelUpd_heel (u : Heel → Heel) : (heelUpd s u).heel = u s.heel := rfl
@[simp] theorem heelUpd_flt (u : Heel → Heel) : (heelUpd s u).flt = s.flt := rfl
@[simp] theorem heelUpd_pwr (u : Heel → Heel) : (heelUpd s u).pwr = s.pwr := rfl
@[simp] theorem heelUpd_tst (u : Heel → Heel) : (heelUpd s u).tst = s.tst := rfl
@[simp] theorem heelUpd_bus (u : Heel → Heel) : (heelUpd s u).bus = s.bus := rfl
@[simp] theorem rd_heelUpd (u : Heel → Heel) : rd (heelUpd s u) f i = rd s f i := rfl
@[simp] theorem bit_heelUpd (u : Heel → Heel) : bit (heelUpd s u) f i = bit s f i := rfl

/-! ### `lceUpd` -/

@[simp] theorem lceUpd_now (u : Lace → Lace) : (lceUpd s u).now = s.now := rfl
@[simp] theorem lceUpd_mgmtStatus (u : Lace → Lace) : (lceUpd s u).mgmtStatus = s.mgmtStatus := rfl
@[simp] theorem lceUpd_regs (u : Lace → Lace) : (lceUpd s u).regs = s.regs := rfl
@[simp] theorem lceUpd_pending (u : Lace → Lace) : (lceUpd s u).pending = s.pending := rfl
@[simp] theorem lceUpd_out (u : Lace → Lace) : (lceUpd s u).out = s.out := rfl
@[simp] theorem lceUpd_detect (u : Lace → Lace) : (lceUpd s u).detect = s.detect := rfl
@[simp] theorem lceUpd_free (u : Lace → Lace) : (lceUpd s u).free = s.free := rfl
@[simp] theorem lceUpd_cfg (u : Lace → Lace) : (lceUpd s u).cfg = s.cfg := rfl
@[simp] theorem lceUpd_slices (u : Lace → Lace) : (lceUpd s u).slices = s.slices := rfl
@[simp] theorem lceUpd_shk (u : Lace → Lace) : (lceUpd s u).shk = s.shk := rfl
@[simp] theorem lceUpd_gate (u : Lace → Lace) : (lceUpd s u).gate = s.gate := rfl
@[simp] theorem lceUpd_awt (u : Lace → Lace) : (lceUpd s u).awt = s.awt := rfl
@[simp] theorem lceUpd_lce (u : Lace → Lace) : (lceUpd s u).lce = u s.lce := rfl
@[simp] theorem lceUpd_plc (u : Lace → Lace) : (lceUpd s u).plc = s.plc := rfl
@[simp] theorem lceUpd_rng (u : Lace → Lace) : (lceUpd s u).rng = s.rng := rfl
@[simp] theorem lceUpd_fab (u : Lace → Lace) : (lceUpd s u).fab = s.fab := rfl
@[simp] theorem lceUpd_prt (u : Lace → Lace) : (lceUpd s u).prt = s.prt := rfl
@[simp] theorem lceUpd_rst (u : Lace → Lace) : (lceUpd s u).rst = s.rst := rfl
@[simp] theorem lceUpd_tr (u : Lace → Lace) : (lceUpd s u).tr = s.tr := rfl
@[simp] theorem lceUpd_ckr (u : Lace → Lace) : (lceUpd s u).ckr = s.ckr := rfl
@[simp] theorem lceUpd_heel (u : Lace → Lace) : (lceUpd s u).heel = s.heel := rfl
@[simp] theorem lceUpd_flt (u : Lace → Lace) : (lceUpd s u).flt = s.flt := rfl
@[simp] theorem lceUpd_pwr (u : Lace → Lace) : (lceUpd s u).pwr = s.pwr := rfl
@[simp] theorem lceUpd_tst (u : Lace → Lace) : (lceUpd s u).tst = s.tst := rfl
@[simp] theorem lceUpd_bus (u : Lace → Lace) : (lceUpd s u).bus = s.bus := rfl
@[simp] theorem rd_lceUpd (u : Lace → Lace) : rd (lceUpd s u) f i = rd s f i := rfl
@[simp] theorem bit_lceUpd (u : Lace → Lace) : bit (lceUpd s u) f i = bit s f i := rfl

/-! ### `plcUpd` -/

@[simp] theorem plcUpd_now (u : Plc → Plc) : (plcUpd s u).now = s.now := rfl
@[simp] theorem plcUpd_mgmtStatus (u : Plc → Plc) : (plcUpd s u).mgmtStatus = s.mgmtStatus := rfl
@[simp] theorem plcUpd_regs (u : Plc → Plc) : (plcUpd s u).regs = s.regs := rfl
@[simp] theorem plcUpd_pending (u : Plc → Plc) : (plcUpd s u).pending = s.pending := rfl
@[simp] theorem plcUpd_out (u : Plc → Plc) : (plcUpd s u).out = s.out := rfl
@[simp] theorem plcUpd_detect (u : Plc → Plc) : (plcUpd s u).detect = s.detect := rfl
@[simp] theorem plcUpd_free (u : Plc → Plc) : (plcUpd s u).free = s.free := rfl
@[simp] theorem plcUpd_cfg (u : Plc → Plc) : (plcUpd s u).cfg = s.cfg := rfl
@[simp] theorem plcUpd_slices (u : Plc → Plc) : (plcUpd s u).slices = s.slices := rfl
@[simp] theorem plcUpd_shk (u : Plc → Plc) : (plcUpd s u).shk = s.shk := rfl
@[simp] theorem plcUpd_gate (u : Plc → Plc) : (plcUpd s u).gate = s.gate := rfl
@[simp] theorem plcUpd_awt (u : Plc → Plc) : (plcUpd s u).awt = s.awt := rfl
@[simp] theorem plcUpd_lce (u : Plc → Plc) : (plcUpd s u).lce = s.lce := rfl
@[simp] theorem plcUpd_plc (u : Plc → Plc) : (plcUpd s u).plc = u s.plc := rfl
@[simp] theorem plcUpd_rng (u : Plc → Plc) : (plcUpd s u).rng = s.rng := rfl
@[simp] theorem plcUpd_fab (u : Plc → Plc) : (plcUpd s u).fab = s.fab := rfl
@[simp] theorem plcUpd_prt (u : Plc → Plc) : (plcUpd s u).prt = s.prt := rfl
@[simp] theorem plcUpd_rst (u : Plc → Plc) : (plcUpd s u).rst = s.rst := rfl
@[simp] theorem plcUpd_tr (u : Plc → Plc) : (plcUpd s u).tr = s.tr := rfl
@[simp] theorem plcUpd_ckr (u : Plc → Plc) : (plcUpd s u).ckr = s.ckr := rfl
@[simp] theorem plcUpd_heel (u : Plc → Plc) : (plcUpd s u).heel = s.heel := rfl
@[simp] theorem plcUpd_flt (u : Plc → Plc) : (plcUpd s u).flt = s.flt := rfl
@[simp] theorem plcUpd_pwr (u : Plc → Plc) : (plcUpd s u).pwr = s.pwr := rfl
@[simp] theorem plcUpd_tst (u : Plc → Plc) : (plcUpd s u).tst = s.tst := rfl
@[simp] theorem plcUpd_bus (u : Plc → Plc) : (plcUpd s u).bus = s.bus := rfl
@[simp] theorem rd_plcUpd (u : Plc → Plc) : rd (plcUpd s u) f i = rd s f i := rfl
@[simp] theorem bit_plcUpd (u : Plc → Plc) : bit (plcUpd s u) f i = bit s f i := rfl

/-! ### `prtUpd` -/

@[simp] theorem prtUpd_now (u : Ports → Ports) : (prtUpd s u).now = s.now := rfl
@[simp] theorem prtUpd_mgmtStatus (u : Ports → Ports) : (prtUpd s u).mgmtStatus = s.mgmtStatus := rfl
@[simp] theorem prtUpd_regs (u : Ports → Ports) : (prtUpd s u).regs = s.regs := rfl
@[simp] theorem prtUpd_pending (u : Ports → Ports) : (prtUpd s u).pending = s.pending := rfl
@[simp] theorem prtUpd_out (u : Ports → Ports) : (prtUpd s u).out = s.out := rfl
@[simp] theorem prtUpd_detect (u : Ports → Ports) : (prtUpd s u).detect = s.detect := rfl
@[simp] theorem prtUpd_free (u : Ports → Ports) : (prtUpd s u).free = s.free := rfl
@[simp] theorem prtUpd_cfg (u : Ports → Ports) : (prtUpd s u).cfg = s.cfg := rfl
@[simp] theorem prtUpd_slices (u : Ports → Ports) : (prtUpd s u).slices = s.slices := rfl
@[simp] theorem prtUpd_shk (u : Ports → Ports) : (prtUpd s u).shk = s.shk := rfl
@[simp] theorem prtUpd_gate (u : Ports → Ports) : (prtUpd s u).gate = s.gate := rfl
@[simp] theorem prtUpd_awt (u : Ports → Ports) : (prtUpd s u).awt = s.awt := rfl
@[simp] theorem prtUpd_lce (u : Ports → Ports) : (prtUpd s u).lce = s.lce := rfl
@[simp] theorem prtUpd_plc (u : Ports → Ports) : (prtUpd s u).plc = s.plc := rfl
@[simp] theorem prtUpd_rng (u : Ports → Ports) : (prtUpd s u).rng = s.rng := rfl
@[simp] theorem prtUpd_fab (u : Ports → Ports) : (prtUpd s u).fab = s.fab := rfl
@[simp] theorem prtUpd_prt (u : Ports → Ports) : (prtUpd s u).prt = u s.prt := rfl
@[simp] theorem prtUpd_rst (u : Ports → Ports) : (prtUpd s u).rst = s.rst := rfl
@[simp] theorem prtUpd_tr (u : Ports → Ports) : (prtUpd s u).tr = s.tr := rfl
@[simp] theorem prtUpd_ckr (u : Ports → Ports) : (prtUpd s u).ckr = s.ckr := rfl
@[simp] theorem prtUpd_heel (u : Ports → Ports) : (prtUpd s u).heel = s.heel := rfl
@[simp] theorem prtUpd_flt (u : Ports → Ports) : (prtUpd s u).flt = s.flt := rfl
@[simp] theorem prtUpd_pwr (u : Ports → Ports) : (prtUpd s u).pwr = s.pwr := rfl
@[simp] theorem prtUpd_tst (u : Ports → Ports) : (prtUpd s u).tst = s.tst := rfl
@[simp] theorem prtUpd_bus (u : Ports → Ports) : (prtUpd s u).bus = s.bus := rfl
@[simp] theorem rd_prtUpd (u : Ports → Ports) : rd (prtUpd s u) f i = rd s f i := rfl
@[simp] theorem bit_prtUpd (u : Ports → Ports) : bit (prtUpd s u) f i = bit s f i := rfl

/-! ### `pwrUpd` -/

@[simp] theorem pwrUpd_now (u : Pwr → Pwr) : (pwrUpd s u).now = s.now := rfl
@[simp] theorem pwrUpd_mgmtStatus (u : Pwr → Pwr) : (pwrUpd s u).mgmtStatus = s.mgmtStatus := rfl
@[simp] theorem pwrUpd_regs (u : Pwr → Pwr) : (pwrUpd s u).regs = s.regs := rfl
@[simp] theorem pwrUpd_pending (u : Pwr → Pwr) : (pwrUpd s u).pending = s.pending := rfl
@[simp] theorem pwrUpd_out (u : Pwr → Pwr) : (pwrUpd s u).out = s.out := rfl
@[simp] theorem pwrUpd_detect (u : Pwr → Pwr) : (pwrUpd s u).detect = s.detect := rfl
@[simp] theorem pwrUpd_free (u : Pwr → Pwr) : (pwrUpd s u).free = s.free := rfl
@[simp] theorem pwrUpd_cfg (u : Pwr → Pwr) : (pwrUpd s u).cfg = s.cfg := rfl
@[simp] theorem pwrUpd_slices (u : Pwr → Pwr) : (pwrUpd s u).slices = s.slices := rfl
@[simp] theorem pwrUpd_shk (u : Pwr → Pwr) : (pwrUpd s u).shk = s.shk := rfl
@[simp] theorem pwrUpd_gate (u : Pwr → Pwr) : (pwrUpd s u).gate = s.gate := rfl
@[simp] theorem pwrUpd_awt (u : Pwr → Pwr) : (pwrUpd s u).awt = s.awt := rfl
@[simp] theorem pwrUpd_lce (u : Pwr → Pwr) : (pwrUpd s u).lce = s.lce := rfl
@[simp] theorem pwrUpd_plc (u : Pwr → Pwr) : (pwrUpd s u).plc = s.plc := rfl
@[simp] theorem pwrUpd_rng (u : Pwr → Pwr) : (pwrUpd s u).rng = s.rng := rfl
@[simp] theorem pwrUpd_fab (u : Pwr → Pwr) : (pwrUpd s u).fab = s.fab := rfl
@[simp] theorem pwrUpd_prt (u : Pwr → Pwr) : (pwrUpd s u).prt = s.prt := rfl
@[simp] theorem pwrUpd_rst (u : Pwr → Pwr) : (pwrUpd s u).rst = s.rst := rfl
@[simp] theorem pwrUpd_tr (u : Pwr → Pwr) : (pwrUpd s u).tr = s.tr := rfl
@[simp] theorem pwrUpd_ckr (u : Pwr → Pwr) : (pwrUpd s u).ckr = s.ckr := rfl
@[simp] theorem pwrUpd_heel (u : Pwr → Pwr) : (pwrUpd s u).heel = s.heel := rfl
@[simp] theorem pwrUpd_flt (u : Pwr → Pwr) : (pwrUpd s u).flt = s.flt := rfl
@[simp] theorem pwrUpd_pwr (u : Pwr → Pwr) : (pwrUpd s u).pwr = u s.pwr := rfl
@[simp] theorem pwrUpd_tst (u : Pwr → Pwr) : (pwrUpd s u).tst = s.tst := rfl
@[simp] theorem pwrUpd_bus (u : Pwr → Pwr) : (pwrUpd s u).bus = s.bus := rfl
@[simp] theorem rd_pwrUpd (u : Pwr → Pwr) : rd (pwrUpd s u) f i = rd s f i := rfl
@[simp] theorem bit_pwrUpd (u : Pwr → Pwr) : bit (pwrUpd s u) f i = bit s f i := rfl

/-! ### `rstUpd` -/

@[simp] theorem rstUpd_now (u : RstSt → RstSt) : (rstUpd s u).now = s.now := rfl
@[simp] theorem rstUpd_mgmtStatus (u : RstSt → RstSt) : (rstUpd s u).mgmtStatus = s.mgmtStatus := rfl
@[simp] theorem rstUpd_regs (u : RstSt → RstSt) : (rstUpd s u).regs = s.regs := rfl
@[simp] theorem rstUpd_pending (u : RstSt → RstSt) : (rstUpd s u).pending = s.pending := rfl
@[simp] theorem rstUpd_out (u : RstSt → RstSt) : (rstUpd s u).out = s.out := rfl
@[simp] theorem rstUpd_detect (u : RstSt → RstSt) : (rstUpd s u).detect = s.detect := rfl
@[simp] theorem rstUpd_free (u : RstSt → RstSt) : (rstUpd s u).free = s.free := rfl
@[simp] theorem rstUpd_cfg (u : RstSt → RstSt) : (rstUpd s u).cfg = s.cfg := rfl
@[simp] theorem rstUpd_slices (u : RstSt → RstSt) : (rstUpd s u).slices = s.slices := rfl
@[simp] theorem rstUpd_shk (u : RstSt → RstSt) : (rstUpd s u).shk = s.shk := rfl
@[simp] theorem rstUpd_gate (u : RstSt → RstSt) : (rstUpd s u).gate = s.gate := rfl
@[simp] theorem rstUpd_awt (u : RstSt → RstSt) : (rstUpd s u).awt = s.awt := rfl
@[simp] theorem rstUpd_lce (u : RstSt → RstSt) : (rstUpd s u).lce = s.lce := rfl
@[simp] theorem rstUpd_plc (u : RstSt → RstSt) : (rstUpd s u).plc = s.plc := rfl
@[simp] theorem rstUpd_rng (u : RstSt → RstSt) : (rstUpd s u).rng = s.rng := rfl
@[simp] theorem rstUpd_fab (u : RstSt → RstSt) : (rstUpd s u).fab = s.fab := rfl
@[simp] theorem rstUpd_prt (u : RstSt → RstSt) : (rstUpd s u).prt = s.prt := rfl
@[simp] theorem rstUpd_rst (u : RstSt → RstSt) : (rstUpd s u).rst = u s.rst := rfl
@[simp] theorem rstUpd_tr (u : RstSt → RstSt) : (rstUpd s u).tr = s.tr := rfl
@[simp] theorem rstUpd_ckr (u : RstSt → RstSt) : (rstUpd s u).ckr = s.ckr := rfl
@[simp] theorem rstUpd_heel (u : RstSt → RstSt) : (rstUpd s u).heel = s.heel := rfl
@[simp] theorem rstUpd_flt (u : RstSt → RstSt) : (rstUpd s u).flt = s.flt := rfl
@[simp] theorem rstUpd_pwr (u : RstSt → RstSt) : (rstUpd s u).pwr = s.pwr := rfl
@[simp] theorem rstUpd_tst (u : RstSt → RstSt) : (rstUpd s u).tst = s.tst := rfl
@[simp] theorem rstUpd_bus (u : RstSt → RstSt) : (rstUpd s u).bus = s.bus := rfl
@[simp] theorem rd_rstUpd (u : RstSt → RstSt) : rd (rstUpd s u) f i = rd s f i := rfl
@[simp] theorem bit_rstUpd (u : RstSt → RstSt) : bit (rstUpd s u) f i = bit s f i := rfl

/-! ### `rngUpd` -/

@[simp] theorem rngUpd_now (u : Rings → Rings) : (rngUpd s u).now = s.now := rfl
@[simp] theorem rngUpd_mgmtStatus (u : Rings → Rings) : (rngUpd s u).mgmtStatus = s.mgmtStatus := rfl
@[simp] theorem rngUpd_regs (u : Rings → Rings) : (rngUpd s u).regs = s.regs := rfl
@[simp] theorem rngUpd_pending (u : Rings → Rings) : (rngUpd s u).pending = s.pending := rfl
@[simp] theorem rngUpd_out (u : Rings → Rings) : (rngUpd s u).out = s.out := rfl
@[simp] theorem rngUpd_detect (u : Rings → Rings) : (rngUpd s u).detect = s.detect := rfl
@[simp] theorem rngUpd_free (u : Rings → Rings) : (rngUpd s u).free = s.free := rfl
@[simp] theorem rngUpd_cfg (u : Rings → Rings) : (rngUpd s u).cfg = s.cfg := rfl
@[simp] theorem rngUpd_slices (u : Rings → Rings) : (rngUpd s u).slices = s.slices := rfl
@[simp] theorem rngUpd_shk (u : Rings → Rings) : (rngUpd s u).shk = s.shk := rfl
@[simp] theorem rngUpd_gate (u : Rings → Rings) : (rngUpd s u).gate = s.gate := rfl
@[simp] theorem rngUpd_awt (u : Rings → Rings) : (rngUpd s u).awt = s.awt := rfl
@[simp] theorem rngUpd_lce (u : Rings → Rings) : (rngUpd s u).lce = s.lce := rfl
@[simp] theorem rngUpd_plc (u : Rings → Rings) : (rngUpd s u).plc = s.plc := rfl
@[simp] theorem rngUpd_rng (u : Rings → Rings) : (rngUpd s u).rng = u s.rng := rfl
@[simp] theorem rngUpd_fab (u : Rings → Rings) : (rngUpd s u).fab = s.fab := rfl
@[simp] theorem rngUpd_prt (u : Rings → Rings) : (rngUpd s u).prt = s.prt := rfl
@[simp] theorem rngUpd_rst (u : Rings → Rings) : (rngUpd s u).rst = s.rst := rfl
@[simp] theorem rngUpd_tr (u : Rings → Rings) : (rngUpd s u).tr = s.tr := rfl
@[simp] theorem rngUpd_ckr (u : Rings → Rings) : (rngUpd s u).ckr = s.ckr := rfl
@[simp] theorem rngUpd_heel (u : Rings → Rings) : (rngUpd s u).heel = s.heel := rfl
@[simp] theorem rngUpd_flt (u : Rings → Rings) : (rngUpd s u).flt = s.flt := rfl
@[simp] theorem rngUpd_pwr (u : Rings → Rings) : (rngUpd s u).pwr = s.pwr := rfl
@[simp] theorem rngUpd_tst (u : Rings → Rings) : (rngUpd s u).tst = s.tst := rfl
@[simp] theorem rngUpd_bus (u : Rings → Rings) : (rngUpd s u).bus = s.bus := rfl
@[simp] theorem rd_rngUpd (u : Rings → Rings) : rd (rngUpd s u) f i = rd s f i := rfl
@[simp] theorem bit_rngUpd (u : Rings → Rings) : bit (rngUpd s u) f i = bit s f i := rfl

/-! ### `tstUpd` -/

@[simp] theorem tstUpd_now (u : Tst → Tst) : (tstUpd s u).now = s.now := rfl
@[simp] theorem tstUpd_mgmtStatus (u : Tst → Tst) : (tstUpd s u).mgmtStatus = s.mgmtStatus := rfl
@[simp] theorem tstUpd_regs (u : Tst → Tst) : (tstUpd s u).regs = s.regs := rfl
@[simp] theorem tstUpd_pending (u : Tst → Tst) : (tstUpd s u).pending = s.pending := rfl
@[simp] theorem tstUpd_out (u : Tst → Tst) : (tstUpd s u).out = s.out := rfl
@[simp] theorem tstUpd_detect (u : Tst → Tst) : (tstUpd s u).detect = s.detect := rfl
@[simp] theorem tstUpd_free (u : Tst → Tst) : (tstUpd s u).free = s.free := rfl
@[simp] theorem tstUpd_cfg (u : Tst → Tst) : (tstUpd s u).cfg = s.cfg := rfl
@[simp] theorem tstUpd_slices (u : Tst → Tst) : (tstUpd s u).slices = s.slices := rfl
@[simp] theorem tstUpd_shk (u : Tst → Tst) : (tstUpd s u).shk = s.shk := rfl
@[simp] theorem tstUpd_gate (u : Tst → Tst) : (tstUpd s u).gate = s.gate := rfl
@[simp] theorem tstUpd_awt (u : Tst → Tst) : (tstUpd s u).awt = s.awt := rfl
@[simp] theorem tstUpd_lce (u : Tst → Tst) : (tstUpd s u).lce = s.lce := rfl
@[simp] theorem tstUpd_plc (u : Tst → Tst) : (tstUpd s u).plc = s.plc := rfl
@[simp] theorem tstUpd_rng (u : Tst → Tst) : (tstUpd s u).rng = s.rng := rfl
@[simp] theorem tstUpd_fab (u : Tst → Tst) : (tstUpd s u).fab = s.fab := rfl
@[simp] theorem tstUpd_prt (u : Tst → Tst) : (tstUpd s u).prt = s.prt := rfl
@[simp] theorem tstUpd_rst (u : Tst → Tst) : (tstUpd s u).rst = s.rst := rfl
@[simp] theorem tstUpd_tr (u : Tst → Tst) : (tstUpd s u).tr = s.tr := rfl
@[simp] theorem tstUpd_ckr (u : Tst → Tst) : (tstUpd s u).ckr = s.ckr := rfl
@[simp] theorem tstUpd_heel (u : Tst → Tst) : (tstUpd s u).heel = s.heel := rfl
@[simp] theorem tstUpd_flt (u : Tst → Tst) : (tstUpd s u).flt = s.flt := rfl
@[simp] theorem tstUpd_pwr (u : Tst → Tst) : (tstUpd s u).pwr = s.pwr := rfl
@[simp] theorem tstUpd_tst (u : Tst → Tst) : (tstUpd s u).tst = u s.tst := rfl
@[simp] theorem tstUpd_bus (u : Tst → Tst) : (tstUpd s u).bus = s.bus := rfl
@[simp] theorem rd_tstUpd (u : Tst → Tst) : rd (tstUpd s u) f i = rd s f i := rfl
@[simp] theorem bit_tstUpd (u : Tst → Tst) : bit (tstUpd s u) f i = bit s f i := rfl

/-! ### `raiseIf` -/

@[simp] theorem raiseIf_true (o : Option Nat) : raiseIf true s v i o = raise s v i o := rfl
@[simp] theorem raiseIf_false (o : Option Nat) : raiseIf false s v i o = s := rfl
@[simp] theorem raiseIf_regs (c : Bool) (o : Option Nat) : (raiseIf c s v i o).regs = s.regs := by cases c <;> rfl
@[simp] theorem rd_raiseIf (c : Bool) (o : Option Nat) : rd (raiseIf c s v i o) f j = rd s f j := by cases c <;> rfl

/-! ### Reading a register after a write -/

variable {s}

/-- The register store of a sound state is canonical. -/
theorem regs_of_wf (h : s.wf = true) : rwf s.regs = true := ((keep_iff s.pending s).mpr ⟨h, rfl⟩).regs

/-- A field reads as what was written, cut to its width. -/
theorem rd_wr_self (h : rwf s.regs = true) : rd (wr s f i v) f i = v % 2 ^ (f.width % 128) := rget_rset_self h f i v

/-- A write of one field leaves every field with another key alone. -/
theorem rd_wr_ne (h : rwf s.regs = true) (hne : fkey g j ≠ fkey f i) : rd (wr s f i v) g j = rd s g j := rget_rset_ne h f g i j v hne

/-- A counter reads as the sum, or as the most its field holds. -/
theorem rd_inc_self (h : rwf s.regs = true) (hw : f.width < 128) : rd (inc s f i v) f i = min (rd s f i + v) (2 ^ f.width - 1) := by
  have h2 : 0 < 2 ^ f.width := Nat.two_pow_pos _
  show rget (rset s.regs f i (min (rget s.regs f i + v) (2 ^ f.width - 1))) f i = _
  rw [rget_rset_self h, Nat.mod_eq_of_lt hw, Nat.mod_eq_of_lt (by omega)]
  rfl

/-- A counter leaves every field with another key alone. -/
theorem rd_inc_ne (h : rwf s.regs = true) (hne : fkey g j ≠ fkey f i) : rd (inc s f i v) g j = rd s g j := rget_rset_ne h f g i j _ hne

/-! ### Register commands -/

/-- R439, R522: a write that its mode and its block let through has its effect on the state as the master finds it. -/
theorem asMaster_taken {m : Master} {off : Nat} (h : taken s m off) (u : State → State) : asMaster s m off u = u (acked s m) := by
  unfold asMaster acked
  simp [h.1, h.2]

/-- R522: a write that the mode turns away has no effect on the registers. -/
theorem asMaster_denied {m : Master} {off : Nat} (h : modeAllows s m off true = false) (u : State → State) :
    asMaster s m off u = accDenied s m 3 := by
  simp [asMaster, h]

/-- R439: a write to a block in BLOCK reset is counted and has no other effect there. -/
theorem asMaster_reset {m : Master} {off : Nat} (h : modeAllows s m off true = true) (hb : inBlockReset s (blockOf off) = true)
    (u : State → State) : asMaster s m off u = accDenied (inc s FLT_BLK_DISC) m 1 := by
  simp [asMaster, h, hb]

end Sys2Proof.Machine
end

