-- ==== Sys2Proof/WellFormed.lean ====
section
/-! DEFINITION. Which commands an outside of the kind the spec describes can send: the lengths, counts and combinations of operands
that their types do not already fix. A meaning answers for every command; these are the ones that its rules speak of. -/

namespace Sys2Proof

/-- The type of a packet follows from its transaction (R79). -/
def PktOp.kind : PktOp → PktKind
  | .memWrite | .msg | .notice => .posted
  | .memRead | .atomic | .cfg | .io => .nonPosted
  | .cpl => .completion

/-- A packet: its type fits its transaction, one that carries data carries as many bytes as it names, one that carries
none carries none, a notice carries its 16 bytes' contents, and its payload is at most 4,096 bytes. -/
def Packet.wf (p : Packet) : Bool :=
  p.kind == p.op.kind && decide (p.len ≤ 4096)
    && (match p.op with
        | .memWrite | .atomic => p.data.length == p.len
        | .memRead => p.data.isEmpty
        | .cpl => p.data.isEmpty || p.status == .ok
        | .notice => p.notice.isSome
        | .cfg | .io | .msg => true)

/-- A write of a master: at least one byte, inside manager BAR0. -/
def RegWr.wf (w : RegWr) : Bool := !w.data.isEmpty && decide (w.off.toNat + w.data.length ≤ 0x10000000)

/-- Words, counts and descriptors have the lengths of their tables. -/
def Instr.wf : Instr → Bool
  | .packetIngress _ pk => pk.wf
  | .dataEndBadReceive _ pk _ => pk.wf
  | .proxyCompletion _ pk => pk.wf && pk.kind == .completion
  | .sealWrite _ _ _ data => !data.isEmpty
  | .doorbell _ _ off data => !data.isEmpty && decide (off.toNat + data.length ≤ 4096)
  | .fetchComplete _ st descs => (st == .ok || descs.isEmpty) && descs.all (fun d => d.length == 64)
  | .bufferRingReadDone _ _ st entries => st == .ok || entries.isEmpty
  | .dmaReadCompletion _ _ st data => st == .ok || data.isEmpty
  | .detectDone _ found shorted => (found &&& shorted.tx) == 0
  | .dataStitchReceive _ levels _ _ => 1 ≤ levels.length && levels.length ≤ 5
  | .trainingStitchReceive _ _ levels _ => levels != []
  | .creditReceive _ counts => counts.length == 8
  | .auditReceive _ cum _ _ => cum.length == 8
  | .resumeReceive _ _ _ _ _ free => free.length == 8
  | .stagingWrite _ off data => !data.isEmpty && decide (off.toNat + data.length ≤ 2097152)
  | .mailboxResponse _ words => words.length == 16
  | .bistTestDone _ f => decide (f.retired.length ≤ 4)
  | .mgmtRead _ n _ => n != 0 && decide (n.toNat ≤ 7)
  | .mgmtWrite _ data _ => !data.isEmpty && decide (data.length ≤ 7)
  | .registerWrite ws => !ws.isEmpty && ws.all RegWr.wf
  | .registerRead _ off len => decide (0 < len) && decide (off.toNat + len ≤ 0x10000000)
  | .modeRequestGo .. | .modeTransitionDone | .modeTransitionTimeout | .feedWarning | .feedRecovered | .testEnLowInFactory
  | .testEnHighOutsideFactory | .encoderCount .. | .encoderPairClassChange .. | .encLockChange .. | .zEdge .. | .encPosWrite ..
  | .laceTinEdge | .timerSourceExpiry | .tickStart | .tickLate | .timeOffsetWrite .. | .tickPresetWrite ..
  | .tickSourceWrite .. | .tickRecordReceive .. | .alignmentLost .. | .triggerFire .. | .triggerFireWrite ..
  | .triggerPulseEnd .. | .policerRelease .. | .spillWriteDone .. | .readbackComplete .. | .packetMatch | .egressTransmit ..
  | .ctCheckFail .. | .ctUnderrun .. | .ctHoldMaxExpiry .. | .returnWindowExpiry .. | .inputHeldTimeout .. | .voqSelectWrite ..
  | .gateBoundary .. | .gateCommitGo .. | .gateCommitDone | .gateCommitCancel .. | .tickMinWrite .. | .shaperRateWrite ..
  | .shaperBurstWrite .. | .windowEnable .. | .windowDisable .. | .memberApply .. | .memberLoad .. | .puDecisionDone ..
  | .missHoldExpiry .. | .graceExpiry .. | .flushReadIssue .. | .flushComplete .. | .recordPost .. | .remotePathTimeout ..
  | .jobStart .. | .nop .. | .copy .. | .placeCopy .. | .fill .. | .seal .. | .waitTick .. | .waitTickTimeout .. | .fence ..
  | .recordOnly .. | .resize .. | .resizeTimeout .. | .completionTimeout .. | .tagQuarantineExpiry ..
  | .completionEntryWrite .. | .msixModTimer .. | .msixUnmask .. | .qpEnable .. | .qpDisable .. | .qpResume .. | .qpStopped ..
  | .portEnable .. | .portDisable .. | .portRetrain .. | .portStopped .. | .detectRetry .. | .linkUp .. | .stepUpStart ..
  | .stepDone .. | .portLinkDown .. | .refclkLost .. | .refclkGood .. | .strapRead .. | .configRequest .. | .dpcTrigger ..
  | .dpcStatusClear .. | .slotPowerControlWrite .. | .slotPgRise .. | .slotPgFall .. | .secondaryBusReset ..
  | .hotResetReceived .. | .perstAssert .. | .perstRelease .. | .partResetRelease .. | .ptmRequestTimer .. | .ptmExchange ..
  | .vdmReceive .. | .ideKeyProg .. | .flr .. | .fillerReceive .. | .fillerDue .. | .trainingLockTimeout ..
  | .trainingConfigTimeout .. | .rateReqReceive .. | .rateAckReceive .. | .ratePauseEnd .. | .eqTimeout .. | .soakPass ..
  | .laneLockLoss .. | .laneLockRegain .. | .ackTimer .. | .ackReceive .. | .nakReceive .. | .nakTimerExpiry ..
  | .replayTimerExpiry .. | .creditTimer .. | .auditTimer .. | .creditRetrainStart .. | .delayMeasureTimer ..
  | .delayReqReceive .. | .delayRespReceive .. | .delayRespTimeout .. | .controlRequestRepeat .. | .retrainReqReceive ..
  | .retrainAckReceive .. | .spareReqReceive .. | .spareAckReceive .. | .spareGoReceive .. | .widthReqReceive ..
  | .widthAckReceive .. | .widthGoReceive .. | .corrWindowExpiry .. | .tLlExpiry .. | .deadTimeout .. | .resumeRepeatTimer ..
  | .resumeTimeout .. | .pairEnable .. | .pairDisable .. | .pairFlowReturn .. | .returnEntryStale .. | .noticeReceive ..
  | .fabDevWrite .. | .apertureEnable .. | .partitionEnable .. | .partitionDisable .. | .remapValidWrite .. | .sliceCreate ..
  | .sliceDelete .. | .sliceRecreate .. | .sliceReset .. | .sliceLoad .. | .xwCommit .. | .xwDrained | .vfFlrTimeout ..
  | .awtEntryCommit .. | .awtOverlapCheckDone | .awtFence .. | .awtFenceDone | .awtFenceTimeout | .awtBankSwap ..
  | .awtBankDrained .. | .awlAccess .. | .awlReadComplete .. | .awlReadTimeout | .imageVerify .. | .imageVerifyDone
  | .imageInstall .. | .imageInstallDone | .clusterSwap .. | .clusterDrainEnd .. | .clusterLoadDone .. | .clusterRestore ..
  | .clusterReclaim .. | .workHandoffDone .. | .engineWatchdog .. | .engineRestore .. | .mailboxRequest ..
  | .mailboxAckClear .. | .ofmRestore .. | .ofmRestoreDone .. | .ofmQuotaWrite .. | .durTcWrite .. | .heelEnable ..
  | .heelMeasure .. | .heelTestTimer .. | .heelV1Sample .. | .heelTestDone .. | .heelParamWrite .. | .heelResultExpiry
  | .faultAssert .. | .faultDeassert .. | .railBroken .. | .railRestored .. | .blockResetRelease .. | .shadowEnd ..
  | .escalationWindowEnd .. | .faultStickyClear .. | .faultClearAll .. | .faultRestore .. | .collectorSelfCheck ..
  | .pairReadbackMismatch | .faultInject .. | .faultInjectEnd | .scrubPass | .porAssert | .porRelease | .rstNAssert
  | .rstNRelease .. | .rstCmdWarm .. | .rstCmdPart .. | .rstCmdPort .. | .resetPulseEnd .. | .trimAttemptDone .. | .startupDone
  | .mgmtLast .. | .mgmtMctp .. | .mgmtWarm .. | .mgmtCold .. | .sysRefclkLost | .pllLockLoss .. | .crossingTimeout
  | .feedLow .. | .feedNotLow .. | .feedReverseCurrent .. | .feedReversed .. | .feedReversedClear .. | .feedOvervoltage ..
  | .busUndervoltage | .busUvRecovered | .pwrfailReadback | .slotRampComplete .. | .slotQualified .. | .slotTimerTrip ..
  | .slotFastTrip .. | .slotCoolEnd .. | .slotFetFault .. | .slotClrFet .. | .bistTimeout .. | .bistConditionsFail ..
  | .secretsClear .. | .secretsVerify .. | .secretsVerifyDone | .certCommit .. | .spdmRequest .. | .jtagInstruction ..
  | .tempWarn .. | .tempCrit .. | .tempSensorFail .. | .supplyOutOfRange .. | .registerTimeout .. | .timerSourceLock
  | .sysRefclkGood | .hotResetEnd .. | .pcieTrainingFail .. | .vfConfigHoldEnd .. | .powerDieStart | .powerDieStop
  | .feedOvClear .. => true

end Sys2Proof
end

