-- ==== Sys2Proof/Tests/Slice0.lean ====
section
/-! SUPPORT. Tests. For each statement with hypotheses a state and operands that meet them (wit_…), clause by clause and at the ends of
their ranges; a hypothesis that names an opaque constant of Config has none, since nothing evaluates it. Then an ill-formed command for each
check of WellFormed.lean, and numbers worked in the spec's examples. -/

namespace Sys2Proof.Tests

open Sys2Proof Sys2Proof.Machine

set_option Elab.async false

/-! ### Small states -/

/-- The part after POR, in mode `md`, with the register fields of `l` set. -/
def bench (md : Nat) (l : List (Fld × Nat × Nat)) : State :=
  l.foldl (fun s e => wr s e.1 e.2.1 e.2.2)
    (wr { State.reset with rst := { State.reset.rst with por := false, coldWait := false } } GLB_MODE_CUR 0 md)

/-- A packet of a given transaction, its other fields 0. -/
def pkt (k : PktKind) (op : PktOp) (addr : BitVec 64) (data : Bytes) : Packet :=
  { kind := k, op := op, addr := addr, len := data.length, data := data, fbe := 15, lbe := 15, tc := 0, rid := 0, tag := 0, pasid := none,
    status := .ok, lastPiece := true, ro := false, ido := false, ns := false, tph := none, selIde := false, translated := false,
    fab := none, notice := none }

/-- The state that a command that answers a next state leaves; the state itself where it answers none. -/
def after (i : Instr) (s : State) : State := match exec i s with | .next t => t | _ => s

/-! ### Hypotheses of the statements about the queue, registers, the management bus and JTAG -/

theorem wit_StepTakesFront : ({ State.reset with pending := [.scrubPass, .tickStart] } : State).pending = .scrubPass :: [.tickStart] := rfl
theorem wit_StepIdles : State.reset.pending = [] := rfl
theorem wit_StepKeepsSound : State.reset.wf = true ∧ step State.reset = .next (idle State.reset) := ⟨rfl, rfl⟩
theorem wit_CommandsLeaveQueue : (bench 4 [(GLB_BKP, 7, 5)]).wf = true := by decide +kernel
theorem wit_ModeAllowsAccess_1 : regCommand (.xwCommit .awl 511 true) = some (.awl, PTN_XW_COMMIT_GO.off)
    ∧ modeAllows (bench 12 []) .awl PTN_XW_COMMIT_GO.off true = false ∧ modeAllows (bench 9 []) .mgmt 0x120 true = false
    ∧ modeAllows (bench 9 []) .inband 0x11C false = false := by decide +kernel
theorem wit_ModeAllowsAccess_2 : mode (bench 2 []) = mTEST ∧ mode (bench 9 []) = mSAFE ∧ mode (bench 11 []) = mFACTORY
    ∧ mode (bench 12 []) = mSTANDBY ∧ mode (bench 1 []) = mHOLD ∧ mode (bench 10 []) = 10 := by decide +kernel
theorem wit_BlockResetTurnsAway : regCommand (.certCommit .mgmt) = some (.mgmt, TST_CERT_CTL_COMMIT.off)
    ∧ modeAllows (bench 4 [(FLT_BLK_STATE, 15, 1)]) .mgmt TST_CERT_CTL_COMMIT.off true = true
    ∧ rd (bench 4 [(FLT_BLK_STATE, 15, 1)]) FLT_BLK_STATE (blockOf TST_CERT_CTL_COMMIT.off) = 1 := by decide +kernel
theorem wit_UnmappedAccess_1 : taken (bench 4 []) .inband 0xFFFFFFC ∧ 0xFFFFFFC % 4 = 0 ∧ inArea 0xFFFFFFC = false
    ∧ ¬(0xF01000 ≤ 0xFFFFFFC ∧ 0xFFFFFFC < 0xF03000) ∧ regFind 0xFFFFFFC = none := by unfold taken; decide +kernel
theorem wit_UnmappedAccess_2 : accCode (bench 4 []) .awl 0x1C false = 0 ∧ inArea 0x1C = false ∧ regFind 0x1C = none := by decide +kernel
theorem wit_UnmappedAccess_3 : (bench 4 []).rst.coldWait = false ∧ 0x10000000 ≤ (0x10000000#32).toNat ∧ 1 ≤ (7#8).toNat ∧ (7#8).toNat ≤ 7 := by
  decide +kernel
theorem wit_FieldWrite : (bench 4 [(GLB_UNMAPPED, 0, 2 ^ 32 - 1)]).wf = true ∧ fkey GLB_BKP 7 ≠ fkey GLB_BKP 6
    ∧ Memory.wf [(3, 1#8)] = true ∧ GLB_UNMAPPED.width < 128 ∧ rd (bench 4 [(GLB_UNMAPPED, 0, 2 ^ 32 - 1)]) GLB_UNMAPPED < 2 ^ GLB_UNMAPPED.width := by
  decide +kernel

theorem wit_RegisterAccess_1 : taken (bench 4 []) .mgmt 0x11C ∧ 0x11C % 4 = 0 ∧ inArea 0x11C = false
    ∧ ¬(0xF01000 ≤ 0x11C ∧ 0x11C < 0xF03000) ∧ (regFind 0x11C).map (fun e => (e.2, e.1.wide, regDead (bench 4 []) e.1 7,
        (regWhole (bench 4 []) .mgmt e.1.off 7 0xFFFFFFFF).isNone)) = some ((7, false), false, false, true)
    ∧ accCode (bench 4 []) .inband 0x11C false = 0 ∧ areaByte (bench 4 []) 0x11C = none := by unfold taken; decide +kernel
theorem wit_RegisterAccess_2 : acted GLB_BKP = false ∧ GLB_BKP.acc = .rw ∧ fldLocked (bench 4 []) GLB_BKP (fldIdx (bench 4 []) GLB_BKP 0) = false
    ∧ acted LCE_TIME_OFS = false ∧ LCE_TIME_OFS.acc = .rwl
    ∧ fldLocked (bench 4 [(LCE_CTL_ROLE, 0, 2)]) LCE_TIME_OFS (fldIdx (bench 4 []) LCE_TIME_OFS 0) = true
    ∧ acted RST_CAUSE_POR = false ∧ RST_CAUSE_POR.acc = .w1c ∧ acted GLB_UNMAPPED = false ∧ GLB_UNMAPPED.acc = .rc := by decide +kernel
theorem wit_WritesCollide : busNum .inband < busNum .awl ∧ taken (bench 4 []) .inband 0x100 ∧ taken (bench 4 []) .awl 0x100
    ∧ inArea 0x100 = false ∧ (regFind 0x100).map (·.2) = some (0, false)
    ∧ taken (after (.registerWrite [⟨.inband, 0x100, [(1, true)]⟩]) (bench 4 [])) .awl 0x100 := by unfold taken; decide +kernel
theorem wit_BusAndJtag : State.reset.rst.coldWait = true ∧ (bench 4 []).rst.coldWait = false ∧ 1 ≤ (7#8).toNat ∧ (7#8).toNat ≤ 7
    ∧ (0xFFFFFFC#32).toNat % 4 = 0 ∧ (0xFFFFFFC#32).toNat < 0x10000000 ∧ ([0, 0, 0, 0, 0, 0, 0] : List (BitVec 32)).length ≤ 7
    ∧ 0x5AA4#16 ≠ 0x5AA5 ∧ bit (bench 4 [(RST_TRIM_TRIM_OK, 0, 1), (TST_SEC_STATUS_ID_READY, 0, 1)]) TST_SEC_STATUS_ID_READY = true
    ∧ bit (bench 4 [(RST_TRIM_TRIM_OK, 0, 1), (TST_DBG_JTAG_AWL, 0, 1)]) TST_DBG_JTAG_AWL = true
    ∧ bit (bench 4 [(RST_TRIM_TRIM_OK, 0, 1)]) RST_TRIM_TRIM_OK = true ∧ bit (bench 4 []) TST_DBG_JTAG_AWL = false := by decide +kernel

/-! ### Hypotheses of the statements about modes, resets and clocks -/

theorem wit_ModeRequests_1 : taken (bench 3 []) .mgmt 0x14 ∧ requestStatus (wr (bench 3 []) GLB_MODE_REQ_TARGET 0 15) 15 ≠ 0
    ∧ requestStatus (wr (bench 3 []) GLB_MODE_REQ_TARGET 0 12) 12 = 0 ∧ 12 ≠ mTEST
    ∧ requestStatus (wr (bench 3 []) GLB_MODE_REQ_TARGET 0 2) 2 = 0 ∧ (2 : Nat) = mTEST := by unfold taken; decide +kernel
theorem wit_ModeRequests_2 : (bench 4 [(GLB_MODE_BUSY, 0, 1)]).wf = true ∧ taken (bench 4 [(GLB_MODE_BUSY, 0, 1)]) .awl 0x14
    ∧ bit (bench 4 [(GLB_MODE_BUSY, 0, 1)]) GLB_MODE_BUSY = true ∧ (8#4).toNat ≠ mSAFE
    ∧ bit (bench 4 []) GLB_MODE_BUSY = false ∧ requestLegal (bench 4 []) (mode (bench 4 [])) (6#4).toNat = false
    ∧ taken (bench 4 []) .inband 0x14 := by unfold taken; decide +kernel
theorem wit_ModeTransitions : ({ bench 4 [] with tr := some { to' := 7, from' := 4, cause := 0, locked := false, src := 0, req := true } } : State).tr
      = some { to' := 7, from' := 4, cause := 0, locked := false, src := 0, req := true }
    ∧ (bench 4 []).tr = none := ⟨rfl, rfl⟩
theorem wit_FeedWarnings : (bench 4 []).pwr.on = true ∧ warnWire { bench 4 [] with pwr := { low := [0, 1] } } = true
    ∧ bit (bench 4 [(PWD_FEED_STATUS_WARN, 0, 0)]) PWD_FEED_STATUS_WARN = false ∧ bit (bench 4 [(PWD_FEED_STATUS_RECOVERING, 0, 1)]) PWD_FEED_STATUS_RECOVERING = true
    ∧ (∀ f, f < 2 → feedOn (bench 4 [(PWD_FEED_STATUS_RECOVERING, 0, 1)]) f = true → feedIsLow (bench 4 [(PWD_FEED_STATUS_RECOVERING, 0, 1)]) f = false) := by
  decide +kernel
theorem wit_TestEnHigh : mode (bench 3 []) ≠ mFACTORY ∧ mode (bench 11 []) = mFACTORY := by decide +kernel
theorem wit_WarmAsCold : taken (bench 11 []) .mgmt 0xD00008 ∧ mode (bench 11 []) = mFACTORY ∧ taken (bench 9 [(GLB_MODE_TRIM_BAD, 0, 1)]) .mgmt 0xD00008
    ∧ mode (bench 9 [(GLB_MODE_TRIM_BAD, 0, 1)]) = mSAFE ∧ bit (bench 9 [(GLB_MODE_TRIM_BAD, 0, 1)]) GLB_MODE_TRIM_BAD = true
    ∧ (bench 1 []).rst.coldWait = false ∧ mode (bench 1 []) = mHOLD := by unfold taken; decide +kernel
theorem wit_WideResets_1 : State.reset.rst.por = true ∧ taken (bench 9 []) .mgmt 0xD00008 ∧ warmAsCold (acked (bench 9 []) .mgmt) = false
    ∧ (0xA4#8) ≠ 0xA5#8 := by unfold taken; decide +kernel
theorem wit_WideResets_2 : clocksGood { bench 4 [] with rst := { sysLost := true } } = false
    ∧ (bench 4 []).rst.por = false ∧ (bench 4 []).rst.cold = [] ∧ (bench 4 []).rst.warm = false ∧ clocksGood (bench 4 []) = true
    ∧ ({ bench 4 [] with rst := { por := false } } : State).rst.coldWait = true
    ∧ ({ bench 4 [] with rst := { por := false, coldWait := false, warmWait := true } } : State).rst.warmWait = true
    ∧ (bench 4 []).rst.coldWait = false := by decide +kernel
theorem wit_ResetReaches : (bench 4 [(GLB_BKP, 7, 1)]).wf = true ∧ 0 ≤ reachCode RST_CAUSE_POR.reach ∧ reachCode RST_CAUSE_POR.reach ≤ reachCode .slice
    ∧ reachCode RST_CAUSE_POR.reach < 2 ∧ PWD_SLOT_CTL_ON.reach = .pdOn := by decide +kernel
theorem wit_TrimAndStart : ({ State.reset with rst := { trimming := true } } : State).rst.trimming = true
    ∧ rd (wr State.reset RST_TRIM_FAILS 0 1) RST_TRIM_FAILS < 2 ∧ 2 ≤ rd (wr State.reset RST_TRIM_FAILS 0 2) RST_TRIM_FAILS
    ∧ wideReset { State.reset with rst := { por := false, coldWait := false, starting := true } } = false := by decide +kernel
theorem wit_ClocksAndStraps : State.reset.rst.por = true := rfl

/-! ### Hypotheses of the statements about Lace -/

/-- Encoder 3 on, its A pin high. -/
def encB : State := { bench 4 [(ENC_CTL_EN, 3, 1), (LCE_CTL_SRC, 0, 4)] with lce := { aLvl := [(3, true)] } }

theorem wit_EncoderCounts : encOn encB 3 = true ∧ encOn encB 0 = false ∧ false ≠ nget encB.lce.aLvl 3 false ∧ true ≠ nget encB.lce.bLvl 3 false
    ∧ true = nget encB.lce.aLvl 3 false ∧ false = nget encB.lce.bLvl 3 false ∧ (false ≠ nget encB.lce.aLvl 3 false ↔ false = nget encB.lce.bLvl 3 false)
    ∧ posDiff 5 (rd (wr (wr encB ENC_POS 3 5) ENC_HIGH 3 5) ENC_HIGH 3) ≤ 0
    ∧ laceRuns encB = true ∧ pairsOk encB 3 = true := by decide +kernel
theorem wit_EncoderPositions : zQualified encB 3 = true ∧ bit (zMode encB 3) ENC_CTL_Z_TICK 3 = false
    ∧ bit (zMode (wr encB ENC_CTL_Z_TICK 3 1) 3) ENC_CTL_Z_TICK 3 = true ∧ rd encB ENC_CTL_ZMODE 3 = 0
    ∧ rd (wr encB ENC_CTL_ZMODE 3 1) ENC_CTL_ZMODE 3 = 1 ∧ rd (wr encB ENC_CTL_ZMODE 3 2) ENC_CTL_ZMODE 3 = 2
    ∧ encB.wf = true ∧ taken encB .mgmt 0x400108 := by unfold taken; decide +kernel
theorem wit_TickCandidates_1 : tickSrc (bench 4 [(LCE_CTL_SRC, 0, 5)]) = 5 ∧ laceRuns (bench 4 [(LCE_CTL_SRC, 0, 5)]) = true
    ∧ (bench 4 []).lce.tinPrev = none ∧ (bench 4 []).lce.prevStamp = none
    ∧ ({ bench 4 [] with lce := { tinPrev := some 5 } } : State).lce.tinPrev = some 5
    ∧ tickSrc (bench 4 [(LCE_CTL_SRC, 0, 7)]) = 7 := by decide +kernel
theorem wit_TickCandidates_2 : rd (bench 4 []) LCE_CTL_ROLE ≠ 2 ∧ rd (bench 4 []) LCE_CTL_ROLE = 0 ∧ inBlockReset (bench 4 []) 4 = false
    ∧ ({ bench 4 [] with lce := { prevStamp := some 1 } } : State).lce.prevStamp = some 1 ∧ timeSince 1 10000 < 10000 ∧ 10000 ≤ timeSince 1 10001
    ∧ rd (bench 4 [(LCE_TICK_MIN, 0, 10000)]) LCE_TICK_MIN ≤ timeSince 1 10001 ∧ (bench 4 []).lce.resync = false
    ∧ laceRuns (bench 9 []) = false ∧ rd (bench 4 [(LCE_CTL_ROLE, 0, 2)]) LCE_CTL_ROLE = 2 := by decide +kernel

/-- One tick is stamped and another has started. -/
def tickB : State := { bench 4 [] with lce := {
  pend := [{ stamp := 1, start := 5, num := 9, early := false, late := false, resync := false, interval := 0, pos := 0, src := 5, master := 0 }]
  prevStart := some 1 } }

theorem wit_TickStarts : tickB.lce.pend.length = 1 ∧ laceRuns tickB = true ∧ inBlockReset tickB 4 = false ∧ tickB.lce.prevStart.isSome = true
    ∧ tickB.wf = true := by decide +kernel
theorem wit_LaceWritesAndTriggers_1 : taken (bench 4 []) .mgmt 0x400038 ∧ taken (bench 4 []) .awl 0x400040 ∧ taken (bench 4 []) .inband 0x400000
    ∧ taken (bench 4 []) .inband 0x400008 ∧ rd (acked (bench 4 []) .mgmt) LCE_CTL_ROLE ≠ 2
    ∧ rd (acked (bench 4 [(LCE_CTL_ROLE, 0, 2)]) .mgmt) LCE_CTL_ROLE = 2 ∧ taken (bench 4 [(LCE_CTL_ROLE, 0, 2)]) .mgmt 0x400040
    ∧ bit (bench 5 [(GLB_MODE_LOCKED, 0, 1)]) GLB_MODE_LOCKED = true ∧ bit (bench 4 []) GLB_MODE_LOCKED = false
    ∧ tickSrc (wr (bench 4 []) LCE_CTL_SRC 0 7) ≠ tickSrc (bench 4 []) ∧ tickSrc (wr (bench 4 []) LCE_CTL_SRC 0 0) = tickSrc (bench 4 []) := by
  unfold taken; decide +kernel
theorem wit_LaceWritesAndTriggers_2 : nget ({ bench 4 [] with lce := { fires := [(15, [7])], active := [15] } } : State).lce.fires 15 [] = [7]
    ∧ bit (bench 4 [(TRIG_CTL_EN, 15, 1)]) TRIG_CTL_EN 15 = true ∧ ([15] : List Nat).contains 15 = true ∧ ([] : List Nat).contains 15 = false
    ∧ taken (bench 4 []) .mgmt 0x400200 ∧ rd (bench 4 [(TRIG_CTL_MODE, 15, 2)]) TRIG_CTL_MODE 15 = 2
    ∧ (nget [(15, [1, 2, 3])] 15 ([] : List Nat)).length < 4 ∧ 4 ≤ (nget [(15, [1, 2, 3, 4])] 15 ([] : List Nat)).length := by
  unfold taken; decide +kernel

/-- A follower whose T-link port 63 is up and delivers records of master 5. -/
def folB : State := { bench 4 [(LCE_CTL_ROLE, 0, 2), (LCE_FAB_MASTER_ID, 0, 5), (PRT_STATUS_STATE, 63, 3)] with lce := { lastRec := some 7, recHops := [(63, 1)] } }
/-- A record of that master. -/
def recB (n : BitVec 48) (m : BitVec 6) : TickRec :=
  { tickNum := n, src := 0, hops := 1, early := false, masterId := m, latePrior := false, resync := false, masterTime := 0, pathDelay := 0,
    position := 0, interval := 0 }

theorem wit_FabricTicks : laceRuns folB = true ∧ inBlockReset folB 4 = false ∧ rd (bench 4 []) LCE_CTL_ROLE = 0 ∧ rd folB LCE_CTL_ROLE = 2
    ∧ (recB 8 4).masterId.toNat ≠ rd folB LCE_FAB_MASTER_ID ∧ (recB 8 5).masterId.toNat = rd folB LCE_FAB_MASTER_ID
    ∧ acceptPort folB ≠ some 0 ∧ acceptPort folB = some 63 ∧ folB.lce.lastRec = some 7
    ∧ tickAfter (recB 7 5).tickNum.toNat 7 = false ∧ tickAfter (recB 8 5).tickNum.toNat 7 = true := by decide +kernel

/-! ### Hypotheses of the statements about the Shank, gates and shapers -/

/-- A queued packet of `cells` cells on chip. -/
def qp1 (k : PktKind) (op : PktOp) (cells ovf seq : Nat) : QPkt :=
  { seq := seq, inp := 0, cls := 0, cells := cells, pk := pkt k op 0 [], pt := 0, ovf := ovf, pu := none, fresh := false, slice := none, xw := none }

/-- Port 1's staging is full of Non-Posted cells. -/
def fullB : State := { bench 4 [] with shk := { staging := [(1, [⟨qp1 .nonPosted .memRead 64 0 0, false, false⟩])] } }

theorem wit_VoqOrder : eligible fullB (voqKey 63 1 0) [qp1 .nonPosted .memRead 1 0 1, qp1 .completion .cpl 1 0 2, qp1 .posted .memWrite 1 0 3]
      = some (qp1 .posted .memWrite 1 0 3)
    ∧ eligible fullB (voqKey 64 1 0) [qp1 .nonPosted .memRead 1 0 1, qp1 .posted .memWrite 1 0 3] = none
    ∧ eligible fullB (voqKey 63 71 7) [qp1 .nonPosted .memRead 1 0 1] = some (qp1 .nonPosted .memRead 1 0 1) := by decide +kernel
theorem wit_ClassChoice : mode (bench 4 []) ≠ mDRAIN ∧ (7 : Nat) ∈ [0, 5, 7] ∧ (∀ d ∈ [0, 5, 7], d ≤ 7 → d ≤ 7)
    ∧ (classChoice (bench 4 []) 71 [0, 5]).2 = some 5 ∧ (classChoice (bench 4 []) 71 [0, 4]).2.isSome = true := by decide +kernel

/-- A VOQ whose packet lies half in overflow memory, one spill write under way. -/
def ovfB : State := { bench 4 [] with shk := { voq := [(voqKey 71 71 7, [qp1 .posted .memWrite 2 1 0])], spilling := [(voqKey 71 71 7, 1)] } }

theorem wit_SwitchingAndEgress_1 : forwards (bench 4 []) = true ∧ nget ovfB.shk.spilling (voqKey 71 71 7) 0 = 0 + 1
    ∧ (voq ovfB (voqKey 71 71 7)).find? (·.ovf != 0) = some (qp1 .posted .memWrite 2 1 0) := by decide +kernel

/-- Port 63 is an up T-link in RUN, port 62 an up PCIe port, each with one staged Posted packet. -/
def egrB : State := { bench 4 [(PRT_CFG_PERS, 63, 1), (PRT_STATUS_STATE, 63, 3), (PRT_STATUS_STATE, 62, 3), (TL_PHY_STATUS_TSTATE, 63, tRUN),
    (WLT_VL_STAT_AVAIL, 504, 4095)] with
  shk := { staging := [(62, [⟨qp1 .posted .memWrite 1 0 4, true, false⟩]), (63, [⟨qp1 .posted .memWrite 1 0 5, false, true⟩])] } }

theorem wit_SwitchingAndEgress_2 : linkUp egrB 62 = true ∧ isTlink egrB 62 = false ∧ linkUp egrB 63 = true ∧ isTlink egrB 63 = true
    ∧ nextStaged egrB 62 (fun _ => true) (fun _ => false) [] (nget egrB.shk.staging 62 []) = some ⟨qp1 .posted .memWrite 1 0 4, true, false⟩
    ∧ nextStaged egrB 63 (fun x => tlinkTakes egrB 63 x.q.cls (stitchesOf x.q.pk) && (grouped egrB 63 x.q).isSome)
        (fun x => creditShort egrB 63 x.q.cls (stitchesOf x.q.pk)) [] (nget egrB.shk.staging 63 [])
        = some ⟨qp1 .posted .memWrite 1 0 5, false, true⟩
    ∧ isTlink (awtClosePosted (unstage egrB 62 4) 4) 62 = false
    ∧ isTlink (awtClosePosted (inc (unstage egrB 63 5) CT_PKTS 63) 5) 63 = true
    ∧ (grouped (awtClosePosted (inc (unstage egrB 63 5) CT_PKTS 63) 5) 63 (qp1 .posted .memWrite 1 0 5)).isSome = true := by decide +kernel
theorem wit_CutThroughAndHolds : ctAt egrB 63 = some ⟨qp1 .posted .memWrite 1 0 5, false, true⟩ ∧ isTlink egrB 63 = true
    ∧ ctAt { egrB with shk := { staging := [(62, [⟨qp1 .posted .memWrite 1 0 4, false, true⟩])] } } 62 = some ⟨qp1 .posted .memWrite 1 0 4, false, true⟩
    ∧ isTlink egrB 62 = false ∧ striped egrB 63 = true ∧ inBlockReset egrB 9 = false
    ∧ ({ bench 4 [] with shk := { window := [63] } } : State).shk.window.contains (63 : Fin 64).val = true
    ∧ ([{ q := { qp1 .posted .memWrite 1 0 0 with inp := 71 }, outp := 0, pol := false, budget := false, since := 0 }] : List HeldPkt).any
        (fun h => h.q.inp == (71 : Fin 72).val) = true
    ∧ (bench 4 []).wf = true ∧ taken (bench 4 []) .mgmt 0x300900 := by unfold taken; decide +kernel

/-- Gates apply at port 63 and its list is in entry 62. -/
def gatB : State := { bench 5 [(SHK_GATE_CTL_GATE_EN, 63, 1), (SHK_GATE_STATUS_ENTRY, 63, 62), (SHK_GATE_ENT_LAST, entIdx 63 0 63, 1),
  (GLB_MODE_LOCKED, 0, 1)] with gate := { base := [(63, 1)], committing := true } }

theorem wit_GatesAndShapers_1 : gatesApply gatB 63 = true ∧ gatB.gate.frozen.contains (63 : Fin 64).val = false ∧ nget? gatB.gate.latched 63 = none
    ∧ (nget? gatB.gate.base 63).isSome = true ∧ rd gatB SHK_GATE_STATUS_ENTRY 63 = 62
    ∧ bit gatB SHK_GATE_ENT_LAST (entIdx 63 (activeBank gatB 63) 62) = false ∧ 62 < 63
    ∧ bit gatB SHK_GATE_ENT_LAST (entIdx 63 (activeBank gatB 63) 63) = true ∧ gatesApply (bench 4 []) 63 = false
    ∧ taken gatB .mgmt 0x340010 ∧ gatB.gate.committing = true ∧ commitFail { bench 4 [] with gate := { committing := true } } = none
    ∧ ({ bench 4 [] with gate := { committing := true } } : State).gate.committing = true
    ∧ (commitFail (wr gatB SHK_GATE_COMMIT_MASK 0 (2 ^ 63))).isSome = true := by unfold taken; decide +kernel
theorem wit_GatesAndShapers_2 : taken (bench 4 []) .mgmt 0x360000 ∧ taken (bench 4 []) .awl 0x360004 ∧ taken (bench 4 []) .inband 0xB00100
    ∧ taken (bench 3 []) .mgmt 0xB00000 ∧ mode (acked (bench 3 []) .mgmt) = mSETUP ∧ mode (acked (bench 4 []) .mgmt) ≠ mSETUP
    ∧ mode (acked (bench 4 []) .mgmt) ≠ mQUIESCE ∧ taken (bench 4 []) .mgmt 0xB00000 := by unfold taken; decide +kernel

/-! ### Hypotheses of the statements about placement -/

/-- Pool 1,023 is enabled in partition 0 and served by cluster 0; its member 63 has one buffer on port 1, an up PCIe port. -/
def plcB : State := { bench 4 [(PLC_POOL_CTL_EN, 1023, 1), (PLC_WIN_CTL_POOL, 255, 1023), (PRT_STATUS_STATE, 1, 3), (PLC_MBR_SEL_POOL, 0, 1023),
    (PLC_MBR_SEL_MEMBER, 0, 63), (PTN_CFG_EN, 0, 1), (CKR_CLU_STATUS_STATE, 0, 2)] with
  plc := { mbr := [(65535, { state := 0, port := 1, bufs := [4096] })] } }

/-- The same, window 255 enabled with a seal page and PU 65,535 of it in the state given. -/
def puB (e : Pu) : State :=
  let s := wr (wr plcB PLC_WIN_CTL_EN 255 1) PLC_WIN_SEAL_SEAL_EN 255 1
  { s with plc := { s.plc with pu := [(65535, { e with pool := 1023, member := 63, window := 255 })] } }

theorem wit_PlacementWindows_1 : taken plcB .mgmt PLC_WIN_CTL_EN.off ∧ bit (acked plcB .mgmt) PLC_WIN_CTL_EN 255 = false
    ∧ windowErr (acked plcB .mgmt) 255 = 0 ∧ taken (bench 4 []) .inband PLC_WIN_CTL_EN.off ∧ bit (acked (bench 4 []) .inband) PLC_WIN_CTL_EN 255 = false
    ∧ windowErr (acked (bench 4 []) .inband) 255 ≠ 0 ∧ taken (puB {}) .mgmt PLC_WIN_CTL_EN.off
    ∧ bit (acked (puB {}) .mgmt) PLC_WIN_CTL_EN 255 = true := by unfold taken; decide +kernel
theorem wit_PlacementWindows_2 : linkUp (puB {}) 1 = true ∧ bit (puB {}) PLC_WIN_CTL_EN 255 = true ∧ bit (puB {}) PLC_WIN_SEAL_SEAL_EN 255 = true
    ∧ mode (puB {}) ≠ mDRAIN ∧ (4088#12).toNat % 8 = 0 ∧ (4095#12).toNat % 8 ≠ 0 ∧ (List.replicate 8 (255#8)).length = 8
    ∧ (puAt (puB { state := 3 }) 65535).state = 3 ∧ mode (puB { state := 3 }) ≠ mQUIESCE ∧ mode (puB { state := 3 }) ≠ mDRAIN
    ∧ (puAt (wr (puB { state := 3 }) GLB_MODE_CUR 0 5) 65535).state = 3 ∧ mode (wr (puB { state := 3 }) GLB_MODE_CUR 0 mDRAIN) = mDRAIN := by
  decide +kernel
theorem wit_PlacementWindows_3 : (puAt (puB { state := 4 }) 65535).state ≠ 2 ∧ (puAt (puB { state := 4 }) 65535).state ≠ 3
    ∧ (puAt (puB { state := 2, size := 4096, ing := 4096 }) 65535).size ≤ (puAt (puB { state := 2, size := 4096, ing := 4096 }) 65535).ing
    ∧ (puAt (puB { state := 3, size := 4096, ing := 4095 }) 65535).ing < (puAt (puB { state := 3, size := 4096, ing := 4095 }) 65535).size
    ∧ (puAt (puB { state := 3, size := 4096, ing := 4095 }) 65535).broken = false
    ∧ (puAt (puB { state := 2, size := 4096 }) 65535).ing = 0
    ∧ (puAt (puB { state := 3, size := 4096, ing := 1, broken := true }) 65535).broken = true := by decide +kernel
theorem wit_DecisionsPickEligible : ((decide' plcB 1023 255 63 0 4096).2.map (·.m)) = some 63 := by decide +kernel
theorem wit_PlacementDecisions_1 : (puAt (puB { state := 1 }) 65535).state = 1 ∧ decides (puB { state := 1 }) = true
    ∧ servedBy (puB { state := 1 }) (rd (puB { state := 1 }) PLC_POOL_CTL_CLUSTER 1023) = some 0
    ∧ (decide' (puB { state := 1 }) 1023 255 0 0 (winS (puB { state := 1 }) 255)).2.isSome = true
    ∧ (puAt (puB { state := 1, noMem := true, redo := true }) 65535).noMem = true
    ∧ rd (puB { state := 1, noMem := true, redo := true }) PLC_WIN_CTL_POOL 255 = 1023
    ∧ (decide' (wr (puB { state := 1, noMem := true, redo := true }) PRT_STATUS_STATE 1 0) 1023 255 0 0 4096).2 = none := by decide +kernel

/-- A write held for a PU. -/
def heldW : HeldWr := { inp := 1, cls := 0, pk := pkt .posted .memWrite 0 [1#8], pt := 0, off := 0, slice := none }

theorem wit_PlacementDecisions_2 : (puAt (puB { state := 1, held := [heldW] }) 65535).held ≠ []
    ∧ (puAt (puB { state := 1, held := [heldW] }) 65535).state ≤ 1
    ∧ bit (missDiscard (puSet (puB { state := 1, held := [heldW] }) 65535 { puAt (puB { state := 1, held := [heldW] }) 65535 with held := [] }) 65535
        [heldW]) PLC_WIN_CTL_TICK_BOUND (puAt (puB { state := 1, held := [heldW] }) 65535).window = false
    ∧ bit (missDiscard (wr (puB { state := 0, held := [heldW] }) PLC_WIN_CTL_TICK_BOUND 255 1) 65535 [heldW]) PLC_WIN_CTL_TICK_BOUND 255 = true := by
  decide +kernel
theorem wit_PlacementMembers_1 : taken plcB .mgmt PLC_MBR_CMD_APPLY.off ∧ applyBad (acked plcB .mgmt) = false ∧ (staged (acked plcB .mgmt)).state ≠ 2
    ∧ applyBad (acked (wr plcB PRT_CFG_DIR 0 1) .mgmt) = true ∧ taken (wr plcB PRT_CFG_DIR 0 1) .mgmt PLC_MBR_CMD_APPLY.off
    ∧ taken plcB .inband PLC_MBR_CMD_LOAD.off := by unfold taken; decide +kernel

/-- Pool 1,023's member 63 as given. -/
def mbrB (x : Member) (l : List (Fld × Nat × Nat)) : State := { bench 4 l with plc := { mbr := [(65535, x)] } }

theorem wit_PlacementMembers_2 : (member (mbrB { remote := true, dev := 63 } []) 1023 63).remote = true
    ∧ devReach (mbrB { remote := true, dev := 63 } []) (member (mbrB { remote := true, dev := 63 } []) 1023 63).dev = false
    ∧ (member (mbrB { reading := 16 } []) 1023 63).reading ≠ 0
    ∧ (member (mbrB { state := 0 } []) 1023 63).state ≠ 2 ∧ (member (mbrB { state := 1 } []) 1023 63).state ≠ 3
    ∧ (puAt (puB { state := 2 }) 65535).ing = 0 ∧ (puAt (puB { state := 3, ing := 1 }) 65535).ing ≠ 0
    ∧ (puAt (puB { state := 3, ing := 1 }) 65535).broken = false := by decide +kernel

/-! ### Hypotheses of the statements about rings, jobs and reads -/

/-- The last queue pair of the last slice of the last partition. -/
def qLast : QPRef := ⟨15, 1023, 255⟩

/-- The last slice of the last partition, with the last queue pairs of all. -/
def sliceB : Slice := { pasid := 0, pasidV := false, qpBase := 16128, qpCount := 256, vecBase := 0, vecCount := 0, share := 0, cluster := 0,
                        ovfQuota := 0, resetting := false }

/-- It is ACTIVE in RUN, its slice on cluster 0, which serves itself; a table entry for all of partition 15's space lies in
entry 8,191 and grants `p` (1 read, 2 write). -/
def ringB (p : Nat) (x : Qp) : State := { bench 4 [(QP_STATUS_STATE, 4194303, 1), (CKR_CLU_STATUS_STATE, 0, 2), (AWT_W0_VALID, 8191, 1),
    (AWT_W1_END, 8191, 2 ^ 58 - 1), (AWT_W2_OWNER, 8191, 15), (AWT_W2_REQ_SRC, 8191, 0x1F), (AWT_W2_RID_MASK, 8191, 0), (AWT_W1_R, 8191, p % 2),
    (AWT_W1_W, 8191, p / 2), (QP_CFG_CQ_SIZE, 4194303, 12)] with
  slices := [(16383, sliceB)], rng := { qp := [(4194303, x)] } }

/-- A descriptor of an opcode and a length. -/
def dsc (op len : Nat) : Bytes := BitVec.ofNat 8 op :: List.replicate 23 0 ++ leBytes 4 len ++ List.replicate 36 0

/-- A job of a descriptor. -/
def jobD (op len : Nat) (st : JobSt) : Job :=
  { idx := 0, desc := dsc op len, st := st, status := 0, written := 0, asked := 0, data := [], buf := none, detail := 0, flushes := 0, toFlush := [], id := 3 }

theorem wit_ringB : (ringB 3 {}).wf = true ∧ qpState (ringB 3 {}) (qpKey qLast) = 1 ∧ clickersOn (ringB 3 {}) = true ∧ starts (ringB 3 {}) 15 = true
    ∧ qpPart (qpKey qLast) = 15 ∧ sliceCluster (ringB 3 {}) (qpSlice (qpKey qLast)) = some 0 ∧ qpLive (ringB 3 {}) (qpKey qLast) = true := by
  decide +kernel

/-- The record ring is the last queue pair of all, its pool the last. -/
def ringRecB (l : List (Fld × Nat × Nat)) (r : PRec) : State :=
  let s := l.foldl (fun s e => wr s e.1 e.2.1 e.2.2) (wr (wr (ringB 3 {}) PLC_POOL_REC 1023 16383) QP_CFG_TYPE 4194303 1)
  { s with plc := { s.plc with recs := [r] } }

theorem wit_RecordsAndFlushes_1 : takeRec (ringRecB [] { pool := 1023 }) 16383 [{ pool := 1023 }] = some ({ pool := 1023 }, [])
    ∧ sliceOfQp (ringRecB [] {}) 16383 = some (16383, 255)
    ∧ servedBy (ringRecB [] {}) (rd (ringRecB [] {}) PLC_POOL_CTL_CLUSTER 1023) = some 0 ∧ qpState (ringRecB [] {}) 4194303 = 1
    ∧ rd (ringRecB [] {}) QP_CFG_TYPE 4194303 = 1 ∧ clickersOn (ringRecB [] {}) = true ∧ inBlockReset (ringRecB [] {}) 5 = false
    ∧ cqRoom (ringRecB [] {}) 4194303 = true
    ∧ (entryPut (ringRecB [] { pool := 1023 }) 4194303 0 0 (recBytes { pool := 1023 }) false).2 = true
    ∧ cqRoom (ringRecB [(QP_CQ_PTR_TAIL, 4194303, 65535)] {}) 4194303 = false := by decide +kernel

/-- PU 65,535 of pool 1,023 is sealed with all of its bytes out. -/
def flushB (e : Pu) : State :=
  let s := wr (ringRecB [] {}) PLC_POOL_CTL_PARTITION 1023 15
  { s with plc := { pu := [(65535, { e with pool := 1023 })] } }

theorem wit_RecordsAndFlushes_2 : (puAt (flushB { state := 4, ing := 1, egr := 1 }) 65535).egr = (puAt (flushB { state := 4, ing := 1, egr := 1 }) 65535).ing
    ∧ servedBy (flushB { state := 4, ing := 1, egr := 1 }) 0 = some 0
    ∧ awtCheck (flushB { state := 4, ing := 1, egr := 1 }) (clickAcc (flushB { state := 4, ing := 1, egr := 1 }) 15 none 4096 4 false .zero) = .permit 8191
    ∧ slicePasid (flushB {}) 16383 = none
    ∧ (issueRead (flushB { state := 4, ing := 1, egr := 1, port := 1 }) 15 0 16383 0 none (.port 1) (.pu 65535 0) 4096 0 id).isSome = true
    ∧ (issueRead (flushB { state := 4, ing := 1, egr := 1, remote := some 63 }) 15 0 16383 0 none (.dev 63 0 0) (.pu 65535 0) 4096 0 id).isSome = true
    ∧ (puAt (flushB { state := 5 }) 65535).state = 5 ∧ (puAt (flushB { state := 5 }) 65535).due = false := by decide +kernel
theorem wit_EntriesAndSignals_1 : (qpAt (ringB 3 { jobs := [jobD 0 0 .ended] }) (qpKey qLast)).jobs = [jobD 0 0 .ended]
    ∧ jobCluster (ringB 3 { jobs := [jobD 0 0 .ended] }) (qpSlice (qpKey qLast)) 3 = some 0
    ∧ mode (ringB 3 { jobs := [jobD 0 0 .ended] }) ≠ mDRAIN
    ∧ cqRoom (wr (ringB 3 { jobs := [jobD 0 0 .ended] }) QP_CQ_PTR_TAIL 4194303 65535) (qpKey qLast) = false
    ∧ cqRoom (ringB 3 { jobs := [jobD 0 0 .ended] }) (qpKey qLast) = true
    ∧ (entryPut (ringB 3 { jobs := [jobD 1 5 .ended] }) 4194303 0 0 (cplBytes 0 0 1 0 1 0) false).2 = true
    ∧ rd (wr (ringB 3 { modSince := some 0 }) QP_MOD_TIME 4194303 65535) QP_MOD_TIME (qpKey qLast) ≠ 0
    ∧ (qpAt (ringB 3 { modSince := some 0 }) (qpKey qLast)).modSince.isSome = true := by decide +kernel
theorem wit_EntriesAndSignals_2 : (entryPut (ringB 1 {}) 4194303 0 0 (cplBytes 0 0 1 0 1 0) false).2 = false
    ∧ awtCheck (ringB 1 {}) (clickAcc (ringB 1 {}) 15 none 0 16 false .write) = .deny 2
    ∧ awtCheck (ringB 2 {}) (clickAcc (ringB 2 {}) 15 none 0 16 false .write) = .permit 8191 := by decide +kernel
theorem wit_RingJobs_1 : (qpAt (ringB 3 { fetched := [(65535, dsc 0 0)] }) (qpKey qLast)).fetched = [(65535, dsc 0 0)]
    ∧ (qpAt (ringB 3 { fetched := [(65535, dsc 0 0)] }) (qpKey qLast)).halting = false ∧ dOp (dsc 0 0) ≠ 15
    ∧ startStatus (ringB 3 {}) (qpKey qLast) (dsc 7 0) = 0 ∧ startStatus (ringB 3 {}) (qpKey qLast) (dsc 8 0) = 1
    ∧ startStatus (ringB 3 {}) (qpKey qLast) (dsc 0 1) = 2 ∧ startStatus (ringB 3 {}) (qpKey qLast) (dsc 5 64000000) = 0
    ∧ startStatus (ringB 3 {}) (qpKey qLast) (dsc 5 64000001) = 2 := by decide +kernel
theorem wit_RingJobs_2 : readyJob (ringB 3 { jobs := [jobD 0 0 .ready] }) (qpKey qLast) 0 = some (jobD 0 0 .ready)
    ∧ readyJob (ringB 3 { jobs := [jobD 7 0 .ready] }) (qpKey qLast) 7 = some (jobD 7 0 .ready)
    ∧ readyJob (ringB 3 { jobs := [jobD 1 0 .ready] }) (qpKey qLast) 1 = some (jobD 1 0 .ready) ∧ dLen (dsc 1 0) = 0
    ∧ readyJob (ringB 3 { jobs := [jobD 1 1 .ready] }) (qpKey qLast) 1 = some (jobD 1 1 .ready) ∧ dLen (dsc 1 1) ≠ 0
    ∧ jobDenied (ringB 2 { jobs := [jobD 1 1 .ready] }) (qpKey qLast) false 0 1 .read = true
    ∧ jobDenied (ringB 1 { jobs := [jobD 1 1 .ready] }) (qpKey qLast) false 0 1 .read = false
    ∧ jobDenied (ringB 1 { jobs := [jobD 1 1 .ready] }) (qpKey qLast) false 0 1 .write = true
    ∧ jobDenied (ringB 3 { jobs := [jobD 1 1 .ready] }) (qpKey qLast) false 0 1 .write = false
    ∧ readyJob (ringB 3 { jobs := [jobD 3 1 .ready] }) (qpKey qLast) 3 = some (jobD 3 1 .ready) := by decide +kernel
theorem wit_RingJobs_3 : readyJob (ringB 3 { jobs := [jobD 4 0 .ready] }) (qpKey qLast) 4 = some (jobD 4 0 .ready)
    ∧ (sealNamed (ringB 3 {}) 0 0 0 0).2 = false
    ∧ readyJob (ringB 3 { jobs := [jobD 5 0 .ready] }) (qpKey qLast) 5 = some (jobD 5 0 .ready)
    ∧ tickReached (rd (ringB 3 {}) LCE_TICK_NOW) (waitTarget (jobD 5 0 .ready)) = true
    ∧ tickReached (rd (wr (ringB 3 {}) LCE_TICK_NOW 0 (2 ^ 48 - 1)) LCE_TICK_NOW) (waitTarget (jobD 5 0 .ready)) = false
    ∧ readyJob (ringB 3 { jobs := [jobD 6 0 .ready] }) (qpKey qLast) 6 = some (jobD 6 0 .ready)
    ∧ (qpAt (ringB 3 { jobs := [jobD 6 0 .ready], dirty := [(63, 8)] }) (qpKey qLast)).dirty ≠ []
    ∧ (qpAt (ringB 3 { jobs := [jobD 6 0 .ready] }) (qpKey qLast)).dirty = []
    ∧ readyJob (ringB 3 { jobs := [jobD 2 0 .ready] }) (qpKey qLast) 2 = some (jobD 2 0 .ready) ∧ (jobD 2 0 .ready).buf = none
    ∧ (decide' (ringB 3 {}) 0 0 0 0 4096).2 = none := by decide +kernel

/-- Pool 0 can place: its one member is port 1, which is up. -/
def poolB : State :=
  let s := wr (wr (ringB 3 { jobs := [jobD 2 64 .ready] }) PLC_POOL_CTL_EN 0 1) PRT_STATUS_STATE 1 3
  { s with plc := { mbr := [(0, { state := 0, port := 1, bufs := [4096] })] } }

theorem wit_RingJobs_4 : (decide' poolB (dPool (dsc 2 64)) 0 (dB (dsc 2 64) 30) (devTime poolB) (poolS poolB 0)).2.isSome = true
    ∧ jobDenied poolB (qpKey qLast) (dSrcGlob (dsc 2 64)) 0 64 .read = false ∧ jobDenied poolB (qpKey qLast) false 4096 64 .write = false
    ∧ (qpAt (ringB 3 { jobs := [jobD 5 1 .waiting] }) (qpKey qLast)).jobs.find?
        (fun j => decide (j.st = .waiting) && dOp j.desc == 5 && dLen j.desc != 0) = some (jobD 5 1 .waiting) := by decide +kernel

/-- Tag 16,383 of partition 15 in use. -/
def tagB (x : TagUse) : State :=
  let s := ringB 3 {}
  { s with rng := { s.rng with tags := [(262143, x)] } }

/-- A read of the last queue pair's job. -/
def useB (quar : Bool) : TagUse :=
  { cluster := 0, purpose := .job 4194303 3 0, at' := 0, len := 4, got := 0, port := 64, quar := quar, silent := false }

theorem wit_RingReads_1 : running (ringB 3 {}) = true ∧ partInReset (bench 4 [(PTN_CFG_EN, 15, 1)]) 15 = false
    ∧ qpLive (bench 4 []) (16383 * 256 + 511 / 2) = false ∧ qpState (ringB 3 {}) (16383 * 256 + 511 / 2) = 1
    ∧ qpState (wr (ringB 3 {}) QP_STATUS_STATE 4194303 3) (16383 * 256 + 511 / 2) = 3
    ∧ (qpAt (ringB 3 { fetching := 64 }) (qpKey qLast)).fetching ≠ 0 ∧ qpState (ringB 3 { fetching := 64 }) (qpKey qLast) ≠ 4
    ∧ nget? (ringB 3 {}).rng.tags (15 * 16384 + 16383) = none ∧ firstSlice (ringB 3 {}) 15 = some 16383
    ∧ nget? (tagB (useB false)).rng.tags (15 * 16384 + 16383) = some (useB false)
    ∧ nget? (tagB (useB true)).rng.tags (15 * 16384 + 16383) = some (useB true)
    ∧ rd (awtCloseNp (tagFree (tagB (useB true)) 15 16383) (clickRid (tagB (useB true)) 15) 16383) CKR_CLU_STATUS_STATE 0 = 2 := by decide +kernel
theorem wit_RingReads_2 : ownBarOn (wr (ringB 3 {}) PTN_CFG_EN 15 1) 15 = true
    ∧ qpLive (wr (ringB 3 {}) QP_STATUS_STATE 4194303 0) (qpKey qLast) = true ∧ qpState (wr (ringB 3 {}) QP_STATUS_STATE 4194303 0) (qpKey qLast) = 0
    ∧ rd (wr (ringB 3 {}) QP_CFG_TYPE 4194303 3) QP_CFG_TYPE (qpKey qLast) = 3 ∧ rd (ringB 3 {}) QP_CFG_TYPE (qpKey qLast) ≠ 3
    ∧ rd (wr (ringB 3 {}) QP_SQ_BASE 4194303 2048) QP_SQ_BASE (qpKey qLast) % 4096 ≠ 0 ∧ rd (ringB 3 {}) QP_CQ_BASE (qpKey qLast) % 4096 = 0
    ∧ rd (wr (ringB 3 {}) QP_CFG_VEC 4194303 2047) PTN_CFG_VECM1 (qpPart (qpKey qLast)) < rd (wr (ringB 3 {}) QP_CFG_VEC 4194303 2047) QP_CFG_VEC 4194303
    ∧ rd (ringB 3 {}) QP_CFG_VEC (qpKey qLast) ≤ rd (ringB 3 {}) PTN_CFG_VECM1 (qpPart (qpKey qLast))
    ∧ qpState (wr (ringB 3 {}) QP_STATUS_STATE 4194303 2) (qpKey qLast) = 2
    ∧ qpState (wr (ringB 3 {}) QP_STATUS_STATE 4194303 4) (qpKey qLast) = 4 ∧ (ringB 3 {}).rng.tags = [] := by decide +kernel

/-! ### Hypotheses of the statements about slices, windows and access control -/

/-- Partition 15 is enabled and its last slice selected; the staging copy has one queue pair. -/
def slcB (l : List (Fld × Nat × Nat)) (m : NMap Slice) : State :=
  { bench 4 ([(PTN_CFG_EN, 15, 1), (PTN_SLC_SEL_PARTITION, 0, 15), (PTN_SLC_SEL_SLICE, 0, 1023), (PTN_SLC_QP_QP_COUNT, 0, 1),
      (PTN_SLC_DMA_SHARE, 0, 1)] ++ l) with slices := m }

theorem wit_SlicesAndWindows_1 : taken (slcB [] []) .mgmt PTN_SLC_CMD_CREATE.off ∧ slcSel (acked (slcB [] []) .mgmt) = 16383
    ∧ bit (acked (slcB [] []) .mgmt) PTN_CFG_EN (16383 / 1024) = true ∧ nget? (acked (slcB [] []) .mgmt).slices 16383 = none
    ∧ (acked (slcB [] []) .mgmt).slices.length < 4096
    ∧ slcRange (acked (slcB [] []) .mgmt) 15 (slcStaged (acked (slcB [] []) .mgmt)) = false
    ∧ slcQpClash (acked (slcB [] []) .mgmt) 16383 (slcStaged (acked (slcB [] []) .mgmt)) = false
    ∧ slcVecClash (acked (slcB [] []) .mgmt) 16383 (slcStaged (acked (slcB [] []) .mgmt)) = false
    ∧ slcPasidClash (acked (slcB [] []) .mgmt) 16383 (slcStaged (acked (slcB [] []) .mgmt)) = false
    ∧ slcRange (slcB [(PTN_SLC_QP_QP_COUNT, 0, 257)] []) 15 (slcStaged (slcB [(PTN_SLC_QP_QP_COUNT, 0, 257)] [])) = true
    ∧ bit (slcB [(PTN_CFG_EN, 15, 0)] []) PTN_CFG_EN (16383 / 1024) = false ∧ (nget? (slcB [] [(16383, sliceB)]).slices 16383).isSome = true := by
  unfold taken; decide +kernel
theorem wit_SlicesAndWindows_2 : nget? (acked (slcB [] [(16383, sliceB)]) .inband).slices 16383 = some sliceB
    ∧ taken (slcB [] [(16383, sliceB)]) .inband PTN_SLC_CMD_CREATE.off
    ∧ slcBusy (slcB [(QP_STATUS_STATE, 4194303, 1)] [(16383, sliceB)]) 16383 = true ∧ slcBusy (slcB [] [(16383, sliceB)]) 16383 = false
    ∧ slcNamed (slcB [(PLC_POOL_CTL_EN, 1023, 1), (PLC_POOL_REC, 1023, 16383)] [(16383, sliceB)]) sliceB = true
    ∧ slcNamed (slcB [] [(16383, sliceB)]) sliceB = false
    ∧ (slcStaged (slcB [(PTN_SLC_PASID_PASID, 0, 2 ^ 20 - 1)] [(16383, sliceB)])).pasid ≠ sliceB.pasid
    ∧ sliceB.qpCount ≤ (slcStaged (slcB [(PTN_SLC_QP_QP_COUNT, 0, 256)] [(16383, sliceB)])).qpCount
    ∧ slcRange (slcB [(PTN_SLC_QP_QP_COUNT, 0, 256)] [(16383, sliceB)]) 15 (slcStaged (slcB [(PTN_SLC_QP_QP_COUNT, 0, 256)] [(16383, sliceB)])) = false
    ∧ (slcStaged (slcB [] [])).pasidV = sliceB.pasidV := by unfold taken; decide +kernel

/-- A RESIZE of slice 1,023 of partition 15 that changes nothing: at the next tick, or at once. -/
def rszD (now : Bool) (n : Byte) : Bytes :=
  [15, 0, 0, 0, 0, 0, 0, 0, 15, n, 3, if now then 1 else 0] ++ List.replicate 12 0 ++ [1] ++ List.replicate 7 0 ++ [1] ++ List.replicate 31 0

/-- The last queue pair has such a job. -/
def rszB (d : Bytes) (st : JobSt) : State := ringB 3 { jobs := [{ jobD 15 0 st with desc := d }] }

theorem wit_SlicesAndWindows_3 : readyJob (rszB (rszD true 255) .ready) (qpKey qLast) 15 = some { jobD 15 0 .ready with desc := rszD true 255 }
    ∧ rszSlice (rszD true 255) = 16383 ∧ rszSlice (rszD true 254) = 16382 ∧ rszCheck (rszB (rszD true 254) .ready) (rszD true 254) = 2
    ∧ rszRefused (rszB (rszD true 254) .ready) (rszD true 254) ≠ 0 ∧ rszNow (rszD false 255) = false ∧ rszNow (rszD true 255) = true
    ∧ tickReached (rd (rszB (rszD false 255) .ready) LCE_TICK_NOW) (rszTick (rszD false 255)) = false
    ∧ tickReached (rd (wr (rszB (rszD false 255) .ready) LCE_TICK_NOW 0 1) LCE_TICK_NOW) (rszTick (rszD false 255)) = true
    ∧ rszTimeout (rszD false 255) = 1
    ∧ (qpAt (rszB (rszD false 255) .waiting) (qpKey qLast)).jobs.find?
        (fun j => decide (j.st = .waiting) && dOp j.desc == 15 && rszTimeout j.desc != 0) = some { jobD 15 0 .waiting with desc := rszD false 255 } := by
  decide +kernel

/-- The same where the slice's values lie in their ranges. -/
def rszOk : State := { rszB (rszD true 255) .ready with slices := [(16383, { sliceB with share := 255 })] }

theorem wit_SlicesAndWindows_4 : rszCheck rszOk (rszD true 255) = 0 ∧ rszRefused rszOk (rszD true 255) = 0
    ∧ nget? rszOk.slices (rszSlice (rszD true 255)) = some { sliceB with share := 255 } := by decide +kernel

/-- Crossing window 511's shadow has EN set, of the K given, between partitions 15 and 14. -/
def xwB (k : Nat) : State := bench 4 [(PTN_XW_CTL_EN, 511, 1), (PTN_XW_CTL_K, 511, k), (PTN_XW_CTL_SRC_PT, 511, 15), (PTN_XW_CTL_TGT_PT, 511, 14),
  (PTN_XW_BASE, 511, 2 ^ 12), (PTN_CFG_EN, 15, 1), (PTN_CFG_EN, 14, 1)]

theorem wit_SlicesAndWindows_5 : taken (xwB 12) .mgmt PTN_XW_COMMIT_GO.off ∧ (List.range 512).filter (xwPending (xwB 12)) = [511]
    ∧ xwFail (xwB 12) (nset xwOff [] 511 (xwShadow (xwB 12) 511)) 511 (xwShadow (xwB 12) 511) = 0
    ∧ xwFail (xwB 13) (nset xwOff [] 511 (xwShadow (xwB 13) 511)) 511 (xwShadow (xwB 13) 511) = 2 ∧ xwLeft (xwB 12) = false
    ∧ xwLeft { bench 4 [] with shk := { voq := [(0, [{ qp1 .posted .memWrite 1 0 0 with xw := some 1023 }])] } } = true
    ∧ taken (bench 4 [(PTN_RID_VALID, 4095, 1)]) .mgmt PTN_RID_VALID.off ∧ bit (acked (bench 4 [(PTN_RID_VALID, 4095, 1)]) .mgmt) PTN_RID_VALID 4095 = true
    ∧ bit (acked (bench 4 []) .mgmt) PTN_RID_VALID 4095 = false ∧ (BitVec.allOnes 64).toNat % 2 = 1 ∧ (0#64).toNat % 2 = 0
    ∧ remapRefused (bench 4 []) 4095 = true ∧ remapRefused (bench 4 [(PTN_RID_PARTITION, 4095, 15)]) 4095 = false := by unfold taken; decide +kernel
/-- An access to partition 15's space. -/
def accQ (a n kind : Nat) (need : Need) : AccReq :=
  { addr := a, len := n, owner := 15, glob := false, kind := kind, rid := 0, dev := 0, pasid := none, need := need }

theorem wit_AccessPermitted : (ringB 3 {}).wf = true ∧ awtCheck (ringB 3 {}) (accQ (2 ^ 64 - 1) (1) 15 .write) = .permit 8191
    ∧ awtCheck (ringB 1 {}) (accQ (0) (2 ^ 64) 15 .read)
        = .permit 8191
    ∧ awtCheck (ringB 1 {}) (accQ (0) (4) 15 .zero)
        = .permit 8191
    ∧ awtCheck (wr (ringB 0 {}) AWT_W1_A 8191 1) (accQ (0) (4) 15 .atomic) = .permit 8191 := by decide +kernel

/-- A checked access that has not completed. -/
def accB (f w : Bool) : OpenAcc := { id := 0, np := false, rid := 0, tag := 0, job := none, owner := 15, fenced := f, swapped := w }

theorem wit_AccessTable_1 : taken (bench 4 []) .mgmt AWT_W0_VALID.off ∧ bit (acked (bench 4 []) .mgmt) AWT_W0_LOCK 8191 = false
    ∧ bit (acked (bench 4 [(AWT_W0_LOCK, 8191, 1)]) .mgmt) AWT_W0_LOCK 8191 = true ∧ (Master.mgmt) ≠ .awl
    ∧ taken (bench 4 []) .mgmt AWT_FENCE_GO.off ∧ awtFenceMet { bench 4 [] with awt := { fencing := true } } = true
    ∧ awtFenceMet { bench 4 [] with awt := { fencing := true, accs := [accB true false] } } = false
    ∧ ([accB true false].filter (fun a => a.fenced)).length ≠ 0 ∧ taken (bench 4 []) .inband AWT_BANK_SEL_SWAP.off
    ∧ bit (acked (bench 4 [(AWT_BANK_SEL_MODE, 15, 1)]) .inband) AWT_BANK_SEL_MODE 15 = true
    ∧ bit (acked (bench 4 []) .inband) AWT_BANK_SEL_MODE 15 = false ∧ bit (bench 4 [(AWT_BANK_SEL_DRAINED, 15, 0)]) AWT_BANK_SEL_DRAINED 15 = false := by
  unfold taken; decide +kernel

/-- Entry 8,191's comparison runs; entry 0 overlaps it where `p` says so. -/
def cmpB (p : Nat) : State := { wr (wr (ringB 3 {}) AWT_W0_VALID 0 p) AWT_W2_OWNER 0 15 with awt := { compare := [8191] } }

theorem wit_AccessTable_2 : (cmpB 0).wf = true ∧ firstConflict { cmpB 0 with awt := {} } 8191 = none
    ∧ firstConflict { cmpB 1 with awt := {} } 8191 = some 0 ∧ bit { cmpB 1 with awt := {} } AWT_OVL_SET = false ∧ (cmpB 0).awt.compare = [8191] := by decide +kernel
theorem wit_AccessTable_3 : taken (ringB 3 {}) .mgmt AWL_CTL_GO.off ∧ (acked (ringB 3 {}) .mgmt).awt.awlBusy = false
    ∧ rd (acked (ringB 3 {}) .mgmt) CKR_CLU_STATUS_STATE (rd (acked (ringB 3 {}) .mgmt) AWL_CTL_VIA) = 2
    ∧ rd (acked (bench 4 []) .mgmt) CKR_CLU_STATUS_STATE (rd (acked (bench 4 []) .mgmt) AWL_CTL_VIA) ≠ 2
    ∧ 8 < 7 + 2 ∧ 7 + 1 ≤ 8
    ∧ awtLockedRange (ringB 3 {}) (accQ (7) (1) 0x11 .read) = false
    ∧ awtLockedRange (wr (ringB 3 {}) AWT_W0_LOCK 8191 1)
        (accQ (7) (1) 0x11 .read) = true
    ∧ awtCheck (wr (ringB 3 {}) AWT_W2_REQ_SRC 8191 0x11)
        (accQ (7) (1) 0x11 .write) = .permit 8191
    ∧ awtCheck (wr (ringB 3 {}) AWT_W2_REQ_SRC 8191 0x11)
        (accQ (7) (1) 0x11 .read) = .permit 8191
    ∧ awtCheck (ringB 3 {}) (accQ (7) (1) 0x11 .read) = .deny 1
    ∧ ({ bench 4 [] with awt := { awlBusy := true } } : State).awt.awlBusy = true ∧ (bench 4 []).awt.awlBusy = false := by unfold taken; decide +kernel

/-! ### Hypotheses of the statements about ports, links and partitions -/

/-- Port 63 is a PCIe port of 16 lanes, from lane 176 on, in a state. -/
def pcB (st : Nat) (l : List (Fld × Nat × Nat)) : State :=
  let s := bench 4 ([(PRT_CFG_FIRST_LANE, 63, 176), (PRT_CFG_WIDTH, 63, 4), (PTN_CFG_EN, 0, 1), (PRT_STATUS_STATE, 63, st)] ++ l)
  { s with prt := { s.prt with bring := true } }

/-- Port 63 is a T-link port in a port state and a T-link state. -/
def tlB (st t : Nat) (x : Tl) : State :=
  let s := pcB st [(PRT_CFG_PERS, 63, 1), (PRT_CFG_WIDTH, 63, 2), (TL_PHY_STATUS_TSTATE, 63, t), (GLB_MODE_REQ_LAYOUT, 0, 2)]
  { s with prt := { s.prt with tl := [(63, x)] }, fab := { s.fab with layout := 2 } }

theorem wit_PortCourse_1 : taken (pcB 0 []) .mgmt (PRT_CMD_ENABLE.off + 0x4000 * 63) ∧ inBlockReset (acked (pcB 0 []) .mgmt) 1 = false
    ∧ enableResult (acked (pcB 0 []) .mgmt) 63 = 0 ∧ enableResult (acked (pcB 1 []) .mgmt) 63 = 1 ∧ enableResult (pcB 0 [(PRT_CFG_FIRST_LANE, 63, 177)]) 63 = 3
    ∧ taken (pcB 5 []) .mgmt (PRT_CMD_DISABLE.off + 0x4000 * 63) ∧ rd (acked (pcB 5 []) .mgmt) PRT_STATUS_STATE 63 = 5
    ∧ rd (acked (pcB 1 []) .mgmt) PRT_STATUS_STATE 63 = 1 ∧ isTlink (acked (pcB 1 []) .mgmt) 63 = false ∧ linkUp (acked (pcB 1 []) .mgmt) 63 = false
    ∧ (acked (pcB 1 []) .mgmt).prt.retrain.contains (63 : Fin 64).val = false := by unfold taken; decide +kernel
theorem wit_PortCourse_2 : noPackets (pcB 5 []) 63 = true ∧ noPackets { pcB 5 [] with shk := { voq := [(voqKey 0 63 0, [qp1 .posted .memWrite 1 0 0])] } } 63 = false
    ∧ isTlink (forEach (lanesOf (pcB 5 []) 63) (pcB 5 []) laneLeave) 63 = false
    ∧ taken (pcB 3 []) .mgmt (PRT_CMD_RETRAIN.off + 0x4000 * 63) ∧ linkUp (acked (pcB 3 []) .mgmt) 63 = true
    ∧ linkUp (acked (tlB 4 tRUN {}) .mgmt) 63 = true ∧ isTlink (acked (tlB 4 tRUN {}) .mgmt) 63 = true := by unfold taken; decide +kernel
theorem wit_PortCourse_3 : rd (pcB 1 []) PRT_STATUS_STATE 63 = 1 ∧ portHeld (pcB 1 []) 63 = false ∧ bit (pcB 1 []) PRT_STATUS_PARTNER 63 = false
    ∧ ((List.range (dataLanes (lanesFound (pcB 1 []) 63 0 0 0) 63)).any (fun i => (0 : Nat).testBit i)) = false
    ∧ ((List.range (dataLanes (lanesFound (pcB 1 []) 63 (2 ^ 15) 0 0) 63)).any (fun i => (2 ^ 15 : Nat).testBit i)) = true
    ∧ isTlink (portState (pcB 1 []) 63 2) 63 = false ∧ portHeld (tlB 1 0 {}) 63 = false ∧ isTlink (portState (tlB 1 0 {}) 63 2) 63 = true
    ∧ rd (pcB 2 []) PRT_STATUS_STATE 63 = 2 ∧ inBlockReset (pcB 2 []) 1 = false ∧ isTlink (tlB 2 tSTART {}) 63 = true ∧ tstate (tlB 2 tSTART {}) 63 = tSTART
    ∧ rd (pcB 3 []) PRT_STATUS_STATE 63 = 3 ∧ running (pcB 3 []) = true ∧ bit (pcB 3 []) PRT_STATUS_STEP_DONE 63 = false
    ∧ rd (pcB 3 [(PRT_STATUS_RATE, 63, 1)]) PRT_STATUS_RATE 63 < targetRate (pcB 3 [(PRT_STATUS_RATE, 63, 1)]) 63 7
    ∧ isTlink (tlUpd (portState (pcB 3 []) 63 4) 63 (fun x => { x with target := 5 })) 63 = false := by decide +kernel
theorem wit_PortCourse_4 : rd (pcB 4 []) PRT_STATUS_STATE 63 = 4 ∧ isTlink (pcB 4 []) 63 = false
    ∧ widthOf (rd (pcB 4 [(PRT_STATUS_CUR_WIDTH, 63, 4)]) PRT_STATUS_CUR_WIDTH 63) ≤ widthOf 4
    ∧ widthOf 3 < widthOf (rd (pcB 4 [(PRT_STATUS_CUR_WIDTH, 63, 4)]) PRT_STATUS_CUR_WIDTH 63)
    ∧ (pcB 2 []).prt.retrain.contains (63 : Fin 64).val = false
    ∧ bit (degradedLink (pcB 4 [(PRT_STATUS_CUR_WIDTH, 63, 4)]) 63 0) PRT_STATUS_DEGRADED_LINK 63 = false
    ∧ bit (degradedLink (pcB 4 [(PRT_STATUS_CUR_WIDTH, 63, 3)]) 63 0) PRT_STATUS_DEGRADED_LINK 63 = true := by decide +kernel
theorem wit_LinkFalls_1 : linkUp (pcB 3 []) 63 = true ∧ linkUp (pcB 2 []) 63 = false ∧ striped (tlB 3 tRUN { tll := true, resume := true }) 63 = true
    ∧ (tlAt (tlB 3 tRUN { tll := true, resume := true }) 63).tll = true ∧ (tlAt (tlB 3 tRUN { tll := true, resume := true }) 63).resume = true
    ∧ isTlink (tlB 3 tRUN {}) 63 = true ∧ bit (pcB 2 [(PRT_CFG_DIR, 63, 1)]) PRT_CFG_DIR 63 = true ∧ isTlink (pcB 2 []) 63 = false
    ∧ bit (pcB 2 []) PRT_CFG_DIR 63 = false ∧ rd (pcB 2 []) PRT_STATUS_STATE 63 = 2 ∧ (pcB 2 []).prt.dpc.contains (63 : Fin 64).val = false
    ∧ (pcB 2 []).prt.retrain.contains (63 : Fin 64).val = false ∧ ({ pcB 1 [] with prt := { dpc := [63] } } : State).prt.dpc.contains (63 : Fin 64).val = true
    ∧ bit (bench 4 [(PWD_SLOT_STATUS_PG, 15, 1)]) PWD_SLOT_STATUS_PG 15 = true ∧ bit (bench 4 []) PWD_SLOT_STATUS_PG 15 = false := by decide +kernel
theorem wit_LinkFalls_2 : taken (bench 4 []) .mgmt (PTN_CFG_EN.off + 0x10 * 15) ∧ bit (acked (bench 4 [(GLB_MODE_REQ_LAYOUT, 0, 1)]) .mgmt) PTN_CFG_EN 15 = false
    ∧ taken (bench 4 [(GLB_MODE_REQ_LAYOUT, 0, 1)]) .mgmt (PTN_CFG_EN.off + 0x10 * 15)
    ∧ oneLayout (acked (bench 4 [(GLB_MODE_REQ_LAYOUT, 0, 1)]) .mgmt) = false
    ∧ (List.range 16).foldl (fun a k => if bit (bench 4 [(GLB_MODE_REQ_LAYOUT, 0, 1)]) PTN_CFG_EN k || k == 15 then
        a + rd (bench 4 [(GLB_MODE_REQ_LAYOUT, 0, 1)]) PTN_CFG_VECM1 k + 1 else a) 0 ≤ 16384
    ∧ bit (acked (bench 4 [(PTN_CFG_EN, 15, 1)]) .mgmt) PTN_CFG_EN 15 = true := by unfold taken; decide +kernel

/-- Port 63 is the head upstream port of partition 0, a member of layout 1. -/
def upB (st : Nat) (l : List (Fld × Nat × Nat)) : State :=
  pcB st ([(PRT_CFG_DIR, 63, 1), (PTN_STAT_UP_VALID, 0, 1), (PTN_STAT_UPORT, 0, 63)] ++ l)

theorem wit_LinkFalls_3 : upPort (upB 3 []) 0 = some 63 ∧ upPort (pcB 3 []) 0 = none
    ∧ bit (upB 3 []) LAN_REFCLK_PCIE_OK (rd (upB 3 []) PRT_CFG_FIRST_LANE 63 / 48) = true
    ∧ bit (upB 3 [(LAN_REFCLK_PCIE_OK, 3, 0)]) LAN_REFCLK_PCIE_OK (rd (upB 3 []) PRT_CFG_FIRST_LANE 63 / 48) = false
    ∧ bit (bench 4 [(PTN_STAT_IN_RESET, 15, 1), (PTN_CFG_EN, 15, 1)]) PTN_STAT_IN_RESET 15 = true ∧ nget (bench 4 []).fab.resets 15 [] = []
    ∧ bit (bench 4 [(PTN_STAT_IN_RESET, 15, 1), (PTN_CFG_EN, 15, 1)]) PTN_CFG_EN 15 = true ∧ wideReset (bench 4 []) = false
    ∧ wideReset State.reset = true ∧ nget ({ bench 4 [] with fab := { resets := [(15, [0])] } } : State).fab.resets 15 [] ≠ []
    ∧ isHead (upB 3 []) 63 = true ∧ linkUp (upB 3 []) 63 = true
    ∧ ({ upB 3 [] with prt := { hot := [63] } } : State).prt.hot.contains (63 : Fin 64).val = true := by decide +kernel
theorem wit_LinkFalls_4 : isTlink (pcB 1 []) 63 = false ∧ bit (pcB 1 []) PRT_CFG_DIR 63 = false ∧ rd (pcB 1 []) PRT_STATUS_STATE 63 ≠ 0
    ∧ portPt (pcB 1 []) 63 ≠ (15 : Fin 16).val ∧ taken (bench 4 []) .mgmt RST_CMD_PART.off
    ∧ bit (acked (bench 4 [(PTN_CFG_EN, 15, 1)]) .mgmt) PTN_CFG_EN 15 = true ∧ bit (acked (bench 4 []) .mgmt) PTN_CFG_EN 15 = false
    ∧ rd (acked (pcB 1 []) .mgmt) PRT_STATUS_STATE 63 ≠ 0
    ∧ ({ bench 4 [] with fab := { vfFlr := [4095] } } : State).fab.vfFlr.contains (4095 : Fin 4096).val = true
    ∧ (bench 4 []).fab.cfgWait.filter (fun e => e.1 == (4095 : Fin 4096).val) = [] := by unfold taken; decide +kernel
theorem wit_PcieFunctions_1 : partInReset (upB 3 [(PTN_STAT_IN_RESET, 0, 1)]) (portPt (upB 3 []) 63) = true
    ∧ isHead (upB 3 [(PTN_STAT_IN_RESET, 0, 1)]) 63 = true ∧ partInReset (upB 3 []) (portPt (upB 3 []) 63) = false
    ∧ secBus (cfgPut (upB 3 []) (fnUp 0) 6 0xFF00) (fnUp 0) = 255 ∧ partInReset (cfgPut (upB 3 []) (fnUp 0) 6 0xFF00) 0 = false
    ∧ isHead (cfgPut (upB 3 []) (fnUp 0) 6 0xFF00) 63 = true ∧ linkUp (cfgPut (upB 3 []) (fnUp 0) 6 0xFF00) 63 = true
    ∧ partInReset (bench 4 []) 15 = true ∧ partInReset (bench 4 [(PTN_CFG_EN, 15, 1)]) 15 = false := by decide +kernel
theorem wit_PcieFunctions_2 : ptmOn (pcB 3 []) 63 = false ∧ isTlink (pcB 3 []) 63 = false ∧ linkUp (pcB 3 []) 63 = true ∧ (0xFFFF#16) ≠ 0x3E4C#16
    ∧ bit (bench 4 [(TST_SEC_STATUS_CLEARED, 0, 1)]) TST_SEC_STATUS_CLEARED = true ∧ bit (bench 4 []) TST_SEC_STATUS_CLEARED = false
    ∧ ideUsed (bench 4 []) - 0 + 1 ≤ 256
    ∧ 256 < ideUsed { bench 4 [] with prt := { ide := (List.range 128).map (fun k => (2 * k + 1000, 2)) } } - 0 + 1 := by decide +kernel
theorem wit_PcieFunctions_3 : ptmOn (cfgPut (upB 3 []) (fnUp 0) 106 1) 63 = true
    ∧ busPort (cfgPut (pcB 3 []) (fnDown 0 63) 6 0xFFFF00) (portPt (pcB 3 []) 62) 255 = some 63 ∧ (63 : Nat) ≠ (62 : Fin 64).val
    ∧ isTlink (cfgPut (pcB 3 [(PRT_STATUS_STATE, 62, 3)]) (fnDown 0 63) 6 0xFFFF00) 62 = false
    ∧ linkUp (cfgPut (pcB 3 [(PRT_STATUS_STATE, 62, 3)]) (fnDown 0 63) 6 0xFFFF00) 62 = true := by decide +kernel

/-! ### Hypotheses of the statements about arrival, the fabric, power and links -/

/-- Port 63 is up, in the mode given, with partition 0 out of reset. -/
def inB (l : List (Fld × Nat × Nat)) : State := upB 3 l

/-- A write that waits for port 63's policer. -/
def polH : HeldPkt := { q := { qp1 .posted .memWrite 1 0 0 with inp := 63 }, outp := 0, pol := true, budget := false, since := 0 }

/-- Port 63's policer of class 7 has action `a` and no tokens. -/
def polB (a : Nat) : State := { inB [(SHK_POL_CTL_ACTION, 511, a), (SHK_POL_CIR, 511, 1), (SHK_POL_CTL_DEM_TC, 511, 6)] with
  shk := { buckets := (List.range 1024).map (fun i => (i, (-1, 0))) } }

/-- A memory write of 1 byte in class 7. -/
def wr7 : Packet := { pkt .posted .memWrite 0 [1#8] with tc := 7 }

theorem wit_PacketIngress_1 : ingressOpen (bench 4 []) 63 = false ∧ ingressOpen (inB []) 63 = true ∧ isTlink (inB []) 63 = false
    ∧ ({ inB [] with shk := { held := [polH] } } : State).shk.held.any
        (fun h => h.pol && h.q.inp == (63 : Fin 64).val && decide (h.q.pk.kind = wr7.kind)) = true
    ∧ (inB []).shk.held.any (fun h => h.pol && h.q.inp == (63 : Fin 64).val && decide (h.q.pk.kind = wr7.kind)) = false
    ∧ (police (inB []) 63 wr7).2 = some 7 ∧ (police (polB 2) 63 wr7).2 = none ∧ (police (polB 1) 63 wr7).2 = some 6
    ∧ [polH].filter (fun h => h.pol && h.q.inp == (63 : Fin 64).val && decide (h.q.pk.kind = .posted)) = [polH]
    ∧ (police { inB [] with shk := { held := [polH] } } 63 polH.q.pk).2 = some 0 := by decide +kernel

/-- A header from part 62 to part 63. -/
def hdrB : FabHdr := newHdr { bench 4 [(FAB_CTL_DEV_ID, 0, 62)] with fab := { layout := 2 } } 63 63 15 7 255 true

theorem wit_PacketIngress_2 : ingressOpen (tlB 3 tRUN {}) 63 = true ∧ isTlink (tlB 3 tRUN {}) 63 = true ∧ striped (tlB 3 tRUN {}) 63 = true
    ∧ inBlockReset (tlB 3 tRUN {}) 9 = false ∧ (groupStart (tlB 3 tRUN {}) 63 hdrB).2 = false := by decide +kernel
theorem wit_PacketIngress_3 : (arrivalCell (polB 2) 63 wr7).cls = 7 ∧ shapersOn (polB 2) = true ∧ rd (polB 2) SHK_POL_CTL_ACTION 511 = 2
    ∧ tokensCover (polB 2) 63 7 true wr7 = false ∧ tokensCover (inB [(SHK_POL_CTL_ACTION, 511, 1)]) 63 7 true wr7 = true
    ∧ rd (polB 1) SHK_POL_CTL_ACTION 511 = 1 ∧ keepsClass (polB 1) 63 (arrivalCell (polB 1) 63 wr7) = false
    ∧ wr7.kind ≠ .completion ∧ wr7.op ≠ .notice := by decide +kernel

/-- A fabric leaf with port 63 a hop to every part of the table's last entry. -/
def fabB (l : List (Fld × Nat × Nat)) (f : Fabric) : State :=
  let s := l.foldl (fun s e => wr s e.1 e.2.1 e.2.2) (wr (wr (tlB 3 tRUN {}) FAB_DEV_MODE 63 1) FAB_DEV_HOP0 63 63)
  { s with fab := { f with layout := 2 } }

/-- A notice of kind 7. -/
def ntc : Notice := { origin := 63, nseq := 255, kind := 7, source := 0, part := 0, sev := 0, time := 0 }

/-- A return entry for tag 16,383 of port 63. -/
def retE (q : Bool) : RetEnt := { part := 0, tc := 0, rid := 0, tag := 0, inp := 0, fab := none, xw := none, at' := 0, started := false, quar := q }

theorem wit_Fabric : fabricOn (fabB [] {}) = true ∧ hopUp (fabB [] {}) 63 = true ∧ devReach (fabB [] {}) 63 = true
    ∧ (nget (fabB [] { seen := [(63, [(255, 0)])] }).fab.seen ntc.origin.toNat []).any
        (fun e => e.1 == ntc.nseq.toNat && (fabB [] {}).now ≤ e.2 + 10000000) = true
    ∧ (nget (fabB [] {}).fab.seen ntc.origin.toNat []).any (fun e => e.1 == ntc.nseq.toNat && (fabB [] {}).now ≤ e.2 + 10000000) = false
    ∧ 1 ≤ ntc.kind.toNat ∧ ntc.kind.toNat ≤ 7 ∧ (0#4).toNat = 0 ∧ (15#4).toNat ≠ 0 ∧ taken (fabB [] {}) .mgmt FAB_DEV_MODE.off
    ∧ taken (fabB [(FAB_GAP_EN, 63, 1)] {}) .mgmt FAB_GAP_EN.off ∧ bit (acked (fabB [(FAB_GAP_EN, 63, 1)] {}) .mgmt) FAB_GAP_EN (15 * 4 + 3) = true
    ∧ bit (acked (fabB [] {}) .mgmt) FAB_GAP_EN (15 * 4 + 3) = false
    ∧ (∀ h, h < 4 → h ≠ (3 : Fin 4).val → bit (acked (fabB [] {}) .mgmt) FAB_GAP_EN (15 * 4 + h) = false)
    ∧ (retEntry (fabB [] { ret := [(63 * 16384 + 16383, retE false)] }) 63
        { pkt .completion .cpl 0 [1#8] with tag := 16383, rid := BitVec.ofNat 16 (bridgeRid (fabB [] {}) 63) }).isSome = true
    ∧ linkUp (fabB [] {}) 63 = true ∧ running (fabB [] {}) = true
    ∧ nget? (fabB [] { ret := [(63 * 16384 + 16383, retE true)] }).fab.ret ((63 : Fin 64).val * 16384 + (16383#14).toNat) = some (retE true)
    ∧ nget? (fabB [] { ret := [(63 * 16384 + 16383, retE false)] }).fab.ret ((63 : Fin 64).val * 16384 + (16383#14).toNat) = some (retE false) := by
  unfold taken; decide +kernel

/-! ### Hypotheses of the statements about power and links -/

theorem wit_PowerDie_1 : (bench 4 []).pwr.on = true ∧ (∀ f : Fin 2, feedOn (bench 4 []) f = true) ∧ (bench 4 []).pwr.low.contains (1 : Fin 2).val = false
    ∧ ({ bench 4 [] with pwr := { low := [1] } } : State).pwr.low.contains (1 : Fin 2).val = true
    ∧ feedState { bench 4 [] with pwr := { low := [1] } } 1 ≠ 3 ∧ feedState { bench 4 [] with pwr := { low := [1] } } 1 ≠ 4
    ∧ feedState (feedSet (bench 4 []) 1 3) 1 = 3 ∧ feedState (feedSet (bench 4 []) 1 4) 1 = 4 ∧ feedOn (feedSet (bench 4 []) 1 4) 1 = true
    ∧ bit (bench 4 [(PWD_FEED_STATUS_CONDUCT_B, 0, 1)]) PWD_FEED_STATUS_CONDUCT_B = true
    ∧ bit (bench 4 [(PWD_FEED_STATUS_CONDUCT_B, 0, 0)]) PWD_FEED_STATUS_CONDUCT_B = false ∧ (1 : Fin 2) = 1
    ∧ bit (bench 4 [(PWD_FEED_CTL_OV_CUT, 1, 1)]) PWD_FEED_CTL_OV_CUT 1 = true ∧ bit (bench 4 [(PWD_FEED_CTL_OV_CUT, 1, 0)]) PWD_FEED_CTL_OV_CUT 1 = false
    ∧ bit (bench 4 [(PWD_FEED_STATUS_PWRFAIL, 0, 1)]) PWD_FEED_STATUS_PWRFAIL = true
    ∧ bit (bench 4 [(PWD_FEED_STATUS_PWRFAIL, 0, 0)]) PWD_FEED_STATUS_PWRFAIL = false
    ∧ (bench 4 []).pwr.failed.contains (9 : Fin 10).val = false ∧ ({ bench 4 [] with pwr := { failed := [8] } } : State).pwr.failed.contains (8 : Fin 10).val = true
    ∧ ({ bench 4 [] with pwr := { on := false } } : State).pwr.on = false := by decide +kernel
theorem wit_PowerDie_2 : bit (bench 4 []) PWD_SLOT_CTL_ON 15 = false ∧ bit (bench 4 []) PWD_SLOT_STATUS_FENCED 15 = false ∧ slotState (bench 4 []) 15 = 0
    ∧ busUv (wr (bench 4 []) PWD_SLOT_CTL_ON 15 1) = false ∧ slotState (slotTo (bench 4 []) 15 6) 15 = 6
    ∧ bit (bench 4 [(PWD_SLOT_CTL_ON, 15, 1)]) PWD_SLOT_CTL_ON 15 = true ∧ bit (bench 4 [(PWD_SLOT_STATUS_FENCED, 15, 1)]) PWD_SLOT_STATUS_FENCED 15 = true
    ∧ taken (bench 4 []) .inband (PWD_SLOT_CTL_ON.off + 0x20 * 15) ∧ mode (bench 4 []) ≠ mSAFE
    ∧ slotState (slotTo (bench 4 []) 15 1) 15 = 1 ∧ slotState (slotTo (bench 4 []) 15 2) 15 = 2 ∧ slotDriven (slotTo (bench 4 []) 15 3) 15 = true
    ∧ slotDriven (bench 4 []) 15 = false ∧ slotState (slotTo (bench 4 []) 15 4) 15 = 4 ∧ busUv (slotTo (bench 4 []) 15 4) = false
    ∧ busUv (wr (slotTo (bench 4 []) 15 4) PWD_FEED_STATUS_UVLO 0 1) = true ∧ slotDriven (slotTo (bench 4 []) 15 4) 15 = false
    ∧ slotDriven (slotTo (bench 4 []) 15 5) 15 = false
    ∧ taken (slotTo (bench 4 []) 15 6) .mgmt (PWD_SLOT_CTL_CLR_FET.off + 0x20 * 15) ∧ slotState (acked (slotTo (bench 4 []) 15 6) .mgmt) 15 = 6
    ∧ slotState (acked (bench 4 []) .mgmt) 15 ≠ 6 := by unfold taken; decide +kernel

/-- Port 63 is a downstream port bound to slot 15. -/
theorem wit_PowerDie_3 : (boundTo (pcB 1 [(PCI_SLOT_BOUND, 63, 1), (PCI_SLOT_CHANNEL, 63, 15)]) 15).any
    (fun p => !partInReset (pcB 1 [(PCI_SLOT_BOUND, 63, 1), (PCI_SLOT_CHANNEL, 63, 15)]) (portPt (pcB 1 []) p)) = true := by decide +kernel

/-- A packet whose stitch the replay buffer holds. -/
def flB : Flight := { q := qp1 .posted .memWrite 1 0 0, own := false, full := 1, left := 1, bad := false }

theorem wit_LinkReliability_2 : (tlAt (tlB 3 tRUN { uncovered := true }) 63).uncovered = true
    ∧ bit (wr (tlB 3 tRUN {}) WLT_STATUS_RECOVER 63 1) WLT_STATUS_RECOVER 63 = true
    ∧ (tlAt (tlB 3 tRUN { flights := [flB] }) 63).flights ≠ [] ∧ (tlAt (tlB 3 tRUN { flights := [flB] }) 63).resume = false
    ∧ rd (tlB 3 tRUN {}) WLT_CTL_REPLAY_MAX 63 ≤ (tlAt (tlB 3 tRUN { flights := [flB], tries := 15 }) 63).tries
    ∧ (tlAt (tlB 3 tRUN { flights := [flB] }) 63).tries < rd (tlB 3 tRUN { flights := [flB] }) WLT_CTL_REPLAY_MAX 63
    ∧ (∀ v, v < 8 → nget (tlB 3 tRUN {}).shk.freed ((63 : Fin 64).val * 8 + v) 0 = 0)
    ∧ min 65535 (nget ({ tlB 3 tRUN {} with shk := { freed := [(504, 65536)] } } : State).shk.freed ((63 : Fin 64).val * 8 + 0) 0) ≠ 0
    ∧ pairOf (tlB 3 tRUN {}) 63 = none ∧ bit (wr (tlB 3 tRUN {}) WLT_STATUS_LEAK_LOW 63 1) WLT_STATUS_LEAK_LOW 63 = true
    ∧ running (tlB 3 tRUN {}) = true ∧ (tlAt (tlB 3 tRUN {}) 63).req = none ∧ mateUp (tlB 3 tRUN {}) 63 = none
    ∧ (tlAt (tlB 3 tRUN { delay := some (255, 0) }) 63).delay.isSome = true ∧ inBlockReset (tlB 3 tRUN {}) 9 = false := by decide +kernel
theorem wit_LinkExchanges_1 : (tlAt (tlB 3 tRUN { req := some (0x15, 4, 3) }) 63).req = some (0x15, 4, 3)
    ∧ (tlAt (tlB 3 tRUN { req := some (0x10, 1, 4) }) 63).req = some (0x10, 1, 4)
    ∧ striped (tlB 3 tRUN { req := some (0x12, 0, 4) }) 63 = true ∧ (1#2).toNat ≤ 1 := by decide +kernel
theorem wit_LinkExchanges_2 : (tlAt (tlB 3 tRUN { resume := true }) 63).resume = true ∧ (tlAt (tlB 3 tRUN {}) 63).corr = []
    ∧ laneAt (tlB 2 tLOCK {}) 63 0 = some 176 ∧ isTlink (tlB 2 tLOCK {}) 63 = true
    ∧ tstate (wr (inc (tlB 2 tLOCK {}) LAN_LOCK_LOSS 176) LAN_STATUS_LOCK 176 0) 63 = tLOCK
    ∧ tstate (tlB 2 tPAUSE {}) 63 ≠ tCONFIG ∧ tstate (tlB 2 tPAUSE {}) 63 ≠ tLOCK ∧ striped (tlB 2 tPAUSE {}) 63 = false := by decide +kernel

/-- Pair 31 of ports 62 and 63, both T-link ports. -/
def pairB (en : Nat) : State := wr (wr (wr (wr (tlB 3 tRUN {}) PRT_CFG_PERS 62 1) WLT_PAIR_CTL_PORT_A 31 62) WLT_PAIR_CTL_PORT_B 31 63) WLT_PAIR_CTL_EN 31 en

theorem wit_LinkExchanges_3 : taken (pairB 0) .mgmt (WLT_PAIR_CTL_EN.off + 0x20 * 31) ∧ bit (acked (pairB 0) .mgmt) WLT_PAIR_CTL_EN 31 = false
    ∧ rd (acked (pairB 0) .mgmt) WLT_PAIR_CTL_PORT_A 31 = 62 ∧ rd (acked (pairB 0) .mgmt) WLT_PAIR_CTL_PORT_B 31 = 63
    ∧ isTlink (acked (pairB 0) .mgmt) 62 = true ∧ isTlink (acked (pairB 0) .mgmt) 63 = true ∧ pairOf (acked (pairB 0) .mgmt) 62 = none
    ∧ pairOf (acked (pairB 0) .mgmt) 63 = none ∧ bit (acked (pairB 1) .mgmt) WLT_PAIR_CTL_EN 31 = true := by unfold taken; decide +kernel

/-- A training stitch of subtype TS2 for logical lane 0. -/
def trainRaw : Bytes := stitchBytes (stitchHdr 11 0 0) (marker ++ [2, 63, 63, 0, 1, 31, 0]) 0

theorem wit_TrainingAndRates : tstate (tlB 2 tCONFIG { fast := true }) 63 = tCONFIG ∧ (tlAt (tlB 2 tCONFIG { fast := true }) 63).fast = true
    ∧ (tlAt (tlB 2 tCONFIG {}) 63).fast = false ∧ tstate (tlB 2 tLOCK {}) 63 = tLOCK ∧ tstate (tlB 4 tEQ {}) 63 = tEQ ∧ tstate (tlB 4 tSOAK {}) 63 = tSOAK
    ∧ tstate (tlB 4 tPAUSE {}) 63 = tPAUSE ∧ tstate (tlB 3 tRUN {}) 63 ≠ tLOCK ∧ 1 < (tlAt (tlB 4 tEQ { code := 2 }) 63).code
    ∧ striped (tlB 4 tEQ {}) 63 = false ∧ striped (tlB 4 tSOAK {}) 63 = true := by decide +kernel

/-! ### Hypotheses of the statements about clusters, faults, hold-up and secrets -/

/-- Cluster 7 in a state, with a verified image where `v` is 1. -/
def cluB (st v : Nat) (l : List (Fld × Nat × Nat)) : State :=
  bench 4 ([(CKR_CLU_STATUS_STATE, 7, st), (CKR_IMG_STATUS_VERIFIED, 0, v), (CKR_CLU_CTL_SIB, 7, 6), (CKR_CLU_STATUS_STATE, 6, 2)] ++ l)

theorem wit_ImagesAndClusters_1 : taken (cluB 2 0 []) .mgmt (0x4000000 + (0x1FFFFF#21).toNat) ∧ ([1#8] : Bytes) ≠ []
    ∧ taken (cluB 2 0 []) .mgmt CKR_IMG_CMD_VERIFY.off ∧ bit (acked (cluB 2 0 [(CKR_IMG_STATUS_BUSY, 0, 1)]) .mgmt) CKR_IMG_STATUS_BUSY = true
    ∧ bit (acked (cluB 2 0 []) .mgmt) CKR_IMG_STATUS_BUSY = false
    ∧ ({ cluB 2 0 [] with ckr := { verifying := true, changed := true } } : State).ckr.changed = true
    ∧ imageCheck { cluB 2 0 [] with ckr := { verifying := true } } = 1 ∧ taken (cluB 2 0 []) .inband CKR_IMG_CMD_INSTALL.off
    ∧ bit (wr (acked (cluB 2 0 []) .mgmt) CKR_IMG_CMD_MASK 0 255) CKR_IMG_STATUS_VERIFIED = false
    ∧ bit (wr (acked (cluB 2 1 []) .mgmt) CKR_IMG_CMD_MASK 0 255) CKR_IMG_STATUS_VERIFIED = true
    ∧ ({ cluB 2 1 [] with ckr := { installing := some 128 } } : State).ckr.installing = some 128 := by unfold taken; decide +kernel
theorem wit_ImagesAndClusters_2 : taken (cluB 2 1 []) .mgmt (CKR_CLU_CMD_SWAP.off + 0x20 * 7) ∧ cluState (acked (cluB 0 1 []) .mgmt) 7 ≠ 2
    ∧ cluState (acked (cluB 2 1 []) .mgmt) 7 = 2 ∧ swapResult (acked (cluB 2 1 []) .mgmt) 7 = 0 ∧ swapResult (acked (cluB 2 0 []) .mgmt) 7 = 2
    ∧ swapResult (acked (cluB 2 1 [(CKR_CLU_CTL_SIB, 7, 7)]) .mgmt) 7 = 1 ∧ cluState (cluB 3 1 []) 7 = 3 ∧ jobsOn (cluB 3 1 []) 7 = []
    ∧ (cluB 3 1 []).rng.tags = [] ∧ cluState (cluB 4 1 []) 7 = 4 ∧ (cluB 4 1 []).ckr.reset.contains (7 : Fin 8).val = false
    ∧ taken (cluB 5 1 []) .mgmt (CKR_CLU_CMD_RESTORE.off + 0x20 * 7) ∧ cluState (acked (cluB 5 0 []) .mgmt) 7 = 5
    ∧ bit (acked (cluB 5 0 []) .mgmt) CKR_IMG_STATUS_VERIFIED = false ∧ bit (acked (cluB 5 1 []) .mgmt) CKR_IMG_STATUS_VERIFIED = true
    ∧ taken (cluB 2 1 []) .mgmt (CKR_CLU_CMD_RECLAIM.off + 0x20 * 7)
    ∧ rd (acked (cluB 2 1 [(CKR_CLU_STATUS_SERVING, 7, 6)]) .mgmt) CKR_CLU_STATUS_SERVING 7 ≠ (7 : Fin 8).val := by unfold taken; decide +kernel
theorem wit_ImagesAndClusters_3 : nget? ({ cluB 2 1 [] with ckr := { hand := [(7, 6)] } } : State).ckr.hand (7 : Fin 8).val = some 6
    ∧ cluState (cluB 2 1 []) 6 = 2 ∧ cluState (cluB 2 1 []) 5 ≠ 2
    ∧ engState (bench 4 [(CKR_ENG_STATUS_STATE, 95, 1)]) 95 = 1 ∧ engState (bench 4 []) 95 ≠ 1
    ∧ taken (cluB 2 1 [(CKR_ENG_STATUS_STATE, 95, 2)]) .mgmt (CKR_ENG_CTL_RESTORE.off + 0x10 * 95)
    ∧ engState (acked (cluB 2 1 [(CKR_ENG_STATUS_STATE, 95, 2)]) .mgmt) 95 = 2
    ∧ cluState (acked (cluB 2 1 [(CKR_ENG_STATUS_STATE, 95, 2)]) .mgmt) ((95 : Fin 96).val / 12) = 2
    ∧ taken (cluB 2 1 []) .mgmt (CKR_MBX_CTL_REQ.off + 0x100 * 7) ∧ bit (acked (cluB 2 1 [(CKR_MBX_CTL_REQ, 7, 1)]) .mgmt) CKR_MBX_CTL_REQ 7 = true
    ∧ bit (acked (cluB 2 1 []) .mgmt) CKR_MBX_CTL_REQ 7 = false
    ∧ cluState (wr (wr (acked (cluB 2 1 []) .mgmt) CKR_MBX_CTL_REQ 7 1) CKR_MBX_CTL_ABORT 7 0) 7 = 2
    ∧ bit (acked (cluB 2 1 [(CKR_MBX_CTL_ACK, 7, 1)]) .mgmt) CKR_MBX_CTL_ACK 7 = true ∧ bit (acked (cluB 2 1 []) .mgmt) CKR_MBX_CTL_ACK 7 = false
    ∧ bit (cluB 2 1 [(CKR_MBX_CTL_IRQ_EN, 7, 1)]) CKR_MBX_CTL_IRQ_EN 7 = true ∧ bit (cluB 2 1 []) CKR_MBX_CTL_IRQ_EN 7 = false := by
  unfold taken; decide +kernel

/-- The source given is sticky, live and of a severity. -/
def fltB (n st lv sev : Nat) (l : List (Fld × Nat × Nat)) : State :=
  bench 4 ([(FLT_SEV_STICKY, n, st), (FLT_SEV_LIVE, n, lv), (FLT_SEV_SEV, n, sev)] ++ l)

theorem wit_FaultOccurrences_1 : sevImpl (0xFFF#12).toNat = 0 ∧ sevImpl (0x605#12).toNat ≠ 0 ∧ pairBroken (fltB 0x605 0 0 1 []) 0x605 0 = false
    ∧ bit (fltB 0x605 0 0 1 []) FLT_SEV_LIVE 0x605 = false ∧ bit (fltB 0x605 0 1 1 []) FLT_SEV_LIVE 0x605 = true ∧ (0x605#12).toNat ≠ 0x601
    ∧ detected (bench 4 []) 0x605 0 = bench 4 [] ∧ shadowed (bench 4 []) 0x605 = false
    ∧ shadowed (bench 4 [(FLT_BLK_STATE, 12, 1), (FLT_DEP, 12, 0x1000)]) 0x605 = true
    ∧ (bench 4 []).flt.once.contains (0x605#12).toNat = false
    ∧ ({ bench 4 [] with flt := { once := [0x605] } } : State).flt.once.contains (0x605#12).toNat = true
    ∧ bit (fltB 0x605 1 1 1 []) FLT_SEV_STICKY 0x605 = true := by decide +kernel
theorem wit_FaultOccurrences_2 : (0x184 : Nat) < 0x185 ∧ 9 ≤ 0x184 ∧ 2 % 2 = 0 ∧ lastEntry gatB 63 (activeBank gatB 63) = some 63
    ∧ bit (ringB 3 {}) AWT_W0_VALID 8191 = true ∧ (∀ j ∈ (bench 4 []).flt.broken, fltPathSrc j ≠ (0xFFF#12).toNat)
    ∧ ({ bench 4 [] with flt := { broken := [1334] } } : State).flt.broken.contains (1334 : Fin 1335).val = true
    ∧ (bench 4 []).flt.broken.contains (1334 : Fin 1335).val = false := by
  refine ⟨by decide, by decide, by decide, by decide +kernel, by decide +kernel, ?_, by decide +kernel, by decide +kernel⟩
  intro j hj; have h : (bench 4 []).flt.broken = [] := by decide +kernel
  rw [h] at hj; exact absurd hj List.not_mem_nil
theorem wit_FaultOccurrences_3 : ∃ j ∈ ({ bench 4 [] with flt := { broken := [1334] } } : State).flt.broken,
    fltPathSrc j = (BitVec.ofNat 12 (fltPathSrc 1334)).toNat := ⟨1334, by simp, by simp [fltPathSrc]⟩
theorem wit_SeverityApplied : rd (fltB 0x203 0 0 2 []) FLT_SEV_SEV 0x203 = 2 ∧ fenceTarget 0x203 = true ∧ fenceTarget 0x605 = false
    ∧ blockTarget 0x605 = false ∧ blockTarget 0x203 = true ∧ inBlockReset (fltB 0x203 0 0 3 []) (0x203 / 128) = false ∧ wideReset (fltB 0x203 0 0 3 []) = false
    ∧ 3 ≤ blkRecent { fltB 0x203 0 0 3 [] with flt := { blkTimes := [(4, [0, 0, 0])] } } (0x203 / 128)
    ∧ blkRecent { fltB 0x203 0 0 3 [] with flt := { blkTimes := [(4, [0, 0])] } } (0x203 / 128) < 3 ∧ (some 15 : Option Nat).isSome = true
    ∧ rd (fltB 0x203 0 0 4 []) FLT_SEV_SEV 0x203 = 4
    ∧ min 5 (rd (fltB 0x203 0 0 3 [(FLT_BLK_STATE, 4, 3)]) FLT_SEV_SEV 0x203 + 1) = 4 ∧ 0x203 / 128 < 18
    ∧ min 5 (rd (fltB 0x203 0 0 5 [(FLT_BLK_STATE, 4, 2)]) FLT_SEV_SEV 0x203 + 1) = 5 := by decide +kernel
theorem wit_FaultRecordRing : (bench 4 [(FLT_RING_SEQ, 0, 65535)]).wf = true ∧ (65535 + 65536 - rd (bench 4 [(FLT_RING_RD, 0, 65472)]) FLT_RING_RD) % 65536 < 64
    ∧ 64 ≤ (65535 + 65536 - rd (bench 4 [(FLT_RING_RD, 0, 65471)]) FLT_RING_RD) % 65536 := by decide +kernel
theorem wit_CollectorCommands_1 : taken (fltB 0x8A2 1 1 1 []) .mgmt (FLT_SEV_STICKY.off + 16 * (0x8A2#12).toNat) ∧ sevImpl (0x8A2#12).toNat ≠ 0
    ∧ bit (acked (fltB 0x8A2 0 0 1 []) .mgmt) FLT_SEV_STICKY 0x8A2 = false ∧ bit (acked (fltB 0x8A2 1 1 1 []) .mgmt) FLT_SEV_STICKY 0x8A2 = true
    ∧ bit (wr (wr (acked (fltB 0x8A2 1 1 1 []) .mgmt) FLT_SEV_STICKY 0x8A2 0) FLT_COUNT 0x8A2 0) FLT_SEV_LIVE 0x8A2 = true
    ∧ bit (wr (wr (acked (fltB 0x8A2 1 0 1 []) .mgmt) FLT_SEV_STICKY 0x8A2 0) FLT_COUNT 0x8A2 0) FLT_SEV_LIVE 0x8A2 = false
    ∧ taken (bench 4 []) .mgmt FLT_CMD_CLEAR_ALL.off ∧ taken (bench 4 []) .mgmt FLT_CMD_RESTORE.off
    ∧ bit (wr (acked (bench 4 [(FLT_SEV_FENCED, 0x100, 1)]) .mgmt) FLT_CMD_SRC 0 0x100) FLT_SEV_FENCED 0x100 = true ∧ (0x100#12).toNat / 128 = 2
    ∧ bit (wr (acked (bench 4 []) .mgmt) FLT_CMD_SRC 0 0x100) FLT_SEV_FENCED 0x100 = false
    ∧ bit (wr (acked (bench 4 []) .mgmt) FLT_CMD_SRC 0 0x100) FLT_SEV_LIVE 0x100 = false
    ∧ bit (wr (acked (fltB 0x100 1 1 1 []) .mgmt) FLT_CMD_SRC 0 0x100) FLT_SEV_LIVE 0x100 = true
    ∧ taken (bench 11 []) .mgmt FLT_INJ_GO.off ∧ mode (acked (bench 11 []) .mgmt) = 11 ∧ bit (acked (bench 11 []) .mgmt) FLT_INJ_GO = false
    ∧ sevImpl (rd (acked (bench 11 [(FLT_INJ_SRC, 0, 0x8A2)]) .mgmt) FLT_INJ_SRC) ≠ 0 ∧ rd (acked (bench 11 [(FLT_INJ_KIND, 0, 2)]) .mgmt) FLT_INJ_KIND = 2
    ∧ rd (acked (bench 11 []) .mgmt) FLT_INJ_KIND = 0 ∧ pairBroken (acked (bench 11 []) .mgmt) 0x8A2 0 = false := by unfold taken; decide +kernel
theorem wit_CollectorCommands_2 : ({ bench 11 [] with flt := { inj := some (0x8A2, 0) } } : State).flt.inj = some (0x8A2, 0)
    ∧ ({ bench 11 [] with flt := { inj := some (0x8A2, 0) } } : State).flt.broken = [] ∧ rd (bench 4 [(FLT_BLK_STATE, 17, 1)]) FLT_BLK_STATE 17 = 1
    ∧ rd (bench 4 []) FLT_BLK_STATE 17 ≠ 1 ∧ rd (bench 4 [(FLT_BLK_STATE, 17, 2)]) FLT_BLK_STATE 17 = 2
    ∧ rd (bench 4 [(FLT_BLK_STATE, 17, 3)]) FLT_BLK_STATE 17 = 3 ∧ rd (bench 4 []) FLT_BLK_STATE 17 ≠ 2 ∧ rd (bench 4 []) FLT_BLK_STATE 17 ≠ 3 := by
  decide +kernel

/-- The hold-up parameters of R419's example, a valid test, and the Heel as given. -/
def heelB (h : Heel) (l : List (Fld × Nat × Nat)) : State :=
  { bench 4 ([(PWD_HU_CTL_EN, 0, 1), (PWD_HU_VMIN, 0, 9000), (PWD_HU_ETA, 0, 900), (PWD_HU_PDRAIN, 0, 180), (PWD_HU_TFIXED, 0, 1000), (PWD_HU_RATE, 0, 50)]
    ++ l) with heel := h }

theorem wit_HoldUpAndGroups_1 : taken (heelB {} []) .mgmt PWD_HU_CTL_EN.off ∧ (heelB {} []).pwr.on = true ∧ (heelB {} []).heel.v0 = none
    ∧ (bit (heelB { setup := true } []) PWD_HU_CTL_EN = true ∧ (heelB { setup := true } []).heel.setup = true) ∧ (heelB { asked := true } []).heel.asked = true
    ∧ warnWire { heelB {} [] with pwr := { low := [0, 1] } } = true ∧ warnWire (heelB {} []) = false ∧ mode (heelB {} []) ≠ 8
    ∧ (heelB { v0 := some 65535 } []).heel.v0.isSome = true ∧ (heelB { v0 := some 65535 } []).heel.v1 = none
    ∧ (heelB { v0 := some 12000, v1 := some 1199500 } []).heel.v1 = some 1199500
    ∧ 9000 ≤ rd (heelB {} []) PWD_HU_VMIN ∧ rd (heelB {} []) PWD_HU_VMIN < 9001 ∧ 8000 < 1199500 - (1191499#32).toNat ∧ 1199500 - (1191500#32).toNat ≤ 8000
    ∧ (heelB { valid := some (12000, 500, 40000) } []).heel.valid = some (12000, 500, 40000)
    ∧ (heelB { valid := some (12000, 500, 40000) } []).heel.old = false ∧ (heelB {} []).heel.valid = none := by unfold taken; decide +kernel
theorem wit_HoldUpAndGroups_2 : (heelB { valid := some (12000, 500, 40000) } []).wf = true ∧ rd (heelB {} []) PWD_HU_PDRAIN ≠ 0
    ∧ heelResult (heelB {} [(PWD_HU_BUDGET, 0, 1)]) 49 = 3 ∧ heelResult (heelB {} [(PWD_HU_BUDGET, 0, 1)]) 50 = 0
    ∧ taken (heelB {} []) .mgmt (PWD_HU_ETA.off + 4 * 5) ∧ taken (bench 4 [(OFM_STATUS_FENCED, 0, 15)]) .mgmt OFM_CMD_RESTORE.off
    ∧ (acked (bench 4 [(OFM_STATUS_FENCED, 0, 15)]) .mgmt).heel.rebuild = []
    ∧ (List.range 4).filter (fun q => (15 : Nat).testBit q && (rd (acked (bench 4 [(OFM_STATUS_FENCED, 0, 15)]) .mgmt) OFM_STATUS_FENCED).testBit q) ≠ []
    ∧ (List.range 4).filter (fun q => (15 : Nat).testBit q && (rd (acked (bench 4 []) .mgmt) OFM_STATUS_FENCED).testBit q) = [] ∧ 0 < (15#4).toNat
    ∧ (heelB { rebuild := [3] } []).heel.rebuild.contains (3 : Fin 4).val = true
    ∧ (heelB { rebuild := [7] } []).heel.rebuild.contains (3 : Fin 4).val = false ∧ (heelB { rebuild := [7] } []).heel.rebuild.contains (4 + (3 : Fin 4).val) = true := by
  unfold taken; decide +kernel

/-- A mode, and the self-test block as given. -/
def tstB (md : Nat) (t : Tst) (l : List (Fld × Nat × Nat)) : State := { bench md l with tst := t }

theorem wit_SelfTestsAndSecrets_1 : (bistRunning (tstB 2 { left := [.mbist] } [(TST_BIST_STATUS_RUNNING, 0, 1)])).contains .mbist = true
    ∧ (bistRunning (tstB 2 { left := [.lbist, .mbist] } [(TST_BIST_STATUS_RUNNING, 0, 1)])).contains .mbist = false
    ∧ (bistUnshadow (tstB 2 { left := [.mbist] } []) .mbist).tst.left.filter (· != .mbist) = []
    ∧ (bistUnshadow (tstB 2 { left := [.ovf, .mbist] } []) .mbist).tst.left.filter (· != .mbist) ≠ []
    ∧ taken (tstB 3 {} []) .mgmt TST_SEC_CMD_CLEAR.off ∧ mode (acked (tstB 3 {} []) .mgmt) = 3 ∧ taken (tstB 4 {} []) .mgmt TST_SEC_CMD_CLEAR.off
    ∧ mode (acked (tstB 4 {} []) .mgmt) ≠ 3 ∧ (acked (tstB 3 {} []) .mgmt).tst.verifying = false ∧ (0xA4#8) ≠ 0xA5
    ∧ (tstB 3 { keys := true, seedOpen := true } []).wf = true ∧ taken (tstB 4 {} []) .mgmt TST_SEC_CMD_VERIFY.off
    ∧ (tstB 3 { verifying := true } []).tst.verifying = true ∧ (tstB 3 { verifying := true, changed := true } []).tst.changed = true
    ∧ (tstB 3 { verifying := true, keys := true } []).tst.keys = true ∧ (tstB 3 { verifying := true } []).tst.keys = false
    ∧ (tstB 3 { verifying := true } []).tst.seedOpen = false ∧ (tstB 3 { verifying := true } []).prt.ide = [] := by unfold taken; decide +kernel
theorem wit_SelfTestsAndSecrets_2 : taken (tstB 3 {} []) .mgmt TST_CERT_CTL_COMMIT.off ∧ bit (tstB 3 {} []) RST_TRIM_TRIM_OK = false
    ∧ bit (tstB 3 {} [(RST_TRIM_TRIM_OK, 0, 1)]) RST_TRIM_TRIM_OK = true ∧ bit (tstB 3 {} [(TST_SEC_STATUS_ID_READY, 0, 1)]) TST_SEC_STATUS_ID_READY = true
    ∧ bit (tstB 3 {} [(TST_SEC_STATUS_CLEARED, 0, 1)]) TST_SEC_STATUS_CLEARED = true ∧ bit (tstB 3 {} []) TST_SEC_STATUS_CLEARED = false
    ∧ bit (tstB 3 {} []) TST_CERT_CTL_CERT_VALID = false ∧ bit (tstB 3 {} [(TST_CERT_CTL_CERT_VALID, 0, 1)]) TST_CERT_CTL_CERT_VALID = true
    ∧ 1 ≤ (10 : Fin 256).val ∧ (10 : Fin 256).val ≤ 10 ∧ 32 ≤ rd (tstB 3 {} [(TST_SEC_STATUS_SESSIONS, 0, 32)]) TST_SEC_STATUS_SESSIONS
    ∧ rd (tstB 3 {} [(TST_SEC_STATUS_SESSIONS, 0, 31)]) TST_SEC_STATUS_SESSIONS < 32 := by unfold taken; decide +kernel

/-! ### Further clauses of those hypotheses -/

/-- A transition to a mode is in progress. -/
def trB (md to' cause : Nat) (req : Bool) : State :=
  { bench md [(GLB_MODE_BUSY, 0, 1)] with tr := some { to' := to', from' := BitVec.toNat 4#4, cause := cause, locked := false, src := 0, req := req } }

theorem wit_ModeRequests_3 : requestStatus (wr (bench 4 []) GLB_MODE_REQ_TARGET 0 9) 9 = 0 ∧ (9 : Nat) = mSAFE ∧ resetRuns (bench 4 []) = false
    ∧ (wr (bench 4 []) GLB_MODE_REQ_TARGET 0 9).tr = none ∧ requestStatus (wr (trB 4 9 2 false) GLB_MODE_REQ_TARGET 0 9) 9 = 0
    ∧ resetRuns (wr (trB 4 9 2 false) GLB_MODE_REQ_TARGET 0 9) = false
    ∧ (wr (trB 4 9 2 false) GLB_MODE_REQ_TARGET 0 9).tr.any (fun w => w.to' == mSAFE) = true ∧ taken (trB 4 9 2 false) .mgmt 0x14
    ∧ (bench 4 []).rst.warmWait = false ∧ (bench 4 []).wf = true := by unfold taken; decide +kernel
theorem wit_AutomaticCauses : resetRuns State.reset = true ∧ State.reset.rst.later = [] ∧ resetRuns (trB 4 8 1 true) = false
    ∧ (trB 4 6 1 true).tr.any (fun u => u.to' != mDRAIN && decide (transRank u.to' u.cause < transRank mDRAIN 1)) = true
    ∧ (trB 4 6 1 true).tr.any (fun u => u.to' != mSAFE && decide (transRank u.to' u.cause < transRank mSAFE 2)) = true
    ∧ autoLegal (mode (trB 4 6 1 true)) mDRAIN = true ∧ autoLegal (mode (trB 4 6 1 true)) mSAFE = true
    ∧ resetRuns (bench 4 []) = false ∧ (bench 4 []).tr = none := by decide +kernel
theorem wit_StrapReading : 100 * strapOhms.getD (0 : Fin 16) 0 ≤ 121 * 827 ∧ 100 * 827 ≤ 121 * strapOhms.getD (0 : Fin 16) 0
    ∧ (∀ d : Fin 16, 100 * strapOhms.getD d 0 ≤ 121 * 827 → 100 * 827 ≤ 121 * strapOhms.getD d 0 → d = 0)
    ∧ 100 * strapOhms.getD (15 : Fin 16) 0 ≤ 121 * 382360 ∧ 100 * 382360 ≤ 121 * strapOhms.getD (15 : Fin 16) 0
    ∧ (∀ d : Fin 16, 100 * strapOhms.getD d 0 ≤ 121 * 382360 → 100 * 382360 ≤ 121 * strapOhms.getD d 0 → d = 15)
    ∧ 383000 < 383001 ∧ 824 < 825 := by decide +kernel
theorem wit_EncoderStep : posDiff 4 (rd { wr (wr (bench 4 [(ENC_HIGH, 3, 5)]) ENC_POS 3 4) ENC_STATUS_DIR 3 1 with
    lce := { (bench 4 []).lce with boundary := none } } ENC_HIGH 3) ≤ 0 ∧ (4 : Nat) = (5 + (2 ^ 32 - 1)) % 2 ^ 32 := by decide +kernel
theorem wit_TickSources : ({ bench 4 [(LCE_CTL_SRC, 0, 5)] with lce := { prevStamp := some 1 }, now := 10000 } : State).lce.prevStamp = some 1
    ∧ timeSince 1 (devTime { bench 4 [(LCE_CTL_SRC, 0, 5)] with lce := { prevStamp := some 1 }, now := 10000 }) < 10000
    ∧ 10000 ≤ timeSince 1 (devTime { bench 4 [(LCE_CTL_SRC, 0, 5)] with lce := { prevStamp := some 1 }, now := 10001 })
    ∧ laceRuns (bench 4 [(LCE_CTL_SRC, 0, 7)]) = true := by decide +kernel
theorem wit_TickCandidates_3 : (if ({ bench 4 [] with lce := { preset := some 7, presetAt := 9 } } : State).lce.presetAt = 9 then none
      else (some 7 : Option Nat)) = none
    ∧ (if ({ bench 4 [] with lce := { preset := some 7, presetAt := 9 } } : State).lce.presetAt = 10 then none else (some 7 : Option Nat)) = some 7 := by
  decide +kernel

/-- Port 63 is an up T-link in RUN with its data lanes and its spare lane, in state `sp`, seeded. -/
def lineB (sp : Nat) (x : Tl) : State :=
  [(PRT_CFG_SPARE, 63, 1), (WLT_STATUS_SPARE, 63, sp), (WLT_CTL_SPARE_EN, 63, 1), (PRT_STATUS_CUR_WIDTH, 63, 2), (LAN_STATUS_LOGICAL, 177, 1),
    (LAN_STATUS_LOGICAL, 178, 2), (LAN_STATUS_LOGICAL, 179, 3), (LAN_STATUS_LOGICAL, 180, 4)].foldl (fun s e => wr s e.1 e.2.1 e.2.2)
    (tlB 3 tRUN { x with rxLanes := [176, 177, 178, 179], rxw := 2 })

/-- The same part follows tick master 5. -/
def folT : State :=
  let s := wr (wr (lineB 1 {}) LCE_CTL_ROLE 0 2) LCE_FAB_MASTER_ID 0 5
  { s with lce := { lastRec := some 7, recHops := [(63, 1)] } }

theorem wit_FabricTicks_2 : striped folT 63 = true ∧ inBlockReset folT 9 = false ∧ laceRuns (slotIn folT 63) = true
    ∧ inBlockReset (slotIn folT 63) 4 = false ∧ rd (slotIn folT 63) LCE_CTL_ROLE = 2 ∧ (slotIn folT 63).lce.lastRec = some 7
    ∧ acceptPort { slotIn folT 63 with lce := { (slotIn folT 63).lce with recHops := [(63, 1)] } } = some 63
    ∧ (5#6).toNat = rd (slotIn folT 63) LCE_FAB_MASTER_ID ∧ (if (striped folB 63 && !inBlockReset folB 9) = true then 1 else 0) = 0 := by
  decide +kernel
theorem wit_Matching : forwards (bench 4 []) = true ∧ clusterHeld { bench 4 [] with shk := { held :=
    [{ q := { qp1 .posted .memWrite 1 0 0 with inp := 71 }, outp := 0, pol := false, budget := true, since := 0 }] } } 7 = true
    ∧ clusterHeld (bench 4 []) 7 = false := by decide +kernel

/-- The last VOQ holds a packet of two cells, one in overflow memory and written. -/
def rbB (n : Nat) : State := { ovfB with shk := { ovfB.shk with spilling := if n = 0 then [] else [(voqKey 71 71 7, n)] } }

theorem wit_Overflow : (unwritten (rbB 1) (voqKey 71 71 7)).find? (fun e => e.2 != 0) = some (qp1 .posted .memWrite 2 1 0, 1)
    ∧ (unwritten (rbB 0) (voqKey 71 71 7)).find? (fun e => e.1.ovf != 0) = some (qp1 .posted .memWrite 2 1 0, 0)
    ∧ 0 < (qp1 .posted .memWrite 2 1 0).ovf ∧ wantsBack (rbB 0) (voqKey 71 71 7) = true := by decide +kernel

/-- The same ports, with a replay under way on port 63. -/
def repB : State := { egrB with prt := { egrB.prt with tl := [(63, { replayAt := some (0, 0) })] } }

theorem wit_Egress : (tlAt egrB 63).replayAt = none ∧ striped egrB 62 = false ∧ striped repB 63 = true ∧ linkUp repB 63 = true
    ∧ (tlAt repB 63).replayAt = some (0, 0) := by decide +kernel
theorem wit_InputHeld : inputHeld { bench 4 [] with shk := { held :=
    [{ q := { qp1 .posted .memWrite 1 0 0 with inp := 71 }, outp := 0, pol := false, budget := true, since := 0 }] } } 71 = true
    ∧ min ((0xFFFFFFFF#32).toNat % 128) 71 = 71 := by decide +kernel
theorem wit_SealWrites : (puAt (wr (puB { state := 3, held := [heldW] }) PLC_WIN_GEOM_PUBASE 255 65535)
      (rd (wr (puB {}) PLC_WIN_GEOM_PUBASE 255 65535) PLC_WIN_GEOM_PUBASE 255 + 0)).held.any (fun h => h.inp == (1 : Fin 64).val) = true
    ∧ inBlockReset (puB {}) 5 = false ∧ inBlockReset (wr (puB {}) FLT_BLK_STATE 5 1) 5 = true ∧ (63 : Nat) < winH (wr (puB {}) PLC_WIN_GEOM_HM1 255 63) 255
    ∧ 0 < winD (puB {}) 255 := by decide +kernel
theorem wit_Decisions : (decide' (puB { state := 1 }) 1023 255 0 7 4096).2.isSome = true
    ∧ bit (wr (puB { state := 1 }) PLC_WIN_CTL_TICK_BOUND 255 1) PLC_WIN_CTL_TICK_BOUND 255 = true := by decide +kernel
theorem wit_MemberReads : (member (tagsEnd (mbrB { reading := 16 } []) .timeout (· == .ring (1023 * 64 + 63))) 1023 63).reading ≠ 0
    ∧ (puAt (puB { state := 4, due := true }) 65535).due = true ∧ (puAt (puB { state := 5 }) 65535).due = false
    ∧ (puAt (puB { state := 5 }) 65535).broken = false := by decide +kernel
theorem wit_Flushes : (puAt (flushB { state := 5, again := true, ing := 1, egr := 1 }) 65535).again = true
    ∧ (puAt (flushB { state := 5 }) 65535).again = false ∧ clickersOn (flushB { state := 5 }) = true ∧ clusterHeld (flushB {}) 0 = false := by decide +kernel
theorem wit_Entries : clusterHeld (ringB 3 { jobs := [jobD 0 0 .ended] }) 0 = false := by decide +kernel

/-- A read of the last queue pair's job with some of its bytes received. -/
def useD (got : Nat) (done : Bool) : TagUse := { useB false with got := got, done := done }

theorem wit_RingReads_3 : (qpAt (tagsEnd (ringB 3 { fetching := 64 }) .timeout (· == .fetch (qpKey qLast))) (qpKey qLast)).fetching ≠ 0
    ∧ qpState (tagsEnd (wr (ringB 3 { fetching := 64 }) QP_STATUS_STATE 4194303 2) .ok (· == .fetch (qpKey qLast))) (qpKey qLast) = 2
    ∧ (useD 3 false).len ≤ (useD 3 false).got + [1#8].length ∧ (useD 2 false).got + [1#8].length < (useD 2 false).len
    ∧ (useD 2 false).quar = false ∧ (useD 2 false).silent = false ∧ (useD 2 false).done = false ∧ CplStatus.poison ≠ .ur ∧ CplStatus.poison ≠ .ca
    ∧ nget? (tagB (useD 2 false)).rng.tags (15 * 16384 + 16383) = some (useD 2 false)
    ∧ rd (wr (tagB (useD 2 false)) CKR_CLU_STATUS_STATE 0 3) CKR_CLU_STATUS_STATE 0 = 3 := by decide +kernel
theorem wit_Links_1 : dpcEnabled (cfgPut (pcB 3 []) (fnDown (portPt (pcB 3 []) 63) 63) 89 0x10000) 63 = true ∧ dpcEnabled (pcB 3 []) 63 = false
    ∧ (pcB 2 []).prt.retrain.contains (63 : Fin 64).val = false ∧ isHead (upB 3 []) 63 = true ∧ ingressOpen (upB 3 []) 63 = true ∧ isTlink (upB 3 []) 63 = false := by decide +kernel
theorem wit_Acks : seqDist (65535#16).toNat (rd (slotIn (wr (lineB 1 {}) WLT_OLDEST_O 63 65535) 63) WLT_OLDEST_O 63) = 0
    ∧ striped (wr (lineB 1 {}) WLT_OLDEST_O 63 65535) 63 = true ∧ inBlockReset (lineB 1 {}) 9 = false
    ∧ seqDist (rd (slotIn (wr (lineB 1 {}) WLT_OLDEST_O 63 65535) 63) WLT_SEQ_N 63) 65535 = 1
    ∧ seqDist (1#16).toNat (rd (slotIn (lineB 1 {}) 63) WLT_OLDEST_O 63) = 1 ∧ seqDist (rd (slotIn (lineB 1 {}) 63) WLT_SEQ_N 63) 0 = 0 := by
  decide +kernel
theorem wit_Naks : rd (inc (slotIn (lineB 1 {}) 63) NAK_RX 63) WLT_SEQ_N 63 = rd (slotIn (lineB 1 {}) 63) WLT_SEQ_N 63
    ∧ (65535#16).toNat % 65536
        ≠ rd (releaseHeld (inc (slotIn (wr (lineB 1 {}) WLT_OLDEST_O 63 65535) 63) NAK_RX 63) 63 0) WLT_SEQ_N 63
    ∧ (tlAt (inc (slotIn (lineB 1 {}) 63) NAK_RX 63) 63).replayAt = none
    ∧ (tlAt (inc (slotIn (lineB 1 { replayAt := some (5, 7) }) 63) NAK_RX 63) 63).replayAt = some ((5#16).toNat % 65536, 7)
    ∧ (tlAt (releaseHeld (inc (slotIn (wr (lineB 1 { replayAt := some (5, 7) }) WLT_SEQ_N 63 8) 63) NAK_RX 63) 63 0) 63).replayAt.isSome = true
    ∧ (tlAt (lineB 1 {}) 63).replayAt = none
    ∧ (tlAt (slotIn (lineB 1 { delay := some (255, 0) }) 63) 63).delay = some ((255#8).toNat, 0) := by decide +kernel
theorem wit_Exchanges : yields (slotIn (lineB 1 {}) 63) 63 0x10 = true ∧ yields (slotIn (lineB 1 {}) 63) 63 0x12 = true
    ∧ (tlAt (slotIn (lineB 1 { req := some (0x10, 1, 1) }) 63) 63).req = some (0x10, 1, 1)
    ∧ (tlAt (slotIn (lineB 1 { req := some (0x12, widthArg 3 1, 1) }) 63) 63).req = some (0x12, widthArg (3#3).toNat (1#2).toNat, 1)
    ∧ widthOf (tlAt (slotIn (lineB 1 {}) 63) 63).rxw ≤ widthOf (2#2).toNat ∧ widthOf (1#2).toNat < widthOf (tlAt (slotIn (lineB 1 {}) 63) 63).rxw
    ∧ (tlAt (slotIn (lineB 1 { same := true }) 63) 63).same = true := by decide +kernel
theorem wit_Spares : (tlAt (sideIn (lineB 1 {}) 63) 63).req = none ∧ spareFree (sideIn (lineB 1 {}) 63) 63 = true ∧ yields (sideIn (lineB 1 {}) 63) 63 0x15 = true
    ∧ (tlAt (sideIn (lineB 1 { req := some (0x15, 3, 1) }) 63) 63).req = some (0x15, (3#3).toNat, 1)
    ∧ rd (sideIn (wr (lineB 2 {}) WLT_STATUS_SPARE_FOR 63 3) 63) WLT_STATUS_SPARE 63 = 2
    ∧ rd (sideIn (wr (lineB 2 {}) WLT_STATUS_SPARE_FOR 63 3) 63) WLT_STATUS_SPARE_FOR 63 = (3#3).toNat
    ∧ spareLane (sideIn (lineB 2 {}) 63) 63 = some 180
    ∧ (tlAt (sideIn (lineB 2 { spareGo := true }) 63) 63).spareGo = true ∧ (tlAt (sideIn (lineB 2 {}) 63) 63).spareGo = false := by decide +kernel
theorem wit_Corrections : (List.range (widthOf (rd (lineB 1 {}) PRT_STATUS_CUR_WIDTH 63))).find?
        (fun l => decide (rd (lineB 1 {}) WLT_CTL2_CORR_MAX 63 < nget (tlAt (lineB 1 {}) 63).corr l 0)) = none
    ∧ (List.range (widthOf (rd (lineB 1 {}) PRT_STATUS_CUR_WIDTH 63))).find?
        (fun l => decide (rd (lineB 1 {}) WLT_CTL2_CORR_MAX 63 < nget (tlAt (lineB 1 { corr := [(3, 65536)] }) 63).corr l 0)) = some 3
    ∧ spareFree (tlSet (lineB 1 {}) 63 { tlAt (lineB 1 {}) 63 with corr := [] }) 63 = true
    ∧ spareFree (lineB 3 {}) 63 = false ∧ bit (wr (lineB 3 {}) WLT_CTL_WIDTH_EN 63 1) WLT_CTL_WIDTH_EN 63 = true
    ∧ 0 < rd (lineB 3 {}) PRT_STATUS_CUR_WIDTH 63 ∧ rd (lineB 3 {}) PRT_STATUS_CUR_WIDTH 63 ≤ 2 := by decide +kernel
theorem wit_LostLanes : laneAt (lineB 1 {}) 63 (4 : Fin 5) = some 180
    ∧ striped (wr (inc (lineB 1 {}) LAN_LOCK_LOSS 180) LAN_STATUS_LOCK 180 0) 63 = true
    ∧ rd (wr (inc (lineB 1 {}) LAN_LOCK_LOSS 180) LAN_STATUS_LOCK 180 0) WLT_STATUS_SPARE 63 = 1
    ∧ tstate (lineB 1 {}) 63 ≠ tCONFIG ∧ tstate (lineB 1 {}) 63 ≠ tLOCK
    ∧ (rd (wr (inc (lineB 1 {}) LAN_LOCK_LOSS 179) LAN_STATUS_LOCK 179 0) WLT_STATUS_OUT_LANES 63).testBit 3 = false
    ∧ spareFree (tlUpd (wr (inc (lineB 1 {}) LAN_LOCK_LOSS 179) LAN_STATUS_LOCK 179 0) 63 (fun t => { t with lost := [3] })) 63 = true
    ∧ (tlAt (lineB 1 {}) 63).req = none ∧ spareFree (lineB 2 {}) 63 = false := by decide +kernel

/-- Port 63 trains, its first lane heard before. -/
def trainB (t : Nat) : State := tlB 2 t { heardAt := some 0, heard := [176] }

set_option maxRecDepth 1000000 in
theorem wit_Training : training (trainB tLOCK) 63 = true ∧ inBlockReset (trainB tLOCK) 1 = false ∧ (lanesOf (trainB tLOCK) 63)[(0 : Fin 5).val]? = some 176
    ∧ laneBad (trainB tLOCK) 176 = false ∧ trainRead [] = none ∧ hasMarker [] = false := by decide +kernel
set_option maxRecDepth 1000000 in
theorem wit_TrainingReads : hasMarker trainRaw = true ∧ (trainRead (trainRaw.take 60)).isNone = true
    ∧ (trainRead trainRaw).any (fun x => x.logical != rd (wr (trainB tLOCK) LAN_STATUS_LOGICAL 176 3) LAN_STATUS_LOGICAL 176
        && x.logical != revLogical (wr (trainB tLOCK) LAN_STATUS_LOGICAL 176 3) 63 2) = true := by decide +kernel
set_option maxRecDepth 1000000 in
theorem wit_Rates : tstate (slotIn (lineB 1 {}) 63) 63 = tRUN ∧ striped (slotIn (lineB 1 {}) 63) 63 = true ∧ inBlockReset (slotIn (lineB 1 {}) 63) 1 = false
    ∧ running (slotIn (lineB 1 {}) 63) = true ∧ bit (slotIn (lineB 1 {}) 63) PRT_STATUS_STEP_DONE 63 = false
    ∧ yields (slotIn (lineB 1 {}) 63) 63 0x20 = true
    ∧ (tlAt (slotIn (lineB 1 { req := some (0x20, 4, 1) }) 63) 63).req = some (0x20, 4, 1)
    ∧ rd (slotIn (lineB 1 {}) 63) PRT_STATUS_RATE 63 < (15#4).toNat ∧ (0#4).toNat ≤ rd (slotIn (lineB 1 {}) 63) PRT_STATUS_RATE 63 := by decide +kernel
set_option maxRecDepth 1000000 in
theorem wit_Stitches : (fecScan trainRaw).2 = ([], false) ∧ soakOver (corrected (lineB 1 {}) 63 []) 63 = false
    ∧ (match stitchRead trainRaw (rd (corrected (lineB 1 {}) 63 []) WLT_SEQ_E 63) with | .ok _ => true | .error _ => false) = true
    ∧ (fecScan (trainRaw.modify 0 (· ^^^ 1) |>.modify 3 (· ^^^ 2))).2.2 = true := by decide +kernel
theorem wit_GateBad : (7 : Nat) % 2 = 1 ∧ lastEntry { gatB with gate := { gatB.gate with badEnt := entIdx 63 (activeBank gatB 63) (4 / 2 % 64) :: gatB.gate.badEnt } }
    63 (activeBank gatB 63) = some 63 := by decide +kernel
theorem wit_Spdm : doeFn (bench 4 []) .mctp = none ∧ doeFn (bench 4 []) (.doeClicking 15) = some (fnClick 15)
    ∧ "VERSION".startsWith "K" = false := by decide +kernel

/-! ### Well-formedness: each check of `Instr.wf` refuses an ill-formed command -/

theorem test_wf_packet_kind : (Instr.packetIngress 0 (pkt .nonPosted .memWrite 0 [1#8])).wf = false := by decide +kernel
theorem test_wf_packet_len : (Instr.packetIngress 0 { pkt .nonPosted .memRead 0 [] with len := 4097 }).wf = false := by decide +kernel
theorem test_wf_packet_data : (Instr.packetIngress 0 { pkt .posted .memWrite 0 [1#8] with len := 2 }).wf = false
    ∧ (Instr.packetIngress 0 (pkt .nonPosted .memRead 0 [1#8])).wf = false ∧ (Instr.packetIngress 0 (pkt .posted .notice 0 [])).wf = false
    ∧ (Instr.packetIngress 0 { pkt .completion .cpl 0 [1#8] with status := .ur }).wf = false
    ∧ (Instr.dataEndBadReceive 0 (pkt .posted .memRead 0 []) none).wf = false := by decide +kernel
theorem test_wf_completion : (Instr.proxyCompletion 0 (pkt .posted .memWrite 0 [1#8])).wf = false := by decide +kernel
theorem test_wf_seal_and_doorbell : (Instr.sealWrite 0 0 0 []).wf = false ∧ (Instr.doorbell 0 0 0 []).wf = false
    ∧ (Instr.doorbell 0 0 4095 [(1#8, true), (1#8, true)]).wf = false := by decide +kernel
theorem test_wf_reads : (Instr.fetchComplete qLast .ur [[]]).wf = false ∧ (Instr.fetchComplete qLast .ok [[]]).wf = false
    ∧ (Instr.bufferRingReadDone 0 0 .ca [0]).wf = false ∧ (Instr.dmaReadCompletion 0 0 .ur [1#8]).wf = false := by decide +kernel
theorem test_wf_detect : (Instr.detectDone 0 1 ⟨1, 0⟩).wf = false := by decide +kernel
theorem test_wf_stitches : (Instr.dataStitchReceive 0 [] [] false).wf = false ∧ (Instr.trainingStitchReceive 0 0 [] ⟨false, 0⟩).wf = false := by decide +kernel
theorem test_wf_link_lists : (Instr.creditReceive 0 []).wf = false ∧ (Instr.auditReceive 0 [] 0 false).wf = false
    ∧ (Instr.resumeReceive 0 0 0 false 0 []).wf = false := by decide +kernel
theorem test_wf_staging : (Instr.stagingWrite .mgmt 0 []).wf = false ∧ (Instr.stagingWrite .mgmt 0x1FFFFF [1#8, 1#8]).wf = false := by decide +kernel
theorem test_wf_mailbox : (Instr.mailboxResponse 0 []).wf = false := by decide +kernel
theorem test_wf_mgmt : (Instr.mgmtRead 0 0 true).wf = false ∧ (Instr.mgmtRead 0 8 true).wf = false ∧ (Instr.mgmtWrite 0 [] true).wf = false
    ∧ (Instr.mgmtWrite 0 [0, 0, 0, 0, 0, 0, 0, 0] true).wf = false := by decide +kernel
theorem test_wf_registers : (Instr.registerWrite []).wf = false ∧ (Instr.registerWrite [⟨.mgmt, 0, []⟩]).wf = false
    ∧ (Instr.registerWrite [⟨.mgmt, 0xFFFFFFF, [(1#8, true), (1#8, true)]⟩]).wf = false ∧ (Instr.registerRead .mgmt 0 0).wf = false
    ∧ (Instr.registerRead .mgmt 0xFFFFFFF 2).wf = false := by decide +kernel
theorem test_wf_holds : (Instr.registerWrite [⟨.mgmt, 0x100, [(0x22#8, true)]⟩]).wf = true
    ∧ (Instr.packetIngress 0 (pkt .posted .memWrite 0 [1#8])).wf = true ∧ Instr.tickStart.wf = true := by decide +kernel

/-! ### Numbers worked in the spec's examples -/

/-- A write of the 4 bytes of `v` by a master. -/
def poke (m : Master) (off : BitVec 28) (v : Nat) : RegWr := ⟨m, off, (leBytes 4 v).map (fun b => (b, true))⟩

/-- 00_scope.md and 17_faults.md R447: the check value of the CRC-16 with these parameters over the ASCII digits 1 to 9. -/
theorem test_crc16 : crc16 [0x31, 0x32, 0x33, 0x34, 0x35, 0x36, 0x37, 0x38, 0x39] = 0x29B1 := by decide +kernel

/-- 10_tlink_phy.md R270: the check value of the CRC-64. -/
theorem test_crc64 : crc64 [0x31, 0x32, 0x33, 0x34, 0x35, 0x36, 0x37, 0x38, 0x39] = 0x995DC9BBDF1939FA := by decide +kernel

/-- 21_register_map.md, device 1 of Panel cell 7: PRESET 5, ADDR_SEL 1 and MGMT_ADDR 0x5B read 0x0000_5B0D. -/
theorem test_strap : (after (.registerRead .mgmt 0xC 4) (bench 4 [(GLB_STRAP_PRESET, 0, 5), (GLB_STRAP_ADDR_SEL, 0, 1),
    (GLB_STRAP_MGMT_ADDR, 0, 0x5B)])).out.getLast? = some (.answer .mgmt [0x0D, 0x5B, 0, 0]) := by decide +kernel

/-- 21_register_map.md: both masters write GLB_BKP0 in one cycle; the management bus's write stands and GLB_COLLIDE reads 0x17. -/
theorem test_collision :
    let s := after (.registerWrite [poke .inband 0x100 0x11, poke .mgmt 0x100 0x22]) (bench 4 [])
    rd s GLB_BKP = 0x22 ∧ rd s GLB_COLLIDE_ADDR = 0x100
      ∧ rd s GLB_COLLIDE_VALID + rd s GLB_COLLIDE_MASTERS * 2 ^ GLB_COLLIDE_MASTERS.lsb + rd s GLB_COLLIDE_WINNER * 2 ^ GLB_COLLIDE_WINNER.lsb = 0x17
      ∧ s.detect.any (fun d => d.src == 1) = true := by decide +kernel

/-- Table 6-6: the values written for window W40 give H − 1 = 15, D − 1 = 3, SIZE = 12, PUBASE = 256, GRACE = 500, MISS_HOLD = 10. -/
theorem test_window_settings :
    let s := after (.registerWrite [poke .mgmt (0x51000C + 64 * 40) 0x000A01F4]) (after (.registerWrite [poke .mgmt (0x510004 + 64 * 40) 0x0100C0CF]) (bench 4 []))
    rd s PLC_WIN_GEOM_HM1 40 = 15 ∧ rd s PLC_WIN_GEOM_DM1 40 = 3 ∧ rd s PLC_WIN_GEOM_SIZE 40 = 12 ∧ rd s PLC_WIN_GEOM_PUBASE 40 = 256
      ∧ rd s PLC_WIN_TIMING_GRACE 40 = 500 ∧ rd s PLC_WIN_TIMING_MISS_HOLD 40 = 10 := by decide +kernel

/-- The record of head 9 in 06_placement.md begins 01 00 00 85 11 24 28 00. -/
theorem test_placement_record : (recBytes
    { type := 1, member := 5, pool := 17, head := 9, window := 40, tick := 8000, bufTag := 5, bufAddr := 0x830000000, bytes := 0x1000000 } true).take 8 = [0x01, 0, 0, 0x85, 0x11, 0x24, 0x28, 0] := by decide +kernel

/-- The completion entry of slot 10 in 07_rings_dma.md. -/
theorem test_completion_entry : cplBytes 0xC0DE 0x100000 11 0 1 0 true
    = [0xDE, 0xC0, 0, 0, 0, 0, 0x10, 0, 0x0B, 0, 0, 0x01, 0, 0, 0, 0x80] := by decide +kernel

/-- 07_rings_dma.md R180: the 16-byte write at BAR0 offset 0x5020 of slice 5 holds RING 4 with INDEX 11 and RING 5 with INDEX 10. -/
theorem test_doorbells : dF (leBytes 8 0x000B0004 ++ leBytes 8 0x000A0005) 0 2 = 4 ∧ dF (leBytes 8 0x000B0004 ++ leBytes 8 0x000A0005) 2 2 = 11
    ∧ dF (leBytes 8 0x000B0004 ++ leBytes 8 0x000A0005) 8 2 = 5 ∧ dF (leBytes 8 0x000B0004 ++ leBytes 8 0x000A0005) 10 2 = 10 := by decide +kernel

/-- The header of 12_fabric.md's example, 0x001B_8208_02DC_2382, spells its fields. -/
theorem test_fabric_header : hdrOf [0x82, 0x23, 0xDC, 0x02, 0x08, 0x82, 0x1B, 0] =
    { dstDev := 2, dstPort := 14, part := 2, tc := 4, hash := 0x5B, gseq := 0x100, srcDev := 1, ttl := 7, gseqV := true, placed := true, notice := false } := by decide +kernel

/-- 10_tlink_phy.md: DATA_START with VL 4 and a credit return of 5; a 512-byte write is 5 stitches. -/
theorem test_stitches : stitchHdr 2 4 5 = 0x02C2 ∧ stitchesOf (pkt .posted .memWrite 0 (List.replicate 512 0#8)) = 5 := by decide +kernel

/-- 14_access_control.md: entry 4,100 written by words 1, 2, 3 and then 0 takes the fields of the example. -/
theorem test_awt_entry :
    let s := after (.awtEntryCommit .mgmt 4100 0x100000001) { bench 4 [] with
      awt := { shadow := [(16401, 0x13FFFFFC1), (16402, 0x53FFFF3000), (16403, 0x2000000)] } }
    bit s AWT_W0_VALID 4100 = true ∧ awtLo s 4100 = 0x100000000 ∧ awtHi s 4100 = 0x140000000 ∧ bit s AWT_W1_R 4100 = true ∧ bit s AWT_W1_W 4100 = false
      ∧ rd s AWT_W2_OWNER 4100 = 3 ∧ rd s AWT_W2_REQ_SRC 4100 = 5 ∧ rd s AWT_W2_RID 4100 = 0x3000 ∧ rd s AWT_W2_RID_MASK 4100 = 0xFFFF
      ∧ rd s AWT_W3_PASID_MODE 4100 = 0 ∧ rd s AWT_W3_RO 4100 = 2 := by decide +kernel

/-- Table 16-3: C, E and the budget after the test of Float line 4, whose ΔV is 500 × 10 µV. -/
theorem test_hold_up :
    let s := after (.heelTestDone 1199500) (heelB { v0 := some 12000, v1 := some 1200000 } [(PWD_HU_RATE, 0, 50000)])
    rd s PWD_HU_V0 = 12000 ∧ rd s PWD_HU_DV = 500 ∧ rd s PWD_HU_CAP = 40000 ∧ rd s PWD_HU_ENERGY = 1260 ∧ rd s PWD_HU_BUDGET = 1035156
      ∧ bit s PWD_HU_STATUS_PASS = true := by decide +kernel

/-- The first eight bytes of record 0x0215 in 17_faults.md. -/
theorem test_fault_record : (fltBody (bench 4 [(FLT_RING_SEQ, 0, 0x215)]) 
    { src := 0x460, kind := 2, applied := 2, prog := 3, esc := true, rep := true, before := 5, after := 6, inst := 0 }).take 8 = [0x15, 0x02, 0x60, 0x24, 0x02, 0x1B, 0, 0x65] := by decide +kernel

/-- 17_faults.md: source 0x460 asserts a second time 4 ms after the release: BLOCK escalates to PART and, with no partition, becomes FENCE. -/
theorem test_escalation : appliedOf (fltB 0x460 1 0 3 [(FLT_BLK_STATE, 8, 3)]) 0x460 none = { sev := 2, esc := true, lim := false, rep := true } := by
  decide +kernel

/-- 20_selftest_security.md: results PASS in all four fields and REPAIRED read 0x1055. -/
theorem test_bist_status : (after (.registerRead .mgmt 0xF00004 4) (bench 4 [(TST_BIST_STATUS_LBIST, 0, 1), (TST_BIST_STATUS_MBIST, 0, 1),
    (TST_BIST_STATUS_OVF, 0, 1), (TST_BIST_STATUS_SERDES, 0, 1), (TST_BIST_STATUS_REPAIRED, 0, 1)])).out.getLast?
    = some (.answer .mgmt [0x55, 0x10, 0, 0]) := by decide +kernel

/-- Table 19-5: PWD_SLOT_CTL[6] = 0xA7 sets ON, RETRY 3 and RAMP 10; PWD_SLOT_LIM[6] = 0x7030. -/
theorem test_slot_settings :
    let s := after (.registerWrite [poke .mgmt (0xE00104 + 32 * 6) 0x7030]) (after (.registerWrite [poke .mgmt (0xE00100 + 32 * 6) 0xA7]) (bench 4 []))
    rd s PWD_SLOT_CTL_RETRY 6 = 3 ∧ rd s PWD_SLOT_CTL_RAMP 6 = 10 ∧ rd s PWD_SLOT_LIM_INRUSH 6 = 0x30 ∧ rd s PWD_SLOT_LIM_RUN 6 = 0x70 := by
  decide +kernel

/-- 03_tick_lace.md, Strip line 2: behind HIGH neither ACC nor HIGH moves; the count to 206,848 stamps a candidate at that position. -/
theorem test_encoder :
    (let s := encStep (bench 4 [(ENC_POS, 0, 204400), (ENC_HIGH, 0, 206000), (ENC_ACC, 0, 1200), (ENC_CTL_DIV, 0, 2048)]) 0 true
     rd s ENC_ACC = 1200 ∧ rd s ENC_HIGH = 206000 ∧ bit s ENC_STATUS_IN_REVERSE = true)
    ∧ (let s := encStep (bench 4 [(ENC_POS, 0, 206847), (ENC_HIGH, 0, 206847), (ENC_ACC, 0, 2047), (ENC_CTL_DIV, 0, 2048), (LCE_CTL_SRC, 0, 1)]) 0 true
       rd s ENC_POS = 206848 ∧ rd s ENC_ACC = 0 ∧ s.lce.pend.map (·.pos) = [206848]) := by decide +kernel

/-- 16_overflow_holdup.md: DUR_TC = 0x50 marks TC4 and TC6 in SETUP; in RUN the write has no effect (R415). -/
theorem test_dur_tc : rd (after (.durTcWrite .mgmt 0x50) (bench 3 [])) OFM_CTL_DUR_TC = 0x50
    ∧ rd (after (.durTcWrite .mgmt 0x50) (bench 4 [])) OFM_CTL_DUR_TC = 0 := by decide +kernel

/-- 17_faults.md R452: the ingress count 16,776,704 has residue 14, and a 512-byte write brings it to 1, the residue of 16,777,216; a flipped
bit 0 of the sum is found. -/
theorem test_residue : residue 16776704 = 14 ∧ resAdd (residue 16776704) (residue 512) = 1 ∧ residue 16777216 = 1
    ∧ residue 16777217 ≠ resAdd (residue 16776704) (residue 512) := by decide

/-- 10_tlink_phy.md R263: the seeds of logical lanes 0 and 4. -/
theorem test_lane_seeds : laneSeed 0 = 0x7FFFFFFF ∧ laneSeed 4 = 0x7BFBFBFB := by decide +kernel

/-- 10_tlink_phy.md R264: after 31 symbols at level 1 a stuff symbol of level 3 goes before the next; the receiver takes it out and counts it. -/
theorem test_stuff : (stuff false (List.replicate 32 1) {}).1 = List.replicate 31 1 ++ [3, 1]
    ∧ (hear (List.replicate 31 1 ++ [3, 1]) {}).1.data = List.replicate 32 1 ∧ (hear (List.replicate 31 1 ++ [3, 1]) {}).1.removed = 1 := by
  decide +kernel

/-- 10_tlink_phy.md R262: the generator of one seed takes off what it put on. -/
theorem test_scramble : scramble (scramble (byteBits 0xC2) (laneSeed 3)) (laneSeed 3) = byteBits 0xC2 := by decide +kernel

end Sys2Proof.Tests
end

section
/-!
SUPPORT. What may leave a VOQ (R82 to R84, R103): one lemma per branch of `eligible`, then the statement about the order of a VOQ.
-/
namespace Sys2Proof.Machine

/-- R84: the egress staging of the output of VOQ `k` has room for packet `q`. -/
def voqRoom (s : State) (k : Nat) (q : QPkt) : Bool := stageRoom s (k / 8 % 72) q.pk.kind q.cells true

section
variable {s : State} {k : Nat} {h q : QPkt} {rest : List QPkt}

/-- An empty VOQ sends nothing. -/
theorem eligible_nil : eligible s k [] = none := rfl

/-- R103: the ordering rules are of cells on chip, so an oldest packet with cells in overflow memory holds its VOQ. -/
theorem eligible_cons_of_spilled (hovf : h.ovf ≠ 0) : eligible s k (h :: rest) = none := by
  simp [eligible, hovf]

/-- R83, R84: the oldest packet may leave once it is on chip and has its staging room. -/
theorem eligible_cons_of_room (hovf : h.ovf = 0) (hroom : voqRoom s k h = true) : eligible s k (h :: rest) = some h := by
  unfold voqRoom at hroom
  simp [eligible, hovf, hroom]

/-- R82, R83: an oldest packet without staging room holds its VOQ, unless it is Non-Posted and waits at a port's input. -/
theorem eligible_cons_of_held (hroom : voqRoom s k h = false) (hheld : ¬ (h.pk.kind = .nonPosted ∧ k / 576 < 64)) :
    eligible s k (h :: rest) = none := by
  unfold voqRoom at hroom
  simp [eligible, hroom, hheld]

/-- R83: a Non-Posted packet without staging room at a port's input lets by the oldest Posted packet behind it, if that one is on chip and
has its own room. -/
theorem eligible_cons_of_passed (hovf : h.ovf = 0) (hroom : voqRoom s k h = false) (hkind : h.pk.kind = .nonPosted) (hport : k / 576 < 64) :
    eligible s k (h :: rest) = (rest.find? (fun p => decide (p.pk.kind = .posted))).filter (fun p => p.ovf == 0 && voqRoom s k p) := by
  unfold voqRoom at hroom ⊢
  rw [hkind] at hroom
  cases hfind : rest.find? (fun p => decide (p.pk.kind = .posted)) with
  | none => simp [eligible, hovf, hroom, hkind, hport, hfind]
  | some p => simp [eligible, hovf, hroom, hkind, hport, hfind, Option.filter_some]

/-- R82 to R84: what may leave a VOQ whose oldest packet is `h` is `h`, or the Posted packet that it lets by. -/
theorem eligible_cons_eq_some_iff : eligible s k (h :: rest) = some q ↔ q.ovf = 0 ∧ voqRoom s k q = true ∧ (h = q
    ∨ h.ovf = 0 ∧ h.pk.kind = .nonPosted ∧ voqRoom s k h = false ∧ k / 576 < 64
      ∧ rest.find? (fun p => decide (p.pk.kind = .posted)) = some q) := by
  by_cases hovf : h.ovf = 0
  case neg =>
    have hne : q.ovf = 0 → h ≠ q := by rintro hq rfl; exact hovf hq
    simp +contextual [eligible_cons_of_spilled hovf, hovf, hne]
  case pos =>
    cases hroom : voqRoom s k h with
    | true =>
      have hq : h = q → q.ovf = 0 ∧ voqRoom s k q = true := by rintro rfl; exact ⟨hovf, hroom⟩
      simpa [eligible_cons_of_room hovf hroom, ← and_assoc] using hq
    | false =>
      have hne : voqRoom s k q = true → h ≠ q := by rintro hq rfl; simp [hroom] at hq
      by_cases hpass : h.pk.kind = .nonPosted ∧ k / 576 < 64
      case neg =>
        simp only [eligible_cons_of_held hroom hpass]
        grind
      case pos =>
        obtain ⟨hkind, hport⟩ := hpass
        simp only [eligible_cons_of_passed hovf hroom hkind hport, Option.filter_eq_some_iff]
        grind

end

/-- Settles O29: by the branches of `eligible`, the only packet that may overtake is the oldest Posted one that a Non-Posted head lets by. -/
theorem voqOrder : Obligations.VoqOrder := by
  unfold Obligations.VoqOrder
  intro s k l q room hroom
  have hroom' : ∀ x, room x ↔ voqRoom s k x = true := hroom
  cases l with
  | nil => simp [eligible_nil]
  | cons h rest =>
    rw [eligible_cons_eq_some_iff]
    simp [hroom', and_assoc]

end Sys2Proof.Machine
end

section
/-!
SUPPORT. A WARM that a command asks for (R464, R473, R475): when it is performed as a COLD, what its two commands then do, and the
statement about both.
-/
namespace Sys2Proof.Machine

section
variable {s : State}

/-- R464: a WARM is performed as a COLD in HOLD, under a COLD, in SAFE with TRIM_BAD set and in FACTORY. -/
theorem warmAsCold_iff : warmAsCold s = true ↔
    mode s = mHOLD ∨ s.rst.coldWait = true ∨ (mode s = mSAFE ∧ bit s GLB_MODE_TRIM_BAD = true) ∨ mode s = mFACTORY := by
  simp [warmAsCold, or_assoc]

/-- R464: the three modes of the rule perform a WARM as a COLD. -/
theorem warmAsCold_of_mode (h : mode s = mHOLD ∨ (mode s = mSAFE ∧ bit s GLB_MODE_TRIM_BAD = true) ∨ mode s = mFACTORY) :
    warmAsCold s = true := by
  rw [warmAsCold_iff]
  exact h.imp_right Or.inr

/-- R341, R464: a WARM performed as a COLD sends its notice, asserts COLD, sets ESC_COLD and raises the escalation source. -/
theorem warmGo_of_warmAsCold (h : warmAsCold s = true) :
    warmGo s = raise (wr (coldGo (resetNotice s) 1) RST_CAUSE_ESC_COLD 0 1) 0x687 := if_pos h

/-- R461: RST_CMD.WARM, taken with its key, asserts the WARM and shows REG_WARM. -/
theorem exec_rstCmdWarm_of_key {m : Master} (h : taken s m RST_CMD_WARM.off) :
    exec (.rstCmdWarm m 0xA5) s = .next (wr (warmGo (acked s m)) RST_CAUSE_REG_WARM 0 1) := by
  simp [execRstCmdWarm, asMaster_taken h, regWarm]

/-- R473, R474: the management bus takes a transfer with a good PEC once no COLD holds it, and keeps its command's code. -/
theorem mgmtTake_of_pec (h : s.rst.coldWait = false) (code : Nat) (f : State → State) :
    mgmtTake s code true f = f { s with rst := { s.rst with lastCmd := code } } := by
  simp [mgmtTake, h]

/-- R474, R475: the command WARM, taken with its key, asserts the WARM and shows CMD_WARM. -/
theorem exec_mgmtWarm_of_key (h : s.rst.coldWait = false) :
    exec (.mgmtWarm 0x5AA5 true) s
      = .next (wr (warmGo { s with rst := { s.rst with lastCmd := 0x10 }, mgmtStatus := 0 }) RST_CAUSE_CMD_WARM 0 1) := by
  simp [execMgmtWarm, mgmtTake_of_pec h]

end

/-- Settles O17: either command asserts its WARM, which the three modes turn into a COLD, and then shows its own cause. (The model's
`warmAsCold` has the obligation's name.) -/
theorem warmAsCold_performed : Obligations.WarmAsCold := by
  unfold Obligations.WarmAsCold
  constructor
  case left =>
    rintro s u m htaken rfl hmode
    rw [exec_rstCmdWarm_of_key htaken, warmGo_of_warmAsCold (warmAsCold_of_mode hmode)]
  case right =>
    rintro s u hcold rfl hmode
    rw [exec_mgmtWarm_of_key hcold, warmGo_of_warmAsCold (warmAsCold_of_mode hmode)]

end Sys2Proof.Machine
end

section
/-!
SUPPORT. The level of TEST_EN (R511): what the pin does outside FACTORY and in it, and the statement about it.
-/
namespace Sys2Proof.Machine

section
variable {s : State}

/-- R511: outside FACTORY a high TEST_EN is kept as the pin's level and raises its source. -/
theorem exec_testEnHighOutsideFactory_of_ne (h : mode s ≠ mFACTORY) :
    exec .testEnHighOutsideFactory s = .next (raise (rstUpd s fun r => { r with testEn := true }) 0x798) := by
  rw [exec_testEnHighOutsideFactory, execTestEnHighOutsideFactory, bne_iff_ne.mpr h, raiseIf_true]

/-- R511: in FACTORY a high TEST_EN is kept as the pin's level and raises nothing. -/
theorem exec_testEnHighOutsideFactory_of_eq (h : mode s = mFACTORY) :
    exec .testEnHighOutsideFactory s = .next (rstUpd s fun r => { r with testEn := true }) := by
  rw [exec_testEnHighOutsideFactory, execTestEnHighOutsideFactory, bne_eq_false_iff_eq.mpr h, raiseIf_false]

end

/-- Settles O16: the mode decides whether the source is raised; either way only the pin's level is kept beside it. -/
theorem testEnHigh : Obligations.TestEnHigh := by
  unfold Obligations.TestEnHigh
  exact fun _ => ⟨exec_testEnHighOutsideFactory_of_ne, exec_testEnHighOutsideFactory_of_eq⟩

end Sys2Proof.Machine
end

section
/-!
SUPPORT. What a mode turns away (R522): the manager-access column of Table 2-1 mode by mode, every register command as one write of its
master, a write with no other beside it, how an access ends that the mode turns away, and the statement about these.
-/
namespace Sys2Proof.Machine

section
variable {s : State} {m : Master}

/-! ### The column of Table 2-1 -/

/-- HOLD (R474): the management bus reads GLB_ID, GLB_MODE, GLB_STRAP and RST_CAUSE. -/
theorem modeAllows_of_hold (h : mode s = mHOLD) (off : Nat) (w : Bool) : modeAllows s m off w = true ↔
    m = .mgmt ∧ w = false ∧ (off / 4 * 4 = 0 ∨ off / 4 * 4 = 0xC ∨ off / 4 * 4 = 0x10 ∨ off / 4 * 4 = 0xD00000) := by
  simp [modeAllows, h, RST_CAUSE_POR, and_assoc]

/-- TEST: the management bus reaches GLB and TST. -/
theorem modeAllows_of_test (h : mode s = mTEST) (off : Nat) (w : Bool) : modeAllows s m off w = true ↔
    m = .mgmt ∧ (blockOf off = 0 ∨ blockOf off = 15) := by
  simp [modeAllows, h, mTEST, mHOLD]

/-- SAFE: the management bus reads everything and writes FLT, RST, PWD and GLB_BKP0 to GLB_BKP7. -/
theorem modeAllows_of_safe (h : mode s = mSAFE) (off : Nat) (w : Bool) : modeAllows s m off w = true ↔
    m = .mgmt ∧ (w = false ∨ blockOf off = 12 ∨ blockOf off = 13 ∨ blockOf off = 14 ∨ (0x100 ≤ off ∧ off < 0x120)) := by
  simp [modeAllows, h, mSAFE, mTEST, mHOLD, or_assoc]

/-- FACTORY: the management bus and the Awl reach everything. -/
theorem modeAllows_of_factory (h : mode s = mFACTORY) (off : Nat) (w : Bool) :
    modeAllows s m off w = true ↔ m = .mgmt ∨ m = .awl := by
  simp [modeAllows, h, mFACTORY, mSAFE, mTEST, mHOLD]

/-- STANDBY: the management bus reaches everything. -/
theorem modeAllows_of_standby (h : mode s = mSTANDBY) (off : Nat) (w : Bool) : modeAllows s m off w = true ↔ m = .mgmt := by
  simp [modeAllows, h, mSTANDBY, mFACTORY, mSAFE, mTEST, mHOLD]

/-- In the other modes every master reaches everything. -/
theorem modeAllows_of_open (hhold : mode s ≠ mHOLD) (htest : mode s ≠ mTEST) (hsafe : mode s ≠ mSAFE) (hfactory : mode s ≠ mFACTORY)
    (hstandby : mode s ≠ mSTANDBY) (off : Nat) (w : Bool) : modeAllows s m off w = true := by
  simp [modeAllows, hhold, htest, hsafe, hfactory, hstandby]

/-! ### Writes -/

/-- A register command is one write of its master at its offset. -/
theorem exec_of_regCommand {c : Instr} {off : Nat} (h : regCommand c = some (m, off)) :
    ∃ u : State → State, ∀ s, exec c s = .next (asMaster s m off u) := by
  cases c <;> cases h <;> exact ⟨_, fun _ => rfl⟩

/-- R525: where one write is alone, the only master at a word is its own. -/
theorem mastersAt_singleton (s : State) (w : RegWr) (x : Nat) :
    mastersAt s [w] x = if x ∈ collideWords s w then 2 ^ busNum w.m else 0 := by
  by_cases hx : x ∈ collideWords s w <;> cases hm : w.m <;> simp [mastersAt, hx, hm, asBit, busNum]

/-- R525: one write alone meets no other. -/
theorem collisions_singleton (s : State) (w : RegWr) : collisions s [w] = [] := by
  rw [collisions, List.filter_eq_nil_iff]
  intro x _
  rw [mastersAt_singleton]
  split
  case isTrue => cases w.m <;> decide
  case isFalse => decide

/-- R525: one write alone takes effect with all its words. -/
theorem writesApply_singleton (s : State) (w : RegWr) : writesApply s [w] = masterWrite s w fun _ => false := by
  cases hm : w.m <;> simp [writesApply, collisions_singleton, forEach, hm]

/-- R522: a write that the mode turns away ends with code 3 at its master. -/
theorem exec_registerWrite_of_denied {w : RegWr} (h : modeAllows s w.m w.off.toNat true = false) :
    exec (.registerWrite [w]) s = .next (accDenied s w.m 3) := by
  rw [exec_registerWrite, execRegisterWrite, writesApply_singleton, masterWrite, asMaster_denied h]

/-! ### Reads -/

/-- R522: a read that the mode turns away changes nothing, reads zeros and ends with code 3. -/
theorem masterRead_of_denied {off : Nat} (h : modeAllows s m off false = false) (len : Nat) (en : Nat → Bool) :
    masterRead s m off len en = (s, List.replicate len 0, 3) := by
  simp [masterRead, accCode, h]

/-- R522: a read that the mode turns away answers zeros and ends with code 3 at its master. -/
theorem exec_registerRead_of_denied {off : BitVec 28} (h : modeAllows s m off.toNat false = false) (len : Nat) :
    exec (.registerRead m off len) s = .next (accEnd s m (List.replicate len 0) 3) := by
  rw [exec_registerRead, execRegisterRead, regReadAt, masterRead_of_denied h]

end

/-- Settles O6: a register command and a write alone are one write each, which `asMaster` turns away before its effect, as `masterRead`
turns a read away; the table follows mode by mode. -/
theorem modeAllowsAccess : Obligations.ModeAllowsAccess := by
  unfold Obligations.ModeAllowsAccess
  refine ⟨?command, ?write, ?read, ?table⟩
  case command =>
    intro c s m off hc hdenied
    obtain ⟨u, hu⟩ := exec_of_regCommand hc
    rw [hu, asMaster_denied hdenied]
    cases m <;> rfl
  case write =>
    intro s w hdenied
    rw [exec_registerWrite_of_denied hdenied]
    cases w.m <;> rfl
  case read =>
    intro s m off len hdenied
    rw [exec_registerRead_of_denied hdenied]
    cases m <;> rfl
  case table =>
    intro s m off w
    exact ⟨fun h => modeAllows_of_test h off w, fun h => modeAllows_of_safe h off w, fun h => modeAllows_of_factory h off w,
      fun h => modeAllows_of_standby h off w, fun h => modeAllows_of_hold h off w,
      fun hhold htest hsafe hfactory hstandby => modeAllows_of_open hhold htest hsafe hfactory hstandby off w⟩

end Sys2Proof.Machine
end

section
/-!
SUPPORT. What a step is and what it keeps: every command and the idle step keep the state sound and the queue as it is, and the statements
about steps, soundness and the queue.
-/
namespace Sys2Proof.Machine

/-! ### Commands -/

/-- Every command answers a next state, sound and with the queue as it was. -/
theorem exec_keep {L : List Instr} {s : State} (c : Instr) (h : Keep L s) : KeepRes L (exec c s) :=
  match c with
  | .modeRequestGo m target => execModeRequestGo_keep m target s h
  | .modeTransitionDone => execModeTransitionDone_keep s h
  | .modeTransitionTimeout => execModeTransitionTimeout_keep s h
  | .feedWarning => execFeedWarning_keep s h
  | .feedRecovered => execFeedRecovered_keep s h
  | .testEnLowInFactory => execTestEnLowInFactory_keep s h
  | .testEnHighOutsideFactory => execTestEnHighOutsideFactory_keep s h
  | .encoderCount n a b => execEncoderCount_keep n a b s h
  | .encoderPairClassChange n pair cls => execEncoderPairClassChange_keep n pair cls s h
  | .encLockChange n held => execEncLockChange_keep n held s h
  | .zEdge n => execZEdge_keep n s h
  | .encPosWrite m n v => execEncPosWrite_keep m n v s h
  | .laceTinEdge => execLaceTinEdge_keep s h
  | .timerSourceExpiry => execTimerSourceExpiry_keep s h
  | .tickStart => execTickStart_keep s h
  | .tickLate => execTickLate_keep s h
  | .timeOffsetWrite m v => execTimeOffsetWrite_keep m v s h
  | .tickPresetWrite m v => execTickPresetWrite_keep m v s h
  | .tickSourceWrite m v => execTickSourceWrite_keep m v s h
  | .tickRecordReceive p r => execTickRecordReceive_keep p r s h
  | .alignmentLost cause => execAlignmentLost_keep cause s h
  | .triggerFire m => execTriggerFire_keep m s h
  | .triggerFireWrite by0 m => execTriggerFireWrite_keep by0 m s h
  | .triggerPulseEnd m => execTriggerPulseEnd_keep m s h
  | .packetIngress p pk => execPacketIngress_keep p pk s h
  | .policerRelease p k => execPolicerRelease_keep p k s h
  | .spillWriteDone j o c => execSpillWriteDone_keep j o c s h
  | .readbackComplete j o c r => execReadbackComplete_keep j o c r s h
  | .packetMatch => execPacketMatch_keep s h
  | .egressTransmit p crP crNP crC => execEgressTransmit_keep p crP crNP crC s h
  | .ctCheckFail o => execCtCheckFail_keep o s h
  | .ctUnderrun o => execCtUnderrun_keep o s h
  | .ctHoldMaxExpiry o => execCtHoldMaxExpiry_keep o s h
  | .dataEndBadReceive p pk o => execDataEndBadReceive_keep p pk o s h
  | .returnWindowExpiry p => execReturnWindowExpiry_keep p s h
  | .inputHeldTimeout a => execInputHeldTimeout_keep a s h
  | .voqSelectWrite m v => execVoqSelectWrite_keep m v s h
  | .gateBoundary p => execGateBoundary_keep p s h
  | .gateCommitGo m => execGateCommitGo_keep m s h
  | .gateCommitDone => execGateCommitDone_keep s h
  | .gateCommitCancel m => execGateCommitCancel_keep m s h
  | .tickMinWrite m v => execTickMinWrite_keep m v s h
  | .shaperRateWrite m pol p c v => execShaperRateWrite_keep m pol p c v s h
  | .shaperBurstWrite m pol p c v => execShaperBurstWrite_keep m pol p c v s h
  | .windowEnable m w => execWindowEnable_keep m w s h
  | .windowDisable m w => execWindowDisable_keep m w s h
  | .memberApply m => execMemberApply_keep m s h
  | .memberLoad m => execMemberLoad_keep m s h
  | .puDecisionDone u => execPuDecisionDone_keep u s h
  | .missHoldExpiry u => execMissHoldExpiry_keep u s h
  | .sealWrite p w off data => execSealWrite_keep p w off data s h
  | .graceExpiry u => execGraceExpiry_keep u s h
  | .flushReadIssue u => execFlushReadIssue_keep u s h
  | .flushComplete u st => execFlushComplete_keep u st s h
  | .recordPost g => execRecordPost_keep g s h
  | .remotePathTimeout pool mb => execRemotePathTimeout_keep pool mb s h
  | .bufferRingReadDone pool mb st entries => execBufferRingReadDone_keep pool mb st entries s h
  | .doorbell pt sl off data => execDoorbell_keep pt sl off data s h
  | .fetchComplete q st descs => execFetchComplete_keep q st descs s h
  | .jobStart q => execJobStart_keep q s h
  | .nop q => execNop_keep q s h
  | .copy q => execCopy_keep q s h
  | .placeCopy q => execPlaceCopy_keep q s h
  | .fill q => execFill_keep q s h
  | .seal q => execSeal_keep q s h
  | .waitTick q => execWaitTick_keep q s h
  | .waitTickTimeout q => execWaitTickTimeout_keep q s h
  | .fence q => execFence_keep q s h
  | .recordOnly q => execRecordOnly_keep q s h
  | .resize q => execResize_keep q s h
  | .resizeTimeout q => execResizeTimeout_keep q s h
  | .dmaReadCompletion pt tag st data => execDmaReadCompletion_keep pt tag st data s h
  | .completionTimeout pt tag => execCompletionTimeout_keep pt tag s h
  | .tagQuarantineExpiry pt tag => execTagQuarantineExpiry_keep pt tag s h
  | .completionEntryWrite q => execCompletionEntryWrite_keep q s h
  | .msixModTimer q => execMsixModTimer_keep q s h
  | .msixUnmask f vec fnMask => execMsixUnmask_keep f vec fnMask s h
  | .qpEnable q => execQpEnable_keep q s h
  | .qpDisable q => execQpDisable_keep q s h
  | .qpResume q => execQpResume_keep q s h
  | .qpStopped q => execQpStopped_keep q s h
  | .portEnable m p => execPortEnable_keep m p s h
  | .portDisable m p => execPortDisable_keep m p s h
  | .portRetrain m p => execPortRetrain_keep m p s h
  | .portStopped p => execPortStopped_keep p s h
  | .detectDone p found shorted => execDetectDone_keep p found shorted s h
  | .detectRetry p => execDetectRetry_keep p s h
  | .linkUp p width flit reversed rx => execLinkUp_keep p width flit reversed rx s h
  | .stepUpStart p partnerMax => execStepUpStart_keep p partnerMax s h
  | .stepDone p rate width => execStepDone_keep p rate width s h
  | .portLinkDown p receivers => execPortLinkDown_keep p receivers s h
  | .refclkLost q tl => execRefclkLost_keep q tl s h
  | .refclkGood q tl => execRefclkGood_keep q tl s h
  | .strapRead ohms => execStrapRead_keep ohms s h
  | .configRequest p type1 bus dev fn reg w rid tag => execConfigRequest_keep p type1 bus dev fn reg w rid tag s h
  | .dpcTrigger p => execDpcTrigger_keep p s h
  | .dpcStatusClear p => execDpcStatusClear_keep p s h
  | .slotPowerControlWrite host n on => execSlotPowerControlWrite_keep host n on s h
  | .slotPgRise n => execSlotPgRise_keep n s h
  | .slotPgFall n => execSlotPgFall_keep n s h
  | .secondaryBusReset b on => execSecondaryBusReset_keep b on s h
  | .hotResetReceived p => execHotResetReceived_keep p s h
  | .perstAssert pt => execPerstAssert_keep pt s h
  | .perstRelease pt w => execPerstRelease_keep pt w s h
  | .partResetRelease pt => execPartResetRelease_keep pt s h
  | .ptmRequestTimer p => execPtmRequestTimer_keep p s h
  | .ptmExchange p host => execPtmExchange_keep p host s h
  | .vdmReceive p type0 m route => execVdmReceive_keep p type0 m route s h
  | .ideKeyProg o tx km => execIdeKeyProg_keep o tx km s h
  | .flr pt => execFlr_keep pt s h
  | .dataStitchReceive p levels after overflow => execDataStitchReceive_keep p levels after overflow s h
  | .fillerReceive p aboveHalf overflow => execFillerReceive_keep p aboveHalf overflow s h
  | .fillerDue p => execFillerDue_keep p s h
  | .trainingStitchReceive p l levels eq => execTrainingStitchReceive_keep p l levels eq s h
  | .trainingLockTimeout p => execTrainingLockTimeout_keep p s h
  | .trainingConfigTimeout p => execTrainingConfigTimeout_keep p s h
  | .rateReqReceive p code => execRateReqReceive_keep p code s h
  | .rateAckReceive p code => execRateAckReceive_keep p code s h
  | .ratePauseEnd p => execRatePauseEnd_keep p s h
  | .eqTimeout p => execEqTimeout_keep p s h
  | .soakPass p => execSoakPass_keep p s h
  | .laneLockLoss p l => execLaneLockLoss_keep p l s h
  | .laneLockRegain p l => execLaneLockRegain_keep p l s h
  | .ackTimer p => execAckTimer_keep p s h
  | .ackReceive p seq => execAckReceive_keep p seq s h
  | .nakReceive p seq reason => execNakReceive_keep p seq reason s h
  | .nakTimerExpiry p => execNakTimerExpiry_keep p s h
  | .replayTimerExpiry p => execReplayTimerExpiry_keep p s h
  | .creditTimer p => execCreditTimer_keep p s h
  | .creditReceive p counts => execCreditReceive_keep p counts s h
  | .auditTimer p => execAuditTimer_keep p s h
  | .auditReceive p cum mate paired => execAuditReceive_keep p cum mate paired s h
  | .creditRetrainStart p => execCreditRetrainStart_keep p s h
  | .delayMeasureTimer p => execDelayMeasureTimer_keep p s h
  | .delayReqReceive p id t1 => execDelayReqReceive_keep p id t1 s h
  | .delayRespReceive p id t2 t3 => execDelayRespReceive_keep p id t2 t3 s h
  | .delayRespTimeout p => execDelayRespTimeout_keep p s h
  | .controlRequestRepeat p => execControlRequestRepeat_keep p s h
  | .retrainReqReceive p full => execRetrainReqReceive_keep p full s h
  | .retrainAckReceive p full => execRetrainAckReceive_keep p full s h
  | .spareReqReceive p l => execSpareReqReceive_keep p l s h
  | .spareAckReceive p l => execSpareAckReceive_keep p l s h
  | .spareGoReceive p l => execSpareGoReceive_keep p l s h
  | .widthReqReceive p l w => execWidthReqReceive_keep p l w s h
  | .widthAckReceive p l w => execWidthAckReceive_keep p l w s h
  | .widthGoReceive p l w => execWidthGoReceive_keep p l w s h
  | .corrWindowExpiry p => execCorrWindowExpiry_keep p s h
  | .tLlExpiry p => execTLlExpiry_keep p s h
  | .deadTimeout p => execDeadTimeout_keep p s h
  | .resumeReceive p noReplay seen kept nextExp free => execResumeReceive_keep p noReplay seen kept nextExp free s h
  | .resumeRepeatTimer p => execResumeRepeatTimer_keep p s h
  | .resumeTimeout p => execResumeTimeout_keep p s h
  | .pairEnable m k => execPairEnable_keep m k s h
  | .pairDisable m k => execPairDisable_keep m k s h
  | .pairFlowReturn k c => execPairFlowReturn_keep k c s h
  | .proxyCompletion p pk => execProxyCompletion_keep p pk s h
  | .returnEntryStale p tag => execReturnEntryStale_keep p tag s h
  | .noticeReceive p n ttl => execNoticeReceive_keep p n ttl s h
  | .fabDevWrite m d v => execFabDevWrite_keep m d v s h
  | .apertureEnable m n j => execApertureEnable_keep m n j s h
  | .partitionEnable m n => execPartitionEnable_keep m n s h
  | .partitionDisable m n => execPartitionDisable_keep m n s h
  | .remapValidWrite m j v => execRemapValidWrite_keep m j v s h
  | .sliceCreate m => execSliceCreate_keep m s h
  | .sliceDelete m => execSliceDelete_keep m s h
  | .sliceRecreate m => execSliceRecreate_keep m s h
  | .sliceReset m => execSliceReset_keep m s h
  | .sliceLoad m => execSliceLoad_keep m s h
  | .xwCommit m win all => execXwCommit_keep m win all s h
  | .xwDrained => execXwDrained_keep s h
  | .vfFlrTimeout j => execVfFlrTimeout_keep j s h
  | .awtEntryCommit m j w0 => execAwtEntryCommit_keep m j w0 s h
  | .awtOverlapCheckDone => execAwtOverlapCheckDone_keep s h
  | .awtFence m => execAwtFence_keep m s h
  | .awtFenceDone => execAwtFenceDone_keep s h
  | .awtFenceTimeout => execAwtFenceTimeout_keep s h
  | .awtBankSwap m n => execAwtBankSwap_keep m n s h
  | .awtBankDrained n => execAwtBankDrained_keep n s h
  | .awlAccess m => execAwlAccess_keep m s h
  | .awlReadComplete st data => execAwlReadComplete_keep st data s h
  | .awlReadTimeout => execAwlReadTimeout_keep s h
  | .stagingWrite m off data => execStagingWrite_keep m off data s h
  | .imageVerify m => execImageVerify_keep m s h
  | .imageVerifyDone => execImageVerifyDone_keep s h
  | .imageInstall m mask => execImageInstall_keep m mask s h
  | .imageInstallDone => execImageInstallDone_keep s h
  | .clusterSwap m k => execClusterSwap_keep m k s h
  | .clusterDrainEnd k timedOut => execClusterDrainEnd_keep k timedOut s h
  | .clusterLoadDone k => execClusterLoadDone_keep k s h
  | .clusterRestore m k => execClusterRestore_keep m k s h
  | .clusterReclaim m k => execClusterReclaim_keep m k s h
  | .workHandoffDone k => execWorkHandoffDone_keep k s h
  | .engineWatchdog e => execEngineWatchdog_keep e s h
  | .engineRestore m e pass => execEngineRestore_keep m e pass s h
  | .mailboxRequest m k => execMailboxRequest_keep m k s h
  | .mailboxResponse k words => execMailboxResponse_keep k words s h
  | .mailboxAckClear m k => execMailboxAckClear_keep m k s h
  | .ofmRestore m mask => execOfmRestore_keep m mask s h
  | .ofmRestoreDone q => execOfmRestoreDone_keep q s h
  | .ofmQuotaWrite m n c v => execOfmQuotaWrite_keep m n c v s h
  | .durTcWrite m v => execDurTcWrite_keep m v s h
  | .heelEnable m => execHeelEnable_keep m s h
  | .heelMeasure m => execHeelMeasure_keep m s h
  | .heelTestTimer v0 charging => execHeelTestTimer_keep v0 charging s h
  | .heelV1Sample v1 => execHeelV1Sample_keep v1 s h
  | .heelTestDone v2 => execHeelTestDone_keep v2 s h
  | .heelParamWrite m which v => execHeelParamWrite_keep m which v s h
  | .heelResultExpiry => execHeelResultExpiry_keep s h
  | .faultAssert src inst pt => execFaultAssert_keep src inst pt s h
  | .faultDeassert src => execFaultDeassert_keep src s h
  | .railBroken j => execRailBroken_keep j s h
  | .railRestored j level => execRailRestored_keep j level s h
  | .blockResetRelease b => execBlockResetRelease_keep b s h
  | .shadowEnd b => execShadowEnd_keep b s h
  | .escalationWindowEnd b => execEscalationWindowEnd_keep b s h
  | .faultStickyClear m src => execFaultStickyClear_keep m src s h
  | .faultClearAll m => execFaultClearAll_keep m s h
  | .faultRestore m src => execFaultRestore_keep m src s h
  | .collectorSelfCheck pass => execCollectorSelfCheck_keep pass s h
  | .pairReadbackMismatch => execPairReadbackMismatch_keep s h
  | .faultInject m => execFaultInject_keep m s h
  | .faultInjectEnd => execFaultInjectEnd_keep s h
  | .scrubPass => execScrubPass_keep s h
  | .porAssert => execPorAssert_keep s h
  | .porRelease => execPorRelease_keep s h
  | .rstNAssert => execRstNAssert_keep s h
  | .rstNRelease w => execRstNRelease_keep w s h
  | .rstCmdWarm m key => execRstCmdWarm_keep m key s h
  | .rstCmdPart m key pt => execRstCmdPart_keep m key pt s h
  | .rstCmdPort m key p => execRstCmdPort_keep m key p s h
  | .resetPulseEnd r => execResetPulseEnd_keep r s h
  | .trimAttemptDone ok word => execTrimAttemptDone_keep ok word s h
  | .startupDone => execStartupDone_keep s h
  | .mgmtRead addr n pec => execMgmtRead_keep addr n pec s h
  | .mgmtWrite addr data pec => execMgmtWrite_keep addr data pec s h
  | .mgmtLast pec => execMgmtLast_keep pec s h
  | .mgmtMctp req pec => execMgmtMctp_keep req pec s h
  | .mgmtWarm key pec => execMgmtWarm_keep key pec s h
  | .mgmtCold key pec => execMgmtCold_keep key pec s h
  | .sysRefclkLost => execSysRefclkLost_keep s h
  | .pllLockLoss which => execPllLockLoss_keep which s h
  | .crossingTimeout => execCrossingTimeout_keep s h
  | .feedLow f => execFeedLow_keep f s h
  | .feedNotLow f => execFeedNotLow_keep f s h
  | .feedReverseCurrent f => execFeedReverseCurrent_keep f s h
  | .feedReversed f => execFeedReversed_keep f s h
  | .feedReversedClear f => execFeedReversedClear_keep f s h
  | .feedOvervoltage f => execFeedOvervoltage_keep f s h
  | .busUndervoltage => execBusUndervoltage_keep s h
  | .busUvRecovered => execBusUvRecovered_keep s h
  | .pwrfailReadback => execPwrfailReadback_keep s h
  | .slotRampComplete n => execSlotRampComplete_keep n s h
  | .slotQualified n => execSlotQualified_keep n s h
  | .slotTimerTrip n => execSlotTimerTrip_keep n s h
  | .slotFastTrip n => execSlotFastTrip_keep n s h
  | .slotCoolEnd n => execSlotCoolEnd_keep n s h
  | .slotFetFault n kind => execSlotFetFault_keep n kind s h
  | .slotClrFet m n => execSlotClrFet_keep m n s h
  | .bistTestDone t f => execBistTestDone_keep t f s h
  | .bistTimeout t => execBistTimeout_keep t s h
  | .bistConditionsFail t => execBistConditionsFail_keep t s h
  | .secretsClear m key clrRetained => execSecretsClear_keep m key clrRetained s h
  | .secretsVerify m key => execSecretsVerify_keep m key s h
  | .secretsVerifyDone => execSecretsVerifyDone_keep s h
  | .certCommit m => execCertCommit_keep m s h
  | .spdmRequest via r => execSpdmRequest_keep via r s h
  | .jtagInstruction j => execJtagInstruction_keep j s h
  | .tempWarn j => execTempWarn_keep j s h
  | .tempCrit j => execTempCrit_keep j s h
  | .tempSensorFail j => execTempSensorFail_keep j s h
  | .supplyOutOfRange j => execSupplyOutOfRange_keep j s h
  | .registerWrite ws => execRegisterWrite_keep ws s h
  | .registerTimeout m off => execRegisterTimeout_keep m off s h
  | .timerSourceLock => execTimerSourceLock_keep s h
  | .sysRefclkGood => execSysRefclkGood_keep s h
  | .hotResetEnd p => execHotResetEnd_keep p s h
  | .pcieTrainingFail r => execPcieTrainingFail_keep r s h
  | .vfConfigHoldEnd j => execVfConfigHoldEnd_keep j s h
  | .powerDieStart => execPowerDieStart_keep s h
  | .powerDieStop => execPowerDieStop_keep s h
  | .feedOvClear f => execFeedOvClear_keep f s h
  | .registerRead m off len => execRegisterRead_keep m off len s h

/-! ### The idle step -/

/-- The idle step keeps the state sound and the queue as it is. -/
theorem idle_keep {L : List Instr} {s : State} (h : Keep L s) : Keep L (idle s) :=
  l1Rest_keep _ (slewStep_keep _ (h.upd rfl rfl rfl rfl rfl rfl))

/-- R67: slewing moves time from what is left of the correction to what has taken effect, and changes nothing else. -/
theorem slewStep_eq (s : State) : ∃ a d : Int, slewStep s = lceUpd s (fun x => { x with adj := a, slew := d })
    ∧ a + d = s.lce.adj + s.lce.slew := by
  unfold slewStep
  split
  case isTrue => exact ⟨s.lce.adj, s.lce.slew, rfl, rfl⟩
  case isFalse =>
    split
    case isTrue => exact ⟨s.lce.adj + 1, s.lce.slew - 1, rfl, by omega⟩
    case isFalse =>
      split
      case isTrue => exact ⟨s.lce.adj - 1, s.lce.slew + 1, rfl, by omega⟩
      case isFalse => exact ⟨s.lce.adj, s.lce.slew, rfl, rfl⟩

/-- R255: the ports that rest after an idle step are ports below 64 that may rest. -/
theorem mem_l1_l1Rest {s : State} {p : Nat} : p ∈ (l1Rest s).prt.l1 ↔ p < 64 ∧ l1May s p = true := by
  simp [l1Rest, List.mem_filter]

/-! ### The statements -/

/-- Settles O3: a step is a command or the idle step, and `exec_keep` and `idle_keep` say that both keep the state sound. -/
theorem stepKeepsSound : Obligations.StepKeepsSound := by
  unfold Obligations.StepKeepsSound
  intro s t hwf hstep
  have hs : Keep s.pending s := (keep_iff _ _).mpr ⟨hwf, rfl⟩
  cases hq : s.pending with
  | nil =>
    rw [step_nil s hq] at hstep
    cases hstep
    exact ((keep_iff _ _).mp (idle_keep hs)).1
  | cons c rest =>
    rw [step_cons s hq] at hstep
    have hrest : Keep rest { s with pending := rest } := ⟨hs.regs, hs.ret, hs.stg, hs.cert, hs.img, rfl⟩
    obtain ⟨u, hu, hku⟩ := exec_keep c hrest
    cases hu.symm.trans hstep
    exact ((keep_iff _ _).mp hku).1

/-- Settles O5: `exec_keep` with the queue as the state holds it. -/
theorem commandsLeaveQueue : Obligations.CommandsLeaveQueue := by
  unfold Obligations.CommandsLeaveQueue
  intro c s hwf
  obtain ⟨t, ht, hkt⟩ := exec_keep c ((keep_iff _ _).mpr ⟨hwf, rfl⟩)
  exact ⟨t, ht, hkt.pend⟩

/-- Settles O1: it is the equation of a step with a command in front of the queue. -/
theorem stepTakesFront : Obligations.StepTakesFront := by
  unfold Obligations.StepTakesFront
  exact fun c rest s h => step_cons s h

/-- Settles O2: the idle step counts 1 ns, slews (`slewStep_eq`), and then rests the ports that may (`mem_l1_l1Rest`). -/
theorem stepIdles : Obligations.StepIdles := by
  unfold Obligations.StepIdles
  intro s hq
  obtain ⟨a, d, hslew, hsum⟩ := slewStep_eq { s with now := s.now + 1 }
  refine ⟨idle s, step_nil s hq, ?_⟩
  unfold idle
  rw [hslew]
  refine ⟨rfl, rfl, fun p hp => ?_, rfl, hsum⟩
  obtain ⟨hlt, hmay⟩ := mem_l1_l1Rest.mp hp
  simp only [l1May, Bool.and_eq_true, Bool.not_eq_true', List.isEmpty_iff] at hmay
  obtain ⟨⟨⟨⟨⟨⟨htl, hdir⟩, hup⟩, hallow⟩, -⟩, hstaged⟩, hwait⟩ := hmay
  exact ⟨hlt, htl, hdir, hup, hallow, hstaged, hwait⟩

/-- Settles O4: the stores after power-on reset are empty. -/
theorem resetIsSound : Obligations.ResetIsSound := by
  unfold Obligations.ResetIsSound
  rfl

end Sys2Proof.Machine
end

section
/-!
SUPPORT. Accesses to registers (R17 to R20, R439, R519 to R525): what a turned-away command does, one aligned word written or read, the
effect of a field's access type, collisions of two masters, and the statements about these.
-/
namespace Sys2Proof.Machine

/-- The write of the four bytes given at one word by one master. -/
def word4 (m : Master) (off : BitVec 28) (a b c d : Byte) : RegWr :=
  { m := m, off := off, data := [(a, true), (b, true), (c, true), (d, true)] }

section
variable {s : State} {m : Master} {off : BitVec 28} {a b c d : Byte}

/-! ### Commands and time-outs -/

/-- R439: a register command to a block in BLOCK reset is counted and ends with code 1. -/
theorem exec_regCommand_of_blockReset {k : Instr} {x : Nat} (hk : regCommand k = some (m, x)) (hmode : modeAllows s m x true = true)
    (hblk : inBlockReset s (blockOf x) = true) : exec k s = .next (accDenied (inc s FLT_BLK_DISC) m 1) := by
  obtain ⟨u, hu⟩ := exec_of_regCommand hk
  rw [hu, asMaster_reset hmode hblk]

/-! ### One word written -/

/-- An aligned 4-byte write touches the one word at its offset. -/
theorem wordsOf_word4 (hal : off.toNat % 4 = 0) : wordsOf (word4 m off a b c d) = [off.toNat] := by
  have hlen : (off.toNat + 4 + 3) / 4 - off.toNat / 4 = 1 := by omega
  have hoff : off.toNat / 4 * 4 = off.toNat := by omega
  have hl : (List.range ((off.toNat + 4 + 3) / 4 - off.toNat / 4)).map (fun k => off.toNat / 4 * 4 + 4 * k) = [off.toNat] := by
    simp [hlen, hoff, List.range_succ]
  show (if 0x610000 ≤ off.toNat && off.toNat < 0x650000 then _ else _) = _
  simp only [word4, List.length_cons, List.length_nil, Nat.zero_add, Nat.reduceAdd] at hl ⊢
  rw [hl]
  by_cases hw : off.toNat / 8 % 4 = 0 <;> simp [hw]

/-- An aligned 4-byte write fills its word. -/
theorem wordFull_word4 : wordFull (word4 m off a b c d) off.toNat = true := by
  simp [wordFull, word4, List.range_succ]

/-- The value that an aligned 4-byte write brings. -/
theorem wordVal_word4 : wordVal (word4 m off a b c d) off.toNat = leNat [a, b, c, d] := by
  simp [wordVal, word4]

/-- R520, R521: an aligned 4-byte write outside the byte areas is one word's write, unless a collision took it. -/
theorem regStore_word4 (hal : off.toNat % 4 = 0) (harea : inArea off.toNat = false) (k : Nat) (lost : Nat → Bool) :
    regStore s k (word4 m off a b c d) lost
      = if lost off.toNat then s else wordWrite s m k off.toNat (leNat [a, b, c, d]) := by
  simp only [inArea, Bool.or_eq_false_iff, Bool.and_eq_false_iff, decide_eq_false_iff_not] at harea
  obtain ⟨himg, hret⟩ := harea
  have h1 : ¬ (0x4000000 ≤ off.toNat ∧ off.toNat < 0x8000000) := by omega
  have h2 : ¬ (0x8000 ≤ off.toNat ∧ off.toNat < 0x8800) := by omega
  have h3 : ¬ (0x8800 ≤ off.toNat ∧ off.toNat < 0x9000) := by omega
  have hwide : wideAt (word4 m off a b c d) = none := by simp [wideAt, word4]
  have hoff : (word4 m off a b c d).off = off := rfl
  have hm : (word4 m off a b c d).m = m := rfl
  have hlen : (word4 m off a b c d).data.length = 4 := rfl
  simp [regStore, hoff, hm, hlen, h1, h2, h3, hwide, wordsOf_word4 hal, forEach, wordFull_word4, wordVal_word4]

/-- R439, R520, R522: an aligned 4-byte write that is taken is one word's write. -/
theorem exec_registerWrite_word4 (ht : taken s m off.toNat) (hal : off.toNat % 4 = 0) (harea : inArea off.toNat = false) :
    exec (.registerWrite [word4 m off a b c d]) s
      = .next (wordWrite (acked s m) m (busNum m) off.toNat (leNat [a, b, c, d])) := by
  have hmw : masterWrite s (word4 m off a b c d) (fun _ => false)
      = wordWrite (acked s m) m (busNum m) off.toNat (leNat [a, b, c, d]) := by
    unfold masterWrite
    rw [show (word4 m off a b c d).m = m from rfl, show (word4 m off a b c d).off = off from rfl, asMaster_taken ht,
      regStore_word4 hal harea, if_neg Bool.false_ne_true]
  rw [exec_registerWrite, execRegisterWrite, writesApply_singleton, hmw]

/-- R519: a word that holds no register, outside the certificate window, is unmapped. -/
theorem wordWrite_of_unmapped {x : Nat} (hcert : ¬ (0xF01000 ≤ x ∧ x < 0xF03000)) (hreg : regFind x = none) (k v : Nat) :
    wordWrite s m k x v = unmapped s := by
  simp [wordWrite, hcert, hreg]

/-- R520: a word that is a whole 32-bit register is a write of that register. -/
theorem wordWrite_of_reg32 {x : Nat} {r : Reg} {i : Nat} (hcert : ¬ (0xF01000 ≤ x ∧ x < 0xF03000))
    (hreg : regFind x = some (r, i, false)) (hwide : r.wide = false) (k v : Nat) : wordWrite s m k x v = regWrite s m r i v := by
  simp [wordWrite, hcert, hreg, hwide]

/-- R520: a register whose write is no operation of its own stores its fields and then acts. -/
theorem regWrite_of_fields {r : Reg} {i v : Nat} (hdead : regDead s r i = false) (hwhole : regWhole s m r.off i v = none) :
    regWrite s m r i v = regActs s (r.flds.foldl (fun t f => fldWrite s t f i v) s) r.off i v := by
  simp [regWrite, hdead, hwhole]

/-! ### Field types (Table 0-5) -/

/-- R18: RW and RWL fields take their bits as R524 stores them, unless their lock is set. -/
theorem fldWrite_of_rw {t : State} {f : Fld} (hact : acted f = false) (hacc : f.acc = .rw ∨ f.acc = .rwl) (i v : Nat) :
    fldWrite s t f i v = if fldLocked s f (fldIdx s f i) then t
      else wr t f (fldIdx s f i) (storVal f.stor (v / 2 ^ f.lsb % 2 ^ f.width)) := by
  rcases hacc with h | h <;> simp [fldWrite, hact, h, fldOf]

/-- R18: a W1C field loses the bits that are written as 1. -/
theorem fldWrite_of_w1c {t : State} {f : Fld} (hact : acted f = false) (hacc : f.acc = .w1c) (i v : Nat) :
    fldWrite s t f i v = wr t f (fldIdx s f i) (rd t f (fldIdx s f i)
      - Nat.land (rd t f (fldIdx s f i)) (v / 2 ^ f.lsb % 2 ^ f.width)) := by
  simp [fldWrite, hact, hacc, fldOf]

/-- R18: RO and RC fields keep their value. -/
theorem fldWrite_of_readOnly {t : State} {f : Fld} (hact : acted f = false) (hacc : f.acc = .ro ∨ f.acc = .rc) (i v : Nat) :
    fldWrite s t f i v = t := by
  rcases hacc with h | h <;> simp [fldWrite, hact, h]

/-! ### One word read -/

/-- The byte enables of a 4-byte read at `x`. -/
def en4 (x y : Nat) : Bool := decide (x ≤ y) && decide (y < x + 4)

/-- R520: an aligned 4-byte read that is let through is one word's read. -/
theorem masterRead_word {x : Nat} (hcode : accCode s m x false = 0) (hal : x % 4 = 0) :
    masterRead s m x 4 (en4 x) = ((wordRead s (busNum m) x (en4 x)).1, leBytes 4 (wordRead s (busNum m) x (en4 x)).2, 0) := by
  have hn : (x + 4 + 3) / 4 - x / 4 = 1 := by omega
  have hx : x / 4 * 4 = x := by omega
  simp [masterRead, hcode, hn, hx, wordsRead, leBytes]

/-- R520: an aligned 4-byte read ends at its master with the word and code 0. -/
theorem exec_registerRead_word (hcode : accCode s m off.toNat false = 0) (hal : off.toNat % 4 = 0) :
    exec (.registerRead m off 4) s = .next (accEnd (wordRead s (busNum m) off.toNat (en4 off.toNat)).1 m
      (leBytes 4 (wordRead s (busNum m) off.toNat (en4 off.toNat)).2) 0) := by
  have hr := masterRead_word hcode hal
  unfold en4 at hr
  rw [exec_registerRead, execRegisterRead, regReadAt, hr]
  rfl

/-- Outside the byte areas and the certificate window no byte lies outside a register. -/
theorem areaByte_eq_none {x : Nat} (harea : inArea x = false) (hcert : ¬ (0xF01000 ≤ x ∧ x < 0xF03000)) : areaByte s x = none := by
  simp only [inArea, Bool.or_eq_false_iff, Bool.and_eq_false_iff, decide_eq_false_iff_not] at harea
  obtain ⟨himg, hret⟩ := harea
  have h1 : ¬ (0x4000000 ≤ x ∧ x < 0x8000000) := by omega
  have h2 : ¬ (0x8000 ≤ x ∧ x < 0x9000) := by omega
  simp [areaByte, h1, h2, hcert]

/-- R519: a read of a word that holds no register is counted and raised, and answers 0. -/
theorem wordRead_of_unmapped {x : Nat} (hbyte : areaByte s x = none) (hreg : regFind x = none) (k : Nat) :
    wordRead s k x (en4 x) = (unmapped s, 0) := by
  have hlow : (x % 8 == 4 && en4 x (x - 1)) = false := by
    simp [en4]; omega
  simp [wordRead, hbyte, hreg, hlow]

/-- R520, R526: a read of a 32-bit register answers its value and clears what it read of its RC fields. -/
theorem wordRead_of_reg32 {x : Nat} {r : Reg} {i : Nat} (hbyte : areaByte s x = none) (hreg : regFind x = some (r, i, false))
    (hwide : r.wide = false) (k : Nat) :
    wordRead s k x (en4 x) = (rcClear { s with free := s.free + 32 } r i x false (en4 x), regVal s r i) := by
  simp [wordRead, hbyte, hreg, hwide]

/-! ### The management bus -/

/-- R473: an address at or above 0x1000_0000 is none that the bus can name. -/
theorem mgmtAddrOk_of_high {addr : BitVec 32} (h : 0x10000000 ≤ addr.toNat) : mgmtAddrOk addr = false := by
  simp [mgmtAddrOk]; omega

/-- R475: a count of 1 to 7 words is not the length that ends a READ with BAD_LEN. -/
theorem readLen_ok {n : BitVec 8} (h1 : 1 ≤ n.toNat) (h7 : n.toNat ≤ 7) : (n = 0 || decide (7 < n.toNat)) = false := by
  have hne : ¬ n = 0#8 := by rintro rfl; simp at h1
  simpa [h7] using hne

/-- R475: 1 to 7 words are not a length that ends a WRITE with BAD_LEN. -/
theorem writeLen_ok {data : List (BitVec 32)} (h1 : 1 ≤ data.length) (h7 : data.length ≤ 7) :
    (data.isEmpty || decide (7 < data.length)) = false := by
  cases data with
  | nil => simp at h1
  | cons v l => simpa using h7

end

/-! ### Collisions (R525) -/

section
variable {s : State} {m n : Master} {off : BitVec 28} {a b c d a' b' c' d' : Byte}

/-- A taken write to a register's word may collide there. -/
theorem collideWords_word4 {r : Reg} {i : Nat} {high : Bool} (ht : taken s m off.toNat) (hal : off.toNat % 4 = 0)
    (harea : inArea off.toNat = false) (hreg : regFind off.toNat = some (r, i, high)) :
    collideWords s (word4 m off a b c d) = [off.toNat] := by
  obtain ⟨hmode, hblk⟩ := ht
  have hoff : (word4 m off a b c d).off = off := rfl
  have hm : (word4 m off a b c d).m = m := rfl
  simp [collideWords, hoff, hm, harea, accCode, hmode, hblk, wordsOf_word4 hal, wordFull_word4, hreg]

/-- R525: the pairs of masters of which the first is the earlier in the order. -/
theorem masters_of_lt (hlt : busNum m < busNum n) :
    (m = .inband ∧ n = .mgmt) ∨ (m = .inband ∧ n = .awl) ∨ (m = .mgmt ∧ n = .awl) := by
  revert hlt
  cases m <;> cases n <;> decide

/-- The mask of two masters whose writes meet. -/
theorem mastersAt_pair {w v : RegWr} {x : Nat} (hw : collideWords s w = [x]) (hv : collideWords s v = [x]) (hlt : busNum w.m < busNum v.m) :
    mastersAt s [w, v] x = 2 ^ busNum w.m + 2 ^ busNum v.m := by
  cases hwm : w.m <;> cases hvm : v.m <;> simp [hwm, hvm, busNum] at hlt <;> simp [mastersAt, hw, hv, hwm, hvm, asBit, busNum]

/-- Of two masters that collide the one with the higher number stands. -/
theorem winner_pair (hlt : busNum m < busNum n) : winner (2 ^ busNum m + 2 ^ busNum n) = busNum n := by
  revert hlt
  cases m <;> cases n <;> decide

/-- Writes of two masters to one word meet there and nowhere else. -/
theorem collisions_pair {w v : RegWr} {x : Nat} (hw : collideWords s w = [x]) (hv : collideWords s v = [x]) (hlt : busNum w.m < busNum v.m) :
    collisions s [w, v] = [x] := by
  have hdup : ([w, v].flatMap (collideWords s)).eraseDups = [x] := by simp [hw, hv, List.eraseDups_cons]
  have hmask := mastersAt_pair hw hv hlt
  have hwin := winner_pair hlt
  rw [collisions, hdup]
  rcases masters_of_lt hlt with ⟨hwm, hvm⟩ | ⟨hwm, hvm⟩ | ⟨hwm, hvm⟩ <;> simp_all [busNum]

/-- R525: of two masters' writes to one word the earlier one in the order loses the word, and then the last one takes effect. -/
theorem writesApply_pair {w v : RegWr} {x : Nat} (hw : collideWords s w = [x]) (hv : collideWords s v = [x]) (hlt : busNum w.m < busNum v.m) :
    writesApply s [w, v] = masterWrite (masterWrite (collide s x (2 ^ busNum w.m + 2 ^ busNum v.m)) w (fun y => x == y)) v (fun _ => false) := by
  have h3 : winner 3 = 1 := rfl
  have h5 : winner 5 = 2 := rfl
  have h6 : winner 6 = 2 := rfl
  have hmask := mastersAt_pair hw hv hlt
  have hcol := collisions_pair hw hv hlt
  rcases masters_of_lt hlt with ⟨hwm, hvm⟩ | ⟨hwm, hvm⟩ | ⟨hwm, hvm⟩ <;> simp only [hwm, hvm, busNum] at hmask <;>
    simp [writesApply, hcol, hmask, forEach, hwm, hvm, busNum, h3, h5, h6]

end
end Sys2Proof.Machine
end

section
/-!
SUPPORT. The statements about registers: what they keep, what an access does, and what ends one (R439, R473 to R475, R516, R519 to R525).
-/
namespace Sys2Proof.Machine

/-- Settles O7: a register command is a write that `asMaster` turns away, and a time-out is an access that ends with code 1. -/
theorem blockResetTurnsAway : Obligations.BlockResetTurnsAway := by
  unfold Obligations.BlockResetTurnsAway
  constructor
  case left =>
    intro c s m off hc hmode hblk
    rw [exec_regCommand_of_blockReset hc hmode (by simp [inBlockReset, hblk])]
    cases m <;> rfl
  case right =>
    intro s m off
    rw [exec_registerTimeout, execRegisterTimeout]
    cases m <;> rfl

/-- Settles O8: an unmapped word that is written or read only counts and raises, and the bus does not name an address that high. -/
theorem unmappedAccess : Obligations.UnmappedAccess := by
  unfold Obligations.UnmappedAccess
  refine ⟨?write, ?read, ?bus⟩
  case write =>
    intro s m off a b c d ht hal harea hcert hreg
    have h := exec_registerWrite_word4 (a := a) (b := b) (c := c) (d := d) ht hal harea
    rw [wordWrite_of_unmapped hcert hreg] at h
    exact h
  case read =>
    intro s m off hcode hal harea hcert hreg
    rw [exec_registerRead_word hcode hal, wordRead_of_unmapped (areaByte_eq_none harea hcert) hreg]
    have hzero : leBytes 4 0 = [0, 0, 0, 0] := by decide
    cases m <;> simp [accEnd, hzero, unmapped]
  case bus =>
    intro s addr hcold hhigh
    refine ⟨fun n h1 h7 => ?_, fun data h1 h7 => ?_⟩
    · rw [exec_mgmtRead, execMgmtRead, mgmtTake_of_pec hcold]
      simp only [readLen_ok h1 h7, mgmtAddrOk_of_high hhigh]
      rfl
    · rw [exec_mgmtWrite, execMgmtWrite, mgmtTake_of_pec hcold]
      simp only [writeLen_ok h1 h7, mgmtAddrOk_of_high hhigh]
      rfl

/-- Settles O9: by the laws of the register store and of the byte stores. -/
theorem fieldWrite : Obligations.FieldWrite := by
  unfold Obligations.FieldWrite
  refine ⟨⟨fun s f i v hwf => ?_, fun m a b v hm => ?_⟩, fun s f i n hwf hwidth _ => ?_⟩
  · exact ⟨rd_wr_self _ _ _ (regs_of_wf hwf), fun g j hne => rd_wr_ne _ _ _ _ _ (regs_of_wf hwf) hne, rfl⟩
  · by_cases hb : b = a
    case pos => rw [hb, if_pos rfl, cget_cput_self hm]
    case neg => rw [if_neg hb, cget_cput_ne hm hb]
  · exact ⟨rd_inc_self _ _ _ (regs_of_wf hwf) hwidth, fun g j hne => rd_inc_ne _ _ _ _ _ (regs_of_wf hwf) hne⟩

/-- Settles O10: a word written is the write of its register, field by field by the access type, and a word read is its value. -/
theorem registerAccess : Obligations.RegisterAccess := by
  unfold Obligations.RegisterAccess
  refine ⟨?write, ?fields, ?read⟩
  case write =>
    rintro s u m off a b c d r i v ht rfl hal harea hcert hreg hwide rfl hdead hwhole
    have h := exec_registerWrite_word4 (a := a) (b := b) (c := c) (d := d) ht hal harea
    rw [wordWrite_of_reg32 hcert hreg hwide, regWrite_of_fields hdead hwhole] at h
    exact h
  case fields =>
    intro s t f i v hact
    refine ⟨fun hacc hfree => ?_, fun hacc hlock => ?_, fun hacc => fldWrite_of_w1c hact hacc i v,
      fun hacc => fldWrite_of_readOnly hact hacc i v⟩
    · rw [fldWrite_of_rw hact hacc, hfree, if_neg Bool.false_ne_true]
    · rw [fldWrite_of_rw hact hacc, hlock, if_pos rfl]
  case read =>
    intro s off r i hcode hal hbyte hreg hwide
    rw [exec_registerRead_word hcode hal, wordRead_of_reg32 hbyte hreg hwide]
    rfl

/-- Settles O11: the two writes meet at their word, the collision is recorded, and the last one stands. -/
theorem writesCollide : Obligations.WritesCollide := by
  unfold Obligations.WritesCollide
  rintro s u m n off a b c d a' b' c' d' r i high hlt htm htn hal harea hreg hu hum hun
  have hcollide : collide s off.toNat (2 ^ busNum m + 2 ^ busNum n) = u := by
    rw [hu, collide, winner_pair hlt]
  have hpair := writesApply_pair (s := s) (w := word4 m off a b c d) (v := word4 n off a' b' c' d')
    (collideWords_word4 htm hal harea hreg) (collideWords_word4 htn hal harea hreg) hlt
  have hfirst : masterWrite u (word4 m off a b c d) (fun y => off.toNat == y) = acked u m := by
    have hasm := asMaster_taken hum (fun s => regStore s (busNum m) (word4 m off a b c d) (fun y => off.toNat == y))
    rw [regStore_word4 hal harea, if_pos (beq_self_eq_true _)] at hasm
    exact hasm
  rw [show (word4 m off a b c d).m = m from rfl, show (word4 n off a' b' c' d').m = n from rfl, hcollide, hfirst] at hpair
  show Host.Outcome.next _ = Host.Outcome.next _
  rw [writesApply_singleton]
  exact congrArg _ hpair

/-! ### The management bus and JTAG -/

section
variable {s : State}

/-- R473: before step 2 of Table 18-4 the bus takes nothing. -/
theorem mgmtTake_of_coldWait (h : s.rst.coldWait = true) (code : Nat) (pec : Bool) (f : State → State) : mgmtTake s code pec f = s := by
  simp [mgmtTake, h]

/-- R475: a transfer whose PEC fails only sets STATUS PEC. -/
theorem mgmtTake_of_badPec (h : s.rst.coldWait = false) (code : Nat) (f : State → State) :
    mgmtTake s code false f = { s with mgmtStatus := 4 } := by
  simp [mgmtTake, h]

/-- R473: an aligned address below 0x1000_0000 is one that the bus can name. -/
theorem mgmtAddrOk_of_low {addr : BitVec 32} (hal : addr.toNat % 4 = 0) (h : addr.toNat < 0x10000000) : mgmtAddrOk addr = true := by
  simp [mgmtAddrOk, hal, h]

end

/-- Settles O12: each bus command is what `mgmtTake` lets through, and each JTAG instruction its arm. -/
theorem busAndJtag : Obligations.BusAndJtag := by
  unfold Obligations.BusAndJtag
  refine ⟨fun s addr n data key req => ⟨fun hcold pec => ?wait, fun hcold => ?pec⟩,
    ⟨?read, ?write, ?last, ?badKey, ?key, ?mctp⟩, ⟨fun s => rfl, ?awl, ?awlOff, fun s => ⟨rfl, rfl⟩⟩⟩
  case wait =>
    simp only [exec_mgmtRead, execMgmtRead, exec_mgmtWrite, execMgmtWrite, exec_mgmtLast, execMgmtLast, exec_mgmtMctp, execMgmtMctp,
      exec_mgmtWarm, execMgmtWarm, exec_mgmtCold, execMgmtCold, mgmtTake_of_coldWait hcold, and_self]
  case pec =>
    simp only [exec_mgmtRead, execMgmtRead, exec_mgmtWrite, execMgmtWrite, exec_mgmtLast, execMgmtLast, exec_mgmtMctp, execMgmtMctp,
      exec_mgmtWarm, execMgmtWarm, exec_mgmtCold, execMgmtCold, mgmtTake_of_badPec hcold, and_self]
  case read =>
    intro s addr n hcold h1 h7 hal hlow
    refine ⟨_, _, ?_, rfl, rfl⟩
    rw [exec_mgmtRead, execMgmtRead, mgmtTake_of_pec hcold]
    simp only [readLen_ok h1 h7, mgmtAddrOk_of_low hal hlow]
    rfl
  case write =>
    intro s addr data hcold h1 h7 hal hlow
    rw [exec_mgmtWrite, execMgmtWrite, mgmtTake_of_pec hcold]
    simp only [writeLen_ok h1 h7, mgmtAddrOk_of_low hal hlow]
    rfl
  case last =>
    intro s hcold
    rw [exec_mgmtLast, execMgmtLast, mgmtTake_of_pec hcold]
    rfl
  case badKey =>
    intro s key hcold hkey
    rw [exec_mgmtWarm, execMgmtWarm, exec_mgmtCold, execMgmtCold, mgmtTake_of_pec hcold, mgmtTake_of_pec hcold]
    simp only [bne_iff_ne.mpr hkey, if_true, and_self]
  case key =>
    intro s hcold
    refine ⟨exec_mgmtWarm_of_key hcold, ?_⟩
    rw [exec_mgmtCold, execMgmtCold, mgmtTake_of_pec hcold]
    rfl
  case mctp =>
    intro s r hcold htrim hid
    rw [exec_mgmtMctp, execMgmtMctp, mgmtTake_of_pec hcold]
    rfl
  case awl =>
    intro s off v htrim hjtag
    rw [exec_jtagInstruction, execJtagInstruction]
    simp only [htrim, hjtag]
    rfl
  case awlOff =>
    intro s off v hjtag
    rw [exec_jtagInstruction, execJtagInstruction]
    simp only [hjtag, Bool.and_false]
    rfl

end Sys2Proof.Machine
end

section
/-!
SUPPORT. The state as a master's write finds it, `acked`: only the STATUS of the management bus may differ. And the writes that read
another field than the one written.
-/
namespace Sys2Proof.Machine

section
variable (s : State) (m : Master) (f : Fld) (i : Nat)

@[simp] theorem acked_now : (acked s m).now = s.now := by cases m <;> rfl
@[simp] theorem acked_regs : (acked s m).regs = s.regs := by cases m <;> rfl
@[simp] theorem acked_free : (acked s m).free = s.free := by cases m <;> rfl
@[simp] theorem acked_shk : (acked s m).shk = s.shk := by cases m <;> rfl
@[simp] theorem acked_gate : (acked s m).gate = s.gate := by cases m <;> rfl
@[simp] theorem acked_lce : (acked s m).lce = s.lce := by cases m <;> rfl
@[simp] theorem acked_rst : (acked s m).rst = s.rst := by cases m <;> rfl
@[simp] theorem acked_tr : (acked s m).tr = s.tr := by cases m <;> rfl
@[simp] theorem acked_heel : (acked s m).heel = s.heel := by cases m <;> rfl
@[simp] theorem acked_flt : (acked s m).flt = s.flt := by cases m <;> rfl
@[simp] theorem acked_ckr : (acked s m).ckr = s.ckr := by cases m <;> rfl
@[simp] theorem acked_tst : (acked s m).tst = s.tst := by cases m <;> rfl
@[simp] theorem acked_pwr : (acked s m).pwr = s.pwr := by cases m <;> rfl
@[simp] theorem rd_acked : rd (acked s m) f i = rd s f i := by cases m <;> rfl
@[simp] theorem bit_acked : bit (acked s m) f i = bit s f i := by cases m <;> rfl
@[simp] theorem mode_acked : mode (acked s m) = mode s := by cases m <;> rfl

/-- An acknowledged state is sound where the state is. -/
theorem acked_wf : (acked s m).wf = s.wf := by cases m <;> rfl

/-- In-band a write finds the state as it is. -/
theorem acked_inband : acked s .inband = s := rfl

end

section
variable {s : State} {f g : Fld} {i j v : Nat}

/-- A write keeps the register store canonical. -/
theorem rwf_wr (h : rwf s.regs = true) : rwf (wr s f i v).regs = true := rwf_rset h f i v

/-- A write keeps the state sound. -/
theorem wr_wf (h : s.wf = true) : (wr s f i v).wf = true :=
  ((keep_iff s.pending _).mp (wr_keep f i v ((keep_iff s.pending s).mpr ⟨h, rfl⟩))).1

/-- A write of one field leaves every bit with another key alone. -/
theorem bit_wr_ne (h : rwf s.regs = true) (hne : fkey g j ≠ fkey f i) : bit (wr s f i v) g j = bit s g j := by
  rw [bit, rd_wr_ne f g i j v h hne, bit]

end
end Sys2Proof.Machine
end

section
/-!
SUPPORT. Changes of the mode (R35 to R49, R341, R547): what a request and an automatic cause begin, and the statements about requests,
transitions and the feed warning.
-/
namespace Sys2Proof.Machine

section
variable {s : State}

/-! ### Requests -/

/-- R35: a request that is taken acts with its target stored. -/
theorem exec_modeRequestGo_of_taken {m : Master} (h : taken s m 0x14) (target : BitVec 4) :
    exec (.modeRequestGo m target) s = .next (modeGo (wr (acked s m) GLB_MODE_REQ_TARGET 0 target.toNat)) := by
  rw [exec_modeRequestGo, execModeRequestGo, show GLB_MODE_REQ_GO.off = 0x14 from rfl, asMaster_taken h]

/-- R547: a refused request stores its STATUS. -/
theorem modeGo_of_refused (h : requestStatus s (rd s GLB_MODE_REQ_TARGET) ≠ 0) :
    modeGo s = wr s GLB_MODE_REQ_STATUS 0 (requestStatus s (rd s GLB_MODE_REQ_TARGET)) := by
  simp [modeGo, h]

/-- R44: a transition that does not lead to SAFE begins without a notice. -/
theorem transGo_of_ne {t : Trans} (h : t.to' ≠ mSAFE) : transGo s t = { wr s GLB_MODE_BUSY 0 1 with tr := some t } := by
  simp [transGo, h]

/-- R341: a transition to SAFE begins with its notice. -/
theorem transGo_of_eq {t : Trans} (h : t.to' = mSAFE) :
    transGo s t = { wr (noticeSend s 3 t.src 0 0) GLB_MODE_BUSY 0 1 with tr := some t } := by
  simp [transGo, h]

/-- R40: a request for another mode than SAFE leads to that mode or to DEGRADED. -/
theorem requestTrans_to_ne {t : Nat} (h : t ≠ mSAFE) : (requestTrans s t).to' ≠ mSAFE := by
  simp only [requestTrans]
  split
  · decide
  · exact h

/-- R35, R40, R341: an accepted request for a mode but TEST and SAFE. -/
theorem modeGo_of_accepted {t : Nat} {v : State} (ht : t = rd s GLB_MODE_REQ_TARGET) (h : requestStatus s t = 0) (htest : t ≠ mTEST)
    (hsafe : t ≠ mSAFE) (hv : v = if t = mSTANDBY then noticeSend s 7 0 0 0 else s) :
    modeGo s = { wr (wr v GLB_MODE_REQ_GO 0 1) GLB_MODE_BUSY 0 1 with tr := some (requestTrans v t) } := by
  subst ht hv
  simp only [modeGo, h, bne_self_eq_false, beq_eq_false_iff_ne.mpr hsafe, beq_eq_false_iff_ne.mpr htest, beq_iff_eq, if_false,
    Bool.false_eq_true]
  exact transGo_of_ne (requestTrans_to_ne hsafe)

/-- R498: an accepted request for TEST takes the selected self-tests with it. -/
theorem modeGo_of_test (ht : rd s GLB_MODE_REQ_TARGET = mTEST) (h : requestStatus s mTEST = 0) :
    modeGo s = { wr (wr s GLB_MODE_REQ_GO 0 1) GLB_MODE_BUSY 0 1 with
      tst := { s.tst with left := bistSelected s, qmask := rd s TST_BIST_SEL_QMASK }
      tr := some (requestTrans s mTEST) } := by
  simp only [modeGo, ht, h]
  exact transGo_of_ne (requestTrans_to_ne (by decide))

/-- Setting GO changes neither the mode nor whether a reset runs. -/
theorem mode_wr_go (h : rwf s.regs = true) : mode (wr s GLB_MODE_REQ_GO 0 1) = mode s := rd_wr_ne _ _ _ _ _ h (by decide)

/-- Setting GO changes neither the mode nor whether a reset runs. -/
theorem resetRuns_wr_go (h : rwf s.regs = true) : resetRuns (wr s GLB_MODE_REQ_GO 0 1) = resetRuns s := by
  simp [resetRuns, wideReset, mode_wr_go h]

/-- R42: an accepted request for SAFE meets the transition under way as an automatic cause does. -/
theorem modeGo_of_safe (ht : rd s GLB_MODE_REQ_TARGET = mSAFE) (h : requestStatus s mSAFE = 0) (htr : ∀ u, s.tr = some u → u.to' = mSAFE) :
    modeGo s = causeMeets (wr s GLB_MODE_REQ_GO 0 1) { to' := mSAFE, cause := 0, src := 0xFFF, req := true } := by
  cases hs : s.tr with
  | none => simp [modeGo, ht, h, hs]
  | some u => simp [modeGo, ht, h, hs, htr u hs]

/-! ### Causes that compete (R42) -/

/-- With nothing under way a cause begins its own transition. -/
theorem causeMeets_of_idle (hrst : resetRuns s = false) (htr : s.tr = none) (c : Cause) : causeMeets s c = causeGo s c := by
  simp [causeMeets, hrst, htr]

/-- A cause joins a transition that leads where it leads, and the source that came first stands. -/
theorem causeMeets_of_same {u : Trans} (hrst : resetRuns s = false) (htr : s.tr = some u) {c : Cause} (h : u.to' = c.to') :
    causeMeets s c = { s with tr := some { u with req := u.req || c.req }, rst := { s.rst with later := stillWaits s c } } := by
  simp [causeMeets, hrst, htr, h]

/-- A cause that ranks higher than the transition under way takes its place. -/
theorem causeMeets_of_higher {u : Trans} {c : Cause} (hrst : resetRuns s = false) (htr : s.tr = some u) (hne : u.to' ≠ c.to')
    (hrank : transRank u.to' u.cause < transRank c.to' c.cause) (hlegal : autoLegal (mode s) c.to' = true) :
    causeMeets s c = causeGo (requestEnd s u 7) c := by
  simp [causeMeets, hrst, htr, hne, hrank, hlegal]

/-- During a reset a cause waits for its end. -/
theorem causeMeets_of_reset (h : resetRuns s = true) (c : Cause) : causeMeets s c = causeWait s c := by
  simp [causeMeets, h]

/-- R42, R341: what a cause that begins its transition leaves. -/
theorem causeGo_eq {c : Cause} {w : State}
    (hw : w = { s with rst := { s.rst with starting := s.rst.starting && c.to' != mSAFE } }) :
    causeGo s c = { wr (if c.to' = mSAFE then noticeSend w 3 c.src 0 0 else w) GLB_MODE_BUSY 0 1 with
      tr := some { to' := c.to', from' := mode s, cause := c.cause, locked := bit s GLB_MODE_LOCKED && c.to' != mSAFE, src := c.src,
                   req := c.req } } := by
  subst hw
  by_cases h : c.to' = mSAFE <;> simp [causeGo, transGo, h]

/-- R547: while BUSY is set every request but a legal one for SAFE is refused with STATUS 1. -/
theorem requestStatus_of_busy {t : Nat} (hbusy : bit s GLB_MODE_BUSY = true) (hsafe : t ≠ mSAFE) : requestStatus s t = 1 := by
  simp [requestStatus, hbusy, hsafe]

/-- R547: a request that Table 2-2 does not have is refused with STATUS 2. -/
theorem requestStatus_of_illegal {t : Nat} (hbusy : bit s GLB_MODE_BUSY = false) (hwarm : s.rst.warmWait = false)
    (hlegal : requestLegal s (mode s) t = false) : requestStatus s t = 2 := by
  simp [requestStatus, hbusy, hwarm, hlegal]

/-- Storing the target changes nothing that Table 2-2 reads. -/
theorem requestLegal_wr_target (h : rwf s.regs = true) (v a t : Nat) :
    requestLegal (wr s GLB_MODE_REQ_TARGET 0 v) a t = requestLegal s a t := by
  simp only [requestLegal, rd_wr_ne GLB_MODE_REQ_TARGET GLB_MODE_PREV 0 0 v h (by decide)]

end

/-- Settles O13: a request is refused, joins the way to SAFE, or begins its transition, as `modeGo` finds it. -/
theorem modeRequests : Obligations.ModeRequests := by
  unfold Obligations.ModeRequests
  constructor
  case left =>
    rintro s u m target hwf htaken rfl t rfl
    rw [exec_modeRequestGo_of_taken htaken]
    generalize hu : wr (acked s m) GLB_MODE_REQ_TARGET 0 target.toNat = u
    have hreg : rwf u.regs = true := by rw [← hu]; exact rwf_wr (by rw [acked_regs]; exact regs_of_wf hwf)
    refine ⟨fun hst => ?refused, fun v hst htest hsafe hv => ?other, fun v hst hsafe hrst htr hv => ?safe,
      fun w hst hsafe hrst htr hw => ?joins, fun hst htest => ?test⟩
    case refused => rw [modeGo_of_refused hst]
    case other => rw [modeGo_of_accepted rfl hst htest hsafe hv]
    case safe =>
      rw [hsafe] at hst
      rw [modeGo_of_safe hsafe hst (by simp [htr]), causeMeets_of_idle ((resetRuns_wr_go hreg).trans hrst) htr, causeGo_eq rfl,
        mode_wr_go hreg, hv]
      simp
    case joins =>
      rw [hsafe] at hst
      rw [modeGo_of_safe hsafe hst (by simp [htr, hw]), causeMeets_of_same ((resetRuns_wr_go hreg).trans hrst) htr hw]
      simp [stillWaits, mSAFE, mDRAIN]
    case test =>
      rw [htest] at hst
      rw [modeGo_of_test htest hst, htest]
  case right =>
    intro s m target hwf htaken
    have hreg : rwf (acked s m).regs = true := by rw [acked_regs]; exact regs_of_wf hwf
    have htarget : rd (wr (acked s m) GLB_MODE_REQ_TARGET 0 target.toNat) GLB_MODE_REQ_TARGET = target.toNat := by
      rw [rd_wr_self _ _ _ hreg]
      exact Nat.mod_eq_of_lt target.isLt
    have hbusy : bit (wr (acked s m) GLB_MODE_REQ_TARGET 0 target.toNat) GLB_MODE_BUSY = bit s GLB_MODE_BUSY := by
      rw [bit_wr_ne hreg (by decide), bit_acked]
    have hmode : mode (wr (acked s m) GLB_MODE_REQ_TARGET 0 target.toNat) = mode s :=
      (rd_wr_ne _ _ _ _ _ hreg (by decide)).trans (rd_acked ..)
    have hlegal : ∀ a t, requestLegal (wr (acked s m) GLB_MODE_REQ_TARGET 0 target.toNat) a t = requestLegal s a t := fun a t => by
      rw [requestLegal_wr_target hreg]; simp [requestLegal]
    rw [exec_modeRequestGo_of_taken htaken]
    refine ⟨fun hb hsafe => ?busy, fun hb hwarm hno => ?illegal⟩
    case busy =>
      have hst := requestStatus_of_busy (hbusy.trans hb) hsafe
      rw [modeGo_of_refused (by rw [htarget, hst]; decide), htarget, hst]
    case illegal =>
      have hst := requestStatus_of_illegal (hbusy.trans hb) (by simpa using hwarm) (by rw [hmode, hlegal]; exact hno)
      rw [modeGo_of_refused (by rw [htarget, hst]; decide), htarget, hst]

/-- Settles O14: a transition's end and its time-out by their meanings, an automatic cause by the branches of `causeMeets`. -/
theorem modeTransitions : Obligations.ModeTransitions := by
  unfold Obligations.ModeTransitions
  refine ⟨⟨?done, ?timeout⟩, ?reset, ?higher, ?idle⟩
  case done =>
    rintro s u t htr rfl v rfl
    rw [exec_modeTransitionDone, execModeTransitionDone]
    simp only [transDone, htr, beq_iff_eq, Bool.and_eq_true, bne_iff_ne]
  case timeout =>
    rintro s v t htr rfl
    rw [exec_modeTransitionTimeout, execModeTransitionTimeout, htr]
    simp only [beq_iff_eq]
  case reset =>
    intro s to' cause src hrst hlater
    simp [modeAuto, hrst, causeMeets_of_reset hrst, causeWait, stillWaits, hlater]
  case higher =>
    rintro s v w u to' cause src hrst htr hne hrank hlegal hv rfl
    have hv' : requestEnd s u 7 = v := by rw [hv]; rfl
    have hmeets := causeMeets_of_higher (c := { to' := to', cause := cause, src := src, req := false }) hrst htr hne hrank hlegal
    rw [hv', causeGo_eq rfl] at hmeets
    simp only [modeAuto, htr, Option.isNone_some, Bool.false_and, Bool.false_eq_true, if_false]
    exact hmeets
  case idle =>
    rintro s w to' cause src hrst htr rfl
    have hmeets := causeMeets_of_idle hrst htr { to' := to', cause := cause, src := src, req := false }
    rw [causeGo_eq rfl] at hmeets
    cases hlegal : autoLegal (mode s) to' with
    | true => simpa [modeAuto, htr, hrst, hlegal] using hmeets
    | false => simp [modeAuto, htr, hrst, hlegal]

/-- Settles O15: while the power die runs both commands are their meanings' last branch. -/
theorem feedWarnings : Obligations.FeedWarnings := by
  unfold Obligations.FeedWarnings
  constructor
  case left =>
    intro s hon hwire hwarn
    simp [execFeedWarning, pdOn, hon, hwire, hwarn]
  case right =>
    intro s hon hrec hlow
    have hnone : (List.range 2).any (fun f => feedOn s f && feedIsLow s f) = false := by
      rw [List.any_eq_false]
      intro f hf
      cases hfeed : feedOn s f with
      | true => simp [hlow f (List.mem_range.mp hf) hfeed]
      | false => simp
    simp only [exec_feedRecovered, execFeedRecovered, pdOn, hon, hrec, hnone, Bool.not_true, Bool.or_self, if_true, if_false,
      Bool.false_eq_true]

end Sys2Proof.Machine
end

section
/-!
SUPPORT. Resets of WARM reach and wider, the trim load, start-up, clocks and the strap (R16, R20, R36, R220, R221, R459 to R479), and the
statements about these.
-/
namespace Sys2Proof.Machine

section
variable {s : State}

/-! ### Commands and releases -/

/-- R464: a WARM that is not performed as a COLD sends its notice and asserts WARM. -/
theorem warmGo_of_not_warmAsCold (h : warmAsCold s = false) :
    warmGo s = wideApply (rstUpd (resetNotice s) (fun r => { r with warm := true, warmWait := true })) 2 := by
  simp [warmGo, h]

/-- R465, R477: while something asserts a wide reset or the clocks forbid it, none is released. -/
theorem wideTry_of_held (h : s.rst.por = true ∨ s.rst.cold ≠ [] ∨ s.rst.warm = true ∨ clocksGood s = false) : wideTry s = s := by
  refine if_pos ?_
  simpa [or_assoc] using h

/-- R465, R477: nothing asserts a wide reset and the clocks are good. -/
theorem wideTry_free (hpor : s.rst.por = false) (hcold : s.rst.cold = []) (hwarm : s.rst.warm = false) (hclk : clocksGood s = true) :
    (s.rst.por || !s.rst.cold.isEmpty || s.rst.warm || !clocksGood s) = false := by
  simp [hpor, hcold, hwarm, hclk]

/-- R461: RST_CMD with another key than 0xA5 does nothing, whichever of its bits is set. -/
theorem exec_rstCmd_of_badKey {m : Master} {key : BitVec 8} (ht : taken s m 0xD00008) (hkey : key ≠ 0xA5#8) :
    exec (.rstCmdWarm m key) s = .next (acked s m)
      ∧ (∀ pt, exec (.rstCmdPart m key pt) s = .next (acked s m)) ∧ (∀ p, exec (.rstCmdPort m key p) s = .next (acked s m)) := by
  have hk : (key == 0xA5) = false := beq_eq_false_iff_ne.mpr hkey
  refine ⟨?_, fun pt => ?_, fun p => ?_⟩
  · rw [exec_rstCmdWarm, execRstCmdWarm, show RST_CMD_WARM.off = 0xD00008 from rfl, asMaster_taken ht, hk, if_neg Bool.false_ne_true]
  · rw [exec_rstCmdPart, execRstCmdPart, show RST_CMD_PART.off = 0xD00008 from rfl, asMaster_taken ht, hk, Bool.false_and,
      if_neg Bool.false_ne_true]
  · rw [exec_rstCmdPort, execRstCmdPort, show RST_CMD_PORT.off = 0xD00008 from rfl, asMaster_taken ht, hk, Bool.false_and,
      if_neg Bool.false_ne_true]

/-! ### Which fields a reset reaches (R20) -/

/-- An entry left in a map by its key is looked up as before, and one left out is not there. -/
theorem nget?_filter_key {α : Type} (p : Nat → Bool) (k : Nat) : ∀ {m : NMap α}, nsorted none m = true →
    nget? (m.filter (fun e => p e.1)) k = if p k then nget? m k else none
  | [], _ => by simp [nget?]
  | (j, v) :: m, hs => by
    have ih := nget?_filter_key p k (nsorted_none_of hs)
    by_cases hle : k ≤ j
    · have hrest : nget? m k = none := nget?_below hle hs
      by_cases heq : j = k
      · subst heq
        cases hp : p j <;> simp [hp, nget?, ih]
      · have hlt : k < j := by omega
        cases hp : p j <;> simp [hp, nget?, heq, hlt, ih, hrest]
    · have heq : ¬ j = k := by omega
      have hlt : ¬ k < j := by omega
      cases hp : p j <;> simp [hp, nget?, heq, hlt, ih]

/-- The reach that a field's key keeps. -/
theorem keyReach_fkey (f : Fld) (i : Nat) : keyReach (fkey f i) = reachCode f.reach := by
  have h : reachCode f.reach < 16 := by cases f.reach <;> decide
  unfold keyReach fkey
  omega

/-- R20: a reset of reach code `c` returns a field of that reach or a narrower one to its reset value and leaves every other alone. -/
theorem rd_regsReset (h : rwf s.regs = true) (c : Nat) (f : Fld) (i : Nat) :
    rd (regsReset s c) f i = if c ≤ reachCode f.reach ∧ reachCode f.reach ≤ reachCode .slice then f.rst i else rd s f i := by
  have hsort := ((rwf_iff _).mp h).1
  show ((nget? (s.regs.filter fun e => !(decide (c ≤ keyReach e.1) && decide (keyReach e.1 ≤ reachCode .slice))) (fkey f i)).getD _) = _
  rw [nget?_filter_key (fun k => !(decide (c ≤ keyReach k) && decide (keyReach k ≤ reachCode .slice))) _ hsort, keyReach_fkey]
  by_cases hin : c ≤ reachCode f.reach ∧ reachCode f.reach ≤ reachCode .slice
  case pos => simp [hin]
  case neg =>
    have hout : (decide (c ≤ reachCode f.reach) && decide (reachCode f.reach ≤ reachCode .slice)) = false := by simpa using hin
    rw [if_neg hin, hout]
    rfl

/-! ### The strap (R220) -/

/-- The nominal resistors of Table 8-2 rise with their code. -/
theorem strapOhms_mono : ∀ c d : Fin 16, c ≤ d → strapOhms.getD c 0 ≤ strapOhms.getD d 0 := by decide

/-- R220: a resistance within one code's window alone is that code. -/
theorem strapCode_of_window {c : Fin 16} {ohms : Nat} (hlo : 100 * strapOhms.getD c 0 ≤ 121 * ohms)
    (hhi : 100 * ohms ≤ 121 * strapOhms.getD c 0)
    (honly : ∀ d : Fin 16, 100 * strapOhms.getD d 0 ≤ 121 * ohms → 100 * ohms ≤ 121 * strapOhms.getD d 0 → d = c) (f : Nat) :
    strapCode ohms f = .code c := by
  have hmin : strapOhms.getD (0 : Fin 16) 0 ≤ strapOhms.getD c 0 := strapOhms_mono 0 c (Fin.zero_le c)
  have hmax : strapOhms.getD c 0 ≤ strapOhms.getD (15 : Fin 16) 0 := strapOhms_mono c 15 (Fin.le_last c)
  have h0 : strapOhms.getD (0 : Fin 16) 0 = 1000 := rfl
  have h15 : strapOhms.getD (15 : Fin 16) 0 = 316000 := rfl
  have hfirst : strapOhms.findIdx? (fun r => decide (100 * ohms ≤ 121 * r)) = some c.val := by
    rw [List.findIdx?_eq_some_iff_getElem]
    have hget : ∀ d : Fin 16, strapOhms.getD d 0 = strapOhms[d.val]'d.isLt := fun d => (List.getElem_eq_getD (h := d.isLt) 0).symm
    refine ⟨c.isLt, by rw [hget] at hhi; simpa using hhi, fun j hj => ?_⟩
    have hbelow : j < 16 := hj.trans c.isLt
    have hle := strapOhms_mono ⟨j, hbelow⟩ c (Nat.le_of_lt hj)
    have hne : ¬ 100 * ohms ≤ 121 * strapOhms.getD (⟨j, hbelow⟩ : Fin 16) 0 := fun hwin => by
      have := congrArg Fin.val (honly ⟨j, hbelow⟩ (by omega) hwin)
      simp only at this
      omega
    rw [hget ⟨j, hbelow⟩] at hne
    exact fun hwin => hne (of_decide_eq_true hwin)
  have hnext : ¬ 100 * strapOhms.getD (c.val + 1) 500000 ≤ 121 * ohms := by
    by_cases hlast : c.val + 1 < 16
    case pos =>
      have hsame : strapOhms.getD (c.val + 1) 500000 = strapOhms.getD (⟨c.val + 1, hlast⟩ : Fin 16) 0 := by
        simp only [List.getD_eq_getElem?_getD, List.getElem?_eq_getElem (show c.val + 1 < strapOhms.length from hlast), Option.getD_some]
      have hle := strapOhms_mono c ⟨c.val + 1, hlast⟩ (Nat.le_succ _)
      rw [hsame]
      intro hwin
      have := congrArg Fin.val (honly ⟨c.val + 1, hlast⟩ hwin (by omega))
      simp only at this
      omega
    case neg =>
      have hend : c.val + 1 = 16 := by omega
      rw [hend]
      show ¬ 100 * 500000 ≤ 121 * ohms
      omega
  have hopen : ¬ 383000 < ohms := by omega
  have hshort : ¬ ohms < 825 := by omega
  have hlow : ¬ 121 * ohms < 100 * strapOhms.getD c.val 0 := by omega
  simp only [strapCode, hopen, hshort, hfirst, Option.getD_some, hlow, hnext, if_false]
  exact congrArg _ (Fin.ext (Nat.mod_eq_of_lt c.isLt))

/-- R220: above 383 kΩ the strap is open, below 825 Ω it is shorted. -/
theorem strapCode_of_fault {ohms : Nat} (f : Nat) :
    (383000 < ohms → strapCode ohms f = .opened) ∧ (ohms < 825 → strapCode ohms f = .shorted) := by
  refine ⟨fun h => if_pos h, fun h => ?_⟩
  rw [strapCode, if_neg (by omega), if_pos h]

end

/-- Settles O18: each command and pin by its meaning, and the release by the branches of `wideTry`. -/
theorem wideResets : Obligations.WideResets := by
  unfold Obligations.WideResets
  refine ⟨⟨fun s => rfl, ?porRelease, fun s => rfl, fun s => rfl, fun s => ⟨rfl, rfl⟩, ?warm, fun s m key ht hkey => exec_rstCmd_of_badKey ht hkey,
    fun s => ⟨rfl, rfl⟩, fun s pt p => ⟨rfl, rfl⟩⟩, fun s => ⟨?low, ?level⟩, fun s => ⟨wideTry_of_held, ?free⟩⟩
  case porRelease =>
    intro s hpor
    rw [exec_porRelease, execPorRelease, if_pos hpor]
    rfl
  case warm =>
    intro s m ht hwarm
    rw [exec_rstCmdWarm_of_key ht, warmGo_of_not_warmAsCold hwarm]
    rfl
  case low =>
    intro hmode
    exact congrArg Host.Outcome.next (if_pos (beq_iff_eq.mpr hmode))
  case level =>
    intro hmode
    exact congrArg Host.Outcome.next (if_neg (mt beq_iff_eq.mp hmode))
  case free =>
    intro hpor hcold hwarm hclk
    have hfree := wideTry_free hpor hcold hwarm hclk
    refine ⟨fun hwait => ?_, fun hwait hwarmWait => ?_⟩
    · rw [wideTry, hfree, hwait]
      rfl
    · rw [wideTry, hfree, hwait, hwarmWait]
      rfl

/-- Settles O19: the reach that a field's key keeps decides whether its entry stays. -/
theorem resetReaches : Obligations.ResetReaches := by
  unfold Obligations.ResetReaches
  intro s c f i hwf hc
  have h := rd_regsReset (regs_of_wf hwf) c f i
  refine ⟨fun hge hle => ?_, fun hlt => ?_, fun hpd => ?_⟩
  · rw [h, if_pos ⟨hge, hle⟩]
  · rw [h, if_neg (by omega)]
  · rw [h, hpd, if_neg (by simp [reachCode])]

/-- Settles O20: the branches of the trim load and of the end of start-up. -/
theorem trimAndStart : Obligations.TrimAndStart := by
  unfold Obligations.TrimAndStart
  refine ⟨?good, ?bad, ?third, ?start⟩
  case good =>
    rintro s u v w ok htrim hok rfl rfl
    rw [exec_trimAttemptDone, execTrimAttemptDone]
    simp only [htrim, Bool.not_true, Bool.false_eq_true, if_false, if_true, trimGood, identity, wr_free, ← hok]
    cases ok <;> rfl
  case bad =>
    intro s w htrim hfails
    have hlt : rd s RST_TRIM_FAILS + 1 < 3 := by omega
    rw [exec_trimAttemptDone, execTrimAttemptDone]
    simp only [htrim, Bool.not_true, Bool.false_eq_true, if_false, trimFail, hlt, if_true]
  case third =>
    intro s w htrim hfails
    have hge : ¬ rd s RST_TRIM_FAILS + 1 < 3 := by omega
    refine ⟨_, _, rfl, rfl, ?_⟩
    rw [exec_trimAttemptDone, execTrimAttemptDone]
    simp only [htrim, Bool.not_true, Bool.false_eq_true, if_false, trimFail, hge]
    rfl
  case start =>
    rintro s t u v hstart hwide rfl rfl rfl
    rw [exec_startupDone, execStartupDone]
    simp only [hstart, hwide, Bool.not_true, Bool.or_self, Bool.false_eq_true, if_false, rstUpd, prtUpd, wr_prt]

/-- Settles O21: the clock commands are their meanings; a strap reading goes by the window that holds it. -/
theorem clocksAndStraps : Obligations.ClocksAndStraps := by
  unfold Obligations.ClocksAndStraps
  refine ⟨⟨fun s => rfl, fun s k => rfl, fun s => rfl, fun s => rfl⟩, ?code, ?fault⟩
  case code =>
    rintro s u c ohms hpor hlo hhi honly rfl
    rw [exec_strapRead, execStrapRead]
    simp only [hpor, strapCode_of_window hlo hhi honly]
    rfl
  case fault =>
    rintro s u ohms k hpor hk rfl
    rw [exec_strapRead, execStrapRead]
    rcases hk with ⟨h, rfl⟩ | ⟨h, rfl⟩
    · simp only [hpor, (strapCode_of_fault _).1 h]
      rfl
    · simp only [hpor, (strapCode_of_fault _).2 h]
      rfl

end Sys2Proof.Machine
end

section
/-!
SUPPORT. What storing a packet keeps (R24, R79, R100 to R104), the choice of class (R113), the members a decision may give (R142, R144), what
the Access Window Table permits (R379 to R381), the severity that reacts (R436 to R443) and the fault record ring (R447, R448), with the
statements about these.
-/
namespace Sys2Proof.Machine

section
variable {s : State}

/-! ### Queues that storing leaves alone -/

/-- The packets stored and those that wait at inputs are the same. -/
def SameQueues (s t : State) : Prop := t.shk.voq = s.shk.voq ∧ t.shk.held = s.shk.held

theorem SameQueues.trans {t u : State} (h : SameQueues s t) (k : SameQueues t u) : SameQueues s u := ⟨k.1.trans h.1, k.2.trans h.2⟩

theorem sameQueues_creditBack (a cls : Nat) (pk : Packet) : SameQueues s (creditBack s a cls pk) := by
  unfold creditBack creditGive
  split
  · exact ⟨rfl, rfl⟩
  · split
    · exact ⟨rfl, rfl⟩
    · split <;> exact ⟨rfl, rfl⟩

theorem sameQueues_overBudget : SameQueues s (overBudget s) := by
  have hdone : SameQueues s (durDone s) := by
    unfold durDone
    split <;> exact ⟨rfl, rfl⟩
  refine hdone.trans ?_
  unfold overBudget
  dsimp only
  split
  · exact ⟨rfl, rfl⟩
  · split
    · split <;> exact ⟨rfl, rfl⟩
    · split <;> exact ⟨rfl, rfl⟩

/-- A packet stored joins its VOQ as the newest; no other queue changes. -/
theorem enqueue_queues (k : Nat) (q : QPkt) (spd : Nat) :
    (enqueue s k q spd).shk.held = s.shk.held
      ∧ (enqueue s k q spd).shk.voq = nset [] s.shk.voq k (voq s k ++ [{ q with ovf := spd, fresh := true, qtr := quarterOf s q.inp }]) := by
  obtain ⟨hvoq, hheld⟩ := sameQueues_overBudget (s :=
    let t := voqSet s k (voq s k ++ [{ q with ovf := spd, fresh := true, qtr := quarterOf s q.inp }])
    if spd = 0 then creditBack t q.inp q.vl q.pk else
      { t with shk := { t.shk with
          spilled := if t.shk.spilled.contains k then t.shk.spilled else t.shk.spilled ++ [k],
          spilling := nset 0 t.shk.spilling k (nget t.shk.spilling k 0 + spd) } })
  refine ⟨hheld.trans ?_, hvoq.trans ?_⟩
  · dsimp only
    split
    · exact (sameQueues_creditBack _ _ _).2
    · rfl
  · dsimp only
    split
    · exact (sameQueues_creditBack _ _ _).1
    · rfl

/-! ### The choice of class (R113) -/

/-- R113: of the classes 7, 6 and 5 the highest that waits comes first. -/
theorem find_high_class {c : Nat} {cand : List Nat} (hlo : 5 ≤ c) (hhi : c ≤ 7) (hc : c ∈ cand) (hmax : ∀ d ∈ cand, d ≤ 7 → d ≤ c) :
    [7, 6, 5].find? (fun d => cand.contains d) = some c := by
  have hout : ∀ d, c < d → d ≤ 7 → cand.contains d = false := fun d hlt hle => by
    rw [Bool.eq_false_iff]
    intro hd
    have := hmax d (List.contains_iff_mem.mp hd) hle
    omega
  have hin : cand.contains c = true := List.contains_iff_mem.mpr hc
  obtain rfl | rfl | rfl : c = 7 ∨ c = 6 ∨ c = 5 := by omega
  · rw [List.find?_cons_of_pos hin]
  · rw [List.find?_cons_of_neg (by simpa using hout 7 (by omega) (by omega)), List.find?_cons_of_pos hin]
  · rw [List.find?_cons_of_neg (by simpa using hout 7 (by omega) (by omega)),
      List.find?_cons_of_neg (by simpa using hout 6 (by omega) (by omega)), List.find?_cons_of_pos hin]

/-- R113: a class that is chosen waits. -/
theorem mem_of_classChoice {t : State} {o c : Nat} {cand : List Nat} (h : classChoice s o cand = (t, some c)) : c ∈ cand := by
  unfold classChoice at h
  dsimp only at h
  split at h
  case h_1 d ds hdur =>
    obtain rfl : d = c := by simpa using congrArg Prod.snd h
    have hmem : d ∈ d :: ds := List.mem_cons_self
    rw [← hdur] at hmem
    split at hmem
    · have hboth := (List.mem_filter.mp hmem).2
      rw [Bool.and_eq_true] at hboth
      exact List.contains_iff_mem.mp hboth.1
    · exact absurd hmem List.not_mem_nil
  case h_2 =>
    split at h
    case h_1 d hfind =>
      obtain rfl : d = c := by simpa using congrArg Prod.snd h
      exact List.contains_iff_mem.mp (List.find?_some hfind)
    case h_2 =>
      split at h
      · simp at h
      · have hfind := List.find?_some (congrArg Prod.snd h)
        rw [Bool.and_eq_true] at hfind
        exact (List.mem_filter.mp (List.contains_iff_mem.mp hfind.1)).1

/-! ### The member of a decision (R142, R144) -/

/-- The first in rotation is one of the list. -/
theorem mem_of_firstFrom {l : List Nat} {ptr m : Nat} (h : firstFrom l ptr = some m) : m ∈ l :=
  List.contains_iff_mem.mp (List.find?_some h)

theorem mem_of_lowest {l : List Nat} {f : Nat → Nat} {m : Nat} (h : m ∈ lowest l f) : m ∈ l := by
  unfold lowest at h
  split at h
  · exact absurd h List.not_mem_nil
  · exact List.mem_of_mem_filter h

/-- R145: what has the best score is one of the list. -/
theorem mem_of_bestScore {l : List Nat} {p win head m : Nat} (h : bestScore l p win head = some m) : m ∈ l := by
  suffices hfold : ∀ (l l' : List Nat) (acc : Option Nat), (∀ b, acc = some b → b ∈ l') → ∀ b,
      l.foldl (fun acc m => match acc with
        | none => some m
        | some b => if score p b win head < score p m win head then some m else some b) acc = some b → b ∈ l' ++ l by
    simpa using hfold l [] none (fun b hb => nomatch hb) m h
  intro l
  induction l with
  | nil => exact fun l' acc hacc b hb => List.mem_append_left _ (hacc b hb)
  | cons x l ih =>
    intro l' acc hacc b hb
    have hstep : ∀ b, (match acc with
        | none => some x
        | some b => if score p b win head < score p x win head then some x else some b) = some b → b ∈ l' ++ [x] := by
      intro b hb
      cases acc with
      | none => simp_all
      | some a =>
        dsimp only at hb
        split at hb
        · simp_all
        · exact List.mem_append_left _ (hacc b hb)
    have := ih (l' ++ [x]) _ hstep b hb
    simpa using this

/-- R144: each policy picks from the eligible set. -/
theorem mem_of_pick {p win head ready size : Nat} {e : List Nat} {t : State} {m : Nat} {risk : Bool}
    (h : pick s p win head ready size e = (t, some m, risk)) : m ∈ e := by
  unfold pick at h
  split at h
  case h_1 =>
    dsimp only at h
    split at h
    case h_1 x hfirst =>
      obtain rfl : x = m := by simpa using congrArg (fun r => r.2.1) h
      exact List.mem_of_mem_filter (mem_of_firstFrom hfirst)
    case h_2 => simp at h
  case h_2 => exact mem_of_bestScore (congrArg (fun r => r.2.1) h)
  case h_3 =>
    dsimp only at h
    split at h
    case h_1 x hfirst =>
      obtain rfl : x = m := by simpa using congrArg (fun r => r.2.1) h
      exact mem_of_lowest (mem_of_firstFrom hfirst)
    case h_2 => simp at h
  case h_4 => exact List.mem_of_head? (congrArg (fun r => r.2.1) h)
  case h_5 => exact mem_of_lowest (mem_of_firstFrom (congrArg (fun r => r.2.1) h))

/-! ### The Access Window Table's entries -/

theorem nget?_of_mem {α : Type} {k : Nat} {v : α} : ∀ {m : NMap α}, nsorted none m = true → (k, v) ∈ m → nget? m k = some v
  | (j, w) :: m, hs, hmem => by
    rcases List.mem_cons.mp hmem with heq | hmem
    · obtain ⟨rfl, rfl⟩ := Prod.mk.inj heq
      simp [nget?]
    · have hrest := nget?_of_mem (nsorted_none_of hs) hmem
      have hlt : j < k := by
        by_contra hge
        rw [nget?_below (b := j) (by omega) hs] at hrest
        cases hrest
      rw [nget?, if_neg (by omega), if_neg (by omega), hrest]

theorem mem_of_nget? {α : Type} {k : Nat} {v : α} : ∀ {m : NMap α}, nget? m k = some v → (k, v) ∈ m
  | (j, w) :: m, h => by
    rw [nget?] at h
    split at h
    case isTrue heq =>
      obtain rfl := Option.some.inj h
      exact heq ▸ List.mem_cons_self
    case isFalse =>
      split at h
      · cases h
      · exact List.mem_cons_of_mem _ (mem_of_nget? h)

theorem fkey_valid (i : Nat) (hi : i < 8192) : fkey AWT_W0_VALID i = fkey AWT_W0_VALID 0 + i := by
  simp only [fkey]
  omega

/-- The entries listed are those whose word 0 has VALID = 1. -/
theorem mem_awtValid (h : rwf s.regs = true) (i : Nat) : i ∈ awtValid s ↔ i < 8192 ∧ bit s AWT_W0_VALID i = true := by
  have hsort := ((rwf_iff _).mp h).1
  constructor
  case mp =>
    intro hi
    obtain ⟨⟨k, v⟩, hmem, rfl⟩ := List.mem_map.mp hi
    obtain ⟨hmem, hrange⟩ := List.mem_filter.mp hmem
    simp only [Bool.and_eq_true, decide_eq_true_eq, bne_iff_ne] at hrange
    obtain ⟨⟨hlo, hhi⟩, hv⟩ := hrange
    have hi' : k - fkey AWT_W0_VALID 0 < 8192 := by omega
    refine ⟨hi', ?_⟩
    have hkey : fkey AWT_W0_VALID (k - fkey AWT_W0_VALID 0) = k := by rw [fkey_valid _ hi']; omega
    show (((nget? s.regs (fkey AWT_W0_VALID (k - fkey AWT_W0_VALID 0))).getD _) != 0) = true
    rw [hkey, nget?_of_mem hsort hmem]
    simpa using hv
  case mpr =>
    rintro ⟨hi, hbit⟩
    have hne : (nget? s.regs (fkey AWT_W0_VALID i)).getD 0 ≠ 0 := by simpa [bit, rd, rget, nget, AWT_W0_VALID] using hbit
    cases hget : nget? s.regs (fkey AWT_W0_VALID i) with
    | none => simp [hget] at hne
    | some v =>
      rw [hget] at hne
      refine List.mem_map.mpr ⟨(fkey AWT_W0_VALID i, v), List.mem_filter.mpr ⟨mem_of_nget? hget, ?_⟩, ?_⟩
      · simp only [Bool.and_eq_true, decide_eq_true_eq, bne_iff_ne]
        rw [fkey_valid i hi]
        exact ⟨⟨by omega, by omega⟩, hne⟩
      · show fkey AWT_W0_VALID i - fkey AWT_W0_VALID 0 = i
        rw [fkey_valid i hi]
        omega

theorem mem_awtMatches (h : rwf s.regs = true) (r : AccReq) (i : Nat) : i ∈ awtMatches s r ↔
    (i < 8192 ∧ bit s AWT_W0_VALID i = true) ∧ awtSelects s i r = true ∧ rd s AWT_W0_START i * 64 ≤ r.addr
      ∧ r.addr + r.len ≤ (rd s AWT_W1_END i + 1) * 64 := by
  unfold awtMatches
  rw [List.mem_filter, mem_awtValid h, Bool.and_eq_true, awtCovers, Bool.and_eq_true, decide_eq_true_eq, decide_eq_true_eq]
  rfl

/-- R380: a permitted request matches one entry, which grants what it needs. -/
theorem awtMatches_of_permit {r : AccReq} {i : Nat} (h : awtCheck s r = .permit i) :
    awtMatches s r = [i] ∧ awtGrants s i r.need = true := by
  unfold awtCheck at h
  split at h
  case h_1 j hm =>
    split at h
    case isTrue hg =>
      obtain rfl : j = i := by injection h
      exact ⟨hm, hg⟩
    case isFalse => cases h
  case h_2 => split at h <;> cases h
  case h_3 => cases h

/-! ### Records -/

theorem leBytes_length : ∀ n v, (leBytes n v).length = n
  | 0, _ => rfl
  | n + 1, v => congrArg (· + 1) (leBytes_length n (v / 256))

/-- The record stands in its slot of the ring, and its number is counted (R447). -/
def recordPut (s : State) (r : FltRec) : State :=
  wr (fltUpd s (fun x => { x with
    ret := cputs x.ret (rd s FLT_RING_SEQ % 64 * 32) (fltBody s r ++ leBytes 2 (crc16 (fltBody s r)))
    retBad := x.retBad.filter (fun w => w / 4 != rd s FLT_RING_SEQ % 64) })) FLT_RING_SEQ 0 ((rd s FLT_RING_SEQ + 1) % 65536)

theorem rwf_recordPut (h : rwf s.regs = true) (r : FltRec) : rwf (recordPut s r).regs = true := rwf_rset h _ _ _

theorem rd_recordPut_lost (h : rwf s.regs = true) (r : FltRec) : rd (recordPut s r) FLT_RING_LOST = rd s FLT_RING_LOST :=
  rget_rset_ne h FLT_RING_SEQ FLT_RING_LOST 0 0 _ (by decide)

/-- R448: the record is put into the ring; where that writes over an unread one it is counted and reported. -/
theorem fltRecord_cases (h : rwf s.regs = true) (r : FltRec) (motive : State → Prop)
    (hfree : (rd s FLT_RING_SEQ + 65536 - rd s FLT_RING_RD) % 65536 < 64 → motive (recordPut s r))
    (hfull : 64 ≤ (rd s FLT_RING_SEQ + 65536 - rd s FLT_RING_RD) % 65536 → motive (raise (inc (recordPut s r) FLT_RING_LOST) 0x602)) :
    motive (fltRecord s r) := by
  have hrd : rd (recordPut s r) FLT_RING_RD = rd s FLT_RING_RD := rget_rset_ne h FLT_RING_SEQ FLT_RING_RD 0 0 _ (by decide)
  have heq : fltRecord s r = if 64 ≤ (rd s FLT_RING_SEQ + 65536 - rd (recordPut s r) FLT_RING_RD) % 65536
      then raise (inc (recordPut s r) FLT_RING_LOST) 0x602 else recordPut s r := rfl
  rw [heq, hrd]
  split
  case isTrue hge => exact hfull hge
  case isFalse hlt => exact hfree (by omega)

end

/-- Settles O28: the branches of `store`, what each does to the queues being a lemma of its own. -/
theorem storingKeepsPackets : Obligations.StoringKeepsPackets := by
  unfold Obligations.StoringKeepsPackets
  intro s q o
  unfold store
  split
  case isTrue => exact .inl ⟨rfl, false, rfl⟩
  case isFalse =>
    dsimp only
    split
    case h_1 spd _ =>
      obtain ⟨hheld, hvoq⟩ := enqueue_queues (s := s) (voqKey q.inp o q.cls) q spd
      exact .inr ⟨hheld, spd, hvoq⟩
    case h_2 b r _ => cases r <;> exact .inl ⟨rfl, b, rfl⟩

/-- Settles O30: the highest of classes 7, 6 and 5 that waits is found first; what is chosen comes from the candidates. -/
theorem classChoice' : Obligations.ClassChoice := by
  unfold Obligations.ClassChoice
  refine ⟨fun s o c cand hmode hlo hhi hc hmax => ?_, fun s t o c cand h => mem_of_classChoice h⟩
  have hdrain : (mode s == mDRAIN) = false := beq_eq_false_iff_ne.mpr hmode
  simp only [classChoice, hdrain, Bool.false_eq_true, if_false, find_high_class hlo hhi hc hmax]

/-- Settles O35: every policy picks from the eligible set, whose members R142 describes. -/
theorem decisionsPickEligible : Obligations.DecisionsPickEligible := by
  unfold Obligations.DecisionsPickEligible
  intro s t p win head ready size ch h
  unfold decide' at h
  dsimp only at h
  split at h
  case isTrue => cases h
  case isFalse =>
    split at h
    case h_1 u m risk hpick =>
      obtain rfl := Option.some.inj (congrArg Prod.snd h)
      have hmem := mem_of_pick hpick
      simp only [eligibleSet, List.mem_filter, List.mem_range, Bool.and_eq_true, beq_iff_eq, decide_eq_true_eq] at hmem
      obtain ⟨hlt, ⟨hstate, hpath⟩, havail⟩ := hmem
      exact ⟨hstate, hpath, havail, hlt⟩
    case h_2 => cases h

/-- Settles O43: a permit means that the list of matching entries is that one entry. -/
theorem accessPermitted : Obligations.AccessPermitted := by
  unfold Obligations.AccessPermitted
  intro s r i hwf hpermit
  have hregs := regs_of_wf hwf
  obtain ⟨hmatch, hgrant⟩ := awtMatches_of_permit hpermit
  have hi : i ∈ awtMatches s r := hmatch ▸ List.mem_singleton_self i
  obtain ⟨⟨hlt, hvalid⟩, hsel, hlo, hhi⟩ := (mem_awtMatches hregs r i).mp hi
  have hneed : ∀ n, r.need = n → awtGrants s i n = true := fun n h => h ▸ hgrant
  refine ⟨hlt, hvalid, hsel, hlo, hhi, hneed .read, hneed .write, hneed .atomic, fun h => (Bool.or_eq_true _ _).mp (hneed .zero h),
    fun j hj hjv hjs hjl hjh => ?_⟩
  have hmem : j ∈ awtMatches s r := (mem_awtMatches hregs r j).mpr ⟨⟨hj, hjv⟩, hjs, hjl, hjh⟩
  rw [hmatch] at hmem
  exact List.mem_singleton.mp hmem

/-- Settles O56: the cases of R442, R443 and R437 in turn. -/
theorem severityApplied : Obligations.SeverityApplied := by
  unfold Obligations.SeverityApplied
  refine ⟨fun s n inst k pt al inj => ⟨_, rfl⟩, fun s n pt p hp => ?_⟩
  have hesc : (decide (n / 128 < 18) && (rd s FLT_BLK_STATE (n / 128) == 2 || rd s FLT_BLK_STATE (n / 128) == 3)) = true
      ↔ n / 128 < 18 ∧ (rd s FLT_BLK_STATE (n / 128) = 2 ∨ rd s FLT_BLK_STATE (n / 128) = 3) := by simp
  have hprog : (if (decide (n / 128 < 18) && (rd s FLT_BLK_STATE (n / 128) == 2 || rd s FLT_BLK_STATE (n / 128) == 3)) = true
      then min 5 (rd s FLT_SEV_SEV n + 1) else rd s FLT_SEV_SEV n) = p := by rw [hp]; simp only [hesc]
  simp only [appliedOf, hprog]
  refine ⟨?keeps, ?fence, ?noBlock, ?fourth, ?block, ?part, ?noPart, hesc⟩
  case keeps => rintro (rfl | rfl | rfl) <;> simp
  case fence => rintro rfl; cases fenceTarget n <;> simp
  case noBlock => rintro rfl hb; cases fenceTarget n <;> simp [hb]
  case fourth => rintro rfl hb hin hwide hmany; cases fenceTarget n <;> simp [hb, hin, hwide, hmany]
  case block =>
    rintro rfl hb hfew
    rcases hfew with hin | hfew
    · simp [hb, hin]
    · simp [hb, show ¬ 3 ≤ blkRecent s (n / 128) by omega]
  case part => rintro rfl hpt; obtain ⟨k, rfl⟩ := Option.isSome_iff_exists.mp hpt; simp
  case noPart => rintro rfl rfl; cases fenceTarget n <;> simp

/-- Settles O57: the record's bytes, its slot, and the count of an unread record written over. -/
theorem faultRecordRing : Obligations.FaultRecordRing := by
  unfold Obligations.FaultRecordRing
  rintro s u r q hwf rfl rfl
  have hregs := regs_of_wf hwf
  refine ⟨by simp [fltBody, leBytes_length], ?ring, ?seq, fun hfree => ?unread, fun hfull => ?overwritten⟩
  case ring =>
    have hput : (recordPut s r).flt.ret = cputs s.flt.ret (rd s FLT_RING_SEQ % 64 * 32) (fltBody s r ++ leBytes 2 (crc16 (fltBody s r))) := rfl
    rw [← hput]
    exact fltRecord_cases hregs r (fun t => t.flt.ret = (recordPut s r).flt.ret) (fun _ => rfl) (fun _ => rfl)
  case seq =>
    have hval : rd (recordPut s r) FLT_RING_SEQ = (rd s FLT_RING_SEQ + 1) % 65536 :=
      (rd_wr_self FLT_RING_SEQ 0 _ hregs).trans (Nat.mod_mod _ _)
    rw [← hval]
    exact fltRecord_cases hregs r (fun t => rd t FLT_RING_SEQ = rd (recordPut s r) FLT_RING_SEQ) (fun _ => rfl)
      (fun _ => rd_inc_ne FLT_RING_LOST FLT_RING_SEQ 0 0 1 (rwf_recordPut hregs r) (by decide))
  case unread =>
    exact fltRecord_cases hregs r (fun t => t.detect = s.detect ∧ rd t FLT_RING_LOST = _) (fun _ => ⟨rfl, rd_recordPut_lost hregs r⟩)
      (fun hfull => absurd hfree (by omega))
  case overwritten =>
    refine fltRecord_cases hregs r (fun t => t.detect = s.detect ++ [⟨0x602, 0, none⟩] ∧ rd t FLT_RING_LOST = _)
      (fun hfree => absurd hfull (by omega)) (fun _ => ⟨rfl, ?_⟩)
    have hinc := rd_inc_self FLT_RING_LOST 0 1 (rwf_recordPut hregs r) (by decide)
    rw [rd_recordPut_lost hregs] at hinc
    exact hinc

end Sys2Proof.Machine
end

section
/-!
SUPPORT. Lace: encoders, tick candidates, tick starts, triggers, writes and fabric records (R50 to R73, R147), with the statements about these.
-/
namespace Sys2Proof.Machine

section
variable {s : State}

/-! ### Encoders -/

/-- R55: a count that does not pass HIGH steps POS and shows direction and reverse. -/
theorem encStep_of_not_new {n : Nat} {fwd : Bool} {pos : Nat} {u : State}
    (hpos : pos = (rd s ENC_POS n + if fwd then 1 else 2 ^ 32 - 1) % 2 ^ 32)
    (hu : u = { wr (wr s ENC_POS n pos) ENC_STATUS_DIR n (if fwd then 0 else 1) with
      lce := { s.lce with boundary := s.lce.boundary.filter (· != n) } })
    (hold : posDiff pos (rd u ENC_HIGH n) ≤ 0) :
    encStep s n fwd = wr u ENC_STATUS_IN_REVERSE n (if posDiff pos (rd u ENC_HIGH n) < 0 then 1 else 0) := by
  have hdir : wrb (wr (lceUpd s (fun x => { x with boundary := x.boundary.filter (· != n) })) ENC_POS n pos) ENC_STATUS_DIR n (!fwd) = u := by
    subst hu
    cases fwd <;> rfl
  have hrd : (rd (lceUpd s (fun x => { x with boundary := x.boundary.filter (· != n) })) ENC_POS n + if fwd then 1 else 2 ^ 32 - 1) % 2 ^ 32
      = pos := hpos.symm
  unfold encStep
  extract_lets t v p w d x
  have hp : p = pos := hrd
  have hw : w = u := (congrArg (fun y => wrb (wr v ENC_POS n y) ENC_STATUS_DIR n (!fwd)) hp).trans hdir
  have hd : d = posDiff pos (rd u ENC_HIGH n) := by rw [← hw, ← hp]
  have hx : x = wr u ENC_STATUS_IN_REVERSE n (if posDiff pos (rd u ENC_HIGH n) < 0 then 1 else 0) := by
    rw [← hd, ← hw]
    simp only [x, wrb, decide_eq_true_eq]
  rw [if_pos (hd ▸ hold), hx]

/-- R57: ZMODE 0 leaves the position, 1 keeps it in ZPOS, 2 moves it to ZVAL. -/
theorem zMode_cases (s : State) (n : Nat) :
    (rd s ENC_CTL_ZMODE n = 0 → zMode s n = s)
      ∧ (rd s ENC_CTL_ZMODE n = 1 → zMode s n = wr s ENC_ZPOS n (rd s ENC_POS n))
      ∧ (rd s ENC_CTL_ZMODE n = 2 → ∀ u, u = wr s ENC_ZPOS n (rd s ENC_POS n) →
        zMode s n = wr (wr (wr u ENC_HIGH n (rd u ENC_HIGH n + rd s ENC_ZVAL n + 2 ^ 32 - rd s ENC_POS n)) ENC_POS n (rd s ENC_ZVAL n))
          ENC_STATUS_POS_VALID n 1) := by
  refine ⟨fun h => ?_, fun h => ?_, fun h u hu => ?_⟩
  · simp only [zMode, h]
  · simp only [zMode, h]
  · simp only [zMode, h, hu]

/-! ### Tick candidates -/

theorem candidate_of_idle {t pos : Nat} (h : laceRuns s = false ∨ rd s LCE_CTL_ROLE = 2) : candidate s t pos = s := by
  refine if_pos ?_
  simpa using h

/-- A candidate of a part that is no follower, outside a BLOCK reset, is issued or skipped. -/
theorem candidate_of_running {t pos : Nat} (hrun : laceRuns s = true) (hrole : rd s LCE_CTL_ROLE ≠ 2) (hblk : inBlockReset s 4 = false) :
    candidate s t pos = issueTick s t pos := by
  have hno : (!laceRuns s || rd s LCE_CTL_ROLE == 2) = false := by simp [hrun, hrole]
  unfold candidate
  rw [if_neg (by rw [hno]; decide), if_neg (by rw [hblk]; decide)]

/-- R61: within 10 µs of the previous tick a candidate is skipped. -/
theorem issueTick_of_soon {t pos p : Nat} (hprev : s.lce.prevStamp = some p) (hsoon : timeSince p t < 10000) :
    issueTick s t pos = inc s TICK_SKIP := by
  have hskip : (s.lce.prevStamp.map (fun p => timeSince p t)).any (fun d => decide (d < 10000)) = true := by
    rw [hprev, Option.map_some, Option.any_some, decide_eq_true hsoon]
  rw [issueTick]
  simp only [hskip, if_true]

theorem rd_stampTick (t : TickPend) (f : Fld) (i : Nat) : rd (stampTick s t) f i = rd s f i := rfl

/-- R61: the tick stamped by a candidate that is neither skipped nor early, in a part that stands alone. -/
theorem issueTick_of_due {t pos d : Nat} (hrole : rd s LCE_CTL_ROLE = 0) (hprev : s.lce.prevStamp.map (fun p => timeSince p t) = some d)
    (hfar : 10000 ≤ d) (hmin : rd s LCE_TICK_MIN ≤ d) (hsync : s.lce.resync = false) :
    issueTick s t pos = stampTick s {
      stamp := t, start := t + rd s LCE_LEAD, num := (presetFor s t).getD ((s.lce.prevNum + 1) % 2 ^ 48), early := false,
      late := bit s LCE_STATUS_LATE, resync := (presetFor s t).isSome, interval := d, pos := pos,
      src := tickSrc s, master := rd s FAB_CTL_DEV_ID } := by
  have hskip : (some d).any (fun d => decide (d < 10000)) = false := by
    rw [Option.any_some, decide_eq_false (Nat.not_lt.mpr hfar)]
  have hearly : (some d).any (fun d => decide (d < rd s LCE_TICK_MIN)) = false := by
    rw [Option.any_some, decide_eq_false (Nat.not_lt.mpr hmin)]
  have hstand : (rd s LCE_CTL_ROLE == 1) = false := by rw [hrole]; decide
  rw [issueTick]
  simp only [hprev, hsync, hskip, hearly, Bool.false_eq_true, if_false, Option.getD_some, Bool.false_or, rd_stampTick, hstand]

/-! ### Tick starts -/

/-- R60, R63: what Lace's registers show once a tick has started. -/
theorem tickRegs_shows (h : rwf s.regs = true) (t : TickPend) :
    rd (tickRegs s t) LCE_TICK_NOW = t.num % 2 ^ 48 ∧ rd (tickRegs s t) LCE_TICK_TIME = t.start % 2 ^ 64
      ∧ rd (tickRegs s t) LCE_STATUS_EARLY = (if t.early then 1 else 0) ∧ rd (tickRegs s t) LCE_STATUS_LATE = 0
      ∧ (tickRegs s t).lce = { s.lce with prevStart := some t.start }
      ∧ tickRegs s t = { s with regs := (tickRegs s t).regs, lce := (tickRegs s t).lce } := by
  have h0 : rwf (lceUpd s (fun x => { x with prevStart := some t.start })).regs = true := h
  have h1 := rwf_wr (f := LCE_TICK_NOW) (i := 0) (v := t.num) h0
  have h2 := rwf_wr (f := LCE_TICK_TIME) (i := 0) (v := t.start) h1
  have h3 := rwf_wr (f := LCE_STATUS_EARLY) (i := 0) (v := if t.early then 1 else 0) h2
  have h4 := rwf_wr (f := LCE_STATUS_LATE) (i := 0) (v := 0) h3
  unfold tickRegs
  extract_lets v w x
  have hnow : rd x LCE_TICK_NOW = t.num % 2 ^ 48 := by
    refine (rd_wr_ne LCE_STATUS_LATE LCE_TICK_NOW 0 0 0 h3 (by decide)).trans ?_
    rw [rd_wr_ne _ _ _ _ _ h2 (by decide), rd_wr_ne _ _ _ _ _ h1 (by decide), rd_wr_self _ _ _ h0]
    rfl
  have htime : rd x LCE_TICK_TIME = t.start % 2 ^ 64 := by
    refine (rd_wr_ne LCE_STATUS_LATE LCE_TICK_TIME 0 0 0 h3 (by decide)).trans ?_
    rw [rd_wr_ne _ _ _ _ _ h2 (by decide), rd_wr_self _ _ _ h1]
    rfl
  have hearly : rd x LCE_STATUS_EARLY = if t.early then 1 else 0 := by
    refine (rd_wr_ne LCE_STATUS_LATE LCE_STATUS_EARLY 0 0 0 h3 (by decide)).trans ((rd_wr_self _ _ _ h2).trans ?_)
    cases t.early <;> rfl
  have hlate : rd x LCE_STATUS_LATE = 0 := (rd_wr_self _ _ _ h3).trans rfl
  split
  · have hkeep : ∀ f, fkey f 0 ≠ fkey TICK_QUIESCE 0 → rd (inc x TICK_QUIESCE) f = rd x f := fun f hne => rd_inc_ne _ f 0 0 1 h4 hne
    exact ⟨(hkeep _ (by decide)).trans hnow, (hkeep _ (by decide)).trans htime, (hkeep _ (by decide)).trans hearly,
      (hkeep _ (by decide)).trans hlate, rfl, rfl⟩
  · exact ⟨hnow, htime, hearly, hlate, rfl, rfl⟩

end

/-- Settles O22: the branches of each command, the counts by `encStep_of_not_new`. -/
theorem encoderCounts : Obligations.EncoderCounts := by
  unfold Obligations.EncoderCounts
  refine ⟨?counts, fun s n fwd pos hpos u hu hold => encStep_of_not_new hpos hu hold, ?pairs, ?locks, fun s n => rfl⟩
  case counts =>
    rintro s u n a b rfl
    refine ⟨fun hoff => ?_, fun hon ha hb => ?_, fun hon ha hb => ?_, fun hon hone => ?_⟩ <;> rw [exec_encoderCount, execEncoderCount]
    · simp only [hoff, Bool.not_false, if_true]
      rfl
    · simp only [hon, Bool.not_true, Bool.false_eq_true, if_false, bne_iff_ne.mpr ha, bne_iff_ne.mpr hb, Bool.and_self, if_true]
      rfl
    · simp only [hon, Bool.not_true, Bool.false_eq_true, if_false, ha, hb, bne_self_eq_false, Bool.and_self, beq_self_eq_true, if_true]
      rfl
    · have hboth : (a != nget s.lce.aLvl n false && b != nget s.lce.bLvl n false) = false := by
        rw [Bool.and_eq_false_iff, bne_eq_false_iff_eq, bne_eq_false_iff_eq]
        tauto
      have hnone : (a == nget s.lce.aLvl n false && b == nget s.lce.bLvl n false) = false := by
        rw [Bool.and_eq_false_iff, beq_eq_false_iff_ne, beq_eq_false_iff_ne]
        tauto
      simp only [hon, Bool.not_true, Bool.false_eq_true, if_false, hboth, hnone]
      rfl
  case pairs =>
    rintro s n pair cls f hrun hf
    simp only [exec_encoderPairClassChange, execEncoderPairClassChange, hrun, Bool.not_true, Bool.false_eq_true, if_false]
    by_cases hcls : cls = 0
    case pos => rcases hf with ⟨rfl, rfl⟩ | ⟨rfl, rfl⟩ | ⟨rfl, rfl⟩ <;> (subst hcls; rfl)
    case neg => rcases hf with ⟨rfl, rfl⟩ | ⟨rfl, rfl⟩ | ⟨rfl, rfl⟩ <;> simp only [hcls, if_false]
  case locks =>
    intro s n hon hok
    rw [exec_encLockChange, execEncLockChange, hon, hok]
    rfl

/-- Settles O23: a Z edge by its branches, a position write by reading after its four writes. -/
theorem encoderPositions : Obligations.EncoderPositions := by
  unfold Obligations.EncoderPositions
  refine ⟨⟨?plain, ?tick, fun s n => (zMode_cases s n).1, fun s n => (zMode_cases s n).2.1, fun s u n h hu => (zMode_cases s n).2.2 h u hu⟩,
    ?write⟩
  case plain =>
    intro s n hon hq htick
    rw [exec_zEdge, execZEdge]
    simp only [hon, hq, htick, Bool.not_true, Bool.or_self, Bool.false_eq_true, if_false, Bool.not_false, if_true]
  case tick =>
    rintro s u n hon hq htick rfl
    rw [exec_zEdge, execZEdge]
    simp only [hon, hq, htick, Bool.not_true, Bool.or_self, Bool.false_eq_true, if_false]
  case write =>
    intro s m n v hwf ht
    have hr := regs_of_wf ((acked_wf (s := s) (m := m)).trans hwf)
    have hr1 := rwf_wr (f := ENC_POS) (i := n) (v := v.toNat) hr
    have hr2 := rwf_wr (f := ENC_HIGH) (i := n) (v := v.toNat) hr1
    have hr3 := rwf_wr (f := ENC_STATUS_POS_VALID) (i := n) (v := 1) hr2
    have hv : v.toNat % 2 ^ 32 = v.toNat := Nat.mod_eq_of_lt v.isLt
    refine ⟨encPosSet (acked s m) n v.toNat, ?_, rfl, ?_, ?_, ?_, ?_, fun g j hpos hhigh hvalid hrev => ?_⟩
    · rw [exec_encPosWrite, execEncPosWrite, show ENC_POS.off = 0x400108 from rfl, asMaster_taken ht]
    · rw [encPosSet, rd_wr_ne _ _ _ _ _ hr3 (fkey_ne_of_place _ _ (by decide)), rd_wr_ne _ _ _ _ _ hr2 (fkey_ne_of_place _ _ (by decide)),
        rd_wr_ne _ _ _ _ _ hr1 (fkey_ne_of_place _ _ (by decide)), rd_wr_self _ _ _ hr]
      exact hv
    · rw [encPosSet, rd_wr_ne _ _ _ _ _ hr3 (fkey_ne_of_place _ _ (by decide)), rd_wr_ne _ _ _ _ _ hr2 (fkey_ne_of_place _ _ (by decide)),
        rd_wr_self _ _ _ hr1]
      exact hv
    · rw [encPosSet, rd_wr_ne _ _ _ _ _ hr3 (fkey_ne_of_place _ _ (by decide)), rd_wr_self _ _ _ hr2]
      rfl
    · rw [encPosSet, rd_wr_self _ _ _ hr3]
      rfl
    · rw [encPosSet, rd_wr_ne _ _ _ _ _ hr3 hrev, rd_wr_ne _ _ _ _ _ hr2 hvalid, rd_wr_ne _ _ _ _ _ hr1 hhigh, rd_wr_ne _ _ _ _ _ hr hpos,
        rd_acked]

/-- Settles O24: the sources' candidates by their branches; what becomes of a candidate by `issueTick_of_soon` and `issueTick_of_due`. -/
theorem tickCandidates : Obligations.TickCandidates := by
  unfold Obligations.TickCandidates
  refine ⟨⟨?tin, ?timer, ?lock⟩, ?skipped, ?stamped, fun s t pos h => candidate_of_idle h⟩
  case tin =>
    intro s u skip hsrc hrun hskip hfirst hlater
    have hany : s.lce.prevStamp.any (fun p => decide (timeSince p (devTime s) < 10000)) = skip := by
      rw [Bool.eq_iff_iff, hskip, Option.any_eq_true]
      simp
    rw [exec_laceTinEdge, execLaceTinEdge]
    simp only [hsrc, hrun, hany, bne_self_eq_false, Bool.not_true, Bool.or_self, Bool.false_eq_true, if_false]
    cases htin : s.lce.tinPrev with
    | none => simp only [Option.map_none, hfirst htin, lceUpd]
    | some p => simp only [Option.map_some, hlater p htin, lceUpd]
  case timer =>
    intro s hsrc
    exact congrArg Host.Outcome.next (if_pos (beq_iff_eq.mpr hsrc))
  case lock =>
    intro s hsrc hrun
    rw [exec_timerSourceLock, execTimerSourceLock, hsrc, hrun]
    rfl
  case skipped =>
    intro s t pos p hrun hrole hblk hprev hsoon
    rw [candidate_of_running hrun hrole hblk, issueTick_of_soon hprev hsoon]
  case stamped =>
    rintro s t pos p hrun hrole hblk hprev hfar hmin hsync a k rfl rfl
    have hfollow : rd s LCE_CTL_ROLE ≠ 2 := by rw [hrole]; decide
    rw [candidate_of_running hrun hfollow hblk, issueTick_of_due hrole (d := timeSince p t) (by rw [hprev, Option.map_some]) hfar hmin hsync]
    rfl

/-- Settles O25: the branches of the two commands, and reading after the writes of `tickRegs`. -/
theorem tickStarts : Obligations.TickStarts := by
  unfold Obligations.TickStarts
  refine ⟨⟨?starts, ?late⟩, ?regs⟩
  case starts =>
    intro s u v t l hpend hrun hblk hu hv
    simp only [exec_tickStart, execTickStart, hpend, hrun, hblk, Bool.not_true, Bool.or_self, Bool.false_eq_true, if_false]
    rw [tickStart, show tickRegs (lceUpd s (fun x => { x with pend := l })) t = u from hu.symm, ← hv]
  case late =>
    rintro s u hprev hrun rfl v rfl
    have hnone : s.lce.prevStart.isNone = false := by simpa using hprev
    rw [exec_tickLate, execTickLate]
    simp only [hnone, hrun, Bool.not_true, Bool.or_self, Bool.false_eq_true, if_false]
    rfl
  case regs =>
    rintro s t' t hwf rfl
    exact tickRegs_shows (regs_of_wf hwf) t

/-- Settles O26: each write and each trigger command by its branches. -/
theorem laceWritesAndTriggers : Obligations.LaceWritesAndTriggers := by
  unfold Obligations.LaceWritesAndTriggers
  refine ⟨⟨?offset, ?preset, ?follower, ?source, ?tickMin⟩, ?fire, ?pulseEnd, ?soft⟩
  case offset =>
    intro s m v ht hrole
    rw [exec_timeOffsetWrite, execTimeOffsetWrite, show LCE_TIME_OFS.off = 0x400038 from rfl, asMaster_taken ht, timeOfsSet,
      beq_eq_false_iff_ne.mpr hrole, if_neg Bool.false_ne_true]
  case preset =>
    intro s m v ht hrole
    rw [exec_tickPresetWrite, execTickPresetWrite, show LCE_TICK_PRESET.off = 0x400040 from rfl, asMaster_taken ht, presetSet,
      beq_eq_false_iff_ne.mpr hrole, if_neg Bool.false_ne_true, Nat.mod_eq_of_lt v.isLt, lceUpd, ← acked_lce s m]
    rfl
  case follower =>
    intro s m v w hrole
    refine ⟨fun ht => ?_, fun ht => ?_⟩
    · rw [exec_timeOffsetWrite, execTimeOffsetWrite, show LCE_TIME_OFS.off = 0x400038 from rfl, asMaster_taken ht, timeOfsSet, hrole]
      rfl
    · rw [exec_tickPresetWrite, execTickPresetWrite, show LCE_TICK_PRESET.off = 0x400040 from rfl, asMaster_taken ht, presetSet, hrole]
      rfl
  case source =>
    rintro s u x m v ht rfl rfl
    refine ⟨fun hlock => ?_, fun hlock hsame => ?_, fun hlock hdiff => ?_⟩ <;>
      rw [exec_tickSourceWrite, execTickSourceWrite, show LCE_CTL_SRC.off = 0x400000 from rfl, asMaster_taken ht, tickSourceSet]
    · simp only [hlock, if_true]
    · simp only [hlock, Bool.false_eq_true, if_false, hsame, beq_self_eq_true, if_true]
    · simp only [hlock, Bool.false_eq_true, if_false, beq_eq_false_iff_ne.mpr hdiff]
      rfl
  case tickMin =>
    intro s m v ht
    rw [exec_tickMinWrite, execTickMinWrite, show LCE_TICK_MIN.off = 0x400008 from rfl, asMaster_taken ht]
  case fire =>
    rintro s u m t l hfires hrun hen rfl
    have hrun' : laceRuns (lceUpd s (fun x => { x with fires := nset [] x.fires m l })) = true := hrun
    have hen' : bit (lceUpd s (fun x => { x with fires := nset [] x.fires m l })) TRIG_CTL_EN m = true := hen
    refine ⟨fun hact => ?_, fun hact => ?_⟩ <;>
      simp only [exec_triggerFire, execTriggerFire, hfires, hrun', hen', Bool.not_true, Bool.or_self, Bool.false_eq_true, if_false]
    · rw [show (lceUpd s (fun x => { x with fires := nset [] x.fires m l })).lce.active = s.lce.active from rfl, hact, if_pos rfl]
      rfl
    · rw [show (lceUpd s (fun x => { x with fires := nset [] x.fires m l })).lce.active = s.lce.active from rfl, hact,
        if_neg Bool.false_ne_true]
      rfl
  case pulseEnd =>
    intro s m hact
    exact congrArg Host.Outcome.next (if_pos hact)
  case soft =>
    intro s m k ht hrun hen hmode
    have hlce : (acked s m).lce = s.lce := acked_lce s m
    refine ⟨fun hfew => ?_, fun hmany => ?_⟩ <;>
      simp only [exec_triggerFireWrite, execTriggerFireWrite, show TRIG_CTL_FIRE.off = 0x400200 from rfl, asMaster_taken ht, softFire, hrun,
        hen, hmode, beq_self_eq_true, Bool.and_self, if_true, schedule, hlce]
    · rw [if_neg (by omega), lceUpd, hlce]
    · rw [if_pos hmany]

/-- Settles O27: the branches of `recordIn` in turn, and those of a lost alignment. -/
theorem fabricTicks : Obligations.FabricTicks := by
  unfold Obligations.FabricTicks
  refine ⟨?records, ?lost⟩
  case records =>
    intro s0 s p r hs hrun hblk
    have hopen : (!laceRuns s || inBlockReset s 4) = false := by rw [hrun, hblk]; rfl
    simp only [exec_tickRecordReceive, execTickRecordReceive, ← hs, recordIn, hopen, Bool.false_eq_true, if_false]
    refine ⟨fun hrole => ?alone, fun hrole => ?master, fun hrole hid => ?other, ?follows⟩
    case alone => simp only [hrole]; rfl
    case master =>
      simp only [hrole]
      by_cases hid : r.masterId.toNat = rd s FAB_CTL_DEV_ID <;> simp [hid, raiseIf]
    case other => simp [hrole, hid]
    case follows =>
      rintro u hrole hid rfl
      have hfresh : (∀ n, s.lce.lastRec = some n → tickAfter r.tickNum.toNat n = true) →
          s.lce.lastRec.any (fun n => !tickAfter r.tickNum.toNat n) = false := fun hnew => by
        cases hlast : s.lce.lastRec with
        | none => rfl
        | some n => rw [Option.any_some, hnew n hlast, Bool.not_true]
      refine ⟨fun n hlast hold => ?old, fun hnew => ⟨fun hport => ?otherPort, fun hport => ?taken⟩⟩
      case old =>
        have hany : s.lce.lastRec.any (fun n => !tickAfter r.tickNum.toNat n) = true := by rw [hlast, Option.any_some, hold, Bool.not_false]
        simp only [hrole, hid, bne_self_eq_false, Bool.false_eq_true, if_false, lceUpd, hany, if_true]
      case otherPort =>
        simp only [hrole, hid, bne_self_eq_false, Bool.false_eq_true, if_false, lceUpd, hfresh hnew, bne_iff_ne.mpr hport, if_true]
      case taken =>
        simp only [hrole, hid, bne_self_eq_false, Bool.false_eq_true, if_false, lceUpd, hfresh hnew, hport]
  case lost =>
    intro s c hrole hrun
    rw [exec_alignmentLost, execAlignmentLost, hrole, hrun]
    rfl

end Sys2Proof.Machine
end

section
/-!
SUPPORT. Registers after a list of writes; matching, spill, readback and egress (R77, R85 to R103, R117, R289, R410, R411, R548), what goes wrong
with cut-through, held inputs and the VOQ selector (R95 to R100, R106, R112), with the statements about these.
-/
namespace Sys2Proof.Machine

/-! ### A list of register writes -/

/-- The writes of `l`, in order. -/
def wrAll (s : State) : List (Fld × Nat × Nat) → State
  | [] => s
  | e :: l => wrAll (wr s e.1 e.2.1 e.2.2) l

/-- The key that a write of a list is of. -/
def wrKey (e : Fld × Nat × Nat) : Nat := fkey e.1 e.2.1

theorem rd_wrAll_ne {g : Fld} {j : Nat} : ∀ {s : State} {l : List (Fld × Nat × Nat)}, rwf s.regs = true → fkey g j ∉ l.map wrKey →
    rd (wrAll s l) g j = rd s g j
  | _, [], _, _ => rfl
  | s, e :: l, h, hout => by
    rw [List.map_cons, List.mem_cons, not_or] at hout
    rw [wrAll, rd_wrAll_ne (rwf_wr h) hout.2]
    exact rd_wr_ne _ _ _ _ _ h hout.1

/-- A field that one write of the list names reads as what it wrote. -/
theorem rd_wrAll_mem {f : Fld} {i v : Nat} : ∀ {s : State} {l : List (Fld × Nat × Nat)}, rwf s.regs = true → (l.map wrKey).Nodup →
    (f, i, v) ∈ l → rd (wrAll s l) f i = v % 2 ^ (f.width % 128)
  | s, e :: l, h, hnodup, hmem => by
    rw [List.map_cons, List.nodup_cons] at hnodup
    rcases List.mem_cons.mp hmem with rfl | hmem
    · rw [wrAll, rd_wrAll_ne (rwf_wr h) hnodup.1]
      exact rd_wr_self _ _ _ h
    · exact rd_wrAll_mem (s := wr s _ _ _) (rwf_wr h) hnodup.2 hmem

/-- A list of register writes changes the registers alone. -/
theorem wrAll_eq : ∀ (s : State) (l : List (Fld × Nat × Nat)), wrAll s l = { s with regs := (wrAll s l).regs }
  | _, [] => rfl
  | s, e :: l => wrAll_eq (wr s e.1 e.2.1 e.2.2) l

section
variable {s : State}

/-! ### Engines that go on (R100) -/

theorem pumpFreed_of_freed {t : State} (h : ∃ k < 8, clusterHeld s k = true ∧ clusterHeld t k = false) : pumpFreed s t = pumpAll t := by
  obtain ⟨k, hk, hs, ht⟩ := h
  refine if_pos (List.any_eq_true.mpr ⟨k, List.mem_range.mpr hk, ?_⟩)
  rw [hs, ht]
  rfl

theorem pumpFreed_of_held {t : State} (h : ∀ k < 8, clusterHeld s k = true → clusterHeld t k = true) : pumpFreed s t = t := by
  refine if_neg fun hany => ?_
  obtain ⟨k, hk, hboth⟩ := List.any_eq_true.mp hany
  rw [Bool.and_eq_true, Bool.not_eq_true'] at hboth
  exact Bool.eq_false_iff.mp hboth.2 (h k (List.mem_range.mp hk) hboth.1)

/-- R86 to R90: the matching of one cell slot. -/
theorem packetMatch_of_forwards (h : forwards s = true) : packetMatch s =
    let u := xbarSlot s
    let v := guardCount u (busyInputs u) (u.shk.xbar.map (·.o))
    let w := (matchRound (matchRound (matchRound (v, busyInputs v, u.shk.xbar.map (·.o))))).1
    release (overBudget { w with shk := { w.shk with
      voq := w.shk.voq.map (fun e => (e.1, e.2.map (fun q => { q with fresh := false }))) } }) := by
  unfold packetMatch
  rw [if_neg (by rw [h]; decide)]

/-! ### Readback -/

theorem readBack_eq {k n : Nat} {q : QPkt} (hfind : (unwritten s k).find? (fun e => e.1.ovf != 0) = some (q, n)) (hwritten : n < q.ovf)
    (hwants : wantsBack s k = true) (r : Readback) : readBack s k r = match r with
      | .uncorrectable lost =>
        release (overBudget (voqLose (if lost then raise (inc (raise s (0x584 + q.qtr)) OFM_GRP_UNCORR q.qtr) (0x588 + q.qtr)
          else inc (raise s (0x584 + q.qtr)) OFM_GRP_UNCORR q.qtr) k .ca (fun p => p.seq == q.seq)))
      | .corrected => release (unspill (raise (inc (inc (voqSet s k (readOne (voq s k))) SHK_Q_READBACK q.qtr) OFM_GRP_CORR q.qtr)
          (0x580 + q.qtr)) k)
      | .clean => release (unspill (inc (voqSet s k (readOne (voq s k))) SHK_Q_READBACK q.qtr) k) := by
  have hno : (decide (q.ovf ≤ n) || !wantsBack s k) = false := by
    rw [hwants, decide_eq_false (Nat.not_le.mpr hwritten)]
    rfl
  unfold readBack
  simp only [hfind, hno, Bool.false_eq_true, if_false]
  cases r <;> rfl

/-! ### Egress -/

/-- The staged packets that output `p` may send: of a T-link by its credits and its replay, of a PCIe port by the partner's credits. -/
def egressReady (s : State) (p : Nat) (crP crNP crC : Bool) (x : Staged) : Bool :=
  if isTlink s p then tlinkTakes s p x.q.cls (stitchesOf x.q.pk) && (grouped s p x.q).isSome
  else match x.q.pk.kind with | .posted => crP | .nonPosted => crNP | .completion => crC

/-- The staged packets that wait for flow-control credit. -/
def egressShort (s : State) (p : Nat) (crP crNP crC : Bool) (x : Staged) : Bool :=
  if isTlink s p then creditShort s p x.q.cls (stitchesOf x.q.pk)
  else !(match x.q.pk.kind with | .posted => crP | .nonPosted => crNP | .completion => crC)

/-- The staged packet `x` leaves output `p`, is counted, and closes its access. -/
def egressLeave (s : State) (p : Nat) (x : Staged) : State :=
  let s := unstage s p x.q.seq
  let s := if x.own then s else inc s (if x.ct then CT_PKTS else SF_PKTS) p
  if x.q.pk.kind = .posted then awtClosePosted s x.q.seq else s

/-- The link of output `p` takes it. -/
def egressLink (s : State) (p : Nat) (x : Staged) : State :=
  if isTlink s p then
    match grouped s p x.q with
    | some (s, q) => tlinkSend s p q x.own false
    | none => s
  else emit s (.sent p x.q.pk false)

/-- The branches of `execEgressTransmit`, by these names. -/
theorem execEgressTransmit_eq (p : Fin 64) (crP crNP crC : Bool) (s : State) : execEgressTransmit p crP crNP crC s = .next (
    if !linkUp s p then s
    else if striped s p && (tlAt s p).replayAt.isSome then replaySlot s p
    else match nextStaged s p (egressReady s p crP crNP crC) (egressShort s p crP crNP crC) [] (nget s.shk.staging p []) with
      | none => s
      | some x => durDone (egressLink (egressLeave s p x) p x)) := rfl

/-- R85, R94: an output whose link is up and that is not sending again sends its next staged packet. -/
theorem exec_egressTransmit_of_next {p : Fin 64} {a b c : Bool} {x : Staged} (hup : linkUp s p = true)
    (hreplay : (striped s p && (tlAt s p).replayAt.isSome) = false)
    (hnext : nextStaged s p (egressReady s p a b c) (egressShort s p a b c) [] (nget s.shk.staging p []) = some x) :
    exec (.egressTransmit p a b c) s = .next (durDone (egressLink (egressLeave s p x) p x)) := by
  rw [exec_egressTransmit, execEgressTransmit_eq, hup, hreplay, hnext]
  rfl

/-! ### The VOQ selector -/

/-- R112: what the registers take from VOQ (`i`, `o`, `c`), whose packets are `l`. -/
def voqSample (i o c : Nat) (l : List QPkt) : List (Fld × Nat × Nat) :=
  [(SHK_VOQ_SEL_IN, 0, i), (SHK_VOQ_SEL_OUT, 0, o), (SHK_VOQ_SEL_TC, 0, c), (SHK_VOQ_CELLS, 0, min 32767 (chipCells l)),
    (SHK_VOQ_OVF, 0, ovfCells l), (SHK_VOQ_PKTS_P, 0, min 1023 (l.filter (fun q => q.ovf = 0 && q.pk.kind = .posted)).length),
    (SHK_VOQ_PKTS_NP, 0, min 1023 (l.filter (fun q => q.ovf = 0 && q.pk.kind = .nonPosted)).length),
    (SHK_VOQ_PKTS_CPL, 0, min 1023 (l.filter (fun q => q.ovf = 0 && q.pk.kind = .completion)).length)]

theorem voqSelect_eq (s : State) (v : Nat) : voqSelect s v =
    wrAll s (voqSample (min (v % 128) 71) (min (v / 256 % 128) 71) (v / 65536 % 8)
      (voq s (voqKey (min (v % 128) 71) (min (v / 256 % 128) 71) (v / 65536 % 8)))) := rfl

theorem rd_wrAll_voqSample (h : rwf s.regs = true) (i o c : Nat) (l : List QPkt) {f : Fld} {v : Nat} (hmem : (f, 0, v) ∈ voqSample i o c l) :
    rd (wrAll s (voqSample i o c l)) f = v % 2 ^ (f.width % 128) :=
  rd_wrAll_mem h (show [fkey SHK_VOQ_SEL_IN 0, fkey SHK_VOQ_SEL_OUT 0, fkey SHK_VOQ_SEL_TC 0, fkey SHK_VOQ_CELLS 0, fkey SHK_VOQ_OVF 0,
    fkey SHK_VOQ_PKTS_P 0, fkey SHK_VOQ_PKTS_NP 0, fkey SHK_VOQ_PKTS_CPL 0].Nodup by decide) hmem

end

/-- Settles O31: matching by its definition, overflow by the branches of the two commands, egress by `exec_egressTransmit_of_next`. -/
theorem switchingAndEgress : Obligations.SwitchingAndEgress := by
  unfold Obligations.SwitchingAndEgress
  refine ⟨?matching, ⟨?spill, ?back, ?lost⟩, ?pcie, ?tlink, ?replay⟩
  case matching =>
    intro s u v w x hfwd hu hv hw hx
    have hmatch : packetMatch s = x := by rw [packetMatch_of_forwards hfwd, hx, hw, hv, hu]
    rw [exec_packetMatch, execPacketMatch, hmatch]
    exact ⟨fun hfreed => congrArg _ (pumpFreed_of_freed hfreed), fun hheld => congrArg _ (pumpFreed_of_held hheld)⟩
  case spill =>
    intro s u i o c q n hfind hu
    simp only [exec_spillWriteDone, execSpillWriteDone, hfind, hu]
  case back =>
    intro s u i o c q n hfind hwritten hwants hu
    rw [exec_readbackComplete, execReadbackComplete, exec_readbackComplete, execReadbackComplete, readBack_eq hfind hwritten hwants,
      readBack_eq hfind hwritten hwants, hu]
    exact ⟨rfl, rfl⟩
  case lost =>
    intro s u i o c q n lost hfind hwritten hwants hu
    rw [exec_readbackComplete, execReadbackComplete, readBack_eq hfind hwritten hwants, hu]
  case pcie =>
    intro s u v p a b c x cr hup hstr htl hcr hnext hu hv htlv
    have hready : egressReady s p a b c = cr := by
      rw [hcr]
      funext x
      rw [egressReady, htl, if_neg Bool.false_ne_true] <;> rfl
    have hshort : egressShort s p a b c = fun x => !cr x := by
      rw [hcr]
      funext x
      rw [egressShort, htl, if_neg Bool.false_ne_true] <;> rfl
    have hleave : egressLeave s p x = v := by rw [hv, hu]; rfl
    rw [exec_egressTransmit_of_next hup (by rw [hstr]; rfl) (by rw [hready, hshort]; exact hnext), hleave, egressLink, htlv,
      if_neg Bool.false_ne_true]
  case tlink =>
    intro s u v w p a b c x q hup htl hrep hnext hu hv htlv hgrp
    have hready : egressReady s p a b c = fun x => tlinkTakes s p x.q.cls (stitchesOf x.q.pk) && (grouped s p x.q).isSome := by
      funext x
      rw [egressReady, htl, if_pos rfl]
    have hshort : egressShort s p a b c = fun x => creditShort s p x.q.cls (stitchesOf x.q.pk) := by
      funext x
      rw [egressShort, htl, if_pos rfl]
    have hleave : egressLeave s p x = v := by rw [hv, hu]; rfl
    rw [exec_egressTransmit_of_next hup (by rw [hrep]; exact Bool.and_false _) (by rw [hready, hshort]; exact hnext), hleave, egressLink, htlv,
      if_pos rfl, hgrp]
  case replay =>
    intro s p a b c r hup hstr hrep
    rw [exec_egressTransmit, execEgressTransmit_eq, hup, hstr, hrep]
    rfl

/-- Settles O32: each command by the packet in cut-through that it finds, and the selector's registers by its list of writes. -/
theorem cutThroughAndHolds : Obligations.CutThroughAndHolds := by
  unfold Obligations.CutThroughAndHolds
  refine ⟨⟨?bad, ?endBad⟩, ?window, ?held, ?select⟩
  case bad =>
    intro s o x hct
    refine ⟨?_, fun htl => ⟨?_, ?_⟩, fun htl => ?_⟩
    · simp only [exec_ctCheckFail, execCtCheckFail, hct]
    · simp only [exec_ctUnderrun, execCtUnderrun, hct, htl, if_true]
    · simp only [exec_ctHoldMaxExpiry, execCtHoldMaxExpiry, hct, htl, if_true]
    · simp only [exec_ctUnderrun, execCtUnderrun, hct, htl, Bool.false_eq_true, if_false]
  case endBad =>
    intro s u p pk hstr hblk hu
    refine ⟨?_, fun o x hct => ?_⟩ <;>
      simp only [exec_dataEndBadReceive, execDataEndBadReceive, hstr, hblk, Bool.not_true, Bool.or_self, Bool.false_eq_true, if_false, ← hu]
    rw [hct]
  case window =>
    intro s p hwin
    exact congrArg Host.Outcome.next (if_pos hwin)
  case held =>
    intro s a hheld
    exact congrArg Host.Outcome.next (if_pos hheld)
  case select =>
    intro s m v i o l hwf ht hi ho hl
    have hregs := regs_of_wf ((acked_wf s m).trans hwf)
    have heq : voqSelect (acked s m) v.toNat = wrAll (acked s m) (voqSample i o (v.toNat / 65536 % 8) l) := by
      rw [voqSelect_eq, hl, hi, ho, voq, voq, acked_shk]
    have hread : ∀ {f : Fld} {x : Nat}, (f, 0, x) ∈ voqSample i o (v.toNat / 65536 % 8) l → x < 2 ^ (f.width % 128) →
        rd (wrAll (acked s m) (voqSample i o (v.toNat / 65536 % 8) l)) f = x := fun hmem hfit => by
      rw [rd_wrAll_voqSample hregs _ _ _ _ hmem, Nat.mod_eq_of_lt hfit]
    have hcells : min 32767 (chipCells l) < 2 ^ 15 := by omega
    have hpkts : ∀ n : Nat, min 1023 n < 2 ^ 10 := fun n => by omega
    have hi' : i < 2 ^ 7 := by omega
    have ho' : o < 2 ^ 7 := by omega
    have hc' : v.toNat / 65536 % 8 < 2 ^ 3 := Nat.mod_lt _ (by decide)
    refine ⟨_, ?_, wrAll_eq (acked s m) (voqSample i o (v.toNat / 65536 % 8) l), hread (by simp [voqSample]) hi', hread (by simp [voqSample]) ho',
      hread (by simp [voqSample]) hc', hread (by simp [voqSample]) hcells, ?_,
      hread (by simp [voqSample]) (hpkts _), hread (by simp [voqSample]) (hpkts _), hread (by simp [voqSample]) (hpkts _)⟩
    · rw [exec_voqSelectWrite, execVoqSelectWrite, show SHK_VOQ_SEL_IN.off = 0x300900 from rfl, asMaster_taken ht, heq]
    · rw [rd_wrAll_voqSample hregs _ _ _ _ (f := SHK_VOQ_OVF) (v := ovfCells l) (by simp [voqSample])]
      rfl

end Sys2Proof.Machine
end

section
/-!
SUPPORT. Gates, commits, shapers, quotas and durable classes (R114 to R128, R414, R415); windows, seal writes, sealing and decisions (R137, R140,
R144, R148 to R160, R425), with the statements about these.
-/
namespace Sys2Proof.Machine

section
variable {s : State}

/-! ### Gates -/

/-- R116: in the cases that the rule names a boundary changes nothing. -/
theorem exec_gateBoundary_of_still {p : Fin 64} (h : gatesApply s p = false ∨ s.gate.frozen.contains p.val = true
      ∨ (nget? s.gate.latched p.val).isSome = true ∨ nget? s.gate.base p.val = none
      ∨ bit s SHK_GATE_ENT_LAST (entIdx p (activeBank s p) (rd s SHK_GATE_STATUS_ENTRY p)) = true) :
    exec (.gateBoundary p) s = .next s := by
  refine congrArg Host.Outcome.next (if_neg fun hall => ?_)
  simp only [Bool.and_eq_true, Bool.not_eq_true', decide_eq_true_eq] at hall
  obtain ⟨⟨⟨⟨⟨hgates, hfrozen⟩, hlatched⟩, hbase⟩, hlast⟩, hlt⟩ := hall
  rcases h with h | h | h | h | h
  · rw [h] at hgates; cases hgates
  · rw [h] at hfrozen; cases hfrozen
  · rw [Option.isNone_iff_eq_none.mp hlatched] at h; cases h
  · rw [h] at hbase; cases hbase
  · rw [h] at hlast; cases hlast

theorem pumpFreed_self : pumpFreed s s = s := pumpFreed_of_held fun _ _ h => h

/-! ### Windows -/

/-- R158, R159, R425: what a seal write does, for the 8-byte writes that the command makes. -/
theorem sealWrite_cases (s : State) (w off : Nat) (c : Cell) (hbe : c.pk.fbe = 15 ∧ c.pk.lbe = 15) {slot u : Nat}
    (hslot : slot = leNat (c.pk.data.take 1) % 64) (hu : u = off / 8 * winD s w + slot) :
    (c.pk.data.length ≠ 8 ∨ off % 8 ≠ 0 ∨ mode s = mDRAIN → sealWrite s w off c = inc (creditBack s c.inp c.vl c.pk) SEAL_IGN w)
      ∧ (c.pk.data.length = 8 → off % 8 = 0 → mode s ≠ mDRAIN → bit s PLC_WIN_CTL_EN w = true →
        ((off / 8 < winH s w → slot < winD s w → inBlockReset s 5 = false
            ∧ (puAt s (rd s PLC_WIN_GEOM_PUBASE w + u)).held.any (fun h => h.inp == c.inp) = false) →
          sealWrite s w off c = (sealNamed (creditBack s c.inp c.vl c.pk) w (off / 8) slot (leNat (c.pk.data.drop 4))).1)
        ∧ (off / 8 < winH s w → slot < winD s w → inBlockReset s 5 = true
            ∨ (puAt s (rd s PLC_WIN_GEOM_PUBASE w + u)).held.any (fun h => h.inp == c.inp) = true →
          sealWrite s w off c = placeHold (puPlace s w (rd s PLC_WIN_GEOM_PUBASE w + u) u) (rd s PLC_WIN_GEOM_PUBASE w + u) c off true)) := by
  subst hslot hu
  obtain ⟨hf, hl⟩ := hbe
  refine ⟨fun hbad => ?_, fun hlen hoff hmode hen => ⟨fun hnamed => ?_, fun hhead hslot hheld => ?_⟩⟩
  · have hgood : (decide (c.pk.data.length = 8) && decide (c.pk.fbe = 15) && decide (c.pk.lbe = 15) && decide (off % 8 = 0)
        && mode s != mDRAIN) = false := by
      rcases hbad with h | h | h <;> simp [h]
    simp only [sealWrite, hgood, Bool.not_false, if_true]
  · have hgood : (decide (c.pk.data.length = 8) && decide (c.pk.fbe = 15) && decide (c.pk.lbe = 15) && decide (off % 8 = 0)
        && mode s != mDRAIN) = true := by simp [hlen, hf, hl, hoff, hmode]
    have hfree : (bit s PLC_WIN_CTL_EN w && decide (off / 8 < winH s w) && decide (leNat (c.pk.data.take 1) % 64 < winD s w)
        && (inBlockReset s 5 || (puAt s (rd s PLC_WIN_GEOM_PUBASE w + (off / 8 * winD s w + leNat (c.pk.data.take 1) % 64))).held.any
          (fun h => h.inp == c.inp))) = false := by
      rw [Bool.and_eq_false_iff, Bool.and_eq_false_iff, Bool.and_eq_false_iff, decide_eq_false_iff_not, decide_eq_false_iff_not,
        Bool.or_eq_false_iff]
      tauto
    simp only [sealWrite, hgood, hfree, Bool.not_true, Bool.false_eq_true, if_false]
  · have hgood : (decide (c.pk.data.length = 8) && decide (c.pk.fbe = 15) && decide (c.pk.lbe = 15) && decide (off % 8 = 0)
        && mode s != mDRAIN) = true := by simp [hlen, hf, hl, hoff, hmode]
    have hwait : (bit s PLC_WIN_CTL_EN w && decide (off / 8 < winH s w) && decide (leNat (c.pk.data.take 1) % 64 < winD s w)
        && (inBlockReset s 5 || (puAt s (rd s PLC_WIN_GEOM_PUBASE w + (off / 8 * winD s w + leNat (c.pk.data.take 1) % 64))).held.any
          (fun h => h.inp == c.inp))) = true := by
      rw [Bool.and_eq_true, Bool.and_eq_true, Bool.and_eq_true, decide_eq_true_eq, decide_eq_true_eq, Bool.or_eq_true]
      exact ⟨⟨⟨hen, hhead⟩, hslot⟩, hheld⟩
    simp only [sealWrite, hgood, hwait, Bool.not_true, Bool.false_eq_true, if_false, if_true]

/-- R156, R160: what sealing leaves, for a PU in OPEN or GRACE. -/
theorem sealPu_of_open {k reason : Nat} (h : (puAt s k).state = 2 ∨ (puAt s k).state = 3) : sealPu s k reason =
    let u := inc (puSet s k { puAt s k with state := 4, sealR := reason, sealTime := devTime s % 2 ^ 32 }) SEALED (puAt s k).window
    let v := if (puAt s k).ing < (puAt s k).size then inc u SHORT (puAt s k).window else u
    if (puAt s k).broken || (puAt s k).ing == 0 then recDue v k else v := by
  refine if_neg ?_
  rcases h with h | h <;> rw [h] <;> decide

theorem sealPu_of_other {k reason : Nat} (h2 : (puAt s k).state ≠ 2) (h3 : (puAt s k).state ≠ 3) : sealPu s k reason = s := by
  refine if_pos ?_
  rw [bne_iff_ne.mpr h2, bne_iff_ne.mpr h3]
  rfl

end

/-- Settles O33: each command by its branches. -/
theorem gatesAndShapers : Obligations.GatesAndShapers := by
  unfold Obligations.GatesAndShapers
  refine ⟨?boundary, ⟨?commands, ?done⟩, ⟨?rate, ?burst⟩, ?quota, ?durTc, ?durTcOther⟩
  case boundary =>
    rintro s p i rfl
    refine ⟨fun hgates hfrozen hlatched hbase hlast hlt => ?_, exec_gateBoundary_of_still⟩
    refine congrArg Host.Outcome.next (if_pos ?_)
    rw [hgates, hfrozen, hlatched, hbase, hlast, decide_eq_true hlt]
    rfl
  case commands =>
    intro s m ht
    constructor
    · rw [exec_gateCommitGo, execGateCommitGo, show SHK_GATE_COMMIT_GO.off = 0x340010 from rfl, asMaster_taken ht, gateCommitStart, acked_gate]
    · rw [exec_gateCommitCancel, execGateCommitCancel, show SHK_GATE_COMMIT_CANCEL.off = 0x340010 from rfl, asMaster_taken ht, gateCommitCancel]
  case done =>
    intro s u hrun hu
    refine ⟨fun code p e hfail => ?_, fun hpass => ?_⟩ <;>
      simp only [exec_gateCommitDone, execGateCommitDone, hrun, Bool.not_true, Bool.false_eq_true, if_false, ← hu]
    · rw [hfail]
    · rw [hpass]
  case rate =>
    rintro s u m pol p c v ht rfl
    rw [exec_shaperRateWrite, execShaperRateWrite, show SHK_SHP_RATE.off = 0x360000 from rfl, asMaster_taken ht, rateSet]
    simp only [Bool.and_eq_true, beq_iff_eq, bne_iff_ne]
    cases pol <;> rfl
  case burst =>
    rintro s u m pol p c v b ht rfl rfl
    rw [exec_shaperBurstWrite, execShaperBurstWrite, show SHK_SHP_BURST.off = 0x360004 from rfl, asMaster_taken ht, burstSet]
    cases pol <;> rfl
  case quota =>
    intro s m n c v ht
    rw [exec_ofmQuotaWrite, execOfmQuotaWrite, show OFM_QUOTA.off = 0xB00100 from rfl, asMaster_taken ht, ofmQuotaSet, ofmQuotaPut]
  case durTc =>
    intro s m v ht hmode
    have hopen : (mode (acked s m) == mSETUP || mode (acked s m) == mQUIESCE) = true := by simpa using hmode
    rw [exec_durTcWrite, execDurTcWrite, show OFM_CTL_DUR_TC.off = 0xB00000 from rfl, asMaster_taken ht, durTcSet, durTcPut, hopen, if_pos rfl]
  case durTcOther =>
    intro s m v ht hsetup hquiesce
    have hshut : (mode (acked s m) == mSETUP || mode (acked s m) == mQUIESCE) = false := by
      rw [beq_eq_false_iff_ne.mpr hsetup, beq_eq_false_iff_ne.mpr hquiesce]
      rfl
    rw [exec_durTcWrite, execDurTcWrite, show OFM_CTL_DUR_TC.off = 0xB00000 from rfl, asMaster_taken ht, durTcSet, durTcPut, hshut,
      if_neg Bool.false_ne_true, pumpFreed_self]

/-- Settles O34: windows and grace by their branches, seal writes by `sealWrite_cases`, sealing by `sealPu_of_open`. -/
theorem placementWindows : Obligations.PlacementWindows := by
  unfold Obligations.PlacementWindows
  refine ⟨⟨?enable, ?disable, ?sealing, ?grace⟩, ?sealed⟩
  case enable =>
    intro s u m w ht hu hoff
    refine ⟨fun herr => ?_, fun hok v hv => ?_⟩ <;>
      rw [exec_windowEnable, execWindowEnable, asMaster_taken ht, ← hu, windowOn, hoff, if_neg Bool.false_ne_true]
    · exact congrArg _ (if_pos (bne_iff_ne.mpr herr))
    · simp only [hok, bne_self_eq_false, Bool.false_eq_true, if_false, ← hv]
      rfl
  case disable =>
    intro s u m w ht hon hu
    rw [exec_windowDisable, execWindowDisable, asMaster_taken ht, windowOff, hon, Bool.not_true, if_neg Bool.false_ne_true, ← hu]
  case sealing =>
    intro s u p w off data pk k slot hup hen hseal hpk hu hslot hk
    have hexec : exec (.sealWrite p w off data) s = .next (sealWrite u w off.toNat { inp := p, cls := 0, pt := portPt u p, pk := pk }) := by
      simp only [exec_sealWrite, execSealWrite, hup, hen, hseal, Bool.and_self, if_true, ← hpk, ← hu]
    have hdata : pk.data = data ∧ pk.fbe = 15 ∧ pk.lbe = 15 := by rw [hpk]; exact ⟨rfl, rfl, rfl⟩
    obtain ⟨rfl, hbe⟩ := hdata
    rw [hexec]
    obtain ⟨hbad, hgood⟩ := sealWrite_cases u w off.toNat { inp := p, cls := 0, pt := portPt u p, pk := pk } hbe hslot hk
    refine ⟨fun h => congrArg _ (hbad h), fun hlen hoff hmode hon => ?_⟩
    obtain ⟨hnamed, hheld⟩ := hgood hlen hoff hmode hon
    exact ⟨fun h => congrArg _ (hnamed h), fun hhead hin hwait => congrArg _ (hheld hhead hin hwait)⟩
  case grace =>
    intro s u hgrace
    refine ⟨fun hq hd => ?_, fun hstand => ?_⟩ <;> rw [exec_graceExpiry, execGraceExpiry, hgrace]
    · rw [bne_iff_ne.mpr hq, bne_iff_ne.mpr hd]
      rfl
    · rcases hstand with h | h <;> rw [h] <;> rfl
  case sealed =>
    intro s u k reason
    refine ⟨sealPu_of_other, fun hopen hu => ?_⟩
    rw [sealPu_of_open hopen, ← hu]
    refine ⟨fun hfull hwhole hsome => ?_, fun hshort hwhole hsome => ?_, fun hshort hnone => ?_⟩
    · simp only [hwhole, beq_eq_false_iff_ne.mpr hsome, Nat.not_lt.mpr hfull, if_false, Bool.or_self, Bool.false_eq_true]
    · simp only [hwhole, beq_eq_false_iff_ne.mpr hsome, hshort, if_true, Bool.or_self, Bool.false_eq_true, if_false]
    · have hdue : ((puAt s k).broken || (puAt s k).ing == 0) = true := by simpa using hnone
      simp only [hdue, hshort, if_true]

/-- Settles O36: the decision's two results, and what the held writes' expiry does by the window. -/
theorem placementDecisions : Obligations.PlacementDecisions := by
  unfold Obligations.PlacementDecisions
  refine ⟨?decision, ?expiry⟩
  case decision =>
    intro s t u p j sz e tb he hstate hdec hp hserved hsz htb
    have hgo : (e.state != 1 || !decides s) = false := by rw [hstate, hdec]; rfl
    refine ⟨fun v hnone hv => ?_, fun ch hsome => ?_⟩
    · simp only [exec_puDecisionDone, execPuDecisionDone, puDecide, ← he, hgo, ← hp, hserved, ← hsz, ← htb, hnone, ← hv,
        Option.isNone_some, Bool.false_eq_true, if_false]
    · simp only [exec_puDecisionDone, execPuDecisionDone, puDecide, ← he, hgo, ← hp, hserved, ← hsz, ← htb, hsome,
        Option.isNone_some, Bool.false_eq_true, if_false]
      exact ⟨_, rfl, rfl, rfl, rfl, rfl, rfl, rfl, rfl, rfl, rfl, rfl, rfl, rfl, rfl, rfl, rfl, rfl, rfl⟩
  case expiry =>
    intro s v u hheld hstate hv
    have hgo : ((puAt s u).held.isEmpty || decide (1 < (puAt s u).state)) = false := by
      rw [List.isEmpty_eq_false_iff.mpr hheld, decide_eq_false (Nat.not_lt.mpr hstate)]
      rfl
    refine ⟨fun htb => ?_, fun htb hone => ?_⟩
    · simp only [exec_missHoldExpiry, execMissHoldExpiry, hgo, ← hv, htb, Bool.false_eq_true, if_false, if_true]
    · rw [hone] at hgo
      simp only [exec_missHoldExpiry, execMissHoldExpiry, hgo, ← hv, htb, hone, Bool.false_eq_true, if_false, beq_self_eq_true, if_true]

end Sys2Proof.Machine
end

section
/-!
SUPPORT. Members and their failure (R141, R143, R165 to R167, R178); records and flush reads (R161, R163, R165, R353); completion entries,
moderation and MSI-X (R202 to R210, R386), with the statements about these.
-/
namespace Sys2Proof.Machine

section
variable {s : State}

/-! ### Tags that end leave placement alone -/

@[simp] theorem tagsEnd_plc (st : CplStatus) (mine : Purpose → Bool) : (tagsEnd s st mine).plc = s.plc := by
  unfold tagsEnd
  split <;> rfl

@[simp] theorem puAt_tagsEnd (st : CplStatus) (mine : Purpose → Bool) (u : Nat) : puAt (tagsEnd s st mine) u = puAt s u := by
  rw [puAt, puAt, tagsEnd_plc]

/-! ### Members -/

/-- R141, R165: how a read of a member's buffer ring ends. -/
theorem ringDone_of_reading {p m : Nat} {st : CplStatus} (l : List (BitVec 64)) (h : (member s p m).reading ≠ 0) :
    (st = .ok → ringDone s p m st l = ringRead (memberSet s p m { member s p m with
      bufs := (member s p m).bufs ++ (List.range (member s p m).reading).map (fun i => (l.getD i 0).toNat),
      pos := ((member s p m).pos + (member s p m).reading) % 2 ^ (4 + (member s p m).v), reading := 0 }) p m)
      ∧ (st ≠ .ok → ringDone s p m st l = memberFail (memberSet s p m { member s p m with reading := 0 }) p m 9) := by
  have hread : ((member s p m).reading == 0) = false := beq_eq_false_iff_ne.mpr h
  unfold ringDone
  simp only [hread, Bool.false_eq_true, if_false]
  cases st <;> simp

/-- R166: a PU in SEALED or FLUSH that breaks has its record due, or the record that waits says so. -/
theorem puFail_of_sealed {cause u : Nat} (hwhole : (puAt s u).broken = false) (h : (puAt s u).state = 4 ∨ (puAt s u).state = 5) :
    puFail s cause u = puBreak s u cause := by
  unfold puFail
  rcases h with h | h <;> simp [hwhole, h]

/-- R166, R167: a PU in OPEN or GRACE returns to ASSIGNING with nothing counted, else it breaks. -/
theorem puFail_of_open {cause u : Nat} (hwhole : (puAt s u).broken = false) (h : (puAt s u).state = 2 ∨ (puAt s u).state = 3) :
    puFail s cause u = if (puAt s u).ing = 0 then
        inc (puSet s u { puAt s u with state := 1, redirected := true, redo := true, noMem := false }) REDIRECT (puAt s u).pool
      else puBreak s u cause := by
  unfold puFail
  rcases h with h | h <;> simp [hwhole, h]

/-- R166: what a PU that breaks keeps, and its record. -/
theorem puBreak_cases (s : State) (u cause : Nat) {e : Pu} {v : State}
    (he : e = { puAt s u with broken := true, cause := cause, brk := (puAt s u).ing }) (hv : v = puSet s u e) :
    ((puAt s u).state < 4 → puBreak s u cause = v)
      ∧ (4 ≤ (puAt s u).state → (puAt s u).due = false → puBreak s u cause = recDue v u)
      ∧ (4 ≤ (puAt s u).state → (puAt s u).due = true → puBreak s u cause = { v with plc := { v.plc with
          recs := v.plc.recs.map (fun r => if r.pu = some u then { puRec u e with full := r.full } else r) } }) := by
  have heq : puBreak s u cause = if (puAt s u).state < 4 then v
      else if (puAt s u).due then { v with plc := { v.plc with
        recs := v.plc.recs.map (fun r => if r.pu = some u then { puRec u e with full := r.full } else r) } }
      else recDue v u := by
    rw [hv, he]
    rfl
  rw [heq]
  refine ⟨fun hopen => if_pos hopen, fun hsealed hdue => ?_, fun hsealed hdue => ?_⟩ <;> rw [if_neg (Nat.not_lt.mpr hsealed)]
  · rw [hdue, if_neg Bool.false_ne_true]
  · rw [hdue, if_pos rfl]

/-! ### Entries -/

/-- R203, R206: an entry is written where the AWT permits it; denied, the pair is in ERROR. -/
theorem entryPut_cases (s : State) (k cls j : Nat) (b : Bool → Bytes) (now : Bool) {a tail : Nat} {r : AccReq}
    (htail : tail = rd s QP_CQ_PTR_TAIL k) (ha : a = rd s QP_CQ_BASE k + tail * (b (bit s QP_STATUS_PHASE k)).length)
    (hr : r = clickAcc s (qpPart k) (slicePasid s (qpSlice k)) a (b (bit s QP_STATUS_PHASE k)).length false .write) :
    (∀ i, awtCheck s r = .permit i → (entryPut s k cls j b now).2 = true)
      ∧ (∀ d, awtCheck s r = .deny d →
        entryPut s k cls j b now = (qpSignal (wr (wr (overlapRaise s d) QP_STATUS_STATE k 3) QP_STATUS_ERR k 6) k, false)) := by
  subst htail ha hr
  unfold entryPut
  refine ⟨fun i hi => ?_, fun d hd => ?_⟩
  · simp only [hi]
  · simp only [hd]

end

/-- Settles O37: APPLY, LOAD and the path's time-out by their branches; the ring read and the failure of PUs by their lemmas. -/
theorem placementMembers : Obligations.PlacementMembers := by
  unfold Obligations.PlacementMembers
  refine ⟨⟨?apply, ?load, ?path, ?ring⟩, ?fails, ?tells⟩
  case apply =>
    intro s u m ht hu
    have hexec : exec (.memberApply m) s = .next (memberApply u) := by
      rw [exec_memberApply, execMemberApply, asMaster_taken ht, hu]
    rw [hexec]
    refine ⟨fun hbad => ?_, fun hgood hstate p k hp hk v hv => ?_⟩
    · rw [memberApply, hbad, if_pos rfl]
    · have hok : ((staged u).state == 2) = false := beq_eq_false_iff_ne.mpr hstate
      simp only [memberApply, hgood, hok, ← hp, ← hk, Bool.false_eq_true, if_false, ← hv]
      rfl
  case load =>
    intro s u m x ht hu hx
    rw [exec_memberLoad, execMemberLoad, asMaster_taken ht, ← hu, memberLoad, ← hx]
  case path =>
    intro s p k hremote
    refine ⟨fun hreach => ?_, fun hreach => ?_⟩ <;> rw [exec_remotePathTimeout, execRemotePathTimeout]
    · simp only [hremote, hreach, Bool.not_false, Bool.and_self, if_true]
    · simp only [hremote, hreach, Bool.not_true, Bool.and_false, Bool.false_eq_true, if_false]
  case ring =>
    rintro s u p k st l x hu rfl hread
    obtain ⟨hok, hbad⟩ := ringDone_of_reading (st := st) l hread
    refine ⟨fun hst => ?_, fun hst => ?_⟩ <;> rw [exec_bufferRingReadDone, execBufferRingReadDone, ← hu]
    · rw [hok hst]
    · rw [hbad hst]
  case fails =>
    intro s u p m cause h2 h3 hu
    have hgo : ((member s p m).state == 2 || (member s p m).state == 3 && openPus s p m == 0) = false := by
      rw [beq_eq_false_iff_ne.mpr h2, beq_eq_false_iff_ne.mpr h3]
      rfl
    rw [hu, memberFail, hgo, if_neg Bool.false_ne_true]
    rfl
  case tells =>
    intro s v cause u e hwhole he hv
    obtain ⟨hcount, hdue, hwaits⟩ := puBreak_cases s u cause he hv
    refine ⟨fun hopen => ⟨fun hnone => ?_, fun hsome => ?_⟩, fun hsealed => ?_⟩
    · rw [puFail_of_open hwhole hopen, if_pos hnone]
    · rw [puFail_of_open hwhole hopen, if_neg hsome, hcount (by omega)]
    · rw [puFail_of_sealed hwhole hsealed]
      exact ⟨hdue (by omega), hwaits (by omega)⟩

/-- Settles O38: the branches of the three commands. -/
theorem recordsAndFlushes : Obligations.RecordsAndFlushes := by
  unfold Obligations.RecordsAndFlushes
  refine ⟨?post, ?issue, ?complete⟩
  case post =>
    intro s g r rest sk q j k htake hown hk hserved hstate htype hon hblk hheld
    have hgo : (qpState s k != 1 || rd s QP_CFG_TYPE k != 1 || !clickersOn s || inBlockReset s 5 || clusterHeld s j) = false := by
      rw [hstate, htype, hon, hblk, hheld]
      rfl
    refine ⟨fun hroom hfull t hput => ?_, fun hroom hfull => ?_⟩ <;>
      simp only [exec_recordPost, execRecordPost, htake, hown, ← hk, hserved, hgo, hroom, hfull, Bool.not_true, Bool.not_false,
        Bool.false_eq_true, if_false, if_true]
    · rw [hput]
      cases r.pu <;> rfl
    · rfl
  case issue =>
    intro s u k e he hstate hwhole hing hegr hon hblk hserved n sk hn hsk
    have hgo : (!(e.state == 4 || (e.state == 5 && e.again && !e.due)) || e.broken || e.ing == 0 || e.egr != e.ing || !clickersOn s
        || inBlockReset s 5) = false := by
      rw [hwhole, beq_eq_false_iff_ne.mpr hing, hegr, bne_self_eq_false, hon, hblk]
      rcases hstate with h | ⟨h, hagain, hdue⟩
      · rw [h]; rfl
      · rw [h, hagain, hdue]; rfl
    refine ⟨fun d t hremote hread => ?_, fun i t hlocal hpermit hread => ?_⟩
    · simp only [exec_flushReadIssue, execFlushReadIssue, ← he, hgo, hserved, hremote, ← hn, ← hsk, hread, Bool.false_eq_true, if_false]
    · simp only [exec_flushReadIssue, execFlushReadIssue, ← he, hgo, hserved, hlocal, ← hn, ← hsk, hpermit, hread, Bool.false_eq_true, if_false]
  case complete =>
    intro s v u st hstate hdue hagain hon hv
    have hgo : ((puAt s u).state == 5 && clickersOn s) = true := by rw [hstate, hon]; rfl
    have hact : ((puAt s u).state != 5 || (puAt s u).due || (puAt s u).again) = false := by rw [hstate, hdue, hagain]; rfl
    have hpu : puAt v u = puAt s u := by rw [hv, puAt_tagsEnd]
    simp only [exec_flushComplete, execFlushComplete, hgo, if_true, ← hv, flushDone, hpu, hact, Bool.false_eq_true, if_false] <;>
      cases st <;> rfl

/-- Settles O39: the command's branches, MSI-X by its definition, and the entry itself by `entryPut_cases`. -/
theorem entriesAndSignals : Obligations.EntriesAndSignals := by
  unfold Obligations.EntriesAndSignals
  refine ⟨⟨?entry, ?done, ?timer, ?unmask⟩, ?put⟩
  case entry =>
    rintro s q k cl j l rfl hstate hon hmode hjobs hcl hended hheld
    have hgo : (!(qpState s (qpKey q) == 1 || qpState s (qpKey q) == 2) || !clickersOn s || mode s == mDRAIN) = false := by
      rw [hstate, hon, beq_eq_false_iff_ne.mpr hmode]
      rfl
    have hnext : nextEntry s (qpKey q) = some (dTc j.desc, cplBytes (dUser j.desc) j.written ((j.idx + 1) % sqSize s (qpKey q)) j.status
        (dOp j.desc) j.detail, j.status != 0 || dOp j.desc == 7) := by
      simp only [nextEntry, hjobs, hended, bne_self_eq_false, Bool.false_eq_true, if_false]
    refine ⟨fun hroom => ?_, fun hroom hwaits t hput => ?_⟩
    · simp only [exec_completionEntryWrite, execCompletionEntryWrite, hgo, hnext, hjobs, hcl, hheld, hroom, Bool.not_false,
        Bool.false_eq_true, if_false, if_true]
    · have hsame : cqWaited s (qpKey q) = s := by rw [cqWaited, hwaits]
      simp only [exec_completionEntryWrite, execCompletionEntryWrite, hgo, hnext, hjobs, hcl, hheld, hroom, hsame, hput, Bool.not_true,
        Bool.false_eq_true, if_false]
  case done =>
    intro s k j l hjobs
    rw [entryDone, hjobs]
  case timer =>
    intro s q htime hsince hon
    refine congrArg Host.Outcome.next (if_pos ?_)
    rw [bne_iff_ne.mpr htime, hsince, hon]
    rfl
  case unmask =>
    intro s f v
    refine ⟨rfl, ?_⟩
    rintro u rfl
    rfl
  case put =>
    intro s k cls j b now a tail r htail ha hr
    obtain ⟨hpermit, hdeny⟩ := entryPut_cases s k cls j b now htail ha hr
    cases hcheck : awtCheck s r with
    | permit i =>
      have htrue := hpermit i hcheck
      exact ⟨⟨fun _ => ⟨i, rfl⟩, fun _ => htrue⟩, fun hfalse => absurd (htrue.symm.trans hfalse) (by decide)⟩
    | deny d =>
      have heq := hdeny d hcheck
      refine ⟨⟨fun htrue => ?_, fun ⟨i, hi⟩ => nomatch hi⟩, fun _ => ⟨d, rfl, heq⟩⟩
      rw [heq] at htrue
      cases htrue

end Sys2Proof.Machine
end

section
/-!
SUPPORT. Jobs of rings (R158, R170, R186 to R196, R386); doorbells, fetches, completions of reads and the states of queue pairs (R180, R190,
R193, R198 to R200, R205, R211), with the statements about these.
-/
namespace Sys2Proof.Machine

section
variable {s : State}

/-! ### Jobs -/

/-- R187, R188: the next descriptor of a ring with no job under way starts, and ends at once where R188 finds it wrong. -/
theorem exec_jobStart_of_next {q : QPRef} {k idx : Nat} {d : Bytes} {rest : List (Nat × Bytes)} {u : State} (hk : k = qpKey q)
    (hstate : qpState s k = 1) (hhalt : (qpAt s k).halting = false) (hstarts : starts s (qpPart k) = true)
    (hserved : (sliceCluster s (qpSlice k)).isSome = true) (hfetched : (qpAt s k).fetched = (idx, d) :: rest) (hjobs : (qpAt s k).jobs = [])
    (hop : dOp d ≠ 15) (hu : u = qpSet { s with rng := { s.rng with nextJob := s.rng.nextJob + 1 } } k { qpAt s k with fetched := rest, jobs := [
      { idx := idx, desc := d, st := .ready, status := 0, written := 0, asked := 0, data := [], buf := none,
        detail := 0, flushes := 0, toFlush := [], id := s.rng.nextJob }] }) :
    exec (.jobStart q) s = .next (if startStatus u k d = 0 then u else jobEnd u k s.rng.nextJob (startStatus u k d)) := by
  subst hk
  have hgo : (!(qpState s (qpKey q) == 1 || qpState s (qpKey q) == 2 && (qpAt s (qpKey q)).fetchFail.isSome) || (qpAt s (qpKey q)).halting
      || !starts s (qpPart (qpKey q)) || (sliceCluster s (qpSlice (qpKey q))).isNone) = false := by
    rw [hstate, hhalt, hstarts, Option.isNone_eq_false_iff.mpr hserved]
    rfl
  simp only [exec_jobStart, execJobStart, hgo, hfetched, hjobs, List.any_nil, List.isEmpty_nil, Bool.not_true, Bool.and_false, Bool.or_self,
    Bool.false_eq_true, if_false, hop, decide_false, Bool.false_and, List.nil_append, rngUpd, ← hu]

/-- The command of an opcode acts on the job that is ready for it. -/
theorem onJob_of_ready {q : QPRef} {op : Nat} {j : Job} (h : readyJob s (qpKey q) op = some j) (f : State → Nat → Job → State) :
    onJob q op s f = f s (qpKey q) j := by
  rw [onJob, h]

/-! ### Queue pairs -/

theorem fetchDone_cases {k : Nat} {st : CplStatus} (l : List Bytes) (hf : (qpAt s k).fetching ≠ 0) (hst : qpState s k = 1 ∨ qpState s k = 2) :
    (st = .ok → fetchDone s k st l = fetchNext (qpSet s k { qpAt s k with
      fetched := (qpAt s k).fetched ++ (List.range (qpAt s k).fetching).map (fun i =>
        (((qpAt s k).pos + i) % sqSize s k, ((l.getD i []) ++ List.replicate 64 0).take 64)),
      pos := ((qpAt s k).pos + (qpAt s k).fetching) % sqSize s k, fetching := 0 }) k)
    ∧ (st ≠ .ok → fetchDone s k st l = fetchFail s k) := by
  have hgo : ((qpAt s k).fetching == 0 || !(qpState s k == 1 || qpState s k == 2)) = false := by
    rw [beq_eq_false_iff_ne.mpr hf]
    rcases hst with h | h <;> rw [h] <;> rfl
  unfold fetchDone
  simp only [hgo, Bool.false_eq_true, if_false]
  cases st <;> simp

end

/-- Settles O40: each opcode acts on the job that `readyJob` finds, by its branches. -/
theorem ringJobs : Obligations.RingJobs := by
  unfold Obligations.RingJobs
  refine ⟨?start, ?opcodes, ?timeout⟩
  case start =>
    rintro s u q k x idx d rest hk rfl hstate hhalt hstarts hserved hfetched hjobs hop hu
    rw [exec_jobStart_of_next hk hstate hhalt hstarts hserved hfetched hjobs hop hu]
    exact ⟨fun hok => congrArg _ (if_pos hok), fun hbad => congrArg _ (if_neg hbad)⟩
  case opcodes =>
    rintro s q k j rfl
    refine ⟨fun h => ?nop, fun h => ?recordOnly, fun h hlen => ?copyNone, fun h hlen => ?copy, fun h hlen hdst => ?fill, fun h t b hseal => ?sealing,
      fun h => ?wait, fun h => ?fence, fun h hbuf hsrc => ?place⟩
    case nop => rw [exec_nop, execNop, onJob_of_ready h]
    case recordOnly => rw [exec_recordOnly, execRecordOnly, onJob_of_ready h]
    case copyNone => rw [exec_copy, execCopy, onJob_of_ready h, if_pos hlen]
    case copy =>
      rw [exec_copy, execCopy, onJob_of_ready h, if_neg hlen]
      exact ⟨fun hsrc => congrArg _ (if_pos hsrc), fun hsrc hdst => by rw [hsrc, if_neg Bool.false_ne_true, hdst, if_pos rfl],
        fun hsrc hdst => by rw [hsrc, if_neg Bool.false_ne_true, hdst, if_neg Bool.false_ne_true]⟩
    case fill => rw [exec_fill, execFill, onJob_of_ready h, if_neg hlen, hdst, if_neg Bool.false_ne_true]
    case sealing =>
      rw [exec_seal, execSeal, onJob_of_ready h, hseal]
      cases b <;> rfl
    case wait =>
      rw [exec_waitTick, execWaitTick, onJob_of_ready h]
      exact ⟨fun hpast => congrArg _ (if_pos hpast), fun hahead => congrArg _ (if_neg (by rw [hahead]; decide))⟩
    case fence =>
      rw [exec_fence, execFence, onJob_of_ready h]
      exact ⟨fun hnone => congrArg _ (if_pos (List.isEmpty_iff.mpr hnone)), fun hsome => congrArg _ (if_neg (by simpa using hsome))⟩
    case place =>
      rw [exec_placeCopy, execPlaceCopy, onJob_of_ready h]
      refine ⟨fun t hnone => ?_, fun t u ch hsome hu => ⟨fun ⟨hlocal, hdenied⟩ => ?_, fun hfree => ?_⟩⟩
      · simp only [hsrc, hbuf, hnone, Bool.false_eq_true, if_false]
      · simp only [hsrc, hbuf, hsome, ← hu, hlocal, hdenied, Bool.not_false, Bool.and_self, Bool.false_eq_true, if_false, if_true]
      · have hpass : (!(member u (dPool j.desc) ch.m).remote && jobDenied u (qpKey q) false ch.addr (dLen j.desc) .write) = false := by
          rcases hfree with h | h <;> rw [h]
          · rfl
          · exact Bool.and_false _
        simp only [hsrc, hbuf, hsome, ← hu, hpass, Bool.false_eq_true, if_false]
  case timeout =>
    intro s q j hfind
    simp only [exec_waitTickTimeout, execWaitTickTimeout, hfind]
    split <;> rfl

/-- Settles O41: each command by its branches, the fetch's end by `fetchDone_cases`. -/
theorem ringReads : Obligations.RingReads := by
  unfold Obligations.RingReads
  refine ⟨⟨?doorbell, ?bell, ?fetch, ?unknown, ?completion, ?failed, ?timeout, ?quarantine⟩, ?enable, ?commands, ?stop, ?resume, ?stopped⟩
  case doorbell =>
    intro s pt sl off d hrun hpart
    rw [exec_doorbell, execDoorbell, hrun, hpart]
    rfl
  case bell =>
    intro s sk r v h
    refine if_pos ?_
    rcases h with h | ⟨h1, h2⟩
    · rw [h]; rfl
    · rw [bne_iff_ne.mpr h1, bne_iff_ne.mpr h2]; exact Bool.or_true _
  case fetch =>
    rintro s u q k st l rfl hu hf hst
    obtain ⟨hok, hbad⟩ := fetchDone_cases (st := st) l hf hst
    refine ⟨fun h => ?_, fun h => ?_⟩ <;> rw [exec_fetchComplete, execFetchComplete, ← hu]
    · rw [hok h]
    · rw [hbad h]
  case unknown =>
    intro s pt tag st d htag sl hsl
    simp only [exec_dmaReadCompletion, execDmaReadCompletion, htag, hsl]
  case completion =>
    intro s u pt tag st d x htag hclu hsilent
    have hserved : (rd u CKR_CLU_STATUS_STATE x.cluster != 2 && rd u CKR_CLU_STATUS_STATE x.cluster != 3) = false := by
      rcases hclu with h | h <;> rw [h] <;> rfl
    refine ⟨fun hlast hu => ?_, fun hur hca hmore hu hlive => ?_⟩
    · have hend : (decide (st = .ur) || decide (st = .ca) || decide (x.len ≤ x.got + d.length)) = true := by
        simpa [or_assoc] using hlast
      refine ⟨fun hquar => ?_, fun hlive => ?_⟩
      · simp only [exec_dmaReadCompletion, execDmaReadCompletion, htag, hend, if_true, ← hu, hserved, hsilent, hquar, Bool.false_eq_true,
          if_false]
      · simp only [exec_dmaReadCompletion, execDmaReadCompletion, htag, hend, if_true, ← hu, hserved, hsilent, hlive, Bool.false_eq_true,
          if_false]
    · have hopen : (decide (st = .ur) || decide (st = .ca) || decide (x.len ≤ x.got + d.length)) = false := by
        simp [hur, hca, hmore]
      simp only [exec_dmaReadCompletion, execDmaReadCompletion, htag, hopen, rngUpd, ← hu, hserved, hsilent, hlive, Bool.false_eq_true,
        if_false]
  case failed =>
    intro s x st d hdone hst
    rw [pieceActs, hdone, if_neg Bool.false_ne_true, if_neg hst]
  case timeout =>
    intro s u pt tag x htag hlive hu hsilent hdone
    have hacts : (x.silent || x.done) = false := by rw [hsilent, hdone]; rfl
    simp only [exec_completionTimeout, execCompletionTimeout, htag, hlive, hacts, rngUpd, Bool.false_eq_true, if_false, ← hu]
  case quarantine =>
    intro s pt tag x htag hquar
    simp only [exec_tagQuarantineExpiry, execTagQuarantineExpiry, htag, hquar, if_true]
  case enable =>
    rintro s q k rfl hbar hlive hstate
    have hgo : (!qpLive s (qpKey q) || qpState s (qpKey q) != 0) = false := by rw [hlive, hstate]; rfl
    have hexec : exec (.qpEnable q) s = .next (qpEnable s (qpKey q)) := by rw [exec_qpEnable, execQpEnable, hbar, if_pos rfl]
    rw [hexec, qpEnable, hgo, if_neg Bool.false_ne_true]
    refine ⟨fun htype => ?_, fun htype hbase => ?_, fun htype hsq hcq => ⟨fun hvec => ?_, fun hvec => ?_⟩⟩
    · rw [if_pos htype]
    · rw [if_neg htype, if_pos (by simpa using hbase)]
    · rw [if_neg htype, hsq, hcq, if_neg (by decide), if_pos hvec]
    · rw [if_neg htype, hsq, hcq, if_neg (by decide), if_neg (Nat.not_lt.mpr hvec)]
  case commands =>
    intro s q hbar hlive
    rw [exec_qpDisable, execQpDisable, exec_qpResume, execQpResume, hbar, hlive]
    exact ⟨rfl, rfl⟩
  case stop =>
    rintro s u k h0 h4 rfl
    have hgo : (qpState s k == 0 || qpState s k == 4) = false := by
      rw [beq_eq_false_iff_ne.mpr h0, beq_eq_false_iff_ne.mpr h4]
      rfl
    rw [qpStop, hgo, if_neg Bool.false_ne_true]
    exact ⟨_, rfl⟩
  case resume =>
    intro s k
    exact ⟨fun h => if_pos (beq_iff_eq.mpr h), fun h => if_neg (by simpa using h)⟩
  case stopped =>
    intro s q hstate htags
    simp only [exec_qpStopped, execQpStopped, hstate, htags, List.any_nil, Bool.not_false, Bool.and_true, beq_self_eq_true, if_true]

end Sys2Proof.Machine
end

section
/-!
SUPPORT. Slice commands, RESIZE, crossing windows and remapped functions (R356, R357, R363 to R369); entries, fence and banks of the Access
Window Table and the Awl's memory accesses (R374, R385 to R393), with the statements about these.
-/
namespace Sys2Proof.Machine

section
variable {s : State}

/-! ### Slices -/

/-- Writes of one field over a list of instances change registers only. -/
theorem forEach_wr_regs (f : Fld) (val : State → Nat → Nat) (l : List Nat) :
    ∀ s : State, ∃ r, forEach l s (fun t i => wr t f i (val t i)) = { s with regs := r } := by
  induction l with
  | nil => exact fun s => ⟨s.regs, rfl⟩
  | cons i l ih =>
    intro s
    obtain ⟨r, hr⟩ := ih (wr s f i (val s i))
    exact ⟨r, hr⟩

/-- R366: a slice whose pairs are DISABLED and which loses none moves to its staged values. -/
theorem slcRecreate_moves {x : Slice} (hx : nget? s.slices (slcSel s) = some x) (hfree : slcBusy s (slcSel s) = false)
    (hrange : slcRange s (slcSel s / 1024) (slcStaged s) = false) (hpasid : (slcStaged s).pasid = x.pasid)
    (hpasidV : (slcStaged s).pasidV = x.pasidV) (hqp : slcQpClash s (slcSel s) (slcStaged s) = false)
    (hvec : slcVecClash s (slcSel s) (slcStaged s) = false) (hgrow : x.qpCount ≤ (slcStaged s).qpCount) :
    ∃ t : State, slcRecreate s
        = slcResult { t with slices := nput s.slices (slcSel s) { slcStaged s with cluster := x.cluster, resetting := x.resetting } } 0
      ∧ t.shk = s.shk ∧ t.rng = s.rng ∧ t.awt = s.awt := by
  have hkept (g : Nat) : (decide (x.qpBase ≤ g) && decide (g < x.qpBase + x.qpCount) && decide ((slcStaged s).qpCount ≤ g - x.qpBase))
      = false := by
    simp only [Bool.and_eq_false_iff, decide_eq_false_iff_not]
    omega
  have hsame : (slcRange s (slcSel s / 1024) (slcStaged s) || (slcStaged s).pasid != x.pasid || (slcStaged s).pasidV != x.pasidV) = false := by
    rw [hrange, hpasid, hpasidV, bne_self_eq_false, bne_self_eq_false]
    rfl
  have hnone {α : Type} (l : List α) : (l.any fun _ => false) = false := List.any_eq_false.mpr fun _ _ => Bool.false_ne_true
  unfold slcRecreate
  simp only [hx, hfree, hsame, hqp, hvec, hkept, hnone, Bool.or_self, Bool.false_eq_true, if_false]
  generalize hval : (fun (t : State) (p : Nat) => if (decide (x.qpBase ≤ rd t PLC_POOL_REC p) && decide (rd t PLC_POOL_REC p < x.qpBase + x.qpCount))
    = true then (slcStaged s).qpBase + (rd t PLC_POOL_REC p - x.qpBase) else rd t PLC_POOL_REC p) = val
  obtain ⟨r, hr⟩ := forEach_wr_regs PLC_POOL_REC val (List.range 1024) s
  subst hval
  rw [hr]
  exact ⟨_, rfl, rfl, rfl, rfl⟩

/-! ### RESIZE -/

/-- R364: a RESIZE whose check fails at its start ends with the check's RESULT. -/
theorem exec_resize_of_bad {q : QPRef} {j : Job} (hj : readyJob s (qpKey q) 15 = some j) (hbad : rszCheck s j.desc ≠ 0) :
    exec (.resize q) s = .next (jobEnd (rszLast s j.desc (rszCheck s j.desc)) (qpKey q) j.id 2) := by
  rw [exec_resize, execResize, onJob_of_ready hj]
  cases hc : rszCheck s j.desc with
  | zero => exact absurd hc hbad
  | succ r => simp only [hc]

/-- R365: a RESIZE that passes the check is applied where it is due, and waits else. -/
theorem exec_resize_of_good {q : QPRef} {j : Job} (hj : readyJob s (qpKey q) 15 = some j) (hgood : rszCheck s j.desc = 0) :
    exec (.resize q) s = .next (if rszNow j.desc || tickReached (rd s LCE_TICK_NOW) (rszTick j.desc) then rszApply s (qpKey q) j
      else jobSet s (qpKey q) { j with st := .waiting }) := by
  rw [exec_resize, execResize, onJob_of_ready hj]
  simp only [hgood]

theorem rszApply_of_refused {k : Nat} {j : Job} (h : rszRefused s j.desc ≠ 0) :
    rszApply s k j = jobEnd (rszLast s j.desc (rszRefused s j.desc)) k j.id 2 := by
  unfold rszApply
  cases hr : rszRefused s j.desc with
  | zero => exact absurd hr h
  | succ r => simp only [hr]

/-! ### The Access Window Table -/

/-- R385: a comparison that finds a conflict fills AWT_OVL where it is clear. -/
theorem awtCompared_of_conflict {i j : Nat} (hwf : s.wf = true) (hj : firstConflict s i = some j) (hset : bit s AWT_OVL_SET = false) :
    awtCompared s i = raise (wr (wr (wr (wr s AWT_STATUS_OVERLAP 0 1) AWT_OVL_ENTRY_A 0 i) AWT_OVL_ENTRY_B 0 j) AWT_OVL_SET 0 1) 0x302 i := by
  have hclear : bit (wr s AWT_STATUS_OVERLAP 0 1) AWT_OVL_SET = false := by
    rw [bit_wr_ne (regs_of_wf hwf) (by decide)]
    exact hset
  simp only [awtCompared, hj, hclear, Bool.false_eq_true, if_false]

theorem awtCompared_of_none {i : Nat} (hnone : firstConflict s i = none) :
    awtCompared s i = wrb s AWT_STATUS_OVERLAP 0 (bit s AWT_STATUS_OVERLAP && anyConflict s) := by
  simp only [awtCompared, hnone]

theorem wrb_eq (s : State) (f : Fld) (i : Nat) (b : Bool) : wrb s f i b = wr s f i b.toNat := by cases b <;> rfl

end

/-- Settles O42: each command by its branches, RECREATE by `slcRecreate_moves`. -/
theorem slicesAndWindows : Obligations.SlicesAndWindows := by
  unfold Obligations.SlicesAndWindows
  refine ⟨⟨?create, ?absent, ?present⟩, ⟨?resize, ?refused, ?applied, ?timeout⟩, ?windows, ?drained, ?remap⟩
  case create =>
    intro s u m k x ht hu hk hx
    rw [exec_sliceCreate, execSliceCreate, asMaster_taken ht, ← hu, slcCreate, ← hk, ← hx]
    refine ⟨fun hoff => ?_, fun hon hold => ?_, fun hon hnew hroom hbad => ?_, fun hon hnew hroom hok hqp hvec hpasid => ?_⟩
    · rw [hoff]; rfl
    · rw [hon, hold]; rfl
    · rw [hon, hnew, hbad, if_neg (Nat.not_le.mpr hroom)]; rfl
    · rw [hon, hnew, hok, hqp, hvec, hpasid, if_neg (Nat.not_le.mpr hroom)]; rfl
  case absent =>
    intro s u m ht hu hx
    refine ⟨?_, ?_, ?_, ?_⟩
    · rw [exec_sliceDelete, execSliceDelete, show PTN_SLC_CMD_DELETE.off = PTN_SLC_CMD_CREATE.off from rfl, asMaster_taken ht, ← hu]
      simp only [slcDelete, hx]
    · rw [exec_sliceRecreate, execSliceRecreate, show PTN_SLC_CMD_RECREATE.off = PTN_SLC_CMD_CREATE.off from rfl, asMaster_taken ht, ← hu]
      simp only [slcRecreate, hx]
    · rw [exec_sliceReset, execSliceReset, show PTN_SLC_CMD_RESET.off = PTN_SLC_CMD_CREATE.off from rfl, asMaster_taken ht, ← hu]
      simp only [slcReset, hx]
    · rw [exec_sliceLoad, execSliceLoad, show PTN_SLC_CMD_LOAD.off = PTN_SLC_CMD_CREATE.off from rfl, asMaster_taken ht, ← hu]
      simp only [slcLoad, hx]
  case present =>
    intro s u m k x ht hu hk hx
    have hdelete : exec (.sliceDelete m) s = .next (slcDelete u) := by
      rw [exec_sliceDelete, execSliceDelete, show PTN_SLC_CMD_DELETE.off = PTN_SLC_CMD_CREATE.off from rfl, asMaster_taken ht, ← hu]
    have hrecreate : exec (.sliceRecreate m) s = .next (slcRecreate u) := by
      rw [exec_sliceRecreate, execSliceRecreate, show PTN_SLC_CMD_RECREATE.off = PTN_SLC_CMD_CREATE.off from rfl, asMaster_taken ht, ← hu]
    rw [hdelete, hrecreate]
    refine ⟨fun hbusy => ?busy, fun hfree hnamed => ?named, fun hfree hnamed => ?deleted, fun hfree hpasid => ?pasid,
      fun hfree hrange hpasid hpasidV hqp hvec hgrow => ?moved, fun t hstop => ?reset, ?load⟩
    case busy => simp only [slcDelete, slcRecreate, ← hk, hx, hbusy, if_true, and_self]
    case named => simp only [slcDelete, ← hk, hx, hfree, hnamed, Bool.false_eq_true, if_false, if_true]
    case deleted => simp only [slcDelete, ← hk, hx, hfree, hnamed, Bool.false_eq_true, if_false]
    case pasid =>
      have hbad : (slcRange u (k / 1024) (slcStaged u) || (slcStaged u).pasid != x.pasid || (slcStaged u).pasidV != x.pasidV) = true := by
        rw [bne_iff_ne.mpr hpasid, Bool.or_true, Bool.true_or]
      simp only [slcRecreate, ← hk, hx, hfree, hbad, Bool.false_eq_true, if_false, if_true]
    case moved =>
      subst hk
      obtain ⟨t, hmoved, hkeeps⟩ := slcRecreate_moves hx hfree hrange hpasid hpasidV hqp hvec hgrow
      exact ⟨t, _, rfl, congrArg _ hmoved, hkeeps⟩
    case reset =>
      rw [exec_sliceReset, execSliceReset, show PTN_SLC_CMD_RESET.off = PTN_SLC_CMD_CREATE.off from rfl, asMaster_taken ht, ← hu]
      simp only [slcReset, ← hk, hx, hstop]
    case load =>
      rw [exec_sliceLoad, execSliceLoad, show PTN_SLC_CMD_LOAD.off = PTN_SLC_CMD_CREATE.off from rfl, asMaster_taken ht, ← hu]
      simp only [slcLoad, ← hk, hx]
  case resize =>
    rintro s q k j rfl hj
    refine ⟨exec_resize_of_bad hj, fun hgood hdue => ?_, fun hgood hlater hahead => ?_⟩ <;> rw [exec_resize_of_good hj hgood]
    · rw [if_pos (by simpa using hdue)]
    · rw [hlater, hahead, Bool.or_self, if_neg Bool.false_ne_true]
  case refused => exact fun s k j h => rszApply_of_refused h
  case applied =>
    intro s t k j x hgood hx hstop
    simp only [rszApply, hgood, hx, hstop]
  case timeout =>
    intro s q j hfind
    simp only [exec_resizeTimeout, execResizeTimeout, hfind]
  case windows =>
    intro s u v m w all xs next ht hu hxs hnext hv
    have hwin : wr (wrb (wr u PTN_XW_COMMIT_WIN 0 w) PTN_XW_COMMIT_ALL 0 all) PTN_XW_COMMIT_GO 0 0 = v := by
      rw [hv]
      cases all <;> rfl
    rw [exec_xwCommit, execXwCommit, asMaster_taken ht, ← hu]
    simp only [xwCommit, ← hxs, ← hnext, hwin]
    refine ⟨fun x hfind => ?_, fun hfind => ?_⟩
    · simp only [hfind]
    · simp only [hfind]
      exact ⟨_, rfl, rfl, rfl⟩
  case drained =>
    intro s
    rw [exec_xwDrained, execXwDrained]
    exact ⟨fun h => congrArg _ (if_pos h), fun h => congrArg _ (if_neg (by rw [h]; decide))⟩
  case remap =>
    intro s u m i v ht hu
    rw [exec_remapValidWrite, execRemapValidWrite, asMaster_taken ht, ← hu]
    simp only [remapWrite]
    refine ⟨fun hvalid hkeep => ?_, fun hvalid hclear => ?_, fun hinvalid x hx => ⟨fun hno => ?_, fun hset hok => ?_⟩⟩
    · rw [hvalid, if_pos rfl, if_pos hkeep]
    · rw [hvalid, if_pos rfl, if_neg (by omega)]
      exact ⟨_, rfl⟩
    · rw [hinvalid, if_neg Bool.false_ne_true, ← hx, if_pos (by simpa using hno)]
    · rw [hinvalid, if_neg Bool.false_ne_true, ← hx, hok, if_neg (by simp [hset])]

/-- Settles O44: each command by its branches, the comparison by `awtCompared_of_conflict` and `awtCompared_of_none`. -/
theorem accessTable : Obligations.AccessTable := by
  unfold Obligations.AccessTable
  refine ⟨⟨?commit, ?compared, ?fence, ?fenceDone, ?fenceTimeout, ?swap, ?bankDrained⟩, ?awl, ?readDone, ?readTimeout, ?idle⟩
  case commit =>
    intro s u m i w ht hu
    rw [exec_awtEntryCommit, execAwtEntryCommit, asMaster_taken ht, ← hu, awtCommit]
    refine ⟨fun hlock hm => ?_, fun hopen v hv => ⟨fun hvalid => ?_, fun hinvalid => ?_⟩⟩
    · rw [hlock, if_pos rfl, awtLockHit, if_neg hm]
    · rw [hopen, if_neg Bool.false_ne_true, ← hv, if_pos hvalid]
    · rw [hopen, if_neg Bool.false_ne_true, ← hv, if_neg (by omega), wrb_eq]
  case compared =>
    intro s u i l hwf hl hu
    have hwfu : u.wf = true := by rw [hu]; exact hwf
    have hexec : exec .awtOverlapCheckDone s = .next (wrb (awtCompared u i) AWT_STATUS_CHECKING 0 (!l.isEmpty)) := by
      simp only [exec_awtOverlapCheckDone, execAwtOverlapCheckDone, hl, ← hu]
    rw [hexec, wrb_eq]
    exact ⟨fun j hj hset => by rw [awtCompared_of_conflict hwfu hj hset], fun hnone => by rw [awtCompared_of_none hnone, wrb_eq]⟩
  case fence =>
    intro s u m ht hu
    rw [exec_awtFence, execAwtFence, asMaster_taken ht, ← hu, awtFenceStart]
  case fenceDone =>
    intro s
    rw [exec_awtFenceDone, execAwtFenceDone]
    exact ⟨fun h => congrArg _ (if_pos h), fun h => congrArg _ (if_neg (by rw [h]; decide))⟩
  case fenceTimeout =>
    intro s u n hfencing hn hleft hu
    have hexec : exec .awtFenceTimeout s = .next (if awtFenceMet u then awtFenceEnd u else u) := by
      have hstale : awtStale { s with awt := { s.awt with accs := s.awt.accs.map (fun a => { a with fenced := false }) } }
          (s.awt.accs.filter (·.fenced)).length = u := by
        rw [← hn, awtStale, if_neg hleft]
        exact hu.symm
      rw [exec_awtFenceTimeout, execAwtFenceTimeout, if_neg (by rw [hfencing]; decide)]
      exact congrArg (fun t => Host.Outcome.next (if awtFenceMet t then awtFenceEnd t else t)) hstale
    rw [hexec]
    exact ⟨fun h => congrArg _ (if_pos h), fun h => congrArg _ (if_neg (by rw [h]; decide))⟩
  case swap =>
    intro s u m n ht hu
    rw [exec_awtBankSwap, execAwtBankSwap, asMaster_taken ht, ← hu]
    simp only [bankSwap]
    refine ⟨fun hnative => ?_, fun hbanked => ?_⟩
    · rw [hnative]; rfl
    · rw [hbanked]; exact ⟨_, rfl⟩
  case bankDrained =>
    intro s n hdrained hnone
    rw [exec_awtBankDrained, execAwtBankDrained]
    simp only [hdrained, hnone, List.length_nil, awtStale, if_true, Bool.false_eq_true, if_false]
    exact ⟨_, rfl⟩
  case awl =>
    intro s u m r ht hu hidle hr
    have hexec : exec (.awlAccess m) s = .next (awlGo u) := by rw [exec_awlAccess, execAwlAccess, asMaster_taken ht, ← hu]
    rw [hexec]
    subst hr
    simp only [awlGo, hidle, Bool.false_eq_true, if_false]
    refine ⟨fun hwide => ?wide, fun hfits hstate => ?notRun, fun hfits hrun => ⟨fun hlocked => ?locked, fun hshut hlocked =>
      ⟨fun d hdeny => ?denied, fun i hpermit hread => ?read, fun i c hpermit hwrite hc => ?write⟩⟩⟩
    case wide => rw [if_pos hwide]
    case notRun => rw [if_neg (Nat.not_lt.mpr hfits), if_pos (bne_iff_ne.mpr hstate)]
    all_goals rw [if_neg (Nat.not_lt.mpr hfits), hrun, if_neg (by decide)]
    case locked => rw [if_pos (by simpa using hlocked), awlLocked]
    all_goals rw [hshut, hlocked, if_neg (by decide)]
    case denied => simp only [hdeny]
    case read =>
      have hw : bit u AWL_CTL_WRITE = false := by simpa using hread
      simp only [hpermit]
      rw [if_neg (by rw [hw]; decide)]
    case write =>
      have hw : bit u AWL_CTL_WRITE = true := by simpa using hwrite
      simp only [hpermit]
      rw [if_pos hw, hc]
  case readDone =>
    intro s u d hbusy hu
    simp only [exec_awlReadComplete, execAwlReadComplete, hbusy, Bool.not_true, Bool.false_eq_true, if_false, rngUpd, ← hu]
    rfl
  case readTimeout =>
    intro s u hbusy hu
    simp only [exec_awlReadTimeout, execAwlReadTimeout, hbusy, Bool.not_true, Bool.false_eq_true, if_false, rngUpd, ← hu]
  case idle =>
    intro s hidle
    simp only [exec_awlReadComplete, execAwlReadComplete, exec_awlReadTimeout, execAwlReadTimeout, hidle, Bool.not_false, if_true,
      implies_true, and_self]

end Sys2Proof.Machine
end

section
/-!
SUPPORT. The course of a port from ENABLE to its settled rate (R218, R219, R224 to R233), with the statement about it.
-/
namespace Sys2Proof.Machine

section
variable {s : State} {p : Fin 64}

/-- Neither DISABLED nor STOPPING. -/
theorem not_stopped_guard (h0 : rd s PRT_STATUS_STATE p ≠ 0) (h5 : rd s PRT_STATUS_STATE p ≠ 5) :
    (rd s PRT_STATUS_STATE p == 0 || rd s PRT_STATUS_STATE p == 5) = false := by
  rw [beq_eq_false_iff_ne.mpr h0, beq_eq_false_iff_ne.mpr h5]
  rfl

/-- R229: a PCIe port that is UP with a rate to gain enters STEPPING. -/
theorem exec_stepUpStart_of_pcie {k : BitVec 3} {u : State} (hup : rd s PRT_STATUS_STATE p = 3) (hrun : running s = true)
    (hstep : bit s PRT_STATUS_STEP_DONE p = false) (hblock : inBlockReset s 1 = false) (ht : isTlink s p = false)
    (hu : u = tlUpd (portState s p 4) p (fun x => { x with target := targetRate s p k.toNat })) (htu : isTlink u p = false)
    (hrate : rd s PRT_STATUS_RATE p < targetRate s p k.toNat) : exec (.stepUpStart p k) s = .next u := by
  have hgo : (rd s PRT_STATUS_STATE p != 3 || !running s || bit s PRT_STATUS_STEP_DONE p
      || decide (targetRate s p k.toNat ≤ rd s PRT_STATUS_RATE p) || inBlockReset s 1 || false) = false := by
    rw [hup, hrun, hstep, hblock, decide_eq_false (Nat.not_le.mpr hrate)]
    rfl
  simp only [exec_stepUpStart, execStepUpStart, ht, Bool.false_eq_true, if_false, hgo, ← hu, htu, Bool.false_and]

end

/-- Settles O45: each command by its branches. -/
theorem portCourse : Obligations.PortCourse := by
  unfold Obligations.PortCourse
  refine ⟨⟨?enable, ?disable, ?stopped, ?retrain, ?detect, ?up, ?stepUp, ?stepDone, ?fails⟩, ?settle⟩
  case enable =>
    intro s u m p ht hu hblock
    have hexec : exec (.portEnable m p) s = .next (portEnable u p) := by
      rw [exec_portEnable, execPortEnable, asMaster_taken ht, ← hu, portEnableCmd, hblock, if_neg Bool.false_ne_true]
    rw [hexec, portEnable]
    refine ⟨fun hbad => ?_, fun hgood v hv => ?_⟩
    · rw [if_pos (bne_iff_ne.mpr hbad)]
    · rw [hgood, if_neg (by decide), portState, ← hv]
  case disable =>
    intro s u m p ht hu
    rw [exec_portDisable, execPortDisable, asMaster_taken ht, ← hu, portDisableAt]
    refine ⟨fun hoff => ?_, fun h0 h5 htl hdown hretrain v w hv hw htw => ?_⟩
    · rw [if_pos (by simpa using hoff)]
    · have hnot : (linkUp u p || u.prt.retrain.contains p.val) = false := by rw [hdown, hretrain]; rfl
      simp only [not_stopped_guard h0 h5, htl, hnot, Bool.false_eq_true, if_false, ← hv, prtUpd, ← hw, htw]
  case stopped =>
    intro s p hstate
    rw [exec_portStopped, execPortStopped]
    refine ⟨fun hleft => ?_, fun hnone u v hu hv htv => ?_⟩
    · rw [hleft, Bool.not_false, Bool.or_true, if_pos rfl]
    · simp only [hstate, hnone, bne_self_eq_false, Bool.not_true, Bool.or_self, Bool.false_eq_true, if_false, ← hu, portState, ← hv, htv]
  case retrain =>
    intro s u m p ht hu hup
    rw [exec_portRetrain, execPortRetrain, asMaster_taken ht, ← hu, portRetrainAt, hup]
    rfl
  case detect =>
    intro s p hstate hfree
    refine ⟨fun hnone => ?_, fun found shorted rxShort any u hany hu => ?_⟩
    · rw [exec_detectRetry, execDetectRetry, hstate, hfree, hnone]
      rfl
    · have hexec : exec (.detectDone p found ⟨shorted, rxShort⟩) s = .next (if !any then u else
          if isTlink (portState u p 2) p then trainStart (portState u p 2) p false else portState u p 2) := by
        simp only [exec_detectDone, execDetectDone, hstate, hfree, bne_self_eq_false, Bool.or_self, Bool.false_eq_true, if_false, wrb_eq,
          ← hany, ← hu]
      rw [hexec]
      refine ⟨fun h => ?_, fun h ht => ?_, fun h ht => ?_⟩
      · rw [h]; rfl
      · rw [h, ht]; rfl
      · rw [h, ht]; rfl
  case up =>
    intro s p w fl rv inv rx hstate hblock
    have hgo : (rd s PRT_STATUS_STATE p != 2 || inBlockReset s 1) = false := by rw [hstate, hblock]; rfl
    rw [exec_linkUp, execLinkUp, hgo, if_neg Bool.false_ne_true]
    refine ⟨fun ht => ?_, fun ht hstart => ?_⟩
    · rw [ht, if_neg Bool.false_ne_true]
    · rw [if_pos ht, hstart, if_pos (beq_self_eq_true _)]
  case stepUp =>
    intro s p k hup hrun hstep hblock ht htu hrate
    exact exec_stepUpStart_of_pcie hup hrun hstep hblock ht rfl htu hrate
  case stepDone =>
    intro s u p k w r hstate ht hr hu
    have hgo : (rd s PRT_STATUS_STATE p != 4 || isTlink s p) = false := by rw [hstate, ht]; rfl
    have hexec : exec (.stepDone p k w) s = .next (settle (if widthOf w < widthOf (rd u PRT_STATUS_CUR_WIDTH p) then
        inc (wr u PRT_STATUS_CUR_WIDTH p w) WIDTH_FALL p else u) p r (tlAt s p).target) := by
      simp only [exec_stepDone, execStepDone, hgo, Bool.false_eq_true, if_false, ← hr, ← hu]
    rw [hexec]
    exact ⟨fun h => by rw [if_neg (Nat.not_lt.mpr h)], fun h => by rw [if_pos h]⟩
  case fails =>
    intro s u v p rx ht hstate hu hv
    have hgo : (isTlink s p || rd s PRT_STATUS_STATE p != 2) = false := by rw [hstate, ht]; rfl
    simp only [exec_pcieTrainingFail, execPcieTrainingFail, hgo, Bool.false_eq_true, if_false, ← hu, ← hv, prtUpd]
  case settle =>
    intro s u p rate target hu
    rw [settle, portState, ← hu]
    exact ⟨fun h => by rw [h]; rfl, fun h => by rw [h]; rfl⟩

end Sys2Proof.Machine
end

section
/-!
SUPPORT. What takes a link down, and PART and PORT resets (R223, R233, R243, R245, R250, R309, R311, R349, R351, R460, R461), with the
statement about these.
-/
namespace Sys2Proof.Machine

section
variable {s : State}

/-- R460: PERSTn_N that is high again ends its cause; where the upstream port's reference clock is not good, the reset waits for that. -/
theorem exec_perstRelease_qualified {n : Fin 16} {u : State}
    (hu : u = partUncause { s with rst := { s.rst with perst := s.rst.perst.filter (· != n.val) } } n 0) :
    exec (.perstRelease n .qualified) s = .next
      (if (upPort u n).any (fun p => !bit u LAN_REFCLK_PCIE_OK (rd u PRT_CFG_FIRST_LANE p / 48)) then partCause u n 4 else u) := by
  simp only [exec_perstRelease, execPerstRelease, ← hu]

/-- R351: the reset of a partition ends where nothing asserts it any more. -/
theorem partRelease_of_free {n : Nat} (hin : bit s PTN_STAT_IN_RESET n = true) (hnone : nget s.fab.resets n [] = [])
    (hen : bit s PTN_CFG_EN n = true) (hwide : wideReset s = false) :
    partRelease s n = ptnStat (placesFix (wr s PTN_STAT_IN_RESET n 0) n) := by
  rw [partRelease, hin, hnone, hen, hwide]
  rfl

theorem partRelease_of_held {n : Nat} (h : nget s.fab.resets n [] ≠ [] ∨ wideReset s = true) : partRelease s n = s := by
  refine if_pos ?_
  rcases h with h | h
  · rw [List.isEmpty_eq_false_iff.mpr h]
    simp
  · rw [h, Bool.or_true]

/-- R349: EN = 1 of a partition that the layout and the sum of the vectors allow. -/
theorem partEnable_of_allowed {n : Nat} (hoff : bit s PTN_CFG_EN n = false) (hlayout : oneLayout s = false)
    (hvecs : (List.range 16).foldl (fun a k => if bit s PTN_CFG_EN k || k == n then a + rd s PTN_CFG_VECM1 k + 1 else a) 0 ≤ 16384) :
    partEnable s n = ptnStat (partUncause (wr (wr s PTN_CFG_EN n 1) PTN_STAT_IN_RESET n 1) n 3) := by
  refine if_neg ?_
  rw [hoff, hlayout, decide_eq_false (Nat.not_lt.mpr hvecs), Bool.false_and]
  decide

end

/-- Settles O46: each command by its branches. -/
theorem linkFalls : Obligations.LinkFalls := by
  unfold Obligations.LinkFalls
  refine ⟨⟨?down, ?pcieClock, ?tlinkClock, ?good, ?timers, ?dpc, ?dpcClear, ?slot⟩, ?partition, ?perst, ?perstEnd, ?release, ?hot, ?hotEnd, ?bridge,
    ?command, ?flr, ?hold⟩
  case down =>
    intro s p rec
    rw [exec_portLinkDown, execPortLinkDown]
    exact ⟨fun h => congrArg _ (if_pos h), fun h => congrArg _ (if_neg (by rw [h]; decide))⟩
  case pcieClock =>
    intro s u q hu
    simp only [exec_refclkLost, execRefclkLost, Bool.false_eq_true, if_false, ← hu]
  case tlinkClock =>
    intro s u q hu
    simp only [exec_refclkLost, execRefclkLost, if_true, ← hu]
  case good =>
    intro s q
    simp only [exec_refclkGood, execRefclkGood, Bool.false_eq_true, if_false, if_true, and_self]
  case timers =>
    intro s p hstr
    refine ⟨fun htll => ?_, ?_, fun hres => ?_⟩
    · rw [exec_tLlExpiry, execTLlExpiry, hstr, htll]; rfl
    · rw [exec_deadTimeout, execDeadTimeout, if_pos hstr]
    · rw [exec_resumeTimeout, execResumeTimeout, hstr, hres]; rfl
  case dpc =>
    intro s p
    rw [exec_dpcTrigger, execDpcTrigger]
    refine ⟨fun hno => ?_, fun ht hdown hen h0 h5 hfresh v u hv hu => ?_⟩
    · rcases hno with h | h | h
      · rw [show dpcGo s p = s from if_pos (by rw [h]; rfl), ite_self]
      · rw [show dpcGo s p = s from if_pos (by rw [h, Bool.or_true]; rfl), ite_self]
      · rw [h, if_neg Bool.false_ne_true]
    · have hgo : (isTlink s p || bit s PRT_CFG_DIR p || rd s PRT_STATUS_STATE p == 0 || rd s PRT_STATUS_STATE p == 5
          || s.prt.dpc.contains p.val) = false := by
        rw [ht, hdown, beq_eq_false_iff_ne.mpr h0, beq_eq_false_iff_ne.mpr h5, hfresh]
        rfl
      simp only [hen, if_true, dpcGo, hgo, Bool.false_eq_true, if_false, ← hv, ← hu, prtUpd]
  case dpcClear =>
    intro s p
    rw [exec_dpcStatusClear, execDpcStatusClear]
    exact ⟨fun h => congrArg _ (if_pos h), fun h => congrArg _ (if_neg (by rw [h]; decide))⟩
  case slot =>
    intro s n
    rw [exec_slotPgRise, execSlotPgRise, exec_slotPgFall, execSlotPgFall]
    refine ⟨fun h => ?_, fun h => ?_⟩ <;> rw [h] <;> exact ⟨rfl, rfl⟩
  case partition =>
    intro s u m n ht hu
    rw [exec_partitionEnable, execPartitionEnable, exec_partitionDisable, execPartitionDisable, asMaster_taken ht, asMaster_taken ht, ← hu]
    refine ⟨fun hoff hlayout hvecs => by rw [partEnable_of_allowed hoff hlayout hvecs], fun hon => ⟨?_, ?_⟩⟩
    · rw [show partEnable u n = u from if_pos (by rw [hon]; rfl)]
    · rw [partDisable, hon]; rfl
  case perst =>
    intro s u n hu
    simp only [exec_perstAssert, execPerstAssert, ← hu]
  case perstEnd =>
    intro s u n hu
    rw [exec_perstRelease_qualified hu]
    refine ⟨rfl, rfl, fun hnone => by rw [hnone]; rfl, fun p hp => ?_⟩
    rw [hp, Option.any_some]
    exact ⟨fun h => by rw [h]; rfl, fun h => by rw [h]; rfl⟩
  case release =>
    intro s n
    rw [exec_partResetRelease, execPartResetRelease]
    exact ⟨fun hin hnone hen hwide => by rw [partRelease_of_free hin hnone hen hwide], fun h => by rw [partRelease_of_held h]⟩
  case hot =>
    intro s u p hhead hup hu
    simp only [exec_hotResetReceived, execHotResetReceived, hhead, hup, Bool.and_self, if_true, prtUpd, ← hu]
  case hotEnd =>
    intro s u p hhot hu
    simp only [exec_hotResetEnd, execHotResetEnd, hhot, if_true, prtUpd, ← hu]
  case bridge =>
    intro s n p
    refine ⟨rfl, rfl, fun ht hdown h0 => ?_, fun hother => ?_⟩
    · have hgo : (isTlink s p || bit s PRT_CFG_DIR p || rd s PRT_STATUS_STATE p == 0) = false := by
        rw [ht, hdown, beq_eq_false_iff_ne.mpr h0]
        rfl
      rw [exec_secondaryBusReset, execSecondaryBusReset, exec_secondaryBusReset, execSecondaryBusReset, sbr, sbr, hgo]
      exact ⟨rfl, rfl⟩
    · rw [exec_secondaryBusReset, execSecondaryBusReset, sbr, bne_iff_ne.mpr hother]
      rfl
  case command =>
    intro s m n p ht
    rw [exec_rstCmdPart, execRstCmdPart, asMaster_taken ht, exec_rstCmdPort, execRstCmdPort,
      show RST_CMD_PORT.off = RST_CMD_PART.off from rfl, asMaster_taken ht]
    refine ⟨fun h => ?_, fun h => ?_, fun h => ?_⟩
    · rw [h]; rfl
    · rw [h]; rfl
    · rw [bne_iff_ne.mpr h]; rfl
  case flr =>
    intro s i h
    rw [exec_vfFlrTimeout, execVfFlrTimeout, if_pos h]
    rfl
  case hold =>
    intro s i hnone l hl
    simp only [exec_vfConfigHoldEnd, execVfConfigHoldEnd, hnone, ← hl, fabUpd]
    rfl

end Sys2Proof.Machine
end

section
/-!
SUPPORT. Configuration requests, FLR, PTM, vendor-defined messages and IDE keys (R240, R252, R254, R255, R462); packets that arrive and the
policer (R25, R128 to R130, R316), with the statements about these.
-/
namespace Sys2Proof.Machine

section
variable {s : State}

/-! ### Messages -/

/-- R255: a vendor-defined message with local routing goes no further than its port. -/
theorem msgIn_of_local {p : Nat} {c : Cell} {h : MsgHdr} (hmsg : c.pk.msg = some h) (hroute : h.routing = 4#3) (hcode : h.code ≠ 0x10) :
    msgIn s p c = msgLocal s p c h := by
  unfold msgIn
  simp only [hmsg, Option.getD_some, hcode, if_false, hroute]
  rfl

/-- The header of a vendor-defined message with local routing. -/
theorem vdmPkt_msg (t0 : Bool) (vendor : BitVec 16) (word : BitVec 32) (tc : Fin 8) (rid : BitVec 16) (d : Bytes) :
    (vdmPkt t0 vendor word tc rid d .localRx).msg = some { routing := 4, code := if t0 then 0x7E else 0x7F, vendor := vendor, word := word } := rfl

theorem vdm_code_ne (t0 : Bool) : (if t0 then (0x7E : BitVec 8) else 0x7F) ≠ 0x10 := by cases t0 <;> decide

/-- R255: what a vendor-defined message does at its port. -/
theorem msgLocal_of_vdm {p : Nat} {c : Cell} {u : State} (t0 : Bool) (vendor : BitVec 16) (word : BitVec 32)
    (hu : u = (if vendor = 0x3E4C#16 then inc (creditBack s c.inp c.vl c.pk) VDM_DISC p else creditBack s c.inp c.vl c.pk)) :
    msgLocal s p c { routing := 4, code := if t0 then 0x7E else 0x7F, vendor := vendor, word := word }
      = if t0 then aerLog (emit u (.link p "unsupported request")) p c.pt 20 c.pk else u := by
  subst hu
  cases t0 <;> rfl

/-! ### PTM and IDE keys -/

theorem prtUpd_wr (f : Fld) (i v : Nat) (g : Ports → Ports) : prtUpd (wr s f i v) g = { wr s f i v with prt := g s.prt } := rfl

/-- R252: keys that a direction takes for the first time, or for a refresh. -/
theorem exec_ideKeyProg_of_keys {o : IdeOwner} {tx : Bool} {km : IdeKm} {k cur new : Nat} (hk : k = ideOwner o * 2 + tx.toNat)
    (hcur : cur = nget s.prt.ide k 0) (hkm : (km = .first ∧ new = max 1 cur) ∨ (km = .refresh ∧ new = if cur = 0 then 1 else 2)) :
    exec (.ideKeyProg o tx km) s = .next (if bit s TST_SEC_STATUS_CLEARED || decide (256 < ideUsed s - cur + new)
      then spdmSay s (ideVia o) "KP_ACK failure" []
      else spdmSay { wr { s with prt := { s.prt with ide := nset 0 s.prt.ide k new } } TST_SEC_STATUS_CLEARED_OK 0 0 with
        tst := { s.tst with keys := true, changed := s.tst.changed || s.tst.verifying } } (ideVia o) "KP_ACK" []) := by
  subst hk hcur
  obtain ⟨hkm, hnew⟩ | ⟨hkm, hnew⟩ := hkm <;> subst hkm hnew <;> cases tx <;> rfl

/-! ### The policer -/

/-- R128 to R130: a packet that its policer looks at. -/
theorem police_of_policed {p : Nat} {pk : Packet} {i : Nat} (hi : i = p * 8 + (arrivalCell s p pk).cls) (hkind : pk.kind ≠ .completion)
    (hop : pk.op ≠ .notice) (hon : shapersOn s = true) (hact : rd s SHK_POL_CTL_ACTION i = 1 ∨ rd s SHK_POL_CTL_ACTION i = 2) :
    police s p pk
      = if tokensCover s p (arrivalCell s p pk).cls true pk then
          (charge s p (arrivalCell s p pk).cls true pk, some (arrivalCell s p pk).cls)
        else if rd s SHK_POL_CTL_ACTION i == 1 && !keepsClass s p (arrivalCell s p pk) then
          (inc s SHK_POL_DEMOTED i, some (rd s SHK_POL_CTL_DEM_TC i))
        else (s, none) := by
  subst hi
  have hgo : (decide (pk.kind = .completion) || decide (pk.op = .notice) || !shapersOn s
      || !(rd s SHK_POL_CTL_ACTION (p * 8 + (arrivalCell s p pk).cls) == 1
        || rd s SHK_POL_CTL_ACTION (p * 8 + (arrivalCell s p pk).cls) == 2)) = false := by
    rw [decide_eq_false hkind, decide_eq_false hop, hon]
    rcases hact with h | h <;> rw [h] <;> rfl
  simp only [police, hgo, Bool.false_eq_true, if_false]

/-- R128: completions, notices and classes without an action pass. -/
theorem police_of_passing {p : Nat} {pk : Packet} {i : Nat} (hi : i = p * 8 + (arrivalCell s p pk).cls)
    (h : pk.kind = .completion ∨ pk.op = .notice ∨ shapersOn s = false
      ∨ (rd s SHK_POL_CTL_ACTION i ≠ 1 ∧ rd s SHK_POL_CTL_ACTION i ≠ 2)) :
    police s p pk = (s, some (arrivalCell s p pk).cls) := by
  subst hi
  refine if_pos ?_
  rcases h with h | h | h | ⟨h1, h2⟩
  · rw [decide_eq_true h]; rfl
  · rw [decide_eq_true h, Bool.or_true]; rfl
  · rw [h, Bool.not_false, Bool.or_true]; rfl
  · rw [beq_eq_false_iff_ne.mpr h1, beq_eq_false_iff_ne.mpr h2, Bool.or_self, Bool.not_false, Bool.or_true]

/-- R25, R128: an arriving packet that no earlier one waits before. -/
theorem ingress_of_first {p : Nat} {pk : Packet} (h : s.shk.held.any (fun h => h.pol && h.q.inp == p && decide (h.q.pk.kind = pk.kind)) = false) :
    (∀ t cls, police s p pk = (t, some cls) → ingress s p pk = lookup t p cls pk none)
    ∧ (∀ t, police s p pk = (t, none) → ingress s p pk = policeHold (inc t SHK_POL_HELD (p * 8 + arrivalClass t p pk)) p pk) := by
  constructor
  · intro t cls hpass
    simp only [ingress, h, Bool.false_eq_true, if_false, policeNext, hpass]
  · intro t hwait
    simp only [ingress, h, Bool.false_eq_true, if_false, policeNext, hwait]

end

/-- Settles O47: each command by its branches, IDE keys by `exec_ideKeyProg_of_keys`. -/
theorem pcieFunctions : Obligations.PcieFunctions := by
  unfold Obligations.PcieFunctions
  refine ⟨?config, ?flr, ?ptm, ?vdm, ?message, ?keys⟩
  case config =>
    intro s p t bus dev fn reg w rid tag pk hhead hup hpk
    rw [exec_configRequest, execConfigRequest, hhead, hup, Bool.and_self, if_pos rfl, ← hpk, cfgRoute]
    refine ⟨fun hin => ?_, fun hout ht hdev hfn => ⟨fun hw => ?_, fun v hw => ?_⟩, fun hout ht hbus hsec hdev hfn hw => ?_⟩
    · rw [hin]; rfl
    · rw [hout, ht, hdev, hfn, hw]; rfl
    · rw [hout, ht, hdev, hfn, hw]; rfl
    · rw [hout, ht, bne_iff_ne.mpr hbus, beq_iff_eq.mpr hsec, hdev, hfn, hw]; rfl
  case flr =>
    intro s n
    rw [exec_flr, execFlr]
    refine ⟨fun hin => by rw [hin]; rfl, fun hout u hu => ?_⟩
    simp only [hout, Bool.false_eq_true, if_false, funcReset, ← hu]
  case ptm =>
    intro s p h
    rw [exec_ptmRequestTimer, execPtmRequestTimer, exec_ptmExchange, execPtmExchange]
    refine ⟨fun hon => ?_, fun hoff => ?_⟩
    · rw [if_pos hon, if_pos hon, prtUpd_wr]
      exact ⟨rfl, rfl⟩
    · rw [hoff]
      exact ⟨rfl, rfl⟩
  case vdm =>
    intro s p t0 vendor word tc rid d r ht hopen
    rw [exec_vdmReceive, execVdmReceive, ht, hopen]
    rfl
  case message =>
    intro s u p c t0 vendor word tc rid d hpk hu
    rw [msgIn_of_local (by rw [hpk, vdmPkt_msg]) rfl (vdm_code_ne t0), msgLocal_of_vdm t0 vendor word hu]
  case keys =>
    intro s o tx km k cur hk hcur
    refine ⟨fun new hkm => ⟨fun hno => ?_, fun hopen hroom u hu => ?_⟩, fun hkm => ?_, fun hkm => ?_⟩
    · rw [exec_ideKeyProg_of_keys hk hcur hkm, if_pos (by simpa using hno)]
    · rw [exec_ideKeyProg_of_keys hk hcur hkm, hopen, decide_eq_false (Nat.not_lt.mpr hroom), Bool.or_self, if_neg Bool.false_ne_true, hu]
    · subst hk hcur hkm
      cases tx <;> rfl
    · subst hk hcur hkm
      cases tx <;> rfl

/-- Settles O48: the arrival by its branches, the policer by `police_of_passing` and `police_of_policed`. -/
theorem packetIngress : Obligations.PacketIngress := by
  unfold Obligations.PacketIngress
  refine ⟨⟨?closed, ?pcie, ?pipeline, ?tlink, ?release⟩, ?policer⟩
  case closed =>
    intro s p pk h
    rw [exec_packetIngress, execPacketIngress, h]
    rfl
  case pcie =>
    intro s p pk hopen ht
    rw [exec_packetIngress, execPacketIngress, hopen, ht]
    rfl
  case pipeline => exact fun s p pk => ⟨fun h => if_pos h, ingress_of_first⟩
  case tlink =>
    intro s t p pk h hopen ht hstr hblock hfab hgroup
    rw [exec_packetIngress, execPacketIngress, hopen, ht, hstr, hblock]
    simp only [Bool.not_true, Bool.not_false, Bool.and_self, Bool.false_eq_true, if_false, if_true, tlinkWhole, hfab, hgroup]
  case release =>
    intro s t p k h l cls hfilter hpass
    simp only [exec_policerRelease, execPolicerRelease, hfilter, hpass]
  case policer =>
    intro s p pk i hi
    refine ⟨police_of_passing hi, fun hkind hop hon hact => ?_⟩
    rw [police_of_policed hi hkind hop hon hact]
    refine ⟨fun hcover => by rw [if_pos hcover], fun hshort => ⟨fun hdemote hmoves => ?_, fun hwait => ?_⟩⟩
    · rw [hshort, hdemote, hmoves]
      rfl
    · rw [hshort, hwait]
      rfl

end Sys2Proof.Machine
end

section
/-!
SUPPORT. Notices, the device table, apertures, proxy completions and stale entries (R328, R331, R335, R341 to R343), with the statement about
these.
-/
namespace Sys2Proof.Machine

section
variable {s : State}

/-- R341 to R343: a notice not seen before is logged, raised by its kind, and forwarded while its TTL lasts. -/
theorem noticeTake_of_new {p ttl : Nat} {n : Notice} {seen : List (Nat × Nat)} {u : State} (hseen : seen = nget s.fab.seen n.origin.toNat [])
    (hnew : seen.any (fun e => e.1 == n.nseq.toNat && decide (s.now ≤ e.2 + 10000000)) = false) (h1 : 1 ≤ n.kind.toNat)
    (h7 : n.kind.toNat ≤ 7)
    (hu : u = raise (noticeLog { s with fab := { s.fab with seen := nput s.fab.seen n.origin.toNat (((n.nseq.toNat, s.now) :: seen).take 8) } } n)
      (0x503 + n.kind.toNat) n.origin.toNat) :
    noticeTake s p n ttl = if ttl = 0 then u else noticeOut u n (ttl - 1) (some p) := by
  have hkind : (decide (1 ≤ n.kind.toNat) && decide (n.kind.toNat ≤ 7)) = true := by rw [decide_eq_true h1, decide_eq_true h7]; rfl
  simp only [noticeTake, ← hseen, hnew, Bool.false_eq_true, if_false, fabUpd, hkind, raiseIf, if_true, ← hu]

/-- R328: with the other apertures of the partition disabled nothing overlaps. -/
theorem gapEnable_of_alone {n j : Nat} (hoff : bit s FAB_GAP_EN (n * 4 + j) = false)
    (halone : ∀ h, h < 4 → h ≠ j → bit s FAB_GAP_EN (n * 4 + h) = false) {z : Nat} (hz : z = 2 ^ rd s FAB_GAP_K (n * 4 + j)) :
    gapEnable s n j = wr (wr (wr s FAB_GAP_BASE (n * 4 + j) (rd s FAB_GAP_BASE (n * 4 + j) / z * z)) FAB_GAP_GBASE (n * 4 + j)
      (rd s FAB_GAP_GBASE (n * 4 + j) / z * z)) FAB_GAP_EN (n * 4 + j) 1 := by
  have hother (r : Nat × Nat) : (List.range 4).any (fun h => h != j && bit s FAB_GAP_EN (n * 4 + h)
      && meets r (rd s FAB_GAP_BASE (n * 4 + h), rd s FAB_GAP_BASE (n * 4 + h) + 2 ^ rd s FAB_GAP_K (n * 4 + h))) = false := by
    refine List.any_eq_false.mpr fun h hh => ?_
    by_cases hj : h = j
    · simp [hj]
    · simp [halone h (List.mem_range.mp hh) hj]
  simp only [gapEnable, ← hz, hother, hoff, Bool.or_self, Bool.false_eq_true, if_false]

end

/-- Settles O49: each command by its branches. -/
theorem fabric : Obligations.Fabric := by
  unfold Obligations.Fabric
  refine ⟨?notice, ?device, ?aperture, ?completion, ?stale⟩
  case notice =>
    intro s p n ttl hon hup seen hseen
    rw [exec_noticeReceive, execNoticeReceive, hon, hup, Bool.and_self, if_pos rfl]
    refine ⟨fun hold => ?_, fun hnew h1 h7 u hu => ?_⟩
    · simp only [noticeTake, ← hseen, hold, if_true]
    · rw [noticeTake_of_new hseen hnew h1 h7 hu]
      exact ⟨fun h0 => by rw [if_pos h0], fun h0 => by rw [if_neg h0]⟩
  case device =>
    intro s u m d v ht hu
    rw [exec_fabDevWrite, execFabDevWrite, asMaster_taken ht, ← hu]
    simp only [devWrite]
  case aperture =>
    intro s u m n j i z ht hu hi hz
    subst hi
    rw [exec_apertureEnable, execApertureEnable, asMaster_taken ht, ← hu]
    exact ⟨fun hon => congrArg _ (if_pos (by rw [hon]; rfl)), fun hoff halone => by rw [gapEnable_of_alone hoff halone hz]⟩
  case completion =>
    intro s p pk e he hup hrun
    simp only [exec_proxyCompletion, execProxyCompletion, he, hup, hrun, Bool.true_or, Bool.and_self, if_true]
  case stale =>
    intro s p t e he
    refine ⟨fun hquar => ?_, fun hlive => ?_⟩
    · simp only [exec_returnEntryStale, execReturnEntryStale, he, hquar, if_true]
    · simp only [exec_returnEntryStale, execReturnEntryStale, he, hlive, Bool.false_eq_true, if_false]

end Sys2Proof.Machine
end

section
/-!
SUPPORT. Feeds, temperatures and supplies, and the slot channels of the power die (R249, R250, R483 to R496, R536, R537, R544), with the
statement about these.
-/
namespace Sys2Proof.Machine

section
variable {s : State}

theorem pdOn_of_on (h : s.pwr.on = true) (f : State → State) : pdOn s f = f s := if_pos h

theorem pdOn_of_off (h : s.pwr.on = false) (f : State → State) : pdOn s f = s := if_neg (by rw [h]; decide)

/-! ### Feeds -/

theorem feedHeld_iff {f : Nat} : (feedState s f == 3 || feedState s f == 4) = true ↔ feedState s f = 3 ∨ feedState s f = 4 := by
  rw [Bool.or_eq_true, beq_iff_eq, beq_iff_eq]

theorem feedHeld_of_ne {f : Nat} (h3 : feedState s f ≠ 3) (h4 : feedState s f ≠ 4) : (feedState s f == 3 || feedState s f == 4) = false := by
  rw [beq_eq_false_iff_ne.mpr h3, beq_eq_false_iff_ne.mpr h4]
  rfl

/-- R484: an enabled feed goes below its threshold. -/
theorem exec_feedLow_of_free {f : Fin 2} {u : State} (hpd : s.pwr.on = true) (hon : feedOn s f = true)
    (hnew : s.pwr.low.contains f.val = false) (hu : u = { s with pwr := { s.pwr with low := f.val :: s.pwr.low } })
    (h3 : feedState u f ≠ 3) (h4 : feedState u f ≠ 4) : exec (.feedLow f) s = .next (raise (feedSet u f 2) (0x750 + f.val) f) := by
  simp only [exec_feedLow, execFeedLow, pdOn_of_on hpd, hon, hnew, Bool.not_true, Bool.or_self, Bool.false_eq_true, if_false, pwrUpd, ← hu,
    feedHeld_of_ne h3 h4]

/-- R484: an enabled feed is no longer below its threshold. -/
theorem exec_feedNotLow_of_on {f : Fin 2} {u : State} (hpd : s.pwr.on = true) (hon : feedOn s f = true)
    (hu : u = { s with pwr := { s.pwr with low := s.pwr.low.filter (· != f.val) } }) :
    exec (.feedNotLow f) s = .next (if feedState u f == 3 || feedState u f == 4 then u else feedControl u f) := by
  simp only [exec_feedNotLow, execFeedNotLow, pdOn_of_on hpd, hon, Bool.not_true, Bool.false_eq_true, if_false, pwrUpd, ← hu]

/-- R483: overvoltage on an enabled feed that is not reversed. -/
theorem exec_feedOvervoltage_of_on {f : Fin 2} (hpd : s.pwr.on = true) (hon : feedOn s f = true) (h3 : feedState s f ≠ 3) :
    exec (.feedOvervoltage f) s = .next (if bit (raise s (0x754 + f.val) f) PWD_FEED_CTL_OV_CUT f then
      conduct (feedSet (raise s (0x754 + f.val) f) f 4) f false else raise s (0x754 + f.val) f) := by
  have hgo : (!feedOn s f || feedState s f == 3) = false := by rw [hon, beq_eq_false_iff_ne.mpr h3]; rfl
  simp only [exec_feedOvervoltage, execFeedOvervoltage, pdOn_of_on hpd, hgo, Bool.false_eq_true, if_false]

/-! ### Slot channels -/

theorem slotDriven_of_state {n st : Nat} (h : slotState s n = st) : slotDriven s n = (decide (1 ≤ st) && decide (st ≤ 3)) := by
  rw [slotDriven, h]

/-- R488: ON of a channel that is OFF ramps it with its full retry count. -/
theorem slotOn_of_off {n : Nat} {v : State} (hoff : bit s PWD_SLOT_CTL_ON n = false) (hfree : bit s PWD_SLOT_STATUS_FENCED n = false)
    (hstate : slotState s n = 0) (hv : v = wr s PWD_SLOT_CTL_ON n 1) (hbus : busUv v = false) : slotOn s n = slotRamp v n true := by
  simp only [slotOn, hoff, hfree, hstate, ← hv, hbus]
  rfl

/-- R488: ON has no effect on a channel that is on, fenced or in FET_FAULT. -/
theorem slotOn_of_barred {n : Nat} (h : bit s PWD_SLOT_CTL_ON n = true ∨ bit s PWD_SLOT_STATUS_FENCED n = true ∨ slotState s n = 6) :
    slotOn s n = s := by
  refine if_pos ?_
  rcases h with h | h | h
  · rw [h]; rfl
  · rw [h, Bool.or_true]; rfl
  · rw [h, show ((6 : Nat) == 6) = true from rfl, Bool.or_true]; rfl

/-- R489 to R491: what a trip does to a channel that drives its gate. -/
theorem slotTrip_of_driven {n : Nat} {fast : Bool} {u : State} (hdriven : slotDriven s n = true)
    (hu : u = raise (if fast then inc (powerFault (wr (inc (gatePull s n) SLOT_TRIPS n) PWD_SLOT_STATUS_LAST_FAST n 1) n) SLOT_FAST n
      else powerFault (wr (inc (gatePull s n) SLOT_TRIPS n) PWD_SLOT_STATUS_LAST_FAST n 0) n) (0x700 + 5 * n) n) :
    slotTrip s n fast = if rd u PWD_SLOT_STATUS_RETRIES_LEFT n ≠ 0 then
        slotTo (wr u PWD_SLOT_STATUS_RETRIES_LEFT n (rd u PWD_SLOT_STATUS_RETRIES_LEFT n - 1)) n 4
      else raise (wr (slotTo u n 5) PWD_SLOT_CTL_ON n 0) (0x700 + 5 * n + 1) n := by
  subst hu
  cases fast <;> simp only [slotTrip, hdriven, wrb, bne_iff_ne, Bool.not_true, Bool.false_eq_true, if_false, if_true]

end

/-- Settles O50: each command by its branches. -/
theorem powerDie : Obligations.PowerDie := by
  unfold Obligations.PowerDie
  refine ⟨⟨?feeds, ?sensors, ?off, ?running⟩, ?power, ?host, ?manager, ?channel, ?clear, ?bus⟩
  case feeds =>
    intro s f hpd hon
    refine ⟨fun hlow => ?_, fun hnew u hu h3 h4 => exec_feedLow_of_free hpd hon hnew hu h3 h4, fun u hu => ?_, fun c hc => ?_, ?_, fun h3 => ?_,
      fun h4 => ?_, fun h3 => ?_⟩
    · rw [exec_feedLow, execFeedLow, pdOn_of_on hpd, hlow, Bool.or_true, if_pos rfl]
    · rw [exec_feedNotLow_of_on hpd hon hu]
      exact ⟨fun h => by rw [if_pos (feedHeld_iff.mpr h)], fun h3 h4 => by rw [feedHeld_of_ne h3 h4, if_neg Bool.false_ne_true]⟩
    · rw [exec_feedReverseCurrent, execFeedReverseCurrent, pdOn_of_on hpd, hon]
      obtain ⟨rfl, rfl⟩ | ⟨rfl, rfl⟩ := hc
      all_goals
        refine ⟨fun h => ?_, fun h => ?_⟩
        · rw [if_neg (by decide)]; exact congrArg _ (if_pos h)
        · rw [if_neg (by decide)]; exact congrArg _ (if_neg (by simpa using h))
    · rw [exec_feedReversed, execFeedReversed, pdOn_of_on hpd, hon]
      rfl
    · rw [exec_feedOvervoltage, execFeedOvervoltage, exec_feedReversedClear, execFeedReversedClear, pdOn_of_on hpd, pdOn_of_on hpd, h3]
      exact ⟨congrArg _ (if_pos (by rw [hon]; rfl)), rfl⟩
    · rw [exec_feedOvClear, execFeedOvClear, pdOn_of_on hpd, h4]
      rfl
    · rw [exec_feedOvervoltage_of_on hpd hon h3]
      rw [bit_raise]
      exact ⟨fun h => by rw [if_pos h], fun h => by rw [h, if_neg Bool.false_ne_true]⟩
  case sensors =>
    intro s hpd
    refine ⟨fun h => ?_, fun h => ?_, fun i => ?_, fun i hok => ⟨fun hi => ?_, fun hi => ?_⟩, fun i hbad => ?_, fun i u hu => ?_⟩
    · rw [exec_pwrfailReadback, execPwrfailReadback, pdOn_of_on hpd, h]; rfl
    · rw [exec_pwrfailReadback, execPwrfailReadback, pdOn_of_on hpd, h]; rfl
    · rw [exec_supplyOutOfRange, execSupplyOutOfRange, pdOn_of_on hpd]
    · rw [exec_tempWarn, execTempWarn, exec_tempCrit, execTempCrit, pdOn_of_on hpd, pdOn_of_on hpd, if_pos hi, if_pos hi, hok]
      exact ⟨rfl, rfl⟩
    · rw [exec_tempWarn, execTempWarn, exec_tempCrit, execTempCrit, pdOn_of_on hpd, pdOn_of_on hpd, if_neg (by omega), if_neg (by omega), hok]
      exact ⟨rfl, rfl⟩
    · rw [exec_tempWarn, execTempWarn, exec_tempCrit, execTempCrit, pdOn_of_on hpd, pdOn_of_on hpd, hbad]
      exact ⟨congrArg _ (ite_self _), congrArg _ (ite_self _)⟩
    · simp only [exec_tempSensorFail, execTempSensorFail, pdOn_of_on hpd, pwrUpd, ← hu]
      by_cases hi : i.val < 9
      · rw [if_pos hi, if_pos hi]
      · rw [if_neg hi, if_neg hi]
  case off =>
    intro s hpd
    refine ⟨?_, ?_, fun f => ?_, fun n => ?_⟩
    · rw [exec_powerDieStart, execPowerDieStart, hpd]; rfl
    · rw [exec_powerDieStop, execPowerDieStop, hpd]; rfl
    · rw [exec_feedLow, execFeedLow, pdOn_of_off hpd]
    · rw [exec_slotTimerTrip, execSlotTimerTrip, pdOn_of_off hpd]
  case running =>
    intro s hpd
    refine ⟨?_, fun u hu => ?_⟩
    · rw [exec_powerDieStart, execPowerDieStart, hpd]; rfl
    · simp only [exec_powerDieStop, execPowerDieStop, hpd, Bool.not_true, Bool.false_eq_true, if_false, ← hu, pwrUpd]
  case power =>
    intro s n hpd
    refine ⟨fun hoff hfree hstate u v hv hbus hu => ?_, fun h => ?_, ?_⟩
    · rw [slotPower, pdOn_of_on hpd, if_pos rfl, slotOn_of_off hoff hfree hstate hv hbus, slotRamp, if_pos rfl, ← hu]
    · rw [slotPower, pdOn_of_on hpd, if_pos rfl, slotOn_of_barred h]
    · rw [slotPower, pdOn_of_on hpd, if_neg Bool.false_ne_true]
  case host =>
    intro s n on hbound
    rw [exec_slotPowerControlWrite, execSlotPowerControlWrite, if_pos rfl, if_pos hbound]
  case manager =>
    intro s n on ht hmode
    rw [exec_slotPowerControlWrite, execSlotPowerControlWrite, if_neg Bool.false_ne_true, beq_eq_false_iff_ne.mpr hmode,
      if_neg Bool.false_ne_true, asMaster_taken ht, acked_inband]
  case channel =>
    intro s n hpd
    refine ⟨fun h => ?ramp, fun h => ?qual, fun hdriven u hu v hv => ?trip, fun hidle => ?still, fun h hbus => ?cool, fun h hbus => ?cooled,
      fun h u hu => ?damaged, fun h hidle => ?shorted⟩
    case ramp => rw [exec_slotRampComplete, execSlotRampComplete, pdOn_of_on hpd, h]; rfl
    case qual => rw [exec_slotQualified, execSlotQualified, pdOn_of_on hpd, h]; rfl
    case trip =>
      rw [exec_slotTimerTrip, execSlotTimerTrip, exec_slotFastTrip, execSlotFastTrip, pdOn_of_on hpd, pdOn_of_on hpd,
        slotTrip_of_driven hdriven (congrFun hu false), slotTrip_of_driven hdriven (congrFun hu true), hv]
      exact ⟨rfl, rfl⟩
    case still =>
      rw [exec_slotTimerTrip, execSlotTimerTrip, exec_slotFastTrip, execSlotFastTrip, pdOn_of_on hpd, pdOn_of_on hpd, slotTrip, slotTrip,
        hidle]
      exact ⟨rfl, rfl⟩
    case cool =>
      rw [exec_slotCoolEnd, execSlotCoolEnd, pdOn_of_on hpd, h, hbus]; rfl
    case cooled =>
      rw [exec_slotCoolEnd, execSlotCoolEnd, pdOn_of_on hpd, h, hbus]; rfl
    case damaged =>
      rw [exec_slotFetFault, execSlotFetFault, pdOn_of_on hpd]
      simp only [h, slotDriven_of_state h, ← hu, pwrUpd]
      rfl
    case shorted =>
      have hok : (slotState s n == 0 || slotState s n == 4 || slotState s n == 5) = true := by simpa [or_assoc] using h
      rw [exec_slotFetFault, execSlotFetFault, pdOn_of_on hpd]
      simp only [hok, hidle, pwrUpd]
      rfl
  case clear =>
    intro s u m n ht hu hpd
    rw [exec_slotClrFet, execSlotClrFet, asMaster_taken ht, ← hu, slotClrFet, pdOn_of_on hpd]
    exact ⟨fun h => congrArg _ (if_pos (beq_iff_eq.mpr h)), fun h => congrArg _ (if_neg (by simpa using h))⟩
  case bus =>
    intro s hpd
    refine ⟨?_, fun huv u hu => ?_⟩
    · rw [exec_busUndervoltage, execBusUndervoltage, pdOn_of_on hpd]
    · rw [exec_busUvRecovered, execBusUvRecovered, pdOn_of_on hpd]
      simp only [huv, Bool.not_true, Bool.false_eq_true, if_false, ← hu, pwrUpd]
      rw [hu, wr_pwr]

end Sys2Proof.Machine
end

section
/-!
SUPPORT. Retrain, spare, width, RESUME and pair exchanges of a T-link (R281, R299 to R321), with the statement about these.
-/
namespace Sys2Proof.Machine

section
variable {s : State}

/-- R286: a control stitch on a striped port acts after its own slot. -/
theorem onStitch_of_striped {p : Fin 64} {u : State} (hstr : striped s p = true) (hblock : inBlockReset s 9 = false) (hu : u = slotIn s p)
    (f : State → State) : onStitch p s f = f u := by
  rw [onStitch, hstr, hblock, hu]
  rfl

/-- R302: a sideband stitch on a striped port acts after its own slot. -/
theorem onSide_of_striped {p : Fin 64} {u : State} (hstr : striped s p = true) (hblock : inBlockReset s 9 = false) (hu : u = sideIn s p)
    (f : State → State) : onSide p s f = f u := by
  rw [onSide, hstr, hblock, hu]
  rfl

/-! ### Requests -/

/-- R299: a request without an answer is sent again, and given up after four sends. -/
theorem exec_controlRequestRepeat_of_req {p : Fin 64} {sub arg n : Nat} (hstr : striped s p = true) (hreq : (tlAt s p).req = some (sub, arg, n)) :
    (n < 4 → exec (.controlRequestRepeat p) s = .next (tlUpd (requestOut s p sub arg) p (fun t => { t with req := some (sub, arg, n + 1) })))
    ∧ (4 ≤ n → ∀ u, u = reqDone (inc s CTL_FAIL p) p → exec (.controlRequestRepeat p) s = .next (if sub == 0x15 then tllStart u p
        else if sub == 0x10 then wr u WLT_STATUS_LEAK_LOW p 0
        else if sub == 0x20 && rd u PRT_STATUS_STATE p == 4 then portState u p 3 else u)) := by
  constructor
  · intro hn
    simp only [exec_controlRequestRepeat, execControlRequestRepeat, hstr, hreq, Bool.not_true, Bool.false_eq_true, if_false, if_pos hn]
  · intro hn u hu
    simp only [exec_controlRequestRepeat, execControlRequestRepeat, hstr, hreq, Bool.not_true, Bool.false_eq_true, if_false,
      if_neg (Nat.not_lt.mpr hn), ← hu]

/-- R301, R307: the correction window of a striped port ends. -/
theorem exec_corrWindowExpiry_of_striped {p : Fin 64} {u : State} {o : Option Nat} (hstr : striped s p = true)
    (hu : u = tlSet s p { tlAt s p with corr := [] }) (ho : o = (List.range (widthOf (rd s PRT_STATUS_CUR_WIDTH p))).find?
      (fun l => decide (rd s WLT_CTL2_CORR_MAX p < nget (tlAt s p).corr l 0))) :
    (o = none → exec (.corrWindowExpiry p) s = .next u)
    ∧ (∀ l, o = some l → (tlAt s p).req = none → exec (.corrWindowExpiry p) s = .next (if spareFree u p then request u p 0x15 l
        else if bit u WLT_CTL_WIDTH_EN p && decide (0 < rd s PRT_STATUS_CUR_WIDTH p) && decide (rd s PRT_STATUS_CUR_WIDTH p ≤ 2) then
          request u p 0x12 (widthArg l (rd s PRT_STATUS_CUR_WIDTH p - 1))
        else u)) := by
  constructor
  · intro hnone
    simp only [exec_corrWindowExpiry, execCorrWindowExpiry, hstr, Bool.not_true, Bool.false_eq_true, if_false, ← ho, hnone, hu]
  · intro l hl hreq
    simp only [exec_corrWindowExpiry, execCorrWindowExpiry, hstr, Bool.not_true, Bool.false_eq_true, if_false, ← ho, hl, ← hu]
    simp only [hreq, Option.isSome_none, Bool.false_eq_true, if_false]

/-! ### Lanes -/

/-- R281, R308: what the loss of lock of a lane of a T-link does. -/
theorem exec_laneLockLoss_of_lane {p : Fin 64} {l : Fin 5} {n : Nat} {u v : State} (ht : isTlink s p = true) (hn : laneAt s p l = some n)
    (hu : u = wr (inc s LAN_LOCK_LOSS n) LAN_STATUS_LOCK n 0)
    (hv : v = tlUpd u p (fun t => { t with lost := l.val :: t.lost.filter (· != l.val) })) :
    exec (.laneLockLoss p l) s = .next (if tstate u p == tCONFIG || tstate u p == tLOCK then laneRestart u p l
      else if !striped u p then u
      else if decide (l.val = 4) && rd u WLT_STATUS_SPARE p == 1 then raise (wr u WLT_STATUS_SPARE p 3) 0x489 p
      else if (decide (l.val = 4) && rd u WLT_STATUS_SPARE p != 2) || (rd u WLT_STATUS_OUT_LANES p).testBit l then u
      else if l.val != 4 && spareFree v p then (if (tlAt v p).req.any (fun r => r.1 == 0x15) then v else request v p 0x15 l)
      else tllStart v p) := by
  simp only [exec_laneLockLoss, execLaneLockLoss, ht, if_true, hn, ← hu, ← hv]

/-- R303: the receiver takes a lane from the spare. -/
theorem spareGo_of_swapped {p l n : Nat} {v : State} (hspare : rd s WLT_STATUS_SPARE p = 2) (hfor : rd s WLT_STATUS_SPARE_FOR p = l)
    (hn : spareLane s p = some n) (hv : v = tlUpd s p (fun t => { t with rxLanes := t.rxLanes.set l n, sbRx := [] })) :
    spareGo s p l = if (tlAt v p).spareGo then nakOut (tlUpd v p (fun t => { t with spareGo := false })) p 2 else v := by
  have hgo : (rd s WLT_STATUS_SPARE p != 2 || rd s WLT_STATUS_SPARE_FOR p != l) = false := by
    rw [hspare, hfor, bne_self_eq_false, bne_self_eq_false]
    rfl
  simp only [spareGo, hgo, Bool.false_eq_true, if_false, hn, ← hv]

/-! ### Pairs -/

/-- R321: two T-links that belong to no pair are declared one. -/
theorem pairEnableAt_of_free {k a b : Nat} (ha : a = rd s WLT_PAIR_CTL_PORT_A k) (hb : b = rd s WLT_PAIR_CTL_PORT_B k)
    (hoff : bit s WLT_PAIR_CTL_EN k = false) (hne : a ≠ b) (hta : isTlink s a = true) (htb : isTlink s b = true) (hpa : pairOf s a = none)
    (hpb : pairOf s b = none) : pairEnableAt s k = pairUps (wr (wr s WLT_PAIR_CTL_EN k 1) WLT_PAIR_STATUS_STATE k 1) a := by
  have hgo : (bit s WLT_PAIR_CTL_EN k || a == b || !isTlink s a || !isTlink s b || (pairOf s a).isSome || (pairOf s b).isSome) = false := by
    rw [hoff, beq_eq_false_iff_ne.mpr hne, hta, htb, hpa, hpb]
    rfl
  simp only [pairEnableAt, ← ha, ← hb, hgo, Bool.false_eq_true, if_false]

theorem pairEnableAt_of_barred {k a b : Nat} (ha : a = rd s WLT_PAIR_CTL_PORT_A k) (hb : b = rd s WLT_PAIR_CTL_PORT_B k)
    (h : bit s WLT_PAIR_CTL_EN k = true ∨ a = b ∨ isTlink s a = false ∨ isTlink s b = false) : pairEnableAt s k = s := by
  subst ha hb
  refine if_pos ?_
  rcases h with h | h | h | h <;> simp [h]

end

/-- Settles O52: each command by its branches. -/
theorem linkExchanges : Obligations.LinkExchanges := by
  unfold Obligations.LinkExchanges
  refine ⟨?again, ?stitch, ?side, ?timers, ?lane, ?pair, ?flow⟩
  case again =>
    intro s p sub arg n hstr hreq
    obtain ⟨hagain, hfail⟩ := exec_controlRequestRepeat_of_req hstr hreq
    refine ⟨fun hn => by rw [hagain hn, requestOut], fun hn u hu => ⟨fun hsub => ?_, fun hsub => ?_, fun hsub => ?_⟩⟩ <;>
      rw [hfail hn u hu, hsub] <;> rfl
  case stitch =>
    intro s u p hstr hblock hu
    refine ⟨fun f hyield => ?_, fun f a n hreq => ?_, fun l w hyield hw => ?_, fun l w n hreq => ?_, fun l w => ⟨fun h => ?_, fun h => ?_⟩,
      fun a b c n l hsame => ?_⟩
    · rw [exec_retrainReqReceive, execRetrainReqReceive, onStitch_of_striped hstr hblock hu, retrainReq, hyield, Bool.not_true,
        if_neg Bool.false_ne_true]
    · rw [exec_retrainAckReceive, execRetrainAckReceive, onStitch_of_striped hstr hblock hu]
      simp only [retrainAck, hreq]
    · rw [exec_widthReqReceive, execWidthReqReceive, onStitch_of_striped hstr hblock hu, widthReq, hyield, decide_eq_false (Nat.not_lt.mpr hw)]
      simp only [Bool.not_true, Bool.or_self, Bool.false_eq_true, if_false]
    · rw [exec_widthAckReceive, execWidthAckReceive, onStitch_of_striped hstr hblock hu]
      simp only [widthAck, hreq, bne_self_eq_false, Bool.false_eq_true, if_false]
    · rw [exec_widthGoReceive, execWidthGoReceive, onStitch_of_striped hstr hblock hu, widthGo, if_pos h]
    · rw [exec_widthGoReceive, execWidthGoReceive, onStitch_of_striped hstr hblock hu, widthGo, if_neg (Nat.not_le.mpr h)]
    · rw [exec_resumeReceive, execResumeReceive, onStitch_of_striped hstr hblock hu, if_pos hsame]
  case side =>
    intro s u p hstr hblock hu
    refine ⟨fun l hreq hfree hyield => ?_, fun l n hreq => ?_, fun l hspare hfor n v hn hv => ?_⟩
    · rw [exec_spareReqReceive, execSpareReqReceive, onSide_of_striped hstr hblock hu]
      simp only [spareReq, hreq, hfree, hyield, Bool.not_true, Bool.or_true, Bool.or_self, Bool.false_eq_true, if_false]
    · rw [exec_spareAckReceive, execSpareAckReceive, onSide_of_striped hstr hblock hu]
      simp only [spareAck, hreq, bne_self_eq_false, Bool.false_eq_true, if_false]
    · rw [exec_spareGoReceive, execSpareGoReceive, onSide_of_striped hstr hblock hu, spareGo_of_swapped hspare hfor hn hv]
      exact ⟨fun h => congrArg _ (if_pos h), fun h => congrArg _ (if_neg (by rw [h]; decide))⟩
  case timers =>
    intro s p hstr
    refine ⟨fun hres => ?_, fun u o hu ho => ?_⟩
    · rw [exec_resumeRepeatTimer, execResumeRepeatTimer, hstr, hres]; rfl
    · obtain ⟨hnone, hbad⟩ := exec_corrWindowExpiry_of_striped hstr hu ho
      refine ⟨hnone, fun l hl hreq => ⟨fun hfree => ?_, fun hbusy hen hw0 hw2 => ?_⟩⟩
      · rw [hbad l hl hreq, if_pos hfree]
      · rw [hbad l hl hreq, hbusy, hen, decide_eq_true hw0, decide_eq_true hw2]; rfl
  case lane =>
    intro s u p l n ht hn hu
    have hloss := exec_laneLockLoss_of_lane ht hn hu rfl
    refine ⟨fun hstate => ?trains, fun hconf hlock hstr => ?off, fun hconf hlock hstr => ⟨fun hl hspare => ?spare, fun hl hin v hv =>
      ⟨fun hfree hreq => ?swap, fun hbusy => ?wait⟩⟩, ?regain⟩
    case trains => rw [hloss, if_pos (by simpa using hstate)]
    case regain =>
      simp only [exec_laneLockRegain, execLaneLockRegain, ht, if_true, hn]
    all_goals rw [hloss, beq_eq_false_iff_ne.mpr hconf, beq_eq_false_iff_ne.mpr hlock, Bool.or_self, if_neg Bool.false_ne_true, hstr]
    case off => rfl
    all_goals rw [Bool.not_true, if_neg Bool.false_ne_true]
    case spare => rw [if_pos (by rw [decide_eq_true hl, hspare]; rfl)]
    all_goals rw [decide_eq_false (Nat.ne_of_lt hl), Bool.false_and, Bool.false_and, if_neg Bool.false_ne_true, hin, if_neg (by decide), ← hv,
      bne_iff_ne.mpr (Nat.ne_of_lt hl)]
    case swap => rw [hfree, hreq]; rfl
    case wait => rw [hbusy]; rfl
  case pair =>
    intro s u m k a b ht hu ha hb
    have henable : exec (.pairEnable m k) s = .next (pairEnableAt u k) := by rw [exec_pairEnable, execPairEnable, asMaster_taken ht, ← hu]
    rw [henable]
    refine ⟨fun h => by rw [pairEnableAt_of_barred ha hb h],
      fun hoff hne hta htb hpa hpb => by rw [pairEnableAt_of_free ha hb hoff hne hta htb hpa hpb], ?_⟩
    rw [exec_pairDisable, execPairDisable, asMaster_taken ht, ← hu]
    exact ⟨_, rfl⟩
  case flow => exact fun s k c => rfl

end Sys2Proof.Machine
end

section
/-!
SUPPORT. Training and rate changes of a T-link, and its data stitches (R269, R272 to R286), with the statement about these.
-/
namespace Sys2Proof.Machine

section
variable {s : State}

/-! ### Training stitches -/

/-- R277, R278: a training stitch that cannot be read; one that shows the marker mirrored sets RX_INV (R269). -/
theorem trainTake_of_unread {p n l : Nat} {raw mirrored : Bytes} {eq : EqReport} (hread : trainRead raw = none) :
    trainTake s p n l raw mirrored eq = if !hasMarker raw && hasMarker mirrored then
      wr (laneRestart (inc s TS_BAD p) p (rd s LAN_STATUS_LOGICAL n)) LAN_STATUS_RX_INV n 1
      else laneRestart (inc s TS_BAD p) p (rd s LAN_STATUS_LOGICAL n) := by
  simp only [trainTake, hread]

theorem trainTake_of_own {p n l : Nat} {raw mirrored : Bytes} {eq : EqReport} {x : TrainSt} (hread : trainRead raw = some x)
    (hlane : x.logical = rd s LAN_STATUS_LOGICAL n) :
    trainTake s p n l raw mirrored eq = trainGood s p n (rd s LAN_STATUS_LOGICAL n) x eq := by
  simp only [trainTake, hread, hlane, beq_self_eq_true, if_true]

theorem trainTake_of_foreign {p n l : Nat} {raw mirrored : Bytes} {eq : EqReport} {x : TrainSt} (hread : trainRead raw = some x)
    (hlane : x.logical ≠ rd s LAN_STATUS_LOGICAL n) (hrev : x.logical ≠ revLogical s p l) :
    trainTake s p n l raw mirrored eq = laneRestart (inc s TS_BAD p) p (rd s LAN_STATUS_LOGICAL n) := by
  simp only [trainTake, hread, beq_eq_false_iff_ne.mpr hlane, beq_eq_false_iff_ne.mpr hrev, Bool.false_and, Bool.false_eq_true, if_false]

/-! ### Rates -/

/-- R279: a rate request that is accepted. -/
theorem rateReq_of_accepted {p k t c : Nat} {v : State} (hstr : striped s p = true) (hstate : tstate s p = tRUN)
    (hblock : inBlockReset s 1 = false) (hrun : running s = true) (hstep : bit s PRT_STATUS_STEP_DONE p = false)
    (hyield : yields s p 0x20 = true) (ht : t = targetRate s p (rd s TL_PARTNER_MAX_RATE p)) (hc : c = max 1 (min k t))
    (hv : v = tlUpd (ctlOut s p 0x21 c []) p (fun x => { x with target := t })) :
    rateReq s p k = if c ≤ rd v PRT_STATUS_RATE p then settle (reqDone v p) p (rd v PRT_STATUS_RATE p) t else pauseAt v p c := by
  have hgo : (!(striped s p && tstate s p == tRUN) || inBlockReset s 1) = false := by rw [hstr, hstate, hblock]; rfl
  have hmay : (!running s || bit s PRT_STATUS_STEP_DONE p || !yields s p 0x20) = false := by rw [hrun, hstep, hyield]; rfl
  simp only [rateReq, hgo, hmay, Bool.false_eq_true, if_false, ← ht, ← hc, ← hv]

/-- R279: the answer to a rate request of this end's own. -/
theorem rateAck_of_asked {p a n c : Nat} (hstr : striped s p = true) (hreq : (tlAt s p).req = some (0x20, a, n)) :
    rateAck s p c = if c ≤ rd s PRT_STATUS_RATE p then settle (reqDone s p) p (rd s PRT_STATUS_RATE p) (tlAt s p).target
      else pauseAt s p c := by
  simp only [rateAck, hstr, hreq, Bool.not_true, Bool.false_eq_true, if_false]

/-! ### Data stitches -/

/-- R273, R275: a slot of a striped port is read; a stitch that overflows the retiming buffer is lost. -/
theorem exec_dataStitchReceive_of_striped {p : Fin 64} {lv af : List (List (Fin 4))} {r : State × Bytes × Bool} {b : Bool} {u : State}
    (hstr : striped s p = true) (hblock : inBlockReset s 9 = false)
    (hr : r = slotRead s p (lv.map (·.map (·.val))) (af.map (·.map (·.val))))
    (hu : u = if b then ebOverflow r.1 p else stitchArrive r.1 p r.2.1 r.2.2) :
    exec (.dataStitchReceive p lv af b) s = .next (if striped u p then sideTake u p else u) := by
  simp only [exec_dataStitchReceive, execDataStitchReceive, hstr, hblock, Bool.not_true, Bool.or_self, Bool.false_eq_true, if_false, ← hr, ← hu]

end

/-- Settles O53: each command by its branches. -/
theorem trainingAndRates : Obligations.TrainingAndRates := by
  unfold Obligations.TrainingAndRates
  refine ⟨?training, ?take, ?timeouts, ?request, ?answer, ?attempt, ?data, ?good, ?bad⟩
  case training =>
    intro s u p l lv eq n r htrain hblock hlane hgood hr hu
    have hexec : exec (.trainingStitchReceive p l lv eq) s = .next (if training u p then trainOut u p n else u) := by
      simp only [exec_trainingStitchReceive, execTrainingStitchReceive, htrain, hblock, Bool.not_true, Bool.or_self, Bool.false_eq_true, if_false,
        hlane, hgood, ← hr, ← hu]
    rw [hexec]
    exact ⟨fun h => by rw [if_pos h], fun h => by rw [h, if_neg Bool.false_ne_true]⟩
  case take =>
    rintro s p n l g raw mirrored eq rfl
    refine ⟨fun hread hno => ?_, fun hread hraw hmir => ?_, fun x hread hlane => trainTake_of_own hread hlane,
      fun x hread hlane hrev => trainTake_of_foreign hread hlane hrev⟩ <;> rw [trainTake_of_unread hread]
    · refine if_neg ?_
      rcases hno with h | h <;> rw [h] <;> simp
    · rw [hraw, hmir]
      rfl
  case timeouts =>
    intro s p ht
    refine ⟨fun h => ?_, fun h hfast => ?_, fun h hfull => ?_, fun h => ?_, fun h => ?_, fun h u hu => ?_, fun h => ?_⟩
    · rw [exec_trainingLockTimeout, execTrainingLockTimeout, ht, h]; rfl
    · rw [exec_trainingConfigTimeout, execTrainingConfigTimeout, ht, h, hfast]; rfl
    · rw [exec_trainingConfigTimeout, execTrainingConfigTimeout, ht, h, hfull]; rfl
    · rw [exec_eqTimeout, execEqTimeout, ht, h]; rfl
    · rw [exec_soakPass, execSoakPass, ht, h]; rfl
    · simp only [exec_ratePauseEnd, execRatePauseEnd, ht, h, beq_self_eq_true, Bool.and_self, if_true, ← hu]
    · rw [exec_trainingLockTimeout, execTrainingLockTimeout, ht, beq_eq_false_iff_ne.mpr h]; rfl
  case request =>
    intro s u v p k t c hstr hblock hu hstru hstate hblocku hrun hstep hyield ht hc hv
    rw [exec_rateReqReceive, execRateReqReceive, onStitch_of_striped hstr hblock hu,
      rateReq_of_accepted hstru hstate hblocku hrun hstep hyield ht hc hv]
    exact ⟨fun h => by rw [if_pos h], fun h => by rw [if_neg (Nat.not_le.mpr h)]⟩
  case answer =>
    intro s u p k a n hstr hblock hu hstru hreq
    rw [exec_rateAckReceive, execRateAckReceive, onStitch_of_striped hstr hblock hu, rateAck_of_asked hstru hreq]
    exact ⟨fun h => by rw [if_neg (Nat.not_le.mpr h)], fun h => by rw [if_pos h]⟩
  case attempt =>
    intro s p h
    simp only [attemptFail, if_neg (Nat.not_le.mpr h)]
  case data =>
    intro s p lv af
    refine ⟨fun hno b => ?_, fun hstr hblock r u hr hlost hread b => ?_⟩
    · rw [exec_dataStitchReceive, execDataStitchReceive]
      refine congrArg _ (if_pos ?_)
      rcases hno with h | h <;> rw [h] <;> simp
    · have hub : u b = if b then ebOverflow r.1 p else stitchArrive r.1 p r.2.1 r.2.2 := by
        cases b
        · exact hread
        · exact hlost
      rw [exec_dataStitchReceive_of_striped hstr hblock hr hub]
      exact ⟨fun h => by rw [if_pos h], fun h => by rw [h, if_neg Bool.false_ne_true]⟩
  case good =>
    intro s t p raw fixedBytes fixed x hscan ht hsoak hread
    simp only [stitchArrive, hscan, ht, Bool.or_self, Bool.false_eq_true, if_false, hsoak, hread]
  case bad =>
    intro s p raw fixedBytes fixed hscan
    simp only [stitchArrive, hscan, Bool.or_true, if_true]

end Sys2Proof.Machine
end

section
/-!
SUPPORT. The staged image, cluster states, hand-off of work, engines and mailboxes (R397 to R407), with the statement about these.
-/
namespace Sys2Proof.Machine

section
variable {s : State}

theorem ckrUpd_wr (f : Fld) (i v : Nat) (g : Ckr → Ckr) : ckrUpd (wr s f i v) g = { wr s f i v with ckr := g s.ckr } := rfl

/-! ### The staged image -/

/-- R399: the end of the check. -/
theorem exec_imageVerifyDone_of_verifying {r : Nat} {u : State} (hver : s.ckr.verifying = true)
    (hr : r = if s.ckr.changed then 6 else imageCheck s)
    (hu : u = { wr (wr s CKR_IMG_STATUS_BUSY 0 0) CKR_IMG_STATUS_RESULT 0 r with ckr := { s.ckr with verifying := false, changed := false } }) :
    exec .imageVerifyDone s = .next (raiseIf (r != 0 && r != 6)
      (wrb (if r = 0 then wr u CKR_IMG_VERSION 0 (stgWord u 8) else u) CKR_IMG_STATUS_VERIFIED 0 (r == 0)) 0x478) := by
  simp only [exec_imageVerifyDone, execImageVerifyDone, hver, Bool.not_true, Bool.false_eq_true, if_false, ← hr, ckrUpd_wr, wr_ckr, ← hu]

/-! ### Clusters -/

theorem not_cluState {k st : Nat} (h : cluState s k ≠ st) : (cluState s k != st) = true := bne_iff_ne.mpr h

/-- R402: SWAP of a cluster in RUN whose sibling can take its work. -/
theorem cluSwap_of_allowed {k : Nat} {v : State} {l : List Nat} (hrun : cluState s k = 2) (hres : swapResult s k = 0)
    (hv : v = wr s CKR_CLU_CMD_RESULT k 0) (hl : l = (List.range 8).filter (fun j => rd v CKR_CLU_STATUS_SERVING j == k)) :
    cluSwap s k = forEach l (cluStops (cluTo (forEach l v jobsStay) k 3) k)
      (fun s j => if j = k then handGo s k (rd s CKR_CLU_CTL_SIB k) else handGo s j j) := by
  simp only [cluSwap, hrun, bne_self_eq_false, Bool.false_eq_true, if_false, hres, ← hv, ← hl]

theorem handGo_of_stopped {k t : Nat} (h : cluState s t ≠ 2) :
    handGo s k t = raise (wr { s with ckr := { s.ckr with hand := ndel s.ckr.hand k } } CKR_CLU_STATUS_UNSERVED k 1) 0x479 k := by
  rw [handGo, if_pos (not_cluState h), unserved, ckrUpd]

end

/-- Settles O54: each command by its branches. -/
theorem imagesAndClusters : Obligations.ImagesAndClusters := by
  unfold Obligations.ImagesAndClusters
  refine ⟨?staging, ?verify, ?verified, ?install, ?installed, ?swap, ?drain, ?load, ?restore, ?reclaim, ?handoff, ?unserved, ?watchdog, ?engine,
    ?mailbox, ?response⟩
  case staging =>
    intro s u m off d ht hu hd
    rw [exec_stagingWrite, execStagingWrite, asMaster_taken ht, ← hu, stagingPut, if_neg (by simpa using hd), ckrUpd_wr]
  case verify =>
    intro s u m ht hu
    rw [exec_imageVerify, execImageVerify, asMaster_taken ht, ← hu, imageVerify, ckrUpd_wr]
    exact ⟨fun h => congrArg _ (if_pos h), fun h => congrArg _ (if_neg (by rw [h]; decide))⟩
  case verified =>
    intro s r hver hr u hu
    rw [exec_imageVerifyDone_of_verifying hver hr hu]
    refine ⟨fun h => by rw [h]; rfl, fun h => by rw [h]; rfl, fun h0 h6 => ?_⟩
    rw [bne_iff_ne.mpr h0, bne_iff_ne.mpr h6, beq_eq_false_iff_ne.mpr h0, if_neg h0]
    rfl
  case install =>
    intro s u v m mask ht hu hbusy
    rw [exec_imageInstall, execImageInstall, asMaster_taken ht, ← hu]
    refine ⟨fun hver => ?_, fun hver w hv hw => ?_⟩
    · simp only [imageInstall, hbusy, hver, Bool.not_false, Bool.false_eq_true, if_false, if_true]
    · simp only [imageInstall, hbusy, hver, Bool.not_true, Bool.false_eq_true, if_false, ← hv, ← hw, ckrUpd]
  case installed =>
    intro s u mask hmask hu
    simp only [exec_imageInstallDone, execImageInstallDone, hmask, ckrUpd_wr, ← hu]
  case swap =>
    intro s u m k ht hu
    rw [exec_clusterSwap, execClusterSwap, asMaster_taken ht, ← hu]
    refine ⟨fun h => ?_, fun hrun hres => ?_, fun hrun hres v l hv hl => ?_⟩
    · rw [cluSwap, if_pos (not_cluState h)]
    · simp only [cluSwap, hrun, bne_self_eq_false, Bool.false_eq_true, if_false, bne_iff_ne.mpr hres, if_true]
    · rw [cluSwap_of_allowed hrun hres hv hl]
  case drain =>
    intro s k hdrain
    refine ⟨fun hjobs htags => ?_, ?_⟩
    · simp only [exec_clusterDrainEnd, execClusterDrainEnd, hdrain, bne_self_eq_false, Bool.false_eq_true, if_false, hjobs, htags,
        List.isEmpty_nil, List.any_nil, Bool.not_false, Bool.and_self, if_true]
    · simp only [exec_clusterDrainEnd, execClusterDrainEnd, hdrain, bne_self_eq_false, Bool.false_eq_true, if_false, if_true]
  case load =>
    intro s k hload hfree
    rw [exec_clusterLoadDone, execClusterLoadDone, hload, hfree]
    rfl
  case restore =>
    intro s u m k ht hu
    rw [exec_clusterRestore, execClusterRestore, asMaster_taken ht, ← hu, cluRestore]
    refine ⟨fun h => ?_, fun h hver => ?_, fun h hver => ?_⟩
    · rw [if_pos (not_cluState h)]
    · rw [h, hver]; rfl
    · simp only [h, hver, bne_self_eq_false, Bool.not_true, Bool.false_eq_true, if_false]
  case reclaim =>
    intro s u m k ht hu
    rw [exec_clusterReclaim, execClusterReclaim, asMaster_taken ht, ← hu, cluReclaim]
    refine ⟨fun hrun haway => ?_, fun h => ?_⟩
    · rw [hrun, bne_iff_ne.mpr haway]; rfl
    · rw [beq_eq_false_iff_ne.mpr h]; rfl
  case handoff =>
    intro s k t hhand
    refine ⟨fun hrun u hu => ?_, fun h => ?_⟩
    · simp only [exec_workHandoffDone, execWorkHandoffDone, hhand, hrun, bne_self_eq_false, Bool.false_eq_true, if_false, ← hu, ckrUpd]
    · simp only [exec_workHandoffDone, execWorkHandoffDone, hhand, not_cluState h, if_true]
  case unserved => exact fun s k t h => handGo_of_stopped h
  case watchdog =>
    intro s e
    rw [exec_engineWatchdog, execEngineWatchdog]
    exact ⟨fun h => congrArg _ (if_pos (beq_iff_eq.mpr h)), fun h => congrArg _ (if_neg (by simpa using h))⟩
  case engine =>
    intro s u m e ht hu
    rw [exec_engineRestore, execEngineRestore, asMaster_taken ht, exec_engineRestore, execEngineRestore, asMaster_taken ht, ← hu]
    refine ⟨fun hfenced hrun => ?_, ?_⟩
    · rw [engRestore, hfenced, hrun]; rfl
    · rw [engRestore, Bool.and_false, if_neg Bool.false_ne_true]
  case mailbox =>
    intro s u m k ht hu
    have hreq : exec (.mailboxRequest m k) s = .next (mbxReq u k) := by rw [exec_mailboxRequest, execMailboxRequest, asMaster_taken ht, ← hu]
    have hack : exec (.mailboxAckClear m k) s = .next (mbxClear u k) := by
      rw [exec_mailboxAckClear, execMailboxAckClear, show CKR_MBX_CTL_ACK.off = CKR_MBX_CTL_REQ.off from rfl, asMaster_taken ht, ← hu]
    rw [hreq, hack]
    refine ⟨fun h => congrArg _ (if_pos h), fun h v hv => ⟨fun hrun => ?_, fun hstop => ?_⟩, fun h => congrArg _ (if_pos h),
      fun h => congrArg _ (if_neg (by rw [h]; decide))⟩
    · simp only [mbxReq, h, Bool.false_eq_true, if_false, ← hv, hrun, beq_self_eq_true, if_true]
    · simp only [mbxReq, h, Bool.false_eq_true, if_false, ← hv, beq_eq_false_iff_ne.mpr hstop]
  case response =>
    intro s u k l hreq hack hrun hu
    have hexec : exec (.mailboxResponse k l) s = .next (if bit u CKR_MBX_CTL_IRQ_EN k then msixSignal u 16 (rd u CKR_MBX_VEC) 0 none else u) := by
      simp only [exec_mailboxResponse, execMailboxResponse, hreq, hack, hrun, bne_self_eq_false, Bool.not_true, Bool.or_self, Bool.false_eq_true,
        if_false, ← hu]
    rw [hexec]
    exact ⟨fun h => by rw [h, if_neg Bool.false_ne_true], fun h => by rw [if_pos h]⟩

end Sys2Proof.Machine
end

section
/-!
SUPPORT. What an asserted fault source does, and rails that break and are restored (R133, R430 to R433, R441), with the statement about these.
-/
namespace Sys2Proof.Machine

section
variable {s : State}

/-- R433, R441: a 0-to-1 change of LIVE of a source, up to where the shadows decide. -/
theorem occur_of_source {n inst : Nat} {pt c : Option Nat} {v w x : State} (hn : n ≠ 0x601) (hv : v = inc (wr s FLT_SEV_LIVE n 1) FLT_COUNT n)
    (hw : w = if bit s FLT_SEV_STICKY n then v else fltStick v n) (hc : c = charged w n inst pt)
    (hx : x = wr (wrb w FLT_SEV_PT_V n c.isSome) FLT_SEV_PARTITION n (c.getD 0)) :
    (shadowed x n = false → occur s n inst pt none false
      = fltReact x n inst c (if bit s FLT_SEV_STICKY n then 2 else 1) (!bit s FLT_SEV_STICKY n) false)
    ∧ (shadowed x n = true → x.flt.once.contains n = false → ∀ y,
      y = { x with flt := { x.flt with once := n :: x.flt.once, due := x.flt.due.filter (fun d => d.1 != n) ++ [(n, inst, c)] } } →
      occur s n inst pt none false = fltRecord y { src := n, kind := if bit s FLT_SEV_STICKY n then 2 else 1, shadow := true,
                                                   prog := rd y FLT_SEV_SEV n, pt := c, before := mode y, after := mode y, inst := inst })
    ∧ (shadowed x n = true → x.flt.once.contains n = true → bit s FLT_SEV_STICKY n = true →
      occur s n inst pt none false = { x with flt := { x.flt with due := x.flt.due.filter (fun d => d.1 != n) ++ [(n, inst, c)] } }) := by
  have hstick : (if (!bit s FLT_SEV_STICKY n) = true then fltStick v n else v) = w := by
    rw [hw]
    cases bit s FLT_SEV_STICKY n <;> rfl
  have hkind : (if (!bit s FLT_SEV_STICKY n) = true then 1 else 2) = if bit s FLT_SEV_STICKY n then 2 else 1 := by
    cases bit s FLT_SEV_STICKY n <;> rfl
  refine ⟨fun hopen => ?_, fun hshadow hnew y hy => ?_, fun hshadow hold hsticky => ?_⟩
  · simp only [occur, ← hv, hstick, ← hc, ← hx, beq_eq_false_iff_ne.mpr hn, Bool.false_and, Bool.false_eq_true, if_false, hopen,
      Option.getD_none, hkind]
  · simp only [occur, ← hv, hstick, ← hc, ← hx, beq_eq_false_iff_ne.mpr hn, Bool.false_and, Bool.false_eq_true, if_false, hshadow, if_true,
      hnew, fltUpd, ← hy, Option.getD_none, hkind]
  · simp only [occur, ← hv, hstick, ← hc, ← hx, beq_eq_false_iff_ne.mpr hn, Bool.false_and, Bool.false_eq_true, if_false, hshadow, if_true,
      hold, fltUpd]
    rw [if_pos (by rw [hsticky]; rfl)]

/-- The sources whose detection does nothing of itself. -/
theorem detected_of_other {n : Nat} (inst : Nat) (h : n < 3 ∨ n = 7 ∨ n = 8 ∨ (9 ≤ n ∧ n < 0x185) ∨ (0x188 < n ∧ n < 0x191) ∨ (0x191 < n ∧ n < 0x300)
    ∨ (0x300 < n ∧ n < 0x48E) ∨ 0x48E < n) : detected s n inst = s := by
  unfold detected
  split
  case h_12 => rfl
  all_goals omega

/-- R430: LIVE of a restored pair takes the level that it reads. -/
theorem exec_railRestored_of_broken {j : Fin 1335} {level : Bool} {u v w : State} (hbroken : s.flt.broken.contains j.val = true)
    (hu : u = { s with flt := { s.flt with broken := s.flt.broken.filter (· != j.val) } })
    (hv : v = wr (wrb u FLT_SEV_PATH_BROKEN (fltPathSrc j) (u.flt.broken.any (fun i => fltPathSrc i == fltPathSrc j))) FLT_SEV_LIVE
      (0x900 + j.val) 0)
    (hw : w = fltRecord v { src := 0x900 + j.val, kind := 4, prog := rd v FLT_SEV_SEV (0x900 + j.val), before := mode v, after := mode v,
                            inst := fltPathInst j }) (himpl : sevImpl (fltPathSrc j) ≠ 0) :
    exec (.railRestored j level) s = .next (if !level then wr w FLT_SEV_LIVE (fltPathSrc j) 0
      else if bit w FLT_SEV_LIVE (fltPathSrc j) then w else occur w (fltPathSrc j) (fltPathInst j) none none false) := by
  simp only [exec_railRestored, execRailRestored, hbroken, Bool.not_true, Bool.false_eq_true, if_false, fltUpd, ← hu, ← hv, ← hw,
    beq_eq_false_iff_ne.mpr himpl]

end

/-- Settles O55: the occurrence by `occur_of_source`, the others by their branches. -/
theorem faultOccurrences : Obligations.FaultOccurrences := by
  unfold Obligations.FaultOccurrences
  refine ⟨?assert, fun s n inst h => detected_of_other inst h, ?gate, ?awt, ?deassert, ?stick, ?broken, ?restored⟩
  case assert =>
    intro s u v w x src inst pt c hu
    have hexec : exec (.faultAssert src inst pt) s = .next (if sevImpl src.toNat == 0 || pairBroken u src.toNat inst.toNat
        || bit u FLT_SEV_LIVE src.toNat then u else occur u src.toNat inst.toNat (pt.map (·.val)) none false) := by
      simp only [exec_faultAssert, execFaultAssert, ← hu]
    rw [hexec]
    refine ⟨fun h => congrArg _ (if_pos (by simpa [or_assoc] using h)), fun himpl hpair hlive hsrc hv hw hc hx => ?_⟩
    rw [beq_eq_false_iff_ne.mpr himpl, hpair, hlive, Bool.or_self, Bool.or_self, if_neg Bool.false_ne_true]
    obtain ⟨hopen, hnew, hold⟩ := occur_of_source hsrc hv hw hc hx
    exact ⟨fun h => by rw [hopen h], fun h ho y hy => by rw [hnew h ho y hy], fun h ho hs => by rw [hold h ho hs]⟩
  case gate =>
    intro s u p v i b hb
    refine ⟨fun hodd => ?_, fun heven hu hlast => ?_⟩
    · simp only [gateBad, ← hb, hodd, Nat.one_ne_zero, if_false]
    · simp only [gateBad, ← hb, heven, if_true, ← hu, hlast]
      rw [hu]
  case awt =>
    intro s u i hvalid hu
    simp only [awtBad, hvalid, Bool.not_true, Bool.false_eq_true, if_false, ← hu]
  case deassert =>
    intro s src
    rw [exec_faultDeassert, execFaultDeassert]
    refine ⟨fun h => congrArg _ (if_neg fun hany => ?_), fun ⟨j, hj, h⟩ => congrArg _ (if_pos ?_)⟩
    · obtain ⟨j, hj, hsame⟩ := List.any_eq_true.mp hany
      exact h j hj (beq_iff_eq.mp hsame)
    · exact List.any_eq_true.mpr ⟨j, hj, beq_iff_eq.mpr h⟩
  case stick =>
    intro s n
    rw [fltStick]
  case broken =>
    intro s j
    rw [exec_railBroken, execRailBroken, railBreak]
    exact ⟨fun h => congrArg _ (if_pos h), fun h => congrArg _ (if_neg (by rw [h]; decide))⟩
  case restored =>
    intro s u v w j
    refine ⟨fun hwhole b => ?_, fun hbroken hu hv hw himpl => ⟨?_, fun h => ?_, fun h => ?_⟩⟩
    · rw [exec_railRestored, execRailRestored, hwhole]
      rfl
    all_goals rw [exec_railRestored_of_broken hbroken hu hv hw himpl]
    · rfl
    · rw [h]
      rfl
    · rw [h]
      rfl

end Sys2Proof.Machine
end

section
/-!
SUPPORT. The collector's commands, and what follows a BLOCK reset (R433, R438 to R442, R450, R453, R457, R549), with the statement about these.
-/
namespace Sys2Proof.Machine

section
variable {s : State}

theorem fltUpd_wr (f : Fld) (i v : Nat) (g : Flt → Flt) : fltUpd (wr s f i v) g = { wr s f i v with flt := g s.flt } := rfl

/-- R433: a 1 to STICKY of a source whose STICKY is set. -/
theorem stickyClear_of_sticky {n : Nat} {v w : State} (himpl : sevImpl n ≠ 0) (hsticky : bit s FLT_SEV_STICKY n = true)
    (hv : v = wr (wr s FLT_SEV_STICKY n 0) FLT_COUNT n 0) (hw : w = wr (fltStick v n) FLT_COUNT n 1) :
    stickyClear s n = if bit v FLT_SEV_LIVE n then
      fltRecord w { src := n, kind := 1, applied := rd w FLT_SEV_APPLIED n, prog := rd w FLT_SEV_SEV n,
                    pt := if bit w FLT_SEV_PT_V n then some (rd w FLT_SEV_PARTITION n) else none, before := mode w, after := mode w, inst := 0 }
      else v := by
  have hgo : (sevImpl n == 0 || !bit s FLT_SEV_STICKY n) = false := by rw [beq_eq_false_iff_ne.mpr himpl, hsticky]; rfl
  simp only [stickyClear, hgo, Bool.false_eq_true, if_false, ← hv, ← hw]
  cases bit v FLT_SEV_LIVE n <;> rfl

/-- R438: RESTORE of a fenced source of the ports, of switching or of the Lace lifts its fence. -/
theorem fltRestore_of_fenced {n : Nat} (hlive : bit s FLT_SEV_LIVE n = false) (hfenced : bit s FLT_SEV_FENCED n = true)
    (hblock : n / 128 = 1 ∨ n / 128 = 2 ∨ n / 128 = 4) : fltRestore s n = fenceFree (wr s FLT_CMD_RESULT 0 0) (· == n) := by
  have hblock (m : Nat) (hm : m = 8 ∨ m = 11 ∨ m = 14 ∨ m = 16) : (n / 128 == m) = false := beq_eq_false_iff_ne.mpr (by omega)
  simp only [fltRestore, hlive, hfenced, hblock 8 (by decide), hblock 11 (by decide), hblock 14 (by decide), hblock 16 (by decide),
    Bool.not_true, Bool.or_self, Bool.false_and, Bool.false_eq_true, if_false]

/-- R457: what an injection that acts does, by its kind. -/
theorem faultInject_of_factory {v : State} (hmode : mode s = mFACTORY) (hfree : bit s FLT_INJ_GO = false)
    (himpl : sevImpl (rd s FLT_INJ_SRC) ≠ 0) (hkind : rd s FLT_INJ_KIND ≠ 3)
    (hv : v = { wr s FLT_INJ_GO 0 1 with flt := { s.flt with
      inj := some (rd s FLT_INJ_SRC, if bit s FLT_SEV_LIVE (rd s FLT_INJ_SRC) then 3 else rd s FLT_INJ_KIND) } }) :
    (∀ j, rd s FLT_INJ_KIND = 1 → (List.range 1335).find? (fun j => fltPathSrc j == rd s FLT_INJ_SRC) = some j →
      faultInject s = railBreak v j true)
    ∧ (rd s FLT_INJ_KIND ≠ 1 → pairBroken v (rd s FLT_INJ_SRC) 0 = false → bit s FLT_SEV_LIVE (rd s FLT_INJ_SRC) = false →
      faultInject s = if rd s FLT_INJ_KIND == 2 then wr (occur v (rd s FLT_INJ_SRC) 0 none none true) FLT_SEV_LIVE (rd s FLT_INJ_SRC) 0
        else occur v (rd s FLT_INJ_SRC) 0 none none true) := by
  have hgo : (mode s != mFACTORY || bit s FLT_INJ_GO) = false := by rw [hmode, hfree]; rfl
  have hacts : (rd s FLT_INJ_KIND == 3 || sevImpl (rd s FLT_INJ_SRC) == 0) = false := by
    rw [beq_eq_false_iff_ne.mpr hkind, beq_eq_false_iff_ne.mpr himpl]
    rfl
  refine ⟨fun j hone hj => ?_, fun hother hpair hlive => ?_⟩
  · simp only [faultInject, hgo, hacts, Bool.false_eq_true, if_false, fltUpd_wr, ← hv, hj]
    rw [if_pos (by rw [hone]; rfl)]
  · simp only [faultInject, hgo, hacts, Bool.false_eq_true, if_false, fltUpd_wr, ← hv, hpair]
    rw [if_neg (by simpa using hother), hlive, Bool.or_self, if_neg Bool.false_ne_true, Bool.not_false, Bool.and_true]

/-- R441, R500: what shadows a source. -/
theorem shadowed_iff {n : Nat} : shadowed s n = true
    ↔ (((bistRunning s).contains .lbist = true ∨ (bistRunning s).contains .mbist = true) ∧ bistCovers s n = true)
      ∨ ∃ b, b < 18 ∧ (rd s FLT_BLK_STATE b = 1 ∨ rd s FLT_BLK_STATE b = 2) ∧ (rd s FLT_DEP b).testBit (n / 128) = true := by
  simp only [shadowed, Bool.or_eq_true, Bool.and_eq_true, List.any_eq_true, List.mem_range, beq_iff_eq]

end

/-- Settles O58: each command by its branches. -/
theorem collectorCommands : Obligations.CollectorCommands := by
  unfold Obligations.CollectorCommands
  refine ⟨⟨?sticky, ?all, ?restore, ?checks, ?inject, ?injectEnd⟩, ?release, ?idle, ?shadow, ?window, fun s n => shadowed_iff⟩
  case sticky =>
    intro s u m src ht hu himpl
    rw [exec_faultStickyClear, execFaultStickyClear, asMaster_taken ht, ← hu]
    refine ⟨fun h => ?_, fun h v w hv hw => ?_⟩
    · rw [stickyClear, h, Bool.not_false, Bool.or_true, if_pos rfl]
    · rw [stickyClear_of_sticky himpl h hv hw]
      exact ⟨fun hl => by rw [hl, if_neg Bool.false_ne_true], fun hl => by rw [if_pos hl]⟩
  case all =>
    intro s u m ht hu
    rw [exec_faultClearAll, execFaultClearAll, asMaster_taken ht, ← hu, stickyClearAll]
  case restore =>
    intro s u m src ht hu
    rw [exec_faultRestore, execFaultRestore, asMaster_taken ht, ← hu]
    refine ⟨fun h => ?_, fun h hno => ?_, fun h hfenced hblock => by rw [fltRestore_of_fenced h hfenced hblock]⟩
    · rw [fltRestore, if_pos h]
    · rw [fltRestore, h, if_neg Bool.false_ne_true, if_pos (by simpa [or_assoc] using hno)]
  case checks => exact fun s => ⟨rfl, rfl, rfl, rfl⟩
  case inject =>
    intro s u m ht hu
    rw [exec_faultInject, execFaultInject, asMaster_taken ht, ← hu]
    refine ⟨fun hmode => ?_, fun hmode hfree himpl v hv => ⟨fun hk hpair hlive => ?_, fun hk hpair hlive => ?_, fun hk j hj => ?_⟩⟩
    · rw [faultInject, show (mode u != mFACTORY) = true from bne_iff_ne.mpr hmode, Bool.true_or, if_pos rfl]
    · rw [(faultInject_of_factory hmode hfree himpl (by omega) hv).2 (by omega) hpair hlive, hk]
      rfl
    · rw [(faultInject_of_factory hmode hfree himpl (by omega) hv).2 (by omega) hpair hlive, hk]
      rfl
    · rw [(faultInject_of_factory hmode hfree himpl (by omega) hv).1 j hk hj]
  case injectEnd =>
    intro s u n k hinj hu
    refine ⟨fun hk => ?_, fun hk hwhole => ?_⟩
    · simp only [exec_faultInjectEnd, execFaultInjectEnd, hinj, fltUpd_wr, ← hu, beq_eq_false_iff_ne.mpr hk, Bool.false_and,
        Bool.false_eq_true, if_false]
    · have hnone : u.flt.broken = [] := by rw [hu]; exact hwhole
      simp only [exec_faultInjectEnd, execFaultInjectEnd, hinj, fltUpd_wr, ← hu, hk, hnone, List.any_nil, beq_self_eq_true,
        Bool.not_false, Bool.and_self, if_true]
  case release =>
    intro s u b x hstate hx hu
    simp only [exec_blockResetRelease, execBlockResetRelease, hstate, bne_self_eq_false, Bool.false_eq_true, if_false, ← hx, ← hu]
  case idle =>
    intro s b h
    rw [exec_blockResetRelease, execBlockResetRelease, if_pos (bne_iff_ne.mpr h)]
  case shadow =>
    intro s u v b l hstate hu hl hv
    simp only [exec_shadowEnd, execShadowEnd, hstate, bne_self_eq_false, Bool.false_eq_true, if_false, ← hu, ← hl, fltUpd, ← hv]
  case window =>
    intro s b
    rw [exec_escalationWindowEnd, execEscalationWindowEnd, exec_shadowEnd, execShadowEnd]
    exact ⟨fun h => congrArg _ (if_pos (beq_iff_eq.mpr h)), fun h => congrArg _ (if_neg (by simpa using h)),
      fun h => congrArg _ (if_pos (bne_iff_ne.mpr h))⟩

end Sys2Proof.Machine
end

section
/-!
SUPPORT. The hold-up test, its budget, DUR_ON and the overflow groups (R412, R417 to R421), with the statement about these.
-/
namespace Sys2Proof.Machine

section
variable {s : State}

theorem heelUpd_wr (f : Fld) (i v : Nat) (g : Heel → Heel) : heelUpd (wr s f i v) g = { wr s f i v with heel := g s.heel } := rfl

/-! ### The test -/

/-- R418, R421: a test that is due and may begin, or is skipped. -/
theorem exec_heelTestTimer_of_due {v0 : BitVec 16} {ch : Bool} {u : State} (hon : s.pwr.on = true) (hfree : s.heel.v0 = none)
    (hdue : (bit s PWD_HU_CTL_EN = true ∧ s.heel.setup = true) ∨ s.heel.asked = true)
    (hu : u = { s with heel := { s.heel with asked := false } }) :
    exec (.heelTestTimer v0 ch) s = .next (if warnWire u || mode u == mDRAIN || ch then wr (inc u HU_SKIPS) PWD_HU_STATUS_RESULT 0 1
      else heelUpd (wr u PWD_HU_STATUS_BUSY 0 1) (fun h => { h with v0 := some v0.toNat, v1 := none })) := by
  have hgo : (!s.pwr.on || s.heel.v0.isSome || !((bit s PWD_HU_CTL_EN && s.heel.setup) || s.heel.asked)) = false := by
    rw [hon, hfree]
    rcases hdue with ⟨hen, hsetup⟩ | hasked
    · rw [hen, hsetup]; rfl
    · rw [hasked, Bool.or_true]; rfl
  rw [exec_heelTestTimer, execHeelTestTimer]
  simp only [hgo, Bool.false_eq_true, if_false]
  simp only [heelUpd, ← hu]

/-- R418 to R420: the end of a test, by Table 16-1. -/
theorem exec_heelTestDone_of_running {v0 v1 dv : Nat} {v2 : BitVec 32} {u : State} (h0 : s.heel.v0 = some v0) (h1 : s.heel.v1 = some v1)
    (hdv : dv = v1 - v2.toNat) (hu : u = wr (wr (heelEnd s) PWD_HU_V0 0 v0) PWD_HU_DV 0 (min dv 65535)) :
    (v0 ≤ rd u PWD_HU_VMIN → exec (.heelTestDone v2) s = .next (heelInvalid u 4))
    ∧ (rd u PWD_HU_VMIN < v0 → 8000 < dv → exec (.heelTestDone v2) s = .next (heelInvalid u 2))
    ∧ (rd u PWD_HU_VMIN < v0 → dv ≤ 8000 → ∀ c v w, c = 20000000 / max 50 dv → v = heelUpd (wr u PWD_HU_CAP 0 c) (fun h =>
        { h with valid := some (v0, dv, c), validAt := u.now, old := false, bad := false, drained := false }) → w = heelJudge (heelBudget v) →
      exec (.heelTestDone v2) s = .next (durEval (raiseIf (!bit w PWD_HU_STATUS_PASS)
        (heelUpd w (fun h => { h with retry := h.retry && !bit w PWD_HU_STATUS_PASS })) 0x761))) := by
  refine ⟨fun hlow => ?_, fun hhigh hdrop => ?_, fun hhigh hgood c v w hc hv hw => ?_⟩
  · simp only [exec_heelTestDone, execHeelTestDone, h0, h1, ← hdv, ← hu, if_pos hlow]
  · simp only [exec_heelTestDone, execHeelTestDone, h0, h1, ← hdv, ← hu, if_neg (Nat.not_le.mpr hhigh), if_pos hdrop]
  · simp only [exec_heelTestDone, execHeelTestDone, h0, h1, ← hdv, ← hu, if_neg (Nat.not_le.mpr hhigh), if_neg (Nat.not_lt.mpr hgood), ← hc,
      ← hv, ← hw]

/-! ### The budget -/

/-- R419: the budget with P_drain above 0. -/
theorem heelBudget_of_drain {v0 dv c : Nat} {u : State} (hwf : s.wf = true) (hvalid : s.heel.valid = some (v0, dv, c))
    (hdrain : rd s PWD_HU_PDRAIN ≠ 0) (hu : u = wr s PWD_HU_ENERGY 0 (heelEnergy s v0 dv)) :
    heelBudget s = wr u PWD_HU_BUDGET 0 (min (heelCells s v0 dv) 0xFFFFFFFF) := by
  have hkeep (f : Fld) (hne : fkey f 0 ≠ fkey PWD_HU_ENERGY 0) : rd u f = rd s f := by
    rw [hu]
    exact rd_wr_ne _ _ _ _ _ (regs_of_wf hwf) hne
  have hcells : heelCells u v0 dv = heelCells s v0 dv := by
    simp only [heelCells, heelX, hkeep PWD_HU_PDRAIN (by decide), hkeep PWD_HU_RATE (by decide), hkeep PWD_HU_ETA (by decide),
      hkeep PWD_HU_VMIN (by decide), hkeep PWD_HU_TFIXED (by decide)]
  simp only [heelBudget, hvalid, ← hu, hkeep PWD_HU_PDRAIN (by decide), if_neg hdrain, hcells]

/-- R420: when the latest valid test passes. -/
theorem heelResult_passes_iff {dv : Nat} : (heelResult s dv = 0 ∨ heelResult s dv = 3)
    ↔ 0 < rd s PWD_HU_ETA ∧ 0 < rd s PWD_HU_PDRAIN ∧ 0 < rd s PWD_HU_RATE ∧ 0 < rd s PWD_HU_BUDGET ∧ rd s PWD_HU_MIN ≤ rd s PWD_HU_BUDGET := by
  have hparams : heelParams s = true ↔ 0 < rd s PWD_HU_ETA ∧ 0 < rd s PWD_HU_PDRAIN ∧ 0 < rd s PWD_HU_RATE := by
    simp only [heelParams, Bool.and_eq_true, bne_iff_ne, Nat.pos_iff_ne_zero, and_assoc]
  unfold heelResult
  simp only [Bool.or_eq_true, decide_eq_true_eq]
  cases hp : heelParams s with
  | false => simp [hp] at hparams ⊢; omega
  | true =>
    simp [hp] at hparams ⊢
    split
    · omega
    · split <;> omega

/-! ### Overflow groups -/

/-- A mask of four bits that is not 0 has one of them. -/
theorem exists_bit_of_mask {mask : BitVec 4} (h : 0 < mask.toNat) : ∃ q, q < 4 ∧ mask.toNat.testBit q = true := by
  obtain ⟨q, hq⟩ := Nat.exists_testBit_of_ne_zero (Nat.ne_of_gt h)
  refine ⟨q, Nat.lt_of_not_le fun hge => ?_, hq⟩
  have hsmall : mask.toNat < 2 ^ q := Nat.lt_of_lt_of_le mask.isLt (Nat.pow_le_pow_right (by decide) hge)
  rw [Nat.testBit_lt_two_pow hsmall] at hq
  exact Bool.false_ne_true hq

/-- R412: RESTORE where no group is being rebuilt. -/
theorem ofmRestore_of_idle {mask : Nat} {l : List Nat} (hidle : s.heel.rebuild = [])
    (hl : l = (List.range 4).filter (fun q => mask.testBit q && (rd s OFM_STATUS_FENCED).testBit q)) :
    ofmRestore s mask = if l.isEmpty then
        (if (List.range 4).any (fun q => mask.testBit q && !(rd s OFM_STATUS_FENCED).testBit q) then wr s OFM_CMD_RESULT 0 2 else s)
      else heelUpd (wr (forEach l s (fun s q => grpBit s OFM_STATUS_READY q false)) OFM_CMD_RESULT 0 1) (fun h => { h with
        rebuild := h.rebuild ++ l, notFenced := (List.range 4).any (fun q => mask.testBit q && !(rd s OFM_STATUS_FENCED).testBit q) }) := by
  simp only [ofmRestore, hidle, List.any_nil, Bool.false_eq_true, if_false, ← hl]

/-- R412: no group of a mask with a bit set is fenced. -/
theorem unfenced_of_none {mask : BitVec 4} {fenced : Nat} (h : 0 < mask.toNat)
    (hnone : (List.range 4).filter (fun q => mask.toNat.testBit q && fenced.testBit q) = []) :
    (List.range 4).any (fun q => mask.toNat.testBit q && !fenced.testBit q) = true := by
  obtain ⟨q, hq, hbit⟩ := exists_bit_of_mask h
  have hopen := List.filter_eq_nil_iff.mp hnone q (List.mem_range.mpr hq)
  refine List.any_eq_true.mpr ⟨q, List.mem_range.mpr hq, ?_⟩
  rw [hbit, Bool.true_and, Bool.not_eq_true] at hopen
  rw [hbit, hopen]
  rfl

end

/-- Settles O59: the test by `exec_heelTestTimer_of_due` and `exec_heelTestDone_of_running`, the budget by `heelBudget_of_drain`. -/
theorem holdUpAndGroups : Obligations.HoldUpAndGroups := by
  unfold Obligations.HoldUpAndGroups
  refine ⟨⟨?enable, ?timer, ?busy, ?sample, ?done, fun s r => rfl, ?expiry⟩, ?budget, fun s dv => heelResult_passes_iff, fun s => rfl, ?param,
    ?restore, ?fenced, ?rebuilt⟩
  case enable =>
    intro s u m ht hu
    rw [exec_heelEnable, execHeelEnable, asMaster_taken ht, exec_heelMeasure, execHeelMeasure,
      show PWD_HU_CTL_MEASURE.off = PWD_HU_CTL_EN.off from rfl, asMaster_taken ht, ← hu]
    exact ⟨rfl, rfl⟩
  case timer =>
    intro s u v0 ch hon hfree hdue hu
    rw [exec_heelTestTimer_of_due hon hfree hdue hu]
    refine ⟨fun hno => ?_, fun hwire hmode hch => ?_⟩
    · rw [if_pos (by simpa [or_assoc, mDRAIN] using hno)]
    · rw [hwire, show (mode u == mDRAIN) = false from beq_eq_false_iff_ne.mpr hmode, hch, Bool.or_self, Bool.or_self,
        if_neg Bool.false_ne_true, heelUpd_wr]
  case busy =>
    intro s v0 ch h
    rw [exec_heelTestTimer, execHeelTestTimer]
    simp only [h, Bool.or_true, Bool.true_or, if_true]
  case sample =>
    intro s v1 h0 h1
    rw [exec_heelV1Sample, execHeelV1Sample, h0, h1]
    rfl
  case done =>
    intro s u v0 v1 dv v2 h0 h1 hdv hu
    obtain ⟨hlow, hdrop, hgood⟩ := exec_heelTestDone_of_running h0 h1 hdv hu
    exact ⟨hlow, hdrop, hgood⟩
  case expiry =>
    intro s
    rw [exec_heelResultExpiry, execHeelResultExpiry]
    refine ⟨fun hvalid hnew => ?_, fun hnone => ?_⟩
    · rw [Option.isNone_eq_false_iff.mpr hvalid, hnew]
      rfl
    · rw [hnone]
      rfl
  case budget =>
    intro s v0 dv c x hvalid hx hdrain u hu hwf
    subst hx
    exact heelBudget_of_drain hwf hvalid hdrain hu
  case param =>
    intro s u v m which x ht hu hv
    rw [exec_heelParamWrite, execHeelParamWrite, asMaster_taken ht, ← hu]
    subst hv
    rfl
  case restore =>
    intro s u m mask l ht hu hidle hl
    rw [exec_ofmRestore, execOfmRestore, asMaster_taken ht, ← hu, ofmRestore_of_idle hidle hl]
    refine ⟨fun hsome v hv => ?_, fun hnone hmask => ?_⟩
    · rw [List.isEmpty_eq_false_iff.mpr hsome, if_neg Bool.false_ne_true, ← hv, heelUpd]
    · rw [hnone, unfenced_of_none hmask (hl.symm.trans hnone)]
      rfl
  case fenced =>
    intro s u v q hin hu hv
    have hexec : exec (.ofmRestoreDone q) s = .next (release (if v.heel.rebuild.any (· < 4) then v
        else wr v OFM_CMD_RESULT 0 (if v.heel.notFenced then 2 else 0))) := by
      simp only [exec_ofmRestoreDone, execOfmRestoreDone, hin, if_true, ← hu, heelUpd, ← hv]
    rw [hexec]
    exact ⟨fun h => by rw [if_pos h], fun h => by rw [h, if_neg Bool.false_ne_true]⟩
  case rebuilt =>
    intro s u q hout hin hu
    simp only [exec_ofmRestoreDone, execOfmRestoreDone, hout, hin, Bool.false_eq_true, if_false, if_true, ← hu, heelUpd]

end Sys2Proof.Machine
end

section
/-!
SUPPORT. Self-tests, secrets, the certificate and the SPDM responder (R498 to R504, R508, R509, R512 to R514), with the statement about these.
-/
namespace Sys2Proof.Machine

section
variable {s : State}

theorem tstUpd_wr (f : Fld) (i v : Nat) (g : Tst → Tst) : tstUpd (wr s f i v) g = { wr s f i v with tst := g s.tst } := rfl

/-! ### Self-tests -/

/-- R498 to R501: the commands of a test that runs. -/
theorem exec_bist_of_running {t : Bist} (f : BistFound) (hrun : (bistRunning s).contains t = true) :
    exec (.bistTestDone t f) s = .next (bistEnd (bistResult (bistFound s t f).1 t (if (bistFound s t f).2 then 1 else 2)) t)
    ∧ exec (.bistTimeout t) s = .next (bistEnd (raise (wr (bistResult s t 2) TST_BIST_STATUS_ABORT 0 1) 0x791) t)
    ∧ exec (.bistConditionsFail t) s = .next (bistEnd (raise (wr (bistResult s t 3) TST_BIST_STATUS_ABORT 0 2) 0x792) t) := by
  simp only [exec_bistTestDone, execBistTestDone, exec_bistTimeout, execBistTimeout, exec_bistConditionsFail, execBistConditionsFail, hrun,
    Bool.not_true, Bool.false_eq_true, if_false, and_self]

/-- R504: the overflow test passes where no group retires more than its limit. -/
theorem bistFound_ovf_passes_iff {f : BistFound} : (bistFound s .ovf f).2 = true ↔ ∀ q, q < 4 → f.retired.getD q 0 ≤ 65536 := by
  simp only [bistFound, List.all_eq_true, List.mem_range, decide_eq_true_eq]

/-! ### Secrets -/

/-- The key of the secrets commands is tested on its value. -/
theorem secretsKey_bne {key : BitVec 8} (h : key ≠ 0xA5) : (key.toNat != 0xA5) = true :=
  bne_iff_ne.mpr fun heq => h (BitVec.eq_of_toNat_eq heq)

theorem spdmSay_regs (via : SpdmVia) (what : String) (d : Bytes) : (spdmSay s via what d).regs = s.regs := by
  dsimp only [spdmSay]
  cases doeFn (emit s (.spdm via what d)) via <;> rfl

theorem spdmSay_flt (via : SpdmVia) (what : String) (d : Bytes) : (spdmSay s via what d).flt = s.flt := by
  dsimp only [spdmSay]
  cases doeFn (emit s (.spdm via what d)) via <;> rfl

/-- R508: the session that sends a key exchange is answered before CLEAR acts. -/
def secretsEnded (s : State) : State := match s.tst.exchange with | some v => spdmSay s v "ERROR Busy" [] | none => s

theorem secretsEnded_regs : (secretsEnded s).regs = s.regs := by
  unfold secretsEnded
  cases s.tst.exchange with
  | none => rfl
  | some v => exact spdmSay_regs v _ _

theorem secretsEnded_flt : (secretsEnded s).flt = s.flt := by
  unfold secretsEnded
  cases s.tst.exchange with
  | none => rfl
  | some v => exact spdmSay_flt v _ _

theorem wrAll_append : ∀ (s : State) (l l' : List (Fld × Nat × Nat)), wrAll s (l ++ l') = wrAll (wrAll s l) l'
  | _, [], _ => rfl
  | s, e :: l, l' => wrAll_append (wr s e.1 e.2.1 e.2.2) l l'

theorem wrAll_regs_congr {l : List (Fld × Nat × Nat)} {s t : State} (h : s.regs = t.regs) : (wrAll s l).regs = (wrAll t l).regs := by
  induction l generalizing s t with
  | nil => exact h
  | cons e l ih => exact ih (by rw [wr, wr, h])

theorem forEach_wr_eq_wrAll (f : Fld) (v : Nat) (l : List Nat) (s : State) :
    forEach l s (fun s i => wr s f i v) = wrAll s (l.map fun i => (f, i, v)) := by
  induction l generalizing s with
  | nil => rfl
  | cons i l ih => exact ih (wr s f i v)

/-- R508: the status fields that CLEAR writes. -/
def secretsStatus : List (Fld × Nat × Nat) :=
  [(TST_SEC_STATUS_SESSIONS, 0, 0), (TST_SEC_STATUS_CLEARED, 0, 1), (TST_SEC_STATUS_CLEARED_OK, 0, 0), (TST_SEC_STATUS_SPDM_EN, 0, 0)]

/-- R508: the fields that CLEAR writes, the backup registers where it is asked. -/
def secretsWrites (r : Bool) : List (Fld × Nat × Nat) :=
  secretsStatus ++ if r then (List.range 8).map (fun i => (GLB_BKP, i, 0)) else []

/-- R508: what CLEAR leaves of the tests, the ports and the status. -/
def secretsShut (s : State) (r : Bool) : State :=
  tstUpd (prtUpd (wrAll (secretsEnded s) secretsStatus) (fun x => { x with ide := [] }))
    (fun x => { x with keys := false, seedOpen := false, exchange := none, retClr := r })

theorem secretsShut_flt (r : Bool) : (secretsShut s r).flt = s.flt := secretsEnded_flt

theorem secretsGone_of_kept : secretsGone s false = secretsShut s false := rfl

theorem secretsGone_of_cleared : secretsGone s true
    = fltUpd (wrAll (secretsShut s true) ((List.range 8).map fun i => (GLB_BKP, i, 0)))
      (fun x => { x with ret := [], retBad := [], bkpBad := [] }) := by
  rw [← forEach_wr_eq_wrAll]
  rfl

theorem secretsGone_regs (r : Bool) : (secretsGone s r).regs = (wrAll (secretsEnded s) (secretsWrites r)).regs := by
  cases r with
  | false => rw [secretsGone_of_kept]; rfl
  | true =>
    rw [secretsGone_of_cleared, secretsWrites, if_pos rfl, wrAll_append]
    exact wrAll_regs_congr rfl

theorem secretsGone_flt_of_kept : (secretsGone s false).flt = s.flt := secretsShut_flt false

theorem secretsGone_ret_of_cleared : (secretsGone s true).flt.ret = [] := by
  rw [secretsGone_of_cleared]
  rfl

/-- R508: a field that CLEAR writes reads what was written. -/
theorem rd_secretsGone {f : Fld} {i v : Nat} {r : Bool} (hwf : s.wf = true) (hmem : (f, i, v) ∈ secretsWrites r)
    (hfits : v % 2 ^ (f.width % 128) = v) : rd (secretsGone s r) f i = v := by
  have hnodup : ((secretsWrites r).map wrKey).Nodup := by cases r <;> decide
  have hregs : rwf (secretsEnded s).regs = true := by
    rw [secretsEnded_regs]
    exact regs_of_wf hwf
  rw [rd, secretsGone_regs, ← rd, rd_wrAll_mem hregs hnodup hmem, hfits]

theorem rd_secretsGone_status {f : Fld} {v : Nat} (r : Bool) (hwf : s.wf = true) (hmem : (f, 0, v) ∈ secretsStatus)
    (hfits : v % 2 ^ (f.width % 128) = v) : rd (secretsGone s r) f = v :=
  rd_secretsGone hwf (List.mem_append_left _ hmem) hfits

/-- R508: the secrets are gone, the seed path is closed. -/
theorem secretsGone_closed (r : Bool) : (secretsGone s r).tst.keys = false ∧ (secretsGone s r).tst.seedOpen = false
    ∧ (secretsGone s r).tst.exchange = none ∧ (secretsGone s r).tst.retClr = r ∧ (secretsGone s r).prt.ide = [] := by
  cases r with
  | false => exact ⟨rfl, rfl, rfl, rfl, rfl⟩
  | true =>
    rw [secretsGone_of_cleared, wrAll_eq]
    exact ⟨rfl, rfl, rfl, rfl, rfl⟩

/-- R508: CLEAR where it may act. -/
theorem exec_secretsClear_of_taken {u : State} {m : Master} (r : Bool) (ht : taken s m TST_SEC_CMD_CLEAR.off) (hu : u = acked s m)
    (hmode : mode u = 3) (hfree : u.tst.verifying = false) :
    exec (.secretsClear m 0xA5 r) s = .next (wr (secretsGone u r) TST_SEC_CMD_RESULT 0 0) := by
  rw [exec_secretsClear, execSecretsClear, asMaster_taken ht, ← hu, secretsClear, if_neg (by decide),
    if_neg (by rw [hmode]; decide), hfree, if_neg Bool.false_ne_true]

/-- R509: what VERIFY finds that is not zero. -/
def secretsLeft (s : State) : Bool :=
  s.tst.keys || s.tst.seedOpen || !s.prt.ide.isEmpty
    || (s.tst.retClr && (!s.flt.ret.isEmpty || (List.range 8).any (fun i => rd s GLB_BKP i != 0)))

theorem secretsLeft_iff : secretsLeft s = true ↔ s.tst.keys = true ∨ s.tst.seedOpen = true ∨ s.prt.ide ≠ []
    ∨ (s.tst.retClr = true ∧ (s.flt.ret ≠ [] ∨ ∃ i, i < 8 ∧ rd s GLB_BKP i ≠ 0)) := by
  simp only [secretsLeft, Bool.or_eq_true, Bool.and_eq_true, Bool.not_eq_true', List.isEmpty_eq_false_iff, List.any_eq_true, List.mem_range,
    bne_iff_ne, or_assoc]

/-- R509: a comparison that runs ends CHANGED, FAILED with its source, or with CLEARED_OK. -/
theorem exec_secretsVerifyDone_of_verifying {u : State} (hrun : s.tst.verifying = true)
    (hu : u = { s with tst := { s.tst with verifying := false, changed := false } }) :
    exec .secretsVerifyDone s = .next (if s.tst.changed then wr u TST_SEC_CMD_RESULT 0 4
      else if secretsLeft s then raise (wr u TST_SEC_CMD_RESULT 0 5) 0x793
      else wr (wr u TST_SEC_CMD_RESULT 0 0) TST_SEC_STATUS_CLEARED_OK 0 1) := by
  simp only [exec_secretsVerifyDone, execSecretsVerifyDone, hrun, Bool.not_true, Bool.false_eq_true, if_false, tstUpd, ← hu, secretsLeft]
  rfl

/-! ### The responder -/

/-- R512: a request is answered once the part has its identity. -/
theorem exec_spdmRequest_of_ready (via : SpdmVia) (r : SpdmReq) (htrim : bit s RST_TRIM_TRIM_OK = true)
    (hid : bit s TST_SEC_STATUS_ID_READY = true) : exec (.spdmRequest via r) s = .next (spdmAnswer s via r) := by
  rw [exec_spdmRequest, execSpdmRequest, htrim, hid, Bool.and_self, if_pos rfl]

/-- R513, R514: after CLEAR, or without the certificate that it needs, a request is unexpected. -/
theorem spdmAnswer_of_unexpected (via : SpdmVia) {r : SpdmReq}
    (h : (bit s TST_SEC_STATUS_CLEARED || (needsCert r && !bit s TST_CERT_CTL_CERT_VALID)) = true) :
    spdmAnswer s via r = spdmSay s via "ERROR UnexpectedRequest" [] := by
  simp only [spdmAnswer, h, if_true]

/-- R513: the requests that need the certificate. -/
theorem needsCert_iff {r : SpdmReq} : needsCert r = true ↔ r = .getDigests ∨ r = .getCertificate ∨ r = .challenge ∨ r = .keyExchange := by
  cases r <;> simp [needsCert]

/-- R514: the requests that need no certificate. -/
theorem spdmAnswer_of_open (via : SpdmVia) (hopen : bit s TST_SEC_STATUS_CLEARED = false) :
    spdmAnswer s via .getVersion = spdmSay s via "VERSION" [0x12, 0x13]
    ∧ spdmAnswer s via .endSession
      = spdmSay (wr s TST_SEC_STATUS_SESSIONS 0 (rd s TST_SEC_STATUS_SESSIONS - 1)) via "END_SESSION_ACK" []
    ∧ ∀ i : Fin 256, 1 ≤ i.val → i.val ≤ 10 → spdmAnswer s via (.getMeasurements i) = spdmSay s via "MEASUREMENTS" (measurement s i) := by
  refine ⟨?_, ?_, fun i hlow hhigh => ?_⟩
  · simp only [spdmAnswer, hopen, needsCert, Bool.false_and, Bool.or_self, Bool.false_eq_true, if_false]
  · simp only [spdmAnswer, hopen, needsCert, Bool.false_and, Bool.or_self, Bool.false_eq_true, if_false]
  · simp only [spdmAnswer, hopen, needsCert, Bool.false_and, Bool.or_self, Bool.false_eq_true, if_false, hlow, hhigh, decide_true,
      Bool.and_self, if_true]

/-- R513, R514: the requests that need the certificate, with it. -/
theorem spdmAnswer_of_cert (via : SpdmVia) (hopen : bit s TST_SEC_STATUS_CLEARED = false) (hcert : bit s TST_CERT_CTL_CERT_VALID = true) :
    spdmAnswer s via .getCertificate = spdmSay s via "CERTIFICATE" (cgets s.tst.cert 0 (min (rd s TST_CERT_CTL_LEN) 8192))
    ∧ spdmAnswer s via .keyExchange = if 32 ≤ rd s TST_SEC_STATUS_SESSIONS then spdmSay s via "ERROR Busy" []
      else spdmSay (tstUpd (keyWritten (wr s TST_SEC_STATUS_SESSIONS 0 (rd s TST_SEC_STATUS_SESSIONS + 1)))
        (fun x => { x with exchange := some via })) via "KEY_EXCHANGE_RSP" [] := by
  simp only [spdmAnswer, hopen, hcert, Bool.not_true, Bool.and_false, Bool.or_self, Bool.false_eq_true, if_false, and_self]

end

/-- Settles O60: the self-tests by `exec_bist_of_running`, CLEAR by `rd_secretsGone`, VERIFY by `secretsLeft_iff`, the responder by its answers
with and without the certificate. -/
theorem selfTestsAndSecrets : Obligations.SelfTestsAndSecrets := by
  unfold Obligations.SelfTestsAndSecrets
  refine ⟨⟨?idle, fun s t f hrun => exec_bist_of_running f hrun, ?lbist, ?mbist, fun s f => bistFound_ovf_passes_iff, ?ended⟩,
    ⟨?clear, ?gone, ?verify, ?verified⟩, ⟨?cert, ?early, ?answer, ?say⟩⟩
  case idle =>
    intro s t f hidle
    simp only [exec_bistTestDone, execBistTestDone, exec_bistTimeout, execBistTimeout, exec_bistConditionsFail, execBistConditionsFail, hidle,
      Bool.not_false, if_true, and_self]
  case lbist =>
    intro s u f hu
    simp only [bistFound, ← hu]
    rfl
  case mbist =>
    intro s u f hu
    simp only [bistFound, ← hu]
  case ended =>
    intro s u t hu
    refine ⟨fun hsome => ?_, fun hnone => ?_⟩
    · simp only [bistEnd, tstUpd, ← hu, List.isEmpty_eq_false_iff.mpr hsome, Bool.false_eq_true, if_false]
    · simp only [bistEnd, tstUpd, ← hu, hnone, List.isEmpty_nil, if_true]
  case clear =>
    intro s u m key r ht hu
    refine ⟨fun hkey => ?_, fun hkey hmode => ?_, fun hkey hmode hfree => ?_⟩
    · rw [exec_secretsClear, execSecretsClear, asMaster_taken ht, ← hu, secretsClear, if_pos (secretsKey_bne hkey)]
    · rw [exec_secretsClear, execSecretsClear, asMaster_taken ht, ← hu, secretsClear, hkey, if_neg (by decide),
        if_pos (show (mode u != mSETUP) = true from bne_iff_ne.mpr hmode)]
    · rw [hkey]
      exact exec_secretsClear_of_taken r ht hu hmode hfree
  case gone =>
    intro s t r hwf ht
    subst ht
    obtain ⟨hkeys, hseed, hexch, hclr, hide⟩ := secretsGone_closed (s := s) r
    refine ⟨hkeys, hseed, hexch, hclr, hide, rd_secretsGone_status r hwf (by simp [secretsStatus]) (by decide),
      rd_secretsGone_status r hwf (by simp [secretsStatus]) (by decide), rd_secretsGone_status r hwf (by simp [secretsStatus]) (by decide),
      fun hkept => ?_, fun hasked => ?_⟩
    · rw [hkept]
      exact secretsGone_flt_of_kept
    · subst hasked
      exact ⟨secretsGone_ret_of_cleared, fun i hi => rd_secretsGone hwf (by simp [secretsWrites, hi]) (by decide)⟩
  case verify =>
    intro s u m key ht hu
    refine ⟨fun hkey => ?_, fun hkey hfree => ?_⟩
    · rw [exec_secretsVerify, execSecretsVerify, asMaster_taken ht, ← hu, secretsVerify, if_pos (secretsKey_bne hkey)]
    · rw [exec_secretsVerify, execSecretsVerify, asMaster_taken ht, ← hu, secretsVerify, hkey, if_neg (by decide), tstUpd_wr, hfree,
        Bool.false_and]
  case verified =>
    intro s u hrun hu
    rw [exec_secretsVerifyDone_of_verifying hrun hu]
    refine ⟨fun hchanged => by rw [if_pos hchanged], fun hsame hleft => ?_, fun hsame hkeys hseed hide hret => ?_⟩
    · rw [hsame, if_neg Bool.false_ne_true, if_pos (secretsLeft_iff.mpr hleft)]
    · have hnone : ¬ secretsLeft s = true := by
        rw [secretsLeft_iff, hkeys, hseed]
        rintro (h | h | h | ⟨hclr, h | ⟨i, hi, h⟩⟩)
        · exact Bool.false_ne_true h
        · exact Bool.false_ne_true h
        · exact h hide
        · exact h (hret hclr).1
        · exact h ((hret hclr).2 i hi)
      rw [hsame, if_neg Bool.false_ne_true, if_neg hnone]
  case cert =>
    intro s u m ok ht hu hok
    rw [exec_certCommit, execCertCommit, asMaster_taken ht, ← hu, certCommit, ← hok]
    exact ⟨fun h => by rw [h]; rfl, fun h => by rw [h]; rfl⟩
  case early =>
    intro s via r h
    rw [exec_spdmRequest, execSpdmRequest, if_neg]
    rcases h with h | h <;> simp [h]
  case answer =>
    intro s via htrim hid
    simp only [exec_spdmRequest_of_ready via _ htrim hid]
    refine ⟨fun hcleared r => ?_, fun hnocert r hr => ?_, fun hopen => ?_⟩
    · rw [spdmAnswer_of_unexpected via (by rw [hcleared, Bool.true_or])]
    · rw [spdmAnswer_of_unexpected via (by rw [needsCert_iff.mpr hr, hnocert]; exact Bool.or_true _)]
    · obtain ⟨hversion, hend, hmeasure⟩ := spdmAnswer_of_open via hopen
      refine ⟨by rw [hversion], by rw [hend], fun i hlow hhigh => by rw [hmeasure i hlow hhigh], fun hcert => ?_⟩
      obtain ⟨hread, hkey⟩ := spdmAnswer_of_cert via hopen hcert
      refine ⟨by rw [hread], fun hfull => ?_, fun hroom u hu => ?_⟩
      · rw [hkey, if_pos hfull]
      · rw [hkey, if_neg (Nat.not_le.mpr hroom), ← hu, tstUpd]
  case say =>
    intro s via what d
    refine ⟨fun hnone => ?_, fun f m hsome hm hkind => ?_⟩
    · simp only [spdmSay, show doeFn (emit s (.spdm via what d)) via = none from hnone]
    · simp only [spdmSay, show doeFn (emit s (.spdm via what d)) via = some f from hsome, hkind, Bool.false_eq_true, if_false]
      rw [hm]
      rfl

end Sys2Proof.Machine
end
